-- ==== Sys2Proof/Word.lean ====
section
/-!
DEFINITION. Sys2Proof/Word.lean: the words of the machine and their plainest names.
-/
namespace Sys2Proof

/-- A 64-bit scalar value or address (R49, R63). -/
abbrev Word := BitVec 64
/-- A byte of memory. -/
abbrev Byte := BitVec 8
/-- One lane of a vector register (R142). -/
abbrev Lane := BitVec 32
/-- A vector register: 32 lanes of 32 bits (R48). -/
abbrev Lanes := Vector Lane 32
/-- A set of lanes, bit `i` for lane `i` (R55). -/
abbrev Mask := BitVec 32
/-- A hypervector (R56). -/
abbrev HVec := BitVec 4096
/-- A bundle accumulator: counter `c` is the signed byte at bits `[8c+7:8c]` (R56). -/
abbrev Bundle := BitVec 32768
/-- The number of a scalar register (R176). -/
abbrev SReg := BitVec 6
/-- A predicate code: 0 to 11 are `p0` to `p11`, 12 to 15 are `st0` to `st3` (R184). -/
abbrev PCode := BitVec 4
/-- A sparse table: keys strictly rising, no key at the default value. -/
abbrev Tbl (α : Type) := List (Nat × α)

end Sys2Proof
end

