-- ==== Sys2Proof/Config.lean ====
section
/-!
DEFINITION. Sys2Proof/Config.lean: what the OLM-6840-A fixes, what an implementation chooses, and the
free values (opaque, no body), each named in the assumption log.
-/
namespace Sys2Proof.Config

/-- Cores of the package, enabled as shipped (R1). -/
abbrev numCores : Nat := 384
/-- Clusters of the package (R1). -/
abbrev numClusters : Nat := 48
/-- Domains of the package (R1). -/
abbrev numDomains : Nat := 12
/-- Cores of one cluster (R1). -/
abbrev coresPerCluster : Nat := 8
/-- Resident warps of one core (R12). -/
abbrev warpSlots : Nat := 64
/-- Main-file rows of one core (R12). -/
abbrev mainRows : Nat := 8192
/-- Scratchpad bytes of one core (R12). -/
abbrev scratchBytes : Nat := 524288
/-- Block slots of one core (R12). -/
abbrev blockSlots : Nat := 8
/-- Entries of the speculative store buffer of one core (R43). -/
abbrev specEntries : Nat := 256
/-- Vault entries of one cluster (R70). -/
abbrev vaultEntries : Nat := 8192
/-- TLB entries of one core (R75). -/
abbrev tlbEntries : Nat := 128
/-- TLB entries a cluster's cores share (R75). -/
abbrev clusterTlbEntries : Nat := 4096
/-- Spare cores of one compute die (R1). -/
abbrev sparesPerDie : Nat := 4
/-- Cycles until an interlocked lane result lands. DESIGN CHOICE (log entry 6): the spec gives no
latency, and an interlocked reader waits for it whatever it is. It is one more than the longest fixed
latency of R188. -/
abbrev varLatency : Nat := 11
/-- Cycles a REGROUP waits for a partner (R20). -/
abbrev regroupCycles : Nat := 256
/-- Cycles of stall time after which a gang is swapped out (R171, R283). -/
abbrev stallCycles : Nat := 2000
/-- Ticks of CYCLE in one microsecond (R57: 1.4 GHz ticks). -/
abbrev ticksPerMicro : Nat := 1400

/-- The six functions of R229 whose bits within their bound are left to the implementation. -/
inductive ApproxFn where
  | rsqrt | exp2 | log2 | sin | cos | tanh
  deriving DecidableEq, Repr

/-- The value the part returns for a special function of R229: "one fixed value for each input", not
given by the manual. Free value (log entry 7); the machine keeps it inside R229's bound. -/
opaque approx : ApproxFn → Lane → Lane

/-- Whether a TLB still holds the entry that a lookup would match (R75: nothing says what a TLB keeps).
Free value (log entry 8), applied to a counter of State. -/
opaque tlbHolds : Nat → Bool

/-- Whether a fetched unit of code has the value from before a store that its grid's launch does not order (R192). Free
value (log entry 69), applied to a counter of State. -/
opaque fetchesOld : Nat → Bool

/-- Whether a state engine makes a piece of a command's work at the moment at hand, not later (R286: the words are
copied in no set order). Free value (log entry 76), applied to a counter of State. -/
opaque movesNow : Nat → Bool

/-- Spare rows of a memory stack (R305: "the stack's spare rows", of which nothing gives the number). Free value (log
entry 86). -/
opaque spareRows : Nat

/-- The victim-set place that a core's steal unit draws next (R114: "a per-core pseudo-random
sequence"). Free value (log entry 9), applied to the core and its count of draws. -/
opaque victimDraw : Nat → Nat → Nat

/-- The SPDM and identity values of R304, which the manual does not give. Free values (log entry 10). -/
opaque certificateLength : Nat
opaque certificateChain : Nat → Byte
opaque spdmSignature : List Byte → BitVec 512

/-- The measurements of R304: ROM, firmware image, fuse configuration and fencing map, the last two
taken from State. Free values (log entry 10). -/
opaque romDigest : BitVec 256
opaque measure : List Byte → BitVec 256

end Sys2Proof.Config
end

