-- ==== Sys2Proof/Syntax.lean ====
section
/-!
DEFINITION. Sys2Proof/Syntax.lean: the instructions and steps of the opcode table, one constructor a row.
S-words follow R176 to R180, L-words and prefixes R183 to R189. The rows with no encoding are the part's
own steps; their arguments name the agent they act on and what arrives from outside.
-/
namespace Sys2Proof

/-- Memory scopes 0 to 5 (R3). -/
inductive Scope where
  | warp | block | cluster | domain | device | system
  deriving DecidableEq, Repr

/-- The atomic operations of R180 and R238, codes 0 to 7. -/
inductive AtomOp where
  | swap | add | and | or | xor | min | max | cas
  deriving DecidableEq, Repr

/-- The kinds of FENCE (R180). -/
inductive FenceKind where
  | acquire | release | acqRel | seqCst
  deriving DecidableEq, Repr

/-- The conditions of WAITV (R262). -/
inductive WaitCond where
  | eq | ne | ltu | geu | lt | ge
  deriving DecidableEq, Repr

/-- A lane operand code (R186). -/
inductive Opnd where
  | v (i : BitVec 11)
  | o (i : BitVec 3)
  | l (i : BitVec 1)
  | dq (i : BitVec 2)
  | xq
  | zero
  deriving DecidableEq, Repr

/-- Operand b of a word with an immediate form (R187). -/
inductive BSrc where
  | op (o : Opnd)
  | imm (i : BitVec 16)
  deriving DecidableEq, Repr

/-- A prefix (R189). -/
structure Prefix where
  mask : PCode
  rnd  : BitVec 3
  zero : Bool
  e    : Opnd
  deriving DecidableEq, Repr

/-- The control fields of an L-word with its prefix (R183, R184, R189). -/
structure LCtl where
  g   : PCode
  w   : BitVec 3
  e   : Bool
  ty  : BitVec 4
  pfx : Option Prefix
  deriving DecidableEq, Repr

/-- The address fields that VLD, VST and VATOM share (R238). -/
structure LAddr where
  base  : BitVec 3
  scale : BitVec 2
  scope : Scope
  order : BitVec 2
  deriving DecidableEq, Repr

/-- A register of the lane stream by file and index, as ECC errors and pending results name it. -/
inductive LReg where
  | v (i : Nat) | o (i : Nat) | l (i : Nat) | p (i : Nat) | h (i : Nat) | k (i : Nat)
  deriving DecidableEq, Repr

/-- Where a storage error stands (R61, R82). -/
inductive EccSite where
  | sreg (warp r : Nat)
  | lreg (warp : Nat) (r : LReg) (lanes : Mask)
  | crewRow (crew slot : Nat) (lanes : Mask)
  | scratch (block off : Nat)
  | line (pa : Nat)
  | bpage (core page : Nat)
  | vault (cluster entry : Nat)
  | tlb (core : Nat)
  | slice (cluster pa : Nat)
  | storeBuf (core pa : Nat)
  | specBuf (core pa : Nat)
  | clusterTlb (cluster : Nat)
  | portTlb (port : Nat)
  | walker (domain : Nat)
  deriving DecidableEq, Repr

/-- A memory row, bank or unit that keeps the counters of R141 and is self-tested (R305). -/
inductive MemUnit where
  | regRow (core row : Nat)
  | scratchBank (core bank : Nat)
  | slice (cluster set : Nat)
  | stackRow (stack row : Nat)
  | vaultEntry (cluster entry : Nat)
  | bpage (core page : Nat)
  | tlb (core : Nat)
  | storeBuf (core : Nat)
  | specBuf (core : Nat)
  | clusterTlb (cluster : Nat)
  | portTlb (port : Nat)
  | walker (domain : Nat)
  deriving DecidableEq, Repr

/-- What an absent page is being served for: a warp, a warp of a saved block, an engine command, or a completion
counter that waits to be written (R169, R171, R250, R25, R110). -/
inductive FaultTarget where
  | warp (key : Nat)
  | saved (ctx frame key : Nat)
  | cmd (core queue : Nat)
  | counter (n : Nat)
  deriving DecidableEq, Repr

/-- Firmware's answer to a fault (R169). Serving a page writes page-table entries. -/
inductive Resolution where
  | served (entries : List (Nat × BitVec 64))
  | declined
  | overQuota
  deriving DecidableEq, Repr

/-- The source a launch record is read from (R117). -/
inductive LaunchSrc where
  | queue (q : Nat)
  | device (core : Nat)
  | node (ctx n : Nat)
  deriving DecidableEq, Repr

/-- A peer package's access over Zwida Link (R301). -/
inductive PeerAccess where
  | load (pa n : Nat)
  | store (pa : Nat) (bytes : List Byte)
  | atomic (op : AtomOp) (pa : Nat) (operand expected : Word)
  | copy (pa : Nat) (bytes : List Byte)
  deriving DecidableEq, Repr

/-- A firmware image as the boot ROM judges it (R303). -/
structure FwImage where
  signed     : Bool
  version    : Nat
  wellFormed : Bool
  digest     : BitVec 256
  deriving DecidableEq, Repr

/-- What a Redfish request asks of the management port (R302, R303). -/
inductive RedfishReq where
  | chassis
  | processor (n : Nat)
  | memory
  | errorCounters (u : MemUnit)
  | poolClass (d : Nat)
  | writePoolClass (d : Nat) (c : BitVec 2)
  | firmwareInventory
  | measurements
  | installImage (slotB : Bool) (img : FwImage)
  deriving DecidableEq, Repr

/-- The instructions and steps of the Olimutin 6840. -/
inductive Instr where
  -- integer group (R194)
  | add (d a b : SReg)
  | sub (d a b : SReg)
  | andR (d a b : SReg)
  | orR (d a b : SReg)
  | xorR (d a b : SReg)
  | shl (d a b : SReg)
  | shr (d a b : SReg)
  | sra (d a b : SReg)
  | mul (d a b : SReg)
  | mulh (d a b : SReg)
  | mulhu (d a b : SReg)
  | div (d a b : SReg)
  | divu (d a b : SReg)
  | rem (d a b : SReg)
  | remu (d a b : SReg)
  | min (d a b : SReg)
  | max (d a b : SReg)
  | minu (d a b : SReg)
  | maxu (d a b : SReg)
  | slt (d a b : SReg)
  | sltu (d a b : SReg)
  | seq (d a b : SReg)
  | sne (d a b : SReg)
  | addw (d a b : SReg)
  | clz (d a : SReg)
  | popc (d a : SReg)
  -- immediate forms (R195) and constants (R196)
  | addi (d a : SReg) (i : BitVec 13)
  | andi (d a : SReg) (i : BitVec 13)
  | ori (d a : SReg) (i : BitVec 13)
  | xori (d a : SReg) (i : BitVec 13)
  | shli (d a : SReg) (n : BitVec 6)
  | shri (d a : SReg) (n : BitVec 6)
  | srai (d a : SReg) (n : BitVec 6)
  | slti (d a : SReg) (i : BitVec 13)
  | sltui (d a : SReg) (i : BitVec 13)
  | muli (d a : SReg) (i : BitVec 13)
  | li (d : SReg) (i : BitVec 19)
  | lui (d : SReg) (i : BitVec 19)
  | luh (d : SReg) (i : BitVec 19)
  -- loads and stores (R197)
  | ldb (d a : SReg) (i : BitVec 13)
  | ldbu (d a : SReg) (i : BitVec 13)
  | ldh (d a : SReg) (i : BitVec 13)
  | ldhu (d a : SReg) (i : BitVec 13)
  | ldw (d a : SReg) (i : BitVec 13)
  | ldwu (d a : SReg) (i : BitVec 13)
  | ldd (d a : SReg) (i : BitVec 13)
  | stb (d a : SReg) (i : BitVec 13)
  | sth (d a : SReg) (i : BitVec 13)
  | stw (d a : SReg) (i : BitVec 13)
  | std (d a : SReg) (i : BitVec 13)
  -- ordered words (R198 to R200)
  | lda (d a : SReg) (size : BitVec 2) (scope : Scope) (rmt : Bool)
  | stl (d a : SReg) (size : BitVec 2) (scope : Scope) (rmt : Bool)
  | atom (d a b : SReg) (op : AtomOp) (scope : Scope) (rmt : Bool)
  | atoma (d a b : SReg) (op : AtomOp) (scope : Scope) (rmt : Bool)
  | atoml (d a b : SReg) (op : AtomOp) (scope : Scope) (rmt : Bool)
  | atomal (d a b : SReg) (op : AtomOp) (scope : Scope) (rmt : Bool)
  | fence (kind : FenceKind) (scope : Scope)
  -- control flow (R201 to R203)
  | bz (a : SReg) (disp : BitVec 19)
  | bnz (a : SReg) (disp : BitVec 19)
  | bltz (a : SReg) (disp : BitVec 19)
  | bgez (a : SReg) (disp : BitVec 19)
  | call (a : SReg) (disp : BitVec 19)
  | jr (d a : SReg) (i : BitVec 13)
  | bqt (disp : BitVec 19)
  | bqf (disp : BitVec 19)
  | loop (a : SReg) (disp : BitVec 19)
  -- dispatch and the queues to the lanes (R204 to R209)
  | lgo (i : BitVec 19)
  | lgor (a : SReg)
  | lwait
  | dqpBroadcast (a : SReg) (q : BitVec 2)
  | dqpIota (a b : SReg) (q : BitVec 2)
  | dqld (a b : SReg) (uns : Bool) (size : BitVec 2) (q : BitVec 2)
  | dqstrm (a b k : SReg) (uns : Bool) (size : BitVec 2) (q : BitVec 2)
  | xqp (d : SReg)
  -- special registers and regions (R210, R211)
  | srd (d : SReg) (idx : BitVec 13)
  | swr (a : SReg) (idx : BitVec 13)
  | regn
  -- waits and barriers (R261 to R263), YIELD (R212)
  | cwait (a b : SReg) (yld : Bool)
  | waitv (k a b : SReg) (cond : WaitCond) (scope : Scope) (rmt : Bool)
  | barSync (b : BitVec 4)
  | barArrive (b : BitVec 4)
  | barWait (b : BitVec 4)
  | barExpect (a : SReg) (b : BitVec 4)
  | barInit (a : SReg) (b : BitVec 4)
  | yieldW
  -- engine commands (R253 to R260)
  | cpyImmediate (a b : SReg) (bare : Bool) (barn : BitVec 4) (shape : BitVec 6)
  | cpyRegister (a b k : SReg) (shape : BitVec 6)
  | mxb (a : SReg) (page : BitVec 6) (fmt : BitVec 3)
  | mxa (a : SReg) (page : BitVec 6) (bslot aslot : BitVec 3) (rows1 : BitVec 2) (acc : BitVec 5)
  | mxrd (a b : SReg) (rows1 g : BitVec 3) (acc : BitVec 5)
  | mxz (rows1 : BitVec 3) (acc : BitVec 5)
  | qfence (mask : BitVec 4)
  -- launching and ordering grids (R264, R265)
  | lnch (k a : SReg)
  | hintsucc
  | waitpred
  -- crews (R266 to R268)
  | crew (a b : SReg)
  | creww (k : SReg)
  | breakCrew
  | goStroke
  | srel
  | regroup (k a : SReg)
  | regroupTimeout (warp : Nat)
  -- task queues (R269)
  | qpush (k a b : SReg)
  | qpop (k a b : SReg) (auto : Bool)
  | qsteal (k a b : SReg)
  -- the state store (R270 to R277)
  | ssld (a b k : SReg) (len : BitVec 7)
  | ssst (a b k : SReg) (len : BitVec 7)
  | ssnap (a b k : SReg)
  | ssroll (a b k : SReg)
  | ssfork (a b k : SReg)
  | ssdrop (a k : SReg)
  -- traps and the end of a warp (R213 to R217)
  | trap (code : BitVec 7)
  | eretResume
  | eretReplay
  | exitWarp
  | tlbiVa (a b : SReg)
  | tlbiCtx (b : SReg)
  | tlbiSplit (a b : SReg)
  | tlbiGpa (a b : SReg)
  | nop
  -- integer lane words (R222, R223)
  | vadd (c : LCtl) (d a : Opnd) (b : BSrc)
  | vsub (c : LCtl) (d a : Opnd) (b : BSrc)
  | vmul (c : LCtl) (d a : Opnd) (b : BSrc)
  | vmulh (c : LCtl) (d a : Opnd) (b : BSrc)
  | vmulhu (c : LCtl) (d a : Opnd) (b : BSrc)
  | vmad (c : LCtl) (d a : Opnd) (b : BSrc) (cc : Opnd)
  | vand (c : LCtl) (d a : Opnd) (b : BSrc)
  | vor (c : LCtl) (d a : Opnd) (b : BSrc)
  | vxor (c : LCtl) (d a : Opnd) (b : BSrc)
  | vshl (c : LCtl) (d a : Opnd) (b : BSrc)
  | vshr (c : LCtl) (d a : Opnd) (b : BSrc)
  | vsra (c : LCtl) (d a : Opnd) (b : BSrc)
  | vmin (c : LCtl) (d a : Opnd) (b : BSrc)
  | vmax (c : LCtl) (d a : Opnd) (b : BSrc)
  | vabs (c : LCtl) (d a : Opnd)
  | vneg (c : LCtl) (d a : Opnd)
  | vpopc (c : LCtl) (d a : Opnd)
  | vclz (c : LCtl) (d a : Opnd)
  | vsel (c : LCtl) (d a b : Opnd) (p : PCode)
  | vmov (c : LCtl) (d a : Opnd)
  | vli (c : LCtl) (d a : Opnd) (hi : Bool) (i : BitVec 16)
  | vsr (c : LCtl) (d : Opnd) (sel : BitVec 3)
  | vaddsat (c : LCtl) (d a : Opnd) (b : BSrc)
  -- compares, predicates and EXM (R224 to R227)
  | vcmp (c : LCtl) (a b : Opnd) (pt pf : PCode) (cond : BitVec 3)
  | fcmp (c : LCtl) (a b : Opnd) (pt pf : PCode) (cond : BitVec 3)
  | pand (c : LCtl) (t p q : PCode)
  | por (c : LCtl) (t p q : PCode)
  | pxor (c : LCtl) (t p q : PCode)
  | pandn (c : LCtl) (t p q : PCode)
  | pfromv (c : LCtl) (t : PCode) (a : Opnd)
  | vfromp (c : LCtl) (d : Opnd) (p : PCode) (form : BitVec 2)
  | xmrd (c : LCtl) (d : Opnd)
  | xmwr (c : LCtl) (a : Opnd) (p : PCode) (form : BitVec 2)
  -- floating-point words (R228, R229)
  | fadd (c : LCtl) (d a b : Opnd)
  | fsub (c : LCtl) (d a b : Opnd)
  | fmul (c : LCtl) (d a b : Opnd)
  | ffma (c : LCtl) (d a b cc : Opnd)
  | fmin (c : LCtl) (d a b : Opnd)
  | fmax (c : LCtl) (d a b : Opnd)
  | frnd (c : LCtl) (d a : Opnd)
  | hadd2 (c : LCtl) (d a b : Opnd)
  | hsub2 (c : LCtl) (d a b : Opnd)
  | hmul2 (c : LCtl) (d a b : Opnd)
  | hfma2 (c : LCtl) (d a b cc : Opnd)
  | hmin2 (c : LCtl) (d a b : Opnd)
  | hmax2 (c : LCtl) (d a b : Opnd)
  | hdot2 (c : LCtl) (d a b cc : Opnd)
  | frcp (c : LCtl) (d a : Opnd)
  | frsq (c : LCtl) (d a : Opnd)
  | fsqrt (c : LCtl) (d a : Opnd)
  | fexp2 (c : LCtl) (d a : Opnd)
  | flog2 (c : LCtl) (d a : Opnd)
  | fsin (c : LCtl) (d a : Opnd)
  | fcos (c : LCtl) (d a : Opnd)
  | ftanh (c : LCtl) (d a : Opnd)
  -- conversions (R230, R231)
  | cvt (c : LCtl) (d a b cc : Opnd) (src : BitVec 4) (sel : BitVec 2) (sat : Bool)
  | qpack (c : LCtl) (d a b cc : Opnd) (slot : BitVec 3) (pos : BitVec 5)
  | qunpk (c : LCtl) (d a b : Opnd) (slot : BitVec 3) (pos : BitVec 5)
  -- lane movement (R232 to R237)
  | shfl (c : LCtl) (d a : Opnd) (b : BSrc) (mode : BitVec 2)
  | vote (c : LCtl) (d : Opnd) (p : PCode) (kind : BitVec 2) (toBq : Bool)
  | vred (c : LCtl) (d a : Opnd) (op : BitVec 3)
  | vscan (c : LCtl) (d a : Opnd) (op : BitVec 3) (excl : Bool)
  | vmovx (c : LCtl) (d a : Opnd) (p : PCode) (expand : Bool)
  -- memory words (R238 to R240) and TIDX (R241)
  | vld (c : LCtl) (d a : Opnd) (m : LAddr) (size : BitVec 2) (off : BitVec 9)
  | vst (c : LCtl) (a cc : Opnd) (m : LAddr) (size : BitVec 2) (off : BitVec 9)
  | vatom (c : LCtl) (d a b cc : Opnd) (m : LAddr) (op : AtomOp) (off : BitVec 8)
  | tidx (c : LCtl) (d a : Opnd) (shape : BitVec 8) (dim : BitVec 3)
  -- hypervector words (R242 to R249)
  | hfromv (c : LCtl) (a : Opnd) (h : BitVec 3)
  | htov (c : LCtl) (d : Opnd) (h : BitVec 3)
  | hld (c : LCtl) (a : Opnd) (base : BitVec 3) (scale : BitVec 2) (h : BitVec 3) (off : BitVec 13)
  | hst (c : LCtl) (a : Opnd) (base : BitVec 3) (scale : BitVec 2) (h : BitVec 3) (off : BitVec 13)
  | hxor (c : LCtl) (hd ha hb : BitVec 3)
  | hrot (c : LCtl) (hd ha : BitVec 3) (amt : BitVec 12)
  | hbun (c : LCtl) (ha : BitVec 3) (k : BitVec 1) (wt : BitVec 3) (neg : Bool)
  | hthr (c : LCtl) (hd tie : BitVec 3) (k : BitVec 1)
  | hkclr (c : LCtl) (k : BitVec 1)
  | hdist (c : LCtl) (d : Opnd) (ha hb : BitVec 3)
  | hnear (c : LCtl) (d a : Opnd) (b : BSrc) (h : BitVec 3)
  | hput (c : LCtl) (b : BSrc) (h : BitVec 3)
  -- steps of a warp, its lane blocks and streams
  | laneBlockCompletion (warp : Nat)
  | affineStreamPush (warp : Nat) (q : BitVec 2)
  -- launch and completion of grids
  | launchQueueTailWrite (fn : Nat) (q : BitVec 4) (value : Word)
  | launchRecordRead (src : LaunchSrc)
  | deviceLaunchPass (core : Nat)
  | lqstart (fn : Nat) (q : BitVec 4) (value : Word)
  | blockExit (block : Nat)
  | gridCompletion (grid : Nat)
  -- the cox
  | strokeLaunch (crew : Nat)
  | templateCopyIssue (crew : Nat)
  | strokeRetire (crew : Nat)
  | outSlotRelease (crew : Nat)
  | strokeCommit (crew : Nat)
  -- engines and barriers
  | engineCommandStart (core : Nat) (queue : BitVec 2)
  | copyPieceLanding (core : Nat)
  | engineCommandCompletion (core : Nat) (queue : BitVec 2)
  | releaseWave (core : Nat)
  -- traps and firmware
  | trapEntry (warp : Nat)
  | faultResolution (target : FaultTarget) (r : Resolution)
  | formatEmulation (warp : Nat) (has : Bool)
  | stallSwapOut (grid : Nat) (gang : Nat)
  | waitingBlockSwap (grid : Nat)
  | blockRestore (ctx : Nat) (frame : Nat)
  | blockRelaunch (block : Nat)
  | preemptionRequest (ctx : Nat)
  | preemptionSave (ctx : Nat)
  | contextReset (ctx : Nat)
  | qreset (value : Word)
  | dlconsWrite (vf : Nat) (value : Word)
  | writeBackScan (ctx : Nat) (va : Word)
  | classChange (domain : Nat) (cls : BitVec 2)
  | classChangeEffect (domain : Nat)
  | supplySag (cluster : Nat)
  | eccError (site : EccSite) (correctable : Bool)
  | selfTestCompletion (u : MemUnit) (pass : Bool)
  | peerTimeout (target : FaultTarget)
  | redfishRequest (r : RedfishReq)
  | challenge (nonce : BitVec 256)
  | registerWrite (fn : Nat) (off : BitVec 52) (value : Word)
  | writeLands (warp : Nat)
  | contextRelease (ctx : Nat)
  | contextReadmission (ctx : Nat)
  | railRecovers (cluster : Nat)
  | thermalBandChange (cluster : Nat) (band : BitVec 3)
  | peerPackageAccess (a : PeerAccess)
  -- steps that name no agent
  | gangPlacement
  | controlInterval
  | pursePeriod
  | powerOn
  | getCertificate
  | getMeasurements
  deriving DecidableEq, Repr

end Sys2Proof
end

