-- ==== Sys2Proof/Machine/State.lean ====
section
/-!
DEFINITION. Sys2Proof/Machine/State.lean: the state of the Olimutin 6840 as plain data, the reasons a step
stops, and the state right after reset. Numbers that name an agent: a warp is 64·core + its resident-warp
number (R30), a block 8·core + its block slot (R12), a crew 64·core + its crew number (R57), a grid its
place in the order of acceptance (R119).
-/
namespace Sys2Proof.Machine

/-- Why a step stops. -/
inductive Fault where
  /-- Raised by every warp's word when `State.cur` names no running warp, and by a lane word when that warp has no
  dispatched lane block whose words are left: no word can be acting. Safe: the step function never runs a word so. -/
  | noWarp
  deriving DecidableEq, Repr

/-- Why an instruction or step has no meaning in a state. -/
inductive Refusal where
  /-- An instruction not modelled; no arm of `exec` answers it any more. Safe. -/
  | notModelled (mnemonic : String)
  /-- Raised by a step of the part (a row with no encoding) in a state in which the spec does not let that
  step occur. Safe: the part does not take such a step, and `step` never takes it. -/
  | notEnabled (mnemonic : String)
  deriving DecidableEq, Repr

/-! ### Warps -/

/-- One dispatched lane block (R14, R204). EXM and LTILE are the block's own where a handler has rewritten the
register since it was dispatched (R17, R210). -/
structure Dispatch where
  addr   : Word
  rm     : BitVec 3
  chk    : Bool
  ab     : Vector Word 8
  seq    : Nat
  issued : Bool
  exm    : Option Mask
  ltile  : Option (BitVec 3)
  deriving DecidableEq, Repr

/-- One entry of a dq (R99); a faulting stream's entry carries its cause, its address, and whether the fault is of the
second stage (R74, R103). -/
structure DqEntry where
  val   : Lanes
  fault : Option (BitVec 8 × Word × Bool)
  deriving DecidableEq, Repr

/-- An affine stream (R103, R208). -/
structure Stream where
  next        : Nat
  count       : Nat
  base        : Word
  laneStride  : Word
  entryStride : Word
  uns         : Bool
  size        : BitVec 2
  deriving DecidableEq, Repr

/-- One dq with its stream (R99, R102). -/
structure Dq where
  entries : List DqEntry
  stream  : Option Stream
  deriving DecidableEq, Repr

/-- Where a vector result is written: a private name, a host-window row, a slot of the warp's crew window,
an operand-file register. -/
inductive VTarget where
  | main (i : Nat) | host (j : Nat) | slot (j : Nat) | oper (i : Nat)
  deriving DecidableEq, Repr

/-- One register write of a lane word, in the lanes of its mask. -/
inductive LWrite where
  | vec  (t : VTarget) (m : Mask) (x : Lanes)
  | pred (i : Nat) (m : Mask) (bits : BitVec 32)
  | hv   (i : Nat) (x : HVec)
  | bun  (i : Nat) (x : Bundle)
  deriving DecidableEq, Repr

/-- The shift of the last-result file by one word (R53): one value into l0, or an i64 pair into l0 and l1. -/
inductive LShift where
  | none
  | one  (m : Mask) (x : Lanes)
  | pair (m : Mask) (lo hi : Lanes)
  deriving DecidableEq, Repr

/-- A lane word issued whose results have not all been taken into the registers (R16, R39, R52). -/
structure Pending where
  block       : Nat
  landAt      : Nat
  interlocked : Bool
  writes      : List LWrite
  shift       : LShift
  flags       : BitVec 12
  deriving DecidableEq, Repr

/-- A wait that began in an earlier step of the same word: for a phase of a barrier, whether after a counted arrival
(R134); in the release list (R135); for a phase that has opened since its trap (R252), each with whether an arrival
has been counted; for a partner of REGROUP, since a cycle, with its operand and its status register (R268); of CREW
for rows, with the record it has read (R117, R266). -/
inductive WaitSt where
  | none
  | barrier (b : Nat) (phase : BitVec 16) (sync : Bool)
  | released (sync : Bool)
  | passed (sync : Bool)
  | regroup (since n k : Nat)
  | record (bytes : List Byte)
  deriving DecidableEq, Repr

/-- The trap a warp entered, or parked with (R166, R167). -/
structure TrapRec where
  cause   : BitVec 8
  lane    : Bool
  epc     : Word
  replay  : Bool
  async   : Bool
  region  : Bool
  resume  : Word
  laneAt  : Word
  addr    : Word
  lanes   : Mask
  area    : Word
  second  : Bool             -- a second-stage fault (R74)
  wait    : WaitSt           -- the wait that resumption takes up again (R252)
  deriving DecidableEq, Repr

/-- What a parked warp waits for (R169, R170, R81). A warp of a saved block whose wait has ended meanwhile resumes once
it is restored, or enters its handler with the cause its page was declined with (R171). -/
inductive ParkKind where
  | page | format | dirtyLog (vf : Nat) | served | denied (cause : BitVec 8)
  deriving DecidableEq, Repr

/-- A cause that the scalar word at the pc has raised and that waits: for the dispatched lane blocks (R165), or, held,
for its stroke to commit (R42): the cause, its address, whether of the second stage, where the scalar stream resumes,
the scalar registers in error, whether it goes before the lane blocks (R104). -/
structure ScalarFault where
  cause  : BitVec 8
  addr   : Word
  second : Bool
  resume : Word
  regs   : List Nat
  held   : Bool
  atOnce : Bool
  deriving DecidableEq, Repr

/-- The cause of the next lane word of an uncommitted stroke, held until the stroke commits (R42). -/
structure LaneFault where
  cause  : BitVec 8
  addr   : Word
  lanes  : Mask
  second : Bool
  sites  : List EccSite
  deriving DecidableEq, Repr

/-- What the next lane word of a stroke has read so far of a window slot that it waits on: the lanes it reads, those
it has taken, their values (R39, R45). -/
structure WinRead where
  slot : Nat
  need : Mask
  got  : Mask
  vals : Lanes
  deriving DecidableEq, Repr

/-- Whether a warp slot holds a warp (R12, R38). -/
inductive WStat where
  | absent | running | exited
  deriving DecidableEq, Repr

/-- A resident warp (R48). -/
structure Warp where
  stat      : WStat
  block     : Nat
  wid       : Nat
  stroke    : Option (Nat × Nat)   -- crew, stroke number
  s         : Vector Word 64
  pc        : Word
  v         : Tbl Lanes
  host      : Tbl Lanes
  groups    : List Nat
  o         : Vector Lanes 8
  l0        : Lanes
  l1        : Lanes
  p         : Vector (BitVec 32) 12
  h         : Vector HVec 8
  k         : Vector Bundle 2
  ab        : Vector Word 8
  exm       : Mask
  ltile     : BitVec 3
  rgn       : Word
  cause     : BitVec 9
  epc       : Word
  fcsr      : BitVec 12
  chk       : Bool
  lcb       : Word
  iter      : Word
  iret      : Word
  slide     : Word
  win       : Word
  depth     : Word
  trip      : Word
  hosts     : Option Nat           -- the crew it hosts and has not returned from
  orig      : Vector (BitVec 16) 32
  dispatch  : List Dispatch
  dq        : Vector Dq 4
  xq        : List Word
  bq        : List Bool
  held      : List (Nat × DqEntry)  -- by the dq each was popped from (R100, R163)
  inflight  : List Pending
  laneAt    : Nat                  -- the earliest cycle of its next lane word
  openRgn   : Bool
  sup       : Bool
  ctxid     : BitVec 16            -- the identifier its accesses translate under (R75)
  async     : List (BitVec 8 × Word)
  trap      : Option TrapRec
  parked    : Option (ParkKind × TrapRec)
  wait      : WaitSt
  fault     : Option ScalarFault
  laneFault : Option LaneFault
  reads     : List WinRead
  pass      : Nat
  drawn     : Tbl Nat              -- slots of purses, by purse, drawn for its next word (R140)
  lastLane  : Bool
  yielded   : Bool
  waitFrom  : Option Nat           -- since when it has waited in WAITV, or in CWAIT with the yield option (R283)
  deriving DecidableEq, Repr

/-! ### Blocks and grids -/

/-- A barrier (R133). BYTES is held as an integer, kept inside 48 signed bits by the operations on it. -/
structure Barrier where
  expected : BitVec 7
  arrived  : BitVec 8
  bytes    : Int
  phase    : BitVec 16
  broken   : Bool
  deriving DecidableEq, Repr

/-- A launch record as the part copied it (R118). -/
structure LaunchRec where
  entry   : Word
  lcb     : Word
  args    : Word
  ctr     : Word
  blocks  : Nat
  warps   : Nat
  regs8   : Nat
  flags   : BitVec 16
  scratch : Nat
  gang    : Nat
  prio    : Nat
  cls     : Nat
  shapes  : Word
  handle  : Word
  fmts    : Vector Word 8
  raw     : List Byte
  deriving DecidableEq, Repr

/-- A resident block (R12). -/
structure Block where
  live     : Bool
  grid     : Nat
  idx      : Nat
  nw       : Nat
  scratch  : Tbl Byte
  size     : Nat
  bars     : Vector Barrier 16
  born     : Nat
  closed   : Bool            -- a closing word has performed (R172)
  touched  : Bool            -- a command counted or lowered a barrier (R172)
  stopped  : Bool            -- no warp issues: killed, or held for ECC_SCRATCH
  killed   : Bool
  relaunch : Bool            -- killed, to be relaunched (R172)
  lastMove : Nat             -- the cycle since which no warp of it has issued or been ready (R171)
  donors   : Nat             -- warps fused away, whose hypervector rows are freed (R19)
  deriving DecidableEq, Repr

/-- An accepted grid (R119). -/
structure Grid where
  src    : LaunchSrc
  ctx    : Nat
  addr   : Word
  record : LaunchRec
  next   : Nat
  exited : Nat
  hints  : List Nat
  born   : Nat               -- the cycle of its acceptance (R119)
  fresh  : List Nat          -- block indices to start again (R172)
  code   : Tbl Byte          -- memory as it stood when the record was read: what a fetch may still find (R192)
  done   : Bool
  deriving DecidableEq, Repr

/-! ### Crews -/

/-- A crew record as copied at CREW (R122). -/
structure CrewRec where
  body      : Word
  w         : Nat
  s         : Nat
  d         : Nat
  f         : Nat
  breakable : Bool
  policy    : BitVec 2
  tmpl      : Bool
  regs8     : Nat
  const     : Lane
  shape     : Nat
  tflags    : BitVec 16
  tbase     : Word
  tstep     : Word
  tctr      : Word
  raw       : List Byte
  deriving DecidableEq, Repr

/-- A stroke of a crew that has been launched and not cancelled (R38 to R44). -/
structure Stroke where
  k        : Nat
  warp     : Nat
  going    : Bool
  broke    : Bool
  exited   : Bool
  relReq   : Bool
  deriving DecidableEq, Repr

/-- Where bytes lie once an address is resolved: physical memory, or a block's partition. -/
inductive Place where
  | phys (pa : Nat)
  | part (block off : Nat)
  deriving DecidableEq, Repr

/-- A dirty-bit update that a store makes first (R79, R81): the entry's physical address, and for a
virtual function with its log ring the guest page. -/
structure Dirty where
  pte : Nat
  vf  : Nat
  gpa : Nat
  deriving DecidableEq, Repr

/-- The permissions of an entry (R127). -/
structure Perm where
  rd : Bool
  wr : Bool
  x  : Bool
  us : Bool
  deriving DecidableEq, Repr

/-- A leaf as a walk finds it (R72, R127), after both stages where two apply (R74): the page's physical base, its
offset bits (14, 25 or 36), each stage's permissions, the guest physical address of the page (0 in one stage), the
dirty bits found clear (R79). -/
structure Leaf where
  pa    : Nat
  bits  : Nat
  perm  : Perm
  perm2 : Perm
  attr  : BitVec 2
  gpa   : Nat
  clean : List Dirty
  deriving DecidableEq, Repr

/-- What a walk of both stages finds: the combined leaf, and the leaf of each stage it was built from; of one stage,
the same leaf three times (R74). -/
structure Found where
  leaf   : Leaf
  first  : Leaf
  second : Leaf
  deriving DecidableEq, Repr

/-- A TLB entry, tagged with identifier and generation (R75). -/
structure TlbEntry where
  ctxid : BitVec 16
  gen   : BitVec 8
  vpn   : Nat                -- the virtual address shifted right by leaf.bits
  vf    : Nat
  found : Found
  whole : Bool               -- the second stage's part is still held (R77)
  gone  : Bool               -- the first stage's part has been invalidated, the second's invalidation is to come (R77)
  deriving DecidableEq, Repr

/-- One store waiting for commit (R42), or the release half of a fence, with the buffer entries it takes and the TLB
entries it was translated with. -/
structure Held where
  stroke : Nat
  bytes  : List (Place × Byte)
  dirty  : List Dirty
  units  : Nat
  tags   : List TlbEntry     -- the entries its addresses were translated with (R76)
  sc     : Bool              -- a sequentially consistent fence (R200)
  deriving DecidableEq, Repr

/-- What strokes copy from their host as it stood at CREW (R35), with the address of the CREW. -/
structure Seed where
  s     : Vector Word 64
  ab    : Vector Word 8
  lcb   : Word
  fcsr  : BitVec 12
  chk   : Bool
  ltile : BitVec 3
  pc    : Word
  deriving DecidableEq, Repr

/-- A crew (R34 to R47, R136). -/
structure Crew where
  live    : Bool
  host    : Nat
  record  : CrewRec
  seed    : Seed
  n       : Nat
  next    : Nat
  high    : Nat              -- strokes below it have been launched before
  oldest  : Nat
  commit  : Nat
  relMark : Nat              -- strokes below it have had their release applied
  tissued : Nat              -- template commands issued so far
  tout    : List Nat         -- strokes whose template command is outstanding
  broke   : Option Nat
  fill    : List Nat         -- strokes cancelled by BREAK whose vacant fill waits (R281)
  strokes : List Stroke
  slots   : Tbl Lanes
  pres    : Tbl Mask
  held    : List Held
  deriving DecidableEq, Repr

/-! ### Cores, clusters, domains -/

/-- A shape record read by a command (R124). -/
structure Shape where
  rank   : Nat
  esize  : Nat
  toff   : Nat
  ext    : List Nat
  stride : List Nat
  box    : List Nat
  magic  : List Nat
  shift  : List Nat
  deriving DecidableEq, Repr

/-- What an engine command does, with its operands as read at issue (R250). -/
inductive CmdOp where
  | cpy (dst src : Word) (shape : Nat) (bare : Bool) (barn : Nat) (mc : Bool)
  | tmpl (glob : Word) (store : Bool) (shape box : Nat) (bare : Bool) (barn : Nat)
  | mxb (a : Word) (page fmt : Nat)
  | mxa (a : Word) (page bslot aslot rows acc : Nat)
  | mxrd (a : Word) (rows g acc : Nat)
  | mxz (rows acc : Nat)
  | ssld (seq : Nat) (off : Nat) (other : Word) (len : Nat)
  | ssst (seq : Nat) (off : Nat) (other : Word) (len : Nat)
  | ssnap (seq : Nat) (pos : Word)
  | ssroll (seq : Nat) (pos : Word)
  | ssfork (src dst : Nat) (blk : Word)
  | ssdrop (seq : Nat)
  | lnch (rec : List Byte) (addr : Word)
  deriving DecidableEq, Repr

/-- The progress of a started copy (R254): elements landed so far, of a checked shape. -/
structure CopyProg where
  shape  : Shape
  glob   : Word
  off    : Nat
  load   : Bool
  blocks : List Nat
  landed : Nat
  deriving DecidableEq, Repr

/-- What a piece of a state engine's work writes: the 32-bit word that stands at a place at that moment, or bytes
(R286). -/
inductive MoveSrc where
  | word (p : Place)
  | bytes (bs : List Byte)
  deriving DecidableEq, Repr

/-- A piece of a state engine's work: single-copy atomic, and in no set order with the others (R286). -/
structure Move where
  dst : Place
  src : MoveSrc
  deriving DecidableEq, Repr

/-- The three regions of a sequence as the region directory keeps them (R128): base and size of each. -/
structure Regions where
  live  : Nat × Nat
  ring  : Nat × Nat
  slots : Nat × Nat
  deriving DecidableEq, Repr

/-- An engine command in its queue (R106). -/
structure Cmd where
  op      : CmdOp
  warp    : Nat
  block   : Nat
  pc      : Word
  word    : BitVec 32
  a       : Word
  b       : Word
  k       : Word
  scope   : BitVec 3
  ctr     : Word
  seq     : Nat
  sup     : Bool             -- issued in supervisor mode
  started : Bool
  flags   : BitVec 12
  status  : Option Word
  copy    : Option CopyProg
  emul    : Bool             -- the place of an absent-format command that firmware emulates (R170)
  pageVa  : Option (Word × Bool)   -- waits for this page to be served, by the host if of the second stage (R74, R250)
  copies  : List (Word × List Byte)   -- the descriptors as read at the command's first start (R117)
  moves   : List Move        -- what a started state-store command has still to write (R286)
  dirs    : Option (Nat × Option Regions)   -- the change of the region directory at its completion (R128)
  drawn   : Tbl Nat          -- slots of purses, by purse, drawn for its next step (R140)
  home    : Option Nat       -- the domain whose state engine carries it out (R71)
  deriving DecidableEq, Repr

/-- A B page: its owner and its 512 rows of 128 bits (R69). -/
structure BPage where
  owner : Option Nat
  rows  : Tbl (BitVec 128)
  deriving DecidableEq, Repr

/-- A core (R106, R69, R135, R75, R158). -/
structure Core where
  copyQ    : List Cmd
  matrixQ  : List Cmd
  stateQ   : List Cmd
  launchQ  : List Cmd
  joins    : List (BitVec 4 × Nat)
  pages    : Tbl BPage
  acc      : Tbl Lane
  relList  : List Nat
  nextWave : Nat
  tlb      : List TlbEntry
  draws    : Nat
  deriving DecidableEq, Repr

/-- A cluster (R57, R70, R138, R139, R300). -/
structure Cluster where
  owner  : Option Nat
  vault  : List (Nat × HVec)   -- the valid entries, by rising number
  slope  : BitVec 12
  freq   : BitVec 16
  tband  : BitVec 3
  boost  : BitVec 32
  cap    : Nat
  refill : Nat
  limit  : Nat
  sag    : Bool
  nom    : Nat               -- the nominal step of the running interval
  tlb    : List TlbEntry
  deriving DecidableEq, Repr

/-- A domain (R57, R113, R140, R298, R299). -/
structure Domain where
  purse   : Vector (BitVec 16) 6
  active  : Vector (BitVec 16) 6   -- the budgets of the running period
  spent   : Vector Nat 6
  cls     : BitVec 2
  pend    : Option (BitVec 2)
  queues  : List (Nat × Nat)       -- context and index of the task queues its controller keeps, the latest used first
  deriving DecidableEq, Repr

/-! ### Contexts -/

/-- An entry of a context's error log (R25, R110, R126, R130, R162, R172). -/
inductive LogEntry where
  | kill (cause : BitVec 8) (epc : Word) (block : Nat) (addr : Option Word)
  | counter (rec : Word) (cause : BitVec 8)
  | rejected (rec : Word) (reason : Nat)
  | node (n : Nat)
  | badEntry (pte : Nat)
  | vault (cluster entry : Nat)
  deriving DecidableEq, Repr

/-- The stages of pre-emption (R175). -/
inductive PreStage where
  | admitted | drain (at_ : Nat) | saved (at_ : Nat) | reset
  deriving DecidableEq, Repr

/-- A launch record in a context's overflow ring, with the core that issued it and the moment (R94, R108). -/
structure RingRec where
  core  : Nat
  addr  : Word
  bytes : List Byte
  seq   : Nat
  deriving DecidableEq, Repr

/-- A context: the registers firmware sets for it and the part's tables for it. -/
structure Ctx where
  live      : Bool
  ptb       : Word
  ctxid     : BitVec 16
  tvb       : Word
  frb       : Word
  sdtb      : Word
  graph     : Nat
  tqBase    : Nat
  vf        : Nat
  grace     : Nat
  deadline  : Nat
  stage     : PreStage
  ring      : List RingRec                    -- overflow ring, the oldest first (R108)
  errs      : List LogEntry
  dir       : Tbl Regions
  tqs       : Tbl (List (BitVec 256))         -- entries of each task queue, oldest first (R111)
  deriving DecidableEq, Repr

/-! ### I/O dies, boot, management -/

/-- A hardware launch queue (R109, R298). -/
structure LaunchQ where
  base   : BitVec 52
  size   : BitVec 16
  tail   : BitVec 16
  head   : BitVec 16
  en     : Bool
  err    : Bool
  reason : BitVec 8
  rejix  : BitVec 16
  own    : BitVec 7
  ctx    : Nat
  grid   : Option Nat        -- the grid of the record at the head, once accepted
  deriving DecidableEq, Repr

/-- The function-table registers of a virtual function (R298), and its parked writers (R116). -/
structure Fn where
  s2ptb  : Word
  quota  : BitVec 40
  qused  : BitVec 40
  dlbase : Word
  dlsize : BitVec 17
  prod   : BitVec 32
  cons   : BitVec 32
  en     : Bool
  full   : Bool
  parked : List Nat          -- the warps parked for the ring, in the order in which they parked (R116)
  waking : Option (Nat × Word)   -- the warp resumed last, with its instruction count, until its word issues (R116)
  drains : Bool              -- whether the warps parked resume one after another (R116)
  ahead  : List Nat          -- guest pages logged for a write that waits for more room (R81, R116)
  deriving DecidableEq, Repr

/-- REPREQ (R306). -/
structure RepReq where
  req   : Bool
  multi : Bool
  unit  : BitVec 4
  index : BitVec 16
  deriving DecidableEq, Repr

/-- The error counters of a row or bank (R141). -/
structure ErrCnt where
  corr   : BitVec 16
  uncorr : BitVec 8
  tests  : BitVec 8
  fails  : BitVec 2
  deriving DecidableEq, Repr

/-- Whether the part has booted (R303). -/
inductive Power where
  | off | running (slotB : Bool) | recovery
  deriving DecidableEq, Repr

/-- What the part sends out: Redfish events and replies, SPDM replies, MSI-X messages, peers' replies
(R116, R301, R302, R304). -/
inductive OutMsg where
  | bootFailure
  | replacement (unit : BitVec 4) (index : BitVec 16)
  | msix (vf : Nat)
  | reply (r : RedfishReq) (value : Nat)
  | refusedWrite (r : RedfishReq)
  | certificate (chain : List Byte)
  | challengeAuth (nonce : BitVec 256) (sig : BitVec 512)
  | measurements (vals : List (BitVec 256)) (sig : BitVec 512)
  | peerData (bytes : List Byte)
  | barData (fn off : Nat) (value : Nat)
  deriving DecidableEq, Repr

/-- Boot, management and attestation (R302 to R304). -/
structure Boot where
  power    : Power
  slotA    : Option FwImage
  slotB    : Option FwImage
  fuse     : Nat
  control  : BitVec 8        -- control cores started
  link     : Bool            -- host link open
  out      : List OutMsg
  deriving DecidableEq, Repr

/-- A completion counter that waits for firmware to serve its page (R25, R110, R130): the record's address,
the counter's, the bit to set or else the grid whose completion is to be counted. -/
structure PendCtr where
  ctx    : Nat
  record : Word
  ctr    : Word
  bit    : Option Nat
  grid   : Nat
  second : Bool              -- the page is the host's to serve (R74)
  deriving DecidableEq, Repr

/-- The fabric ports as firmware assigns them: the ports that carry NVMe over Fabrics, the others Zwida Link; and for
each NVMe controller the commands outstanding in each of its I/O queues (R301). -/
structure Fabric where
  nvme : List Nat
  ctls : List (List Nat)
  deriving DecidableEq, Repr

/-- A data transfer between the fabric and the stacks, a peer's copy or that of an NVMe command (R301): the address in
the stacks, what it writes there, its length, the slots of the fabric purse drawn for it so far (R140). -/
structure Dma where
  pa    : Nat
  bytes : List Byte
  len   : Nat
  drawn : Nat
  deriving DecidableEq, Repr

/-- A page that the write-back scanner holds (R80): the context and the address it was found at, the virtual function of
a second-stage leaf (0: a leaf of the context's own tables), the page's address in that stage and its offset bits, what
its leaf maps it to, whether it had write permission. -/
structure Scan where
  ctx   : Nat
  va    : Nat
  vf    : Nat
  page  : Nat
  bits  : Nat
  base  : Nat
  wr    : Bool
  drawn : Nat                -- slots of the fabric purse drawn for it so far (R140)
  deriving DecidableEq, Repr

/-- A block saved to a frame (R173, R174), with what the frame's image does not hold. -/
structure Saved where
  ctx     : Nat
  frame   : Nat
  cluster : Nat
  stall   : Bool             -- saved under R171
  block   : Block
  warps   : List (Nat × Warp)
  crews   : List (Nat × Crew)
  cmds    : List (BitVec 2 × Cmd)
  joins   : List (BitVec 4 × Nat)  -- joins its commands stand before or behind (R94)
  pages   : List (Nat × BPage)
  sites   : List EccSite           -- uncorrectable errors its storage holds
  deriving DecidableEq, Repr

/-! ### The model's own: what moves next -/

/-- What a firmware image or the host does from outside that is no row of the table. -/
inductive Input where
  | event (i : Instr)
  | memWrite (pa : Nat) (bytes : List Byte)
  | setCtx (c : Nat) (ptb tvb frb sdtb : Word) (ctxid : BitVec 16) (graph tqBase vf grace deadline : Nat)
  | bindQueue (q : BitVec 4) (ctx : Nat)
  | setCap (cluster cap refill limit : Nat)
  | setSlope (cluster : Nat) (slope : BitVec 12)
  | setPurses (domain : Nat) (purse : Vector (BitVec 16) 6)
  | unmapped (vf pages : Nat)
  | rootPortAborts (k : Nat)
  | assignPorts (nvme : List Nat) (queues : List Nat)
  | nvmeQueue (ctl queue : Nat)
  | nvmeDma (pa n : Nat) (bytes : List Byte)
  | nvmeDone (ctl queue : Nat)
  | rollback (version : Nat) (signed : Bool)
  | barRead (fn off : Nat)
  deriving DecidableEq, Repr

/-- A choice among agents that the spec leaves unordered: an issue slot, a step of the part, the end of the
cycle. -/
inductive Turn where
  | issue (core slot : Nat)
  | event (i : Instr)
  | tick
  deriving DecidableEq, Repr

/-- The machine. -/
structure State where
  mem      : Tbl Byte
  cycle    : Nat
  warps    : Tbl Warp
  blocks   : Tbl Block
  crews    : Tbl Crew
  cores    : Tbl Core
  clusters : Tbl Cluster
  domains  : Tbl Domain
  ctxs     : Tbl Ctx
  grids    : List Grid
  choice   : Option Nat      -- the grid that the distributor has chosen and whose gang waits for room (R21, R28)
  saved    : List Saved
  pend     : List PendCtr
  lqs      : Vector LaunchQ 16
  fns      : Tbl Fn
  gens     : Tbl (BitVec 8)
  repreq   : RepReq
  sagcnt   : BitVec 32
  errs     : List (MemUnit × ErrCnt)
  poison   : List EccSite
  fenced   : List MemUnit
  testing  : List MemUnit    -- self-tests that run
  toSave   : List (MemUnit × Nat)   -- blocks to be saved before the self-test of a unit runs (R305)
  fencing  : List Nat        -- cores to be fenced, whose blocks are being saved (R305)
  scans    : List Scan       -- the pages that the write-back scanner holds (R80)
  ports    : Tbl (List TlbEntry)   -- TLBs of the control cores 0 to 7 and of the fabric and storage ports from 8 (R75)
  spares   : Tbl Nat         -- spare cores in use on each die, spare rows in each stack (R305)
  rowSpares : Tbl Nat
  removed  : List Nat
  storage  : List (Nat × Nat × Tbl Byte)
  fabric   : Fabric
  dma      : List Dma        -- data transfers of the fabric that wait for their purse (R140, R301)
  boot     : Boot
  asks     : List Instr      -- SPDM requests that wait for a change of the fencing map (R304)
  ctlDue   : Nat             -- the cycles of the next control interval and purse period
  purseDue : Nat
  silent   : Option FaultTarget      -- whose access to a peer package has had no answer (R301)
  aborted  : Option Nat      -- the warp whose atomic to host memory the root port turns away (R297)
  -- the model's own
  cur      : Nat
  waited   : Bool
  inbox    : List Input
  agenda   : List Turn
  issued   : List Nat        -- the slots, numbered 4·core + slot, whose issue opportunity of this cycle is past (R30)
  reached  : List (Nat × Nat × Bool)   -- the barriers, by block and number, that an EXPECT or an arrival (true) has reached in this cycle (R134)
  asked    : Tbl Nat         -- slots that the step asks of purses, by purse (R140)
  free     : Nat
  seq      : Nat
  deriving DecidableEq, Repr

/-! ### Reset -/

/-- A vector register of zeros. -/
def zeroLanes : Lanes := Vector.replicate 32 0#32

/-- A slot that holds no warp. Register values are the start values of R48. -/
def Warp.absent : Warp where
  stat := .absent
  block := 0
  wid := 0
  stroke := none
  s := Vector.replicate 64 0#64
  pc := 0
  v := []
  host := []
  groups := []
  o := Vector.replicate 8 zeroLanes
  l0 := zeroLanes
  l1 := zeroLanes
  p := Vector.ofFn fun i => if i.val = 0 then 0xFFFF_FFFF#32 else 0#32
  h := Vector.replicate 8 0#4096
  k := Vector.replicate 2 0#32768
  ab := Vector.replicate 8 0#64
  exm := 0xFFFF_FFFF#32
  ltile := 0
  rgn := 0
  cause := 0
  epc := 0
  fcsr := 0
  chk := false
  lcb := 0
  iter := BitVec.allOnes 64
  iret := 0
  slide := 0
  win := 0
  depth := 0
  trip := 0
  hosts := none
  orig := Vector.ofFn fun i => BitVec.ofNat 16 i.val
  dispatch := []
  dq := Vector.replicate 4 ⟨[], none⟩
  xq := []
  bq := []
  held := []
  inflight := []
  laneAt := 0
  openRgn := false
  sup := false
  ctxid := 0
  async := []
  trap := none
  parked := none
  wait := .none
  fault := none
  laneFault := none
  reads := []
  pass := 0
  drawn := []
  lastLane := false
  yielded := false
  waitFrom := none

/-- A barrier at reset (R133). -/
def Barrier.reset : Barrier := ⟨0, 0, 0, 0, false⟩

/-- A block slot that holds no block. -/
def Block.absent : Block where
  live := false
  grid := 0
  idx := 0
  nw := 0
  scratch := []
  size := 0
  bars := Vector.replicate 16 Barrier.reset
  born := 0
  closed := false
  touched := false
  stopped := false
  killed := false
  relaunch := false
  lastMove := 0
  donors := 0

/-- The record of no crew. -/
def CrewRec.none : CrewRec := ⟨0, 0, 0, 0, 0, false, 0, false, 0, 0, 0, 0, 0, 0, 0, []⟩

/-- A crew number that holds no crew. -/
def Crew.absent : Crew where
  live := false
  host := 0
  record := CrewRec.none
  seed := ⟨Vector.replicate 64 0, Vector.replicate 8 0, 0, 0, false, 0, 0⟩
  n := 0
  next := 0
  high := 0
  oldest := 0
  commit := 0
  relMark := 0
  tissued := 0
  tout := []
  broke := none
  fill := []
  strokes := []
  slots := []
  pres := []
  held := []

/-- A B page at reset: free. Its contents are DESIGN CHOICE zero (log entry 3). -/
def BPage.reset : BPage := ⟨none, []⟩

/-- A core at reset: empty queues (R106), free pages (R69); accumulator and pages DESIGN CHOICE zero (log
entry 3). -/
def Core.reset : Core := ⟨[], [], [], [], [], [], [], [], 0, [], 0⟩

/-- A cluster at reset: vault free and invalid (R70), SLOPE 0 (R57), the nominal step of class 0 (R138);
TBAND 0, BOOST 0 and the current cap 68 are DESIGN CHOICE (log entry 3); refill 2 and limit 50,000 are R139's
defaults. -/
def Cluster.reset : Cluster := ⟨none, [], 0, 56, 0, 0, 68, 2, 50000, false, 56, []⟩

/-- A domain at reset: DPOOL 0 (R298); the purses, which firmware sets at boot (R303), DESIGN CHOICE zero
(log entry 3). -/
def Domain.reset : Domain :=
  ⟨Vector.replicate 6 0, Vector.replicate 6 0, Vector.replicate 6 0, 0, none, []⟩

/-- A context number that names no context. Registers are R57's resets, grace and deadline R175's defaults
in ticks; the tables firmware sets are DESIGN CHOICE zero (log entry 3). -/
def Ctx.absent : Ctx where
  live := false
  ptb := 0
  ctxid := 0
  tvb := 0
  frb := 0
  sdtb := 0
  graph := 0
  tqBase := 0
  vf := 0
  grace := 200 * Config.ticksPerMicro
  deadline := 2000 * Config.ticksPerMicro
  stage := .admitted
  ring := []
  errs := []
  dir := []
  tqs := []

/-- A launch queue at reset (R109, R298). -/
def LaunchQ.reset : LaunchQ := ⟨0, 0, 0, 0, false, false, 0, 0, 0, 0, none⟩

/-- A function-table entry at reset (R298). -/
def Fn.reset : Fn := ⟨0, 0, 0, 0, 0, 0, 0, false, false, [], none, false, []⟩

/-- Boot state at power-on (R303): nothing has run. An acceptable image in slot A is DESIGN CHOICE (log
entry 4). -/
def Boot.reset : Boot where
  power := .off
  slotA := some ⟨true, 0, true, 0⟩
  slotB := none
  fuse := 0
  control := 0
  link := false
  out := []

/-- The machine right after reset: no block resident, every queue empty, memory with nothing listed. -/
def State.reset : State where
  mem := []
  cycle := 0
  warps := []
  blocks := []
  crews := []
  cores := []
  clusters := []
  domains := []
  ctxs := []
  grids := []
  choice := none
  saved := []
  pend := []
  lqs := Vector.replicate 16 LaunchQ.reset
  fns := []
  gens := []
  repreq := ⟨false, false, 0, 0⟩
  sagcnt := 0
  errs := []
  poison := []
  fenced := []
  testing := []
  toSave := []
  fencing := []
  scans := []
  ports := []
  spares := []
  rowSpares := []
  removed := []
  storage := []
  fabric := ⟨[], []⟩
  dma := []
  boot := Boot.reset
  asks := []
  ctlDue := 0
  purseDue := 0
  silent := none
  aborted := none
  cur := 0
  waited := false
  inbox := []
  agenda := []
  issued := []
  reached := []
  asked := []
  free := 0
  seq := 0

end Sys2Proof.Machine
end

