-- ==== Sys2Proof/Machine/Flags.lean ====
section
/-!
DEFINITION. Sys2Proof/Machine/Flags.lean: the sticky flags (R58, R150) and the rounding modes with the choice
among their sources (R145, R147, R155). Which flags an operation raises is computed beside it, in Float, Special
and QBlock.
-/
namespace Sys2Proof.Machine

/-- The sticky flags, at their places in FCSR (R58). -/
abbrev Flags := BitVec 12
abbrev fNX : Flags := 0x010
abbrev fUF : Flags := 0x020
abbrev fOF : Flags := 0x040
abbrev fDZ : Flags := 0x080
abbrev fNV : Flags := 0x100
abbrev fQRSV : Flags := 0x200
abbrev fACCSAT : Flags := 0x400
abbrev fHSAT : Flags := 0x800

/-- The rounding modes (R145). -/
inductive Rm where
  | rne | rz | ru | rd | rna
  deriving DecidableEq, Repr

/-- Mode codes of FCSR.RM, a prefix and QRM; 0 in FCSR is RNE (R58). -/
def Rm.ofCode (c : Nat) : Rm :=
  match c with
  | 2 => .rz
  | 3 => .ru
  | 4 => .rd
  | 5 => .rna
  | _ => .rne

/-- The mode a lane word rounds by: its prefix's, else FCSR.RM at its block's dispatch (R147). -/
def laneRm (c : LCtl) (dispatched : BitVec 3) : Rm :=
  match c.pfx with
  | some p => if p.rnd = 0 then .ofCode dispatched.toNat else .ofCode p.rnd.toNat
  | none => .ofCode dispatched.toNat

/-- The mode of a quantisation: QRM, or FCSR.RM at dispatch where QRM is 0 (R155). -/
def quantRm (qrm : Nat) (dispatched : BitVec 3) : Rm :=
  if qrm = 0 then .ofCode dispatched.toNat else .ofCode qrm

end Sys2Proof.Machine
end

