-- ==== Sys2Proof/Machine/Float.lean ====
section
/-!
DEFINITION. Sys2Proof/Machine/Float.lean: the floating formats and their one rounding (R144 to R149): a value
is decoded to an exact dyadic number, the operation is exact, and the result is rounded once.
-/
namespace Sys2Proof.Machine

/-- A floating format: precision, exponent range, bits of the exponent field (R144). -/
structure Fmt where
  prec : Nat
  emin : Int
  emax : Int
  ebits : Nat
  deriving DecidableEq, Repr

abbrev f32 : Fmt := ⟨24, -126, 127, 8⟩
abbrev f16 : Fmt := ⟨11, -14, 15, 5⟩
abbrev bf16 : Fmt := ⟨8, -126, 127, 8⟩

/-- A decoded value: an exact finite value is ±`m` × 2^`e`. -/
inductive FVal where
  | nan (signalling : Bool)
  | inf (neg : Bool)
  | fin (neg : Bool) (m : Nat) (e : Int)
  deriving DecidableEq, Repr

namespace Fmt

/-- Bits of a value. -/
def width (f : Fmt) : Nat := f.ebits + f.prec
/-- The exponent of the least subnormal. -/
def qmin (f : Fmt) : Int := f.emin - (f.prec - 1 : Nat)
def expOnes (f : Fmt) : Nat := 2 ^ f.ebits - 1
def signBit (f : Fmt) : Nat := 2 ^ (f.width - 1)
/-- The canonical NaN (R144). -/
def canon (f : Fmt) : Nat := f.expOnes * 2 ^ (f.prec - 1) + 2 ^ (f.prec - 2)
def infinity (f : Fmt) (neg : Bool) : Nat :=
  (if neg then f.signBit else 0) + f.expOnes * 2 ^ (f.prec - 1)
def zero (f : Fmt) (neg : Bool) : Nat := if neg then f.signBit else 0
def maxFinite (f : Fmt) (neg : Bool) : Nat := f.infinity neg - 1

/-- The value of a bit pattern (R144). Subnormals are used at their value (R145). -/
def decode (f : Fmt) (x : Nat) : FVal :=
  let neg := x / f.signBit % 2 == 1
  let ex := x / 2 ^ (f.prec - 1) % 2 ^ f.ebits
  let fr := x % 2 ^ (f.prec - 1)
  if ex = f.expOnes then
    if fr = 0 then .inf neg else .nan (decide (fr < 2 ^ (f.prec - 2)))
  else if ex = 0 then .fin neg fr f.qmin
  else .fin neg (fr + 2 ^ (f.prec - 1)) (f.qmin + (ex - 1 : Nat))

end Fmt

/-! ### Rounding -/

/-- Whether a magnitude cut to `q` with a rest is rounded away from zero: the rest against one half of a unit,
and the mode (R145). -/
def roundsAway (rm : Rm) (neg : Bool) (odd : Bool) (cmpHalf : Ordering) (inexact : Bool) : Bool :=
  match rm with
  | .rne => cmpHalf == .gt || (cmpHalf == .eq && odd)
  | .rna => cmpHalf == .gt || cmpHalf == .eq
  | .rz => false
  | .ru => inexact && !neg
  | .rd => inexact && neg

/-- Cut `m` × 2^`e`, plus a rest below one unit of `m` when `sticky`, to a multiple of 2^`q`: the rounded count
of units and whether it is inexact. -/
def cutAt (rm : Rm) (neg : Bool) (m : Nat) (e : Int) (sticky : Bool) (q : Int) : Nat × Bool :=
  if q ≤ e then
    let u := m * 2 ^ (e - q).toNat
    (if roundsAway rm neg (u % 2 == 1) .lt sticky then u + 1 else u, sticky)
  else
    let sh := (q - e).toNat
    let u := m / 2 ^ sh
    let r := m % 2 ^ sh
    let half := 2 ^ (sh - 1)
    let c : Ordering := if r < half then .lt else if half < r then .gt else if sticky then .gt else .eq
    let inexact := r != 0 || sticky
    (if roundsAway rm neg (u % 2 == 1) c inexact then u + 1 else u, inexact)

/-- The result of an overflow (R145). -/
def overflowed (f : Fmt) (rm : Rm) (neg : Bool) : Nat :=
  match rm with
  | .rne | .rna => f.infinity neg
  | .rz => f.maxFinite neg
  | .ru => if neg then f.maxFinite true else f.infinity false
  | .rd => if neg then f.infinity true else f.maxFinite false

/-- Round the non-zero magnitude `m` × 2^`e` (with a rest) once to a format: the bits and the flags NX, UF and
OF (R145, R149: tininess after rounding). -/
def roundMag (f : Fmt) (rm : Rm) (neg : Bool) (m : Nat) (e : Int) (sticky : Bool) : Nat × Flags :=
  let top : Int := e + Nat.log2 m
  let q := max top f.emin - (f.prec - 1 : Nat)
  let (u, inexact) := cutAt rm neg m e sticky q
  let free := (cutAt rm neg m e sticky (top - (f.prec - 1 : Nat))).1
  let tiny := decide (top < f.emin) && !(free == 2 ^ f.prec && top + 1 == f.emin)
  let (u, q) := if u = 2 ^ f.prec then (2 ^ (f.prec - 1), q + 1) else (u, q)
  if f.emax < q + (f.prec - 1 : Nat) ∧ 2 ^ (f.prec - 1) ≤ u then
    (overflowed f rm neg, fOF ||| fNX)
  else
    let bits := if u < 2 ^ (f.prec - 1) then u
      else ((q - f.qmin).toNat + 1) * 2 ^ (f.prec - 1) + (u - 2 ^ (f.prec - 1))
    (f.zero neg + bits, (if inexact then fNX else 0) ||| (if tiny && inexact then fUF else 0))

/-- Round an exact signed dyadic; `zeroNeg` is the sign of an exact zero. -/
def roundInt (f : Fmt) (rm : Rm) (m : Int) (e : Int) (zeroNeg : Bool) : Nat × Flags :=
  if m = 0 then (f.zero zeroNeg, 0)
  else roundMag f rm (decide (m < 0)) m.natAbs e false

/-! ### Exact terms and their sum -/

/-- An exact term of a sum, or why there is none: a NaN operand, an invalid product. -/
inductive Term where
  | nan
  | inf (neg : Bool)
  | fin (neg : Bool) (m : Nat) (e : Int)
  deriving DecidableEq, Repr

def Term.ofVal : FVal → Term
  | .nan _ => .nan
  | .inf n => .inf n
  | .fin n m e => .fin n m e

/-- Flag NV for a signalling NaN (R146). -/
def sigFlag : FVal → Flags
  | .nan true => fNV
  | .nan false | .inf _ | .fin .. => 0

/-- The sign changed. -/
def FVal.negate : FVal → FVal
  | .nan s => .nan s
  | .inf n => .inf !n
  | .fin n m e => .fin (!n) m e

/-- An exact product; 0 × ∞ is invalid (R146, also beside a NaN addend). -/
def mulTerm (a b : FVal) : Term × Flags :=
  match a, b with
  | .nan _, _ => (.nan, 0)
  | _, .nan _ => (.nan, 0)
  | .inf x, .inf y => (.inf (x != y), 0)
  | .inf x, .fin y m _ => if m = 0 then (.nan, fNV) else (.inf (x != y), 0)
  | .fin x m _, .inf y => if m = 0 then (.nan, fNV) else (.inf (x != y), 0)
  | .fin x m e, .fin y m' e' => (.fin (x != y) (m * m') (e + e'), 0)

/-- The least exponent of finite terms. -/
def lowExp (ts : List Term) : Int :=
  ts.foldl (fun acc t => match t with
    | .fin _ _ e => min acc e
    | _ => acc) 0

/-- The exact sum of finite terms in units of 2^`e`. -/
def sumAt (e : Int) (ts : List Term) : Int :=
  ts.foldl (fun acc t => match t with
    | .fin n m e' => acc + (if n then -1 else 1) * (m * 2 ^ (e' - e).toNat : Nat)
    | _ => acc) 0

/-- The sign of an exact zero sum (R145). -/
def zeroSign (rm : Rm) (ts : List Term) : Bool :=
  let sign := fun (t : Term) => match t with
    | .fin n m _ => if m = 0 then some n else none
    | _ => none
  if ts.all fun t => sign t == some true then true
  else if ts.all fun t => sign t == some false then false
  else rm == .rd

/-- The sum of terms, exact and then rounded once (R145, R146). Infinities of opposite sign are invalid, also beside a
NaN (R228). -/
def sumTerms (f : Fmt) (rm : Rm) (ts : List Term) : Nat × Flags :=
  let pos := ts.any (· == .inf false)
  let neg := ts.any (· == .inf true)
  if pos && neg then (f.canon, fNV)
  else if ts.any (· == .nan) then (f.canon, 0)
  else
    if pos then (f.infinity false, 0)
    else if neg then (f.infinity true, 0)
    else
      let e := lowExp ts
      roundInt f rm (sumAt e ts) e (zeroSign rm ts)

/-! ### The operations of R228 on one element -/

def fAdd (f : Fmt) (rm : Rm) (a b : Nat) : Nat × Flags :=
  let x := f.decode a
  let y := f.decode b
  let r := sumTerms f rm [.ofVal x, .ofVal y]
  (r.1, r.2 ||| sigFlag x ||| sigFlag y)

def fSub (f : Fmt) (rm : Rm) (a b : Nat) : Nat × Flags :=
  let x := f.decode a
  let y := (f.decode b).negate
  let r := sumTerms f rm [.ofVal x, .ofVal y]
  (r.1, r.2 ||| sigFlag x ||| sigFlag y)

def fMul (f : Fmt) (rm : Rm) (a b : Nat) : Nat × Flags :=
  let x := f.decode a
  let y := f.decode b
  let (t, fl) := mulTerm x y
  match t with
  | .nan => (f.canon, fl ||| sigFlag x ||| sigFlag y)
  | .inf n => (f.infinity n, fl)
  | .fin n m e => if m = 0 then (f.zero n, fl) else roundMag f rm n m e false

/-- a × b + c and the fourth operand where it is a term (R221, R228). -/
def fFma (f : Fmt) (rm : Rm) (a b c : Nat) (fourth : Option Nat) : Nat × Flags :=
  let x := f.decode a
  let y := f.decode b
  let rest := (c :: fourth.toList).map f.decode
  let (t, fl) := mulTerm x y
  let r := sumTerms f rm (t :: rest.map .ofVal)
  (r.1, rest.foldl (fun acc v => acc ||| sigFlag v) (r.2 ||| fl ||| sigFlag x ||| sigFlag y))

/-- Whether a decoded value is less than another; −0 is smaller than +0 (R146). -/
def FVal.less (a b : FVal) : Bool :=
  match a, b with
  | .inf x, .inf y => x && !y
  | .inf x, .fin .. => x
  | .fin .., .inf y => !y
  | .fin x m e, .fin y m' e' =>
    let lo := min e e'
    let u : Int := (if x then -1 else 1) * (m * 2 ^ (e - lo).toNat : Nat)
    let v : Int := (if y then -1 else 1) * (m' * 2 ^ (e' - lo).toNat : Nat)
    decide (u < v) || (u == v && x && !y)
  | _, _ => false

/-- Minimum and maximum (R146). -/
def fMinMax (f : Fmt) (max : Bool) (a b : Nat) : Nat × Flags :=
  let x := f.decode a
  let y := f.decode b
  let fl := sigFlag x ||| sigFlag y
  match x, y with
  | .nan _, .nan _ => (f.canon, fl)
  | .nan _, _ => (b, fl)
  | _, .nan _ => (a, fl)
  | _, _ => (if x.less y != max then a else b, fl)

/-- The integer a magnitude rounds to, and whether it is inexact. -/
def toIntegral (rm : Rm) (neg : Bool) (m : Nat) (e : Int) : Nat × Bool := cutAt rm neg m e false 0

/-- Round to an integral value; neither NX nor UF (R228). -/
def fRnd (f : Fmt) (rm : Rm) (a : Nat) : Nat × Flags :=
  match f.decode a with
  | .nan s => (f.canon, sigFlag (.nan s))
  | .inf n => (f.infinity n, 0)
  | .fin n m e =>
    if 0 ≤ e then (a, 0)
    else
      let u := (toIntegral rm n m e).1
      if u = 0 then (f.zero n, 0) else ((roundMag f rm n u 0 false).1, 0)

/-- HDOT2: c plus two products, exact, rounded once to binary32 (R228). -/
def fDot2 (f : Fmt) (rm : Rm) (a0 b0 a1 b1 c : Nat) : Nat × Flags :=
  let xs := [f.decode a0, f.decode b0, f.decode a1, f.decode b1]
  let z := f32.decode c
  let (t0, g0) := mulTerm (f.decode a0) (f.decode b0)
  let (t1, g1) := mulTerm (f.decode a1) (f.decode b1)
  let r := sumTerms f32 rm [.ofVal z, t0, t1]
  (r.1, (z :: xs).foldl (fun acc v => acc ||| sigFlag v) (r.2 ||| g0 ||| g1))

/-- The quotient of two non-zero magnitudes, rounded once to a format. -/
def roundQuot (f : Fmt) (rm : Rm) (neg : Bool) (n d : Nat) (e : Int) : Nat × Flags :=
  let k := Nat.log2 d + f.prec + 4
  roundMag f rm neg (n * 2 ^ k / d) (e - k) (n * 2 ^ k % d != 0)

/-- A result of a special function: NX is set unless R229 lists the case as exact or special. -/
def special (r : Nat × Flags) : Nat × Flags := (r.1, r.2 ||| fNX)

/-- FRCP (R229). -/
def fRcp (rm : Rm) (a : Nat) : Nat × Flags :=
  match f32.decode a with
  | .nan s => (f32.canon, sigFlag (.nan s))
  | .inf n => (f32.zero n, 0)
  | .fin n m e => if m = 0 then (f32.infinity n, fDZ) else special (roundQuot f32 rm n 1 m (-e))

/-- The integer square root, bit by bit from 2^`i`. -/
def isqrtFrom (n : Nat) : Nat → Nat → Nat
  | 0, r => if (r + 1) * (r + 1) ≤ n then r + 1 else r
  | i + 1, r =>
    let t := r + 2 ^ (i + 1)
    isqrtFrom n i (if t * t ≤ n then t else r)

def isqrt (n : Nat) : Nat := isqrtFrom n (Nat.log2 n / 2 + 1) 0

/-- FSQRT (R229). -/
def fSqrt (rm : Rm) (a : Nat) : Nat × Flags :=
  match f32.decode a with
  | .nan s => (f32.canon, sigFlag (.nan s))
  | .inf true => (f32.canon, fNV)
  | .inf false => (f32.infinity false, 0)
  | .fin n m e =>
    if m = 0 then (f32.zero n, if n then 0 else fNX)
    else if n then (f32.canon, fNV)
    else
      let x := if e % 2 = 0 then m * 2 ^ 60 else m * 2 ^ 61
      let e' := if e % 2 = 0 then e - 60 else e - 61
      let r := isqrt x
      special (roundMag f32 rm false r (e' / 2) (r * r != x))

/-! ### Conversions (R148) -/

/-- Float to float: widening is exact, narrowing rounds once. -/
def cvtFloat (src dst : Fmt) (rm : Rm) (a : Nat) : Nat × Flags :=
  match src.decode a with
  | .nan s => (dst.canon, sigFlag (.nan s))
  | .inf n => (dst.infinity n, 0)
  | .fin n m e => if m = 0 then (dst.zero n, 0) else roundMag dst rm n m e false

/-- Integer to float. -/
def cvtFromInt (dst : Fmt) (rm : Rm) (x : Int) : Nat × Flags := roundInt dst rm x 0 false

/-- Float to integer in a range: the range is judged after rounding (R148). -/
def cvtToInt (src : Fmt) (rm : Rm) (lo hi : Int) (a : Nat) : Int × Flags :=
  match src.decode a with
  | .nan _ => (0, fNV)
  | .inf n => (if n then lo else hi, fNV)
  | .fin n m e =>
    let (u, inexact) := toIntegral rm n m e
    let v : Int := if n then -u else u
    if v < lo then (lo, fNV) else if hi < v then (hi, fNV) else (v, if inexact then fNX else 0)

/-! ### Compares (R224) -/

/-- FCMP's conditions, and NV. -/
def fCompare (cond : Nat) (a b : Nat) : Bool × Flags :=
  let x := f32.decode a
  let y := f32.decode b
  let isNan := fun (v : FVal) => match v with
    | .nan _ => true
    | _ => false
  let un := isNan x || isNan y
  let zero := fun (v : FVal) => match v with
    | .fin _ 0 _ => true
    | _ => false
  let eq := !un && (a == b || (zero x && zero y))
  let lt := !un && !(zero x && zero y) && x.less y
  let gt := !un && !(zero x && zero y) && y.less x
  let r := match cond with
    | 0 => eq
    | 1 => !eq
    | 2 => lt
    | 3 => lt || eq
    | 4 => gt
    | 5 => gt || eq
    | 6 => un
    | _ => !un
  let ordered := decide (2 ≤ cond ∧ cond ≤ 5)
  (r, if (ordered && un) then fNV else sigFlag x ||| sigFlag y)

end Sys2Proof.Machine
end

