-- ==== Sys2Proof/WellFormed.lean ====
section
/-!
DEFINITION. Sys2Proof/WellFormed.lean: which instructions have a legal encoding. Each check is a rule of the
instruction chapters; a word that fails one raises ILLEGAL (R4, R7, R177, R181, R185 to R190).
-/
namespace Sys2Proof

/-- The remote option is allowed only at DEVICE or SYSTEM scope (R91). -/
def remoteOk (rmt : Bool) (s : Scope) : Bool :=
  !rmt || s == .device || s == .system

/-- The element types of R185 by code. -/
abbrev tyI32 : BitVec 4 := 0
abbrev tyU32 : BitVec 4 := 1
abbrev tyF32 : BitVec 4 := 2
abbrev tyBf16 : BitVec 4 := 3
abbrev tyF16 : BitVec 4 := 4
abbrev tyI16 : BitVec 4 := 5
abbrev tyI8 : BitVec 4 := 6
abbrev tyU8 : BitVec 4 := 7
abbrev tyI64 : BitVec 4 := 8

/-- "int" of R222. -/
def tysInt : List (BitVec 4) := [tyI32, tyU32, tyI16, tyI8, tyU8]
/-- "int, i64" of R222. -/
def tysInt64 : List (BitVec 4) := [tyI32, tyU32, tyI16, tyI8, tyU8, tyI64]
/-- "ty 0-8" of R222. -/
def tysAll : List (BitVec 4) := [0, 1, 2, 3, 4, 5, 6, 7, 8]
/-- i32, u32 and the i64 pair. -/
def tysWide : List (BitVec 4) := [tyI32, tyU32, tyI64]

/-- A source operand that names a register of 32 bits (R186). -/
def Opnd.srcOk : Opnd → Bool
  | .xq => false
  | _ => true

/-- A pair needs a register above the one named (R142). DEDUCED for l1, log entry 11. -/
def Opnd.pairOk : Opnd → Bool
  | .v i => i != 2047
  | .o i => i != 7
  | .l i => i == 0
  | _ => true

/-- A source operand of a word of type `ty`, a pair in i64 (R142, R186). -/
def Opnd.srcTy (ty : BitVec 4) (o : Opnd) : Bool :=
  o.srcOk && (ty != tyI64 || o.pairOk)

/-- A destination operand of a word of type `ty` (R54, R186). -/
def Opnd.dstTy (ty : BitVec 4) (o : Opnd) : Bool :=
  match o with
  | .v _ | .o _ => ty != tyI64 || o.pairOk
  | .l i => i == 0
  | .dq _ => false
  | .xq | .zero => true

/-- An operand field that the word does not use is all zero: the code that would name v0 (R186). -/
abbrev Opnd.unused : Opnd := .v 0

/-- Operand b, or its immediate (R187). -/
def BSrc.srcTy (ty : BitVec 4) : BSrc → Bool
  | .op o => o.srcTy ty
  | .imm _ => true

/-- The immediate role's operand as one 32-bit register in every type (R233). -/
def BSrc.srcOk : BSrc → Bool
  | .op o => o.srcOk
  | .imm _ => true

/-- What a word allows of a prefix (R188, R189, R220, R221). -/
structure PfxRule where
  allowed : Bool
  rounds  : Bool
  fourth  : Bool
  deriving DecidableEq, Repr

/-- The prefix of a word obeys R189, and R220 where the destination is xq. -/
def LCtl.pfxOk (c : LCtl) (r : PfxRule) (d : Opnd) : Bool :=
  match c.pfx with
  | none => true
  | some p =>
    r.allowed && p.rnd.toNat ≤ 5 && (p.rnd == 0 || r.rounds)
      && (if r.fourth then p.e.srcTy c.ty else p.e == .unused) && d != .xq

/-- Majors 0x0, 0x1 and 0x8, and QPACK: a prefix, no rounding, no fourth operand. -/
abbrev PfxRule.plain : PfxRule := ⟨true, false, false⟩
/-- VMAD: a prefix with a fourth operand. -/
abbrev PfxRule.plus : PfxRule := ⟨true, false, true⟩
/-- Majors 0x2, 0x3, 0x4, CVT and QUNPK: they round by R147. -/
abbrev PfxRule.round : PfxRule := ⟨true, true, false⟩
/-- FFMA, HFMA2 and the four-element CVT: rounding and a fourth operand. -/
abbrev PfxRule.roundPlus : PfxRule := ⟨true, true, true⟩
/-- Majors 0x6, 0x7 and 0x9: no prefix. -/
abbrev PfxRule.no : PfxRule := ⟨false, false, false⟩

/-- A word with destination d and source a. -/
def wfUn (c : LCtl) (tys : List (BitVec 4)) (r : PfxRule) (d a : Opnd) : Bool :=
  tys.contains c.ty && c.pfxOk r d && d.dstTy c.ty && a.srcTy c.ty

/-- A word with destination d and sources a and b or its immediate. -/
def wfBin (c : LCtl) (tys : List (BitVec 4)) (r : PfxRule) (d a : Opnd) (b : BSrc) : Bool :=
  wfUn c tys r d a && b.srcTy c.ty

/-- A target predicate (R55): st0 to st3 are no targets. -/
def targetOk (t : PCode) : Bool := t.toNat < 12

/-- A compare's pair of targets (R55). -/
def pairTargets (pt pf : PCode) : Bool :=
  targetOk pt && targetOk pf && (pt != pf || pt == 0)

/-- A row of the conversion table of R230: source operands used, source elements to select from, and whether
x[6] may select saturation. -/
structure CvtRow where
  nsrc   : Nat
  nsel   : Nat
  narrow : Bool
  deriving DecidableEq, Repr

/-- The conversion table of R230, by source and destination type. -/
def cvtRow (src dst : BitVec 4) : Option CvtRow :=
  if src == tyF32 && (dst == tyBf16 || dst == tyF16) then some ⟨2, 1, false⟩
  else if (src == tyBf16 || src == tyF16) && dst == tyF32 then some ⟨1, 2, false⟩
  else if (src == tyBf16 && dst == tyF16) || (src == tyF16 && dst == tyBf16) then some ⟨1, 1, false⟩
  else if tysWide.contains src && dst == tyF32 then some ⟨1, 1, false⟩
  else if src == tyF32 && tysWide.contains dst then some ⟨1, 1, false⟩
  else if src == tyI16 && (dst == tyBf16 || dst == tyF16) then some ⟨1, 1, false⟩
  else if (src == tyBf16 || src == tyF16) && dst == tyI16 then some ⟨1, 1, false⟩
  else if (src == tyI32 || src == tyU32) && dst == tyI16 then some ⟨2, 1, true⟩
  else if (src == tyI32 || src == tyU32) && (dst == tyI8 || dst == tyU8) then some ⟨4, 1, true⟩
  else if src == tyI16 && dst == tyI32 then some ⟨1, 2, false⟩
  else if (src == tyI8 || src == tyU8) && dst == tyI32 then some ⟨1, 4, false⟩
  else if (src == tyI32 || src == tyU32) && dst == tyI64 then some ⟨1, 1, false⟩
  else if src == tyI64 && (dst == tyI32 || dst == tyU32) then some ⟨1, 1, true⟩
  else none

/-- CVT (R230): the pair of types is in the table, the select names an element of the source, x[6] only in a
narrowing row, unused operand fields zero. -/
def wfCvt (c : LCtl) (d a b cc : Opnd) (src : BitVec 4) (sel : BitVec 2) (sat : Bool) : Bool :=
  match cvtRow src c.ty with
  | none => false
  | some r =>
    sel.toNat < r.nsel && (r.narrow || !sat) && d.dstTy c.ty && a.srcTy src
      && (if r.nsrc ≥ 2 then b.srcOk else b == .unused)
      && (if r.nsrc = 4 then cc.srcOk else cc == .unused)
      && c.pfxOk (if r.nsrc = 4 then .roundPlus else .round) d

/-- The address fields of VLD and VST (R238): the orders listed, and no scope with the relaxed order. -/
def wfAddr (m : LAddr) (order : BitVec 2) : Bool :=
  (m.order == 0 && m.scope == .warp) || m.order == order

/-- The narrow sizes of VLD and VST (R238). -/
def wfSize (ty : BitVec 4) (size : BitVec 2) : Bool :=
  size == 0 || (size.toNat < 3 && (ty == tyI32 || ty == tyU32))

/-- The operations and types of VRED (R235). -/
def wfRed (ty : BitVec 4) (op : BitVec 3) : Bool :=
  op.toNat ≤ 5 && (tysWide.contains ty || (ty == tyF32 && op.toNat ≤ 2))

/-- A hypervector word: ty 0 and no prefix (R242). -/
def wfHv (c : LCtl) : Bool := c.ty == 0 && c.pfx == none

/-- An operand that names a main-file register (R242, file code 00). -/
def Opnd.isMain : Opnd → Bool
  | .v _ => true
  | _ => false

/-- Whether the instruction has a legal encoding. The part's own steps, which have none, are always
well-formed. -/
def Instr.wf : Instr → Bool
  | .lda _ _ _ s r | .stl _ _ _ s r => remoteOk r s
  | .atom _ _ _ _ _ r => !r
  | .atoma _ _ _ _ s r | .atoml _ _ _ _ s r | .atomal _ _ _ _ s r => remoteOk r s
  | .waitv _ _ _ _ s r => remoteOk r s
  | .dqld _ _ u z _ => z.toNat < 3 && !(u && z == 2)
  | .dqstrm _ _ _ u z _ => z.toNat < 3 && !(u && z == 2)
  | .mxa _ _ _ _ r a => a.toNat + r.toNat + 1 ≤ 32
  | .mxrd _ _ r _ a => a.toNat + r.toNat + 1 ≤ 32
  | .mxz r a => a.toNat + r.toNat + 1 ≤ 32
  | .vadd c d a b | .vsub c d a b | .vand c d a b | .vor c d a b | .vxor c d a b
  | .vshl c d a b | .vshr c d a b | .vsra c d a b | .vmin c d a b | .vmax c d a b =>
    wfBin c tysInt64 .plain d a b
  | .vmul c d a b => wfBin c [tyI32, tyU32, tyI16] .plain d a b
  | .vmulh c d a b => wfBin c [tyI32] .plain d a b
  | .vmulhu c d a b => wfBin c [tyU32] .plain d a b
  | .vmad c d a b cc => wfBin c [tyI32, tyU32, tyI16] .plus d a b && cc.srcTy c.ty
  | .vabs c d a | .vneg c d a => wfUn c [tyI32, tyI16, tyI8, tyI64] .plain d a
  | .vpopc c d a | .vclz c d a => wfUn c [tyI32, tyU32] .plain d a
  | .vsel c d a b _ => wfUn c tysAll .plain d a && b.srcTy c.ty
  | .vmov c d a => wfUn c tysAll .plain d a
  | .vli c d a hi _ =>
    c.ty.toNat ≤ 7 && c.pfxOk .plain d && d.dstTy c.ty && (if hi then a.srcOk else a == .unused)
  | .vsr c d sel => c.ty == tyI32 && c.pfxOk .plain d && d.dstTy c.ty && sel.toNat ≤ 5
  | .vaddsat c d a b => wfBin c tysInt .plain d a b
  | .vcmp c a b pt pf cond =>
    tysWide.contains c.ty && c.pfxOk .plain .zero && a.srcTy c.ty && b.srcTy c.ty
      && pairTargets pt pf && cond.toNat ≤ 5
  | .fcmp c a b pt pf _ =>
    c.ty == tyF32 && c.pfxOk .plain .zero && a.srcOk && b.srcOk && pairTargets pt pf
  | .pand c t _ _ | .por c t _ _ | .pxor c t _ _ | .pandn c t _ _ =>
    c.ty == 0 && c.pfxOk .plain .zero && targetOk t
  | .pfromv c t a => c.ty == 0 && c.pfxOk .plain .zero && targetOk t && a.srcOk
  | .vfromp c d _ form => c.ty == 0 && c.pfxOk .plain d && d.dstTy c.ty && form != 3
  | .xmrd c d => c.ty == 0 && c.pfxOk .plain d && d.dstTy c.ty
  | .xmwr c a p form =>
    c.ty == 0 && c.pfxOk .plain .zero && form != 3
      && (if form == 0 then p == 0 && a.srcOk else a == .unused)
  | .fadd c d a b | .fsub c d a b | .fmul c d a b | .fmin c d a b | .fmax c d a b =>
    wfUn c [tyF32] .round d a && b.srcOk
  | .ffma c d a b cc => wfUn c [tyF32] .roundPlus d a && b.srcOk && cc.srcOk
  | .frnd c d a => wfUn c [tyF32] .round d a
  | .hadd2 c d a b | .hsub2 c d a b | .hmul2 c d a b | .hmin2 c d a b | .hmax2 c d a b =>
    wfUn c [tyBf16, tyF16] .round d a && b.srcOk
  | .hfma2 c d a b cc => wfUn c [tyBf16, tyF16] .roundPlus d a && b.srcOk && cc.srcOk
  | .hdot2 c d a b cc => wfUn c [tyBf16, tyF16] .round d a && b.srcOk && cc.srcOk
  | .frcp c d a | .frsq c d a | .fsqrt c d a | .fexp2 c d a | .flog2 c d a | .fsin c d a | .fcos c d a
  | .ftanh c d a => wfUn c [tyF32] .round d a
  | .cvt c d a b cc src sel sat => wfCvt c d a b cc src sel sat
  | .qpack c d a b cc _ _ =>
    wfUn c [tyF32, tyBf16, tyF16, tyI32] .plain d a && cc.srcOk
      && (if c.ty == tyI32 then b == .unused else b.srcOk)
  | .qunpk c d a b _ _ =>
    wfUn c [tyF32, tyBf16, tyF16, tyI32] .round d a && (if c.ty == tyI32 then b == .unused else b.srcOk)
  | .shfl c d a b _ => wfUn c tysAll .no d a && b.srcOk
  | .vote c d _ kind toBq =>
    c.ty == 0 && c.pfxOk .no d && kind != 3
      && (if toBq then d == .unused && kind != 2 else d.dstTy c.ty)
  | .vred c d a op => wfRed c.ty op && c.pfxOk .no d && d.dstTy c.ty && a.srcTy c.ty
  | .vscan c d a op _ =>
    op.toNat ≤ 5 && tysWide.contains c.ty && c.pfxOk .no d && d.dstTy c.ty && a.srcTy c.ty
  | .vmovx c d a _ _ => wfUn c tysAll .no d a
  | .vld c d a m size _ =>
    tysAll.contains c.ty && c.pfxOk .no d && d.dstTy c.ty && a.srcOk && wfAddr m 1 && wfSize c.ty size
  | .vst c a cc m size _ =>
    tysAll.contains c.ty && c.pfxOk .no .zero && a.srcOk && cc.srcTy c.ty && wfAddr m 2 && wfSize c.ty size
  | .vatom c d a b cc _ op _ =>
    tysWide.contains c.ty && c.pfxOk .no d && d.dstTy c.ty && a.srcOk && cc.srcTy c.ty
      && (if op == .cas then b.srcTy c.ty else b == .unused)
  | .tidx c d a _ dim => c.ty == 0 && c.pfxOk .plain d && d.dstTy c.ty && a.srcOk && dim.toNat ≤ 4
  | .hfromv c a _ => wfHv c && a.isMain
  | .htov c d _ => wfHv c && d.isMain
  | .hld c a _ _ _ _ | .hst c a _ _ _ _ => wfHv c && a.srcOk
  | .hxor c _ _ _ | .hrot c _ _ _ | .hthr c _ _ _ | .hkclr c _ => wfHv c
  | .hbun c _ _ wt _ => wfHv c && wt != 0
  | .hdist c d _ _ => wfHv c && d.dstTy c.ty
  | .hnear c d a b _ => wfHv c && d.dstTy c.ty && a.srcOk && b.srcOk
  | .hput c b _ => wfHv c && b.srcOk
  | .add .. | .sub .. | .andR .. | .orR .. | .xorR .. | .shl .. | .shr .. | .sra .. | .mul .. | .mulh ..
  | .mulhu .. | .div .. | .divu .. | .rem .. | .remu .. | .min .. | .max .. | .minu .. | .maxu ..
  | .slt .. | .sltu .. | .seq .. | .sne .. | .addw .. | .clz .. | .popc ..
  | .addi .. | .andi .. | .ori .. | .xori .. | .shli .. | .shri .. | .srai .. | .slti .. | .sltui ..
  | .muli .. | .li .. | .lui .. | .luh ..
  | .ldb .. | .ldbu .. | .ldh .. | .ldhu .. | .ldw .. | .ldwu .. | .ldd .. | .stb .. | .sth .. | .stw ..
  | .std .. | .fence .. | .bz .. | .bnz .. | .bltz .. | .bgez .. | .call .. | .jr .. | .bqt .. | .bqf ..
  | .loop .. | .lgo .. | .lgor .. | .lwait | .dqpBroadcast .. | .dqpIota .. | .xqp .. | .srd .. | .swr ..
  | .regn | .cwait .. | .barSync .. | .barArrive .. | .barWait .. | .barExpect .. | .barInit .. | .yieldW
  | .cpyImmediate .. | .cpyRegister .. | .mxb .. | .qfence .. | .lnch .. | .hintsucc | .waitpred
  | .crew .. | .creww .. | .breakCrew | .goStroke | .srel | .regroup .. | .regroupTimeout ..
  | .qpush .. | .qpop .. | .qsteal .. | .ssld .. | .ssst .. | .ssnap .. | .ssroll .. | .ssfork ..
  | .ssdrop .. | .trap .. | .eretResume | .eretReplay | .exitWarp | .tlbiVa .. | .tlbiCtx ..
  | .tlbiSplit .. | .tlbiGpa .. | .nop
  | .laneBlockCompletion .. | .affineStreamPush .. | .launchQueueTailWrite .. | .launchRecordRead ..
  | .gangPlacement | .deviceLaunchPass .. | .lqstart .. | .blockExit .. | .gridCompletion ..
  | .strokeLaunch .. | .templateCopyIssue .. | .strokeRetire .. | .outSlotRelease .. | .strokeCommit ..
  | .engineCommandStart .. | .copyPieceLanding .. | .engineCommandCompletion .. | .releaseWave ..
  | .trapEntry .. | .faultResolution .. | .formatEmulation .. | .stallSwapOut .. | .waitingBlockSwap ..
  | .blockRestore .. | .blockRelaunch .. | .preemptionRequest .. | .preemptionSave .. | .contextReset ..
  | .qreset .. | .dlconsWrite .. | .writeBackScan .. | .classChange .. | .classChangeEffect ..
  | .controlInterval | .pursePeriod | .supplySag .. | .eccError .. | .selfTestCompletion ..
  | .peerTimeout .. | .powerOn | .redfishRequest .. | .getCertificate | .challenge .. | .getMeasurements
  | .registerWrite .. | .writeLands .. | .contextRelease .. | .contextReadmission ..
  | .railRecovers .. | .thermalBandChange .. | .peerPackageAccess .. => true

end Sys2Proof
end

