-- ==== Sys2Proof/Decode.lean ====
section
/-!
DEFINITION. Sys2Proof/Decode.lean: decoding of S-words (R176 to R180) and of L-words with their prefixes
(R183 to R189), total on any bits, refusing by name; then the encoder, and the byte order of both streams.
-/
namespace Sys2Proof

/-- Why bits are not an instruction. Each raises ILLEGAL when the word is to issue (R181, R190). -/
inductive DecodeError where
  /-- The opcode, fn, sub or minor is not assigned (R178, R179, R188). -/
  | unassigned
  /-- A field that the word does not use is not zero, or holds a reserved code (R4, R7, R177, R186). -/
  | reserved
  /-- The instruction's entry forbids this combination of fields (WellFormed). -/
  | illFormed
  /-- A prefix is followed by another prefix (R189). -/
  | doublePrefix
  /-- Fewer bytes than the word has. -/
  | short
  deriving DecidableEq, Repr

/-! ### Fields -/

/-- Bits `[lo+n-1:lo]` of a word. -/
abbrev fld {w : Nat} (x : BitVec w) (lo n : Nat) : BitVec n := x.extractLsb' lo n

/-- One bit of a word. -/
def bit {w : Nat} (x : BitVec w) (i : Nat) : Bool := x.getLsbD i

/-- Scope codes; 6 and 7 are reserved (R3, R4). -/
def Scope.ofCode (c : BitVec 3) : Option Scope :=
  match c.toNat with
  | 0 => some .warp | 1 => some .block | 2 => some .cluster
  | 3 => some .domain | 4 => some .device | 5 => some .system | _ => none

def Scope.code : Scope → BitVec 3
  | .warp => 0 | .block => 1 | .cluster => 2 | .domain => 3 | .device => 4 | .system => 5

/-- Atomic operation codes 0 to 7 (R180, R238). -/
def AtomOp.ofCode (c : BitVec 3) : AtomOp :=
  match c.toNat with
  | 0 => .swap | 1 => .add | 2 => .and | 3 => .or | 4 => .xor | 5 => .min | 6 => .max | _ => .cas

def AtomOp.code : AtomOp → BitVec 3
  | .swap => 0 | .add => 1 | .and => 2 | .or => 3 | .xor => 4 | .min => 5 | .max => 6 | .cas => 7

def FenceKind.ofCode (c : BitVec 2) : FenceKind :=
  match c.toNat with
  | 0 => .acquire | 1 => .release | 2 => .acqRel | _ => .seqCst

def FenceKind.code : FenceKind → BitVec 2
  | .acquire => 0 | .release => 1 | .acqRel => 2 | .seqCst => 3

/-- Condition codes of WAITV; 6 and 7 raise ILLEGAL (R262). -/
def WaitCond.ofCode (c : BitVec 3) : Option WaitCond :=
  match c.toNat with
  | 0 => some .eq | 1 => some .ne | 2 => some .ltu | 3 => some .geu | 4 => some .lt | 5 => some .ge
  | _ => none

def WaitCond.code : WaitCond → BitVec 3
  | .eq => 0 | .ne => 1 | .ltu => 2 | .geu => 3 | .lt => 4 | .ge => 5

/-- Operand codes (R186). -/
def Opnd.ofCode (c : BitVec 13) : Option Opnd :=
  let i : BitVec 11 := fld c 0 11
  match (fld c 11 2 : BitVec 2).toNat with
  | 0 => some (.v i)
  | 1 => if i.toNat < 8 then some (.o (fld c 0 3)) else none
  | 2 => if i.toNat < 2 then some (.l (fld c 0 1)) else none
  | _ =>
    if i.toNat < 4 then some (.dq (fld c 0 2))
    else if i = 8 then some .xq
    else if i = 16 then some .zero
    else none

def Opnd.code : Opnd → BitVec 13
  | .v i => 0#2 ++ i
  | .o i => 1#2 ++ (0#8 ++ i : BitVec 11)
  | .l i => 2#2 ++ (0#10 ++ i : BitVec 11)
  | .dq i => 3#2 ++ (0#9 ++ i : BitVec 11)
  | .xq => 0x1808
  | .zero => 0x1810

/-- Accept an instruction when its unused fields are zero (R177). -/
def need (ok : Bool) (i : Instr) : Except DecodeError Instr :=
  if ok then .ok i else .error .reserved

/-- Accept what a reserved code lets through. -/
def orReserved (i : Option Instr) : Except DecodeError Instr :=
  match i with
  | some j => .ok j
  | none => .error .reserved

/-! ### S-words -/

/-- The integer group, op 0x01 (R179). -/
def rawInt (d a b : SReg) (fn : BitVec 7) : Except DecodeError Instr :=
  match fn.toNat with
  | 0x00 => .ok (.add d a b)
  | 0x01 => .ok (.sub d a b)
  | 0x02 => .ok (.andR d a b)
  | 0x03 => .ok (.orR d a b)
  | 0x04 => .ok (.xorR d a b)
  | 0x05 => .ok (.shl d a b)
  | 0x06 => .ok (.shr d a b)
  | 0x07 => .ok (.sra d a b)
  | 0x08 => .ok (.mul d a b)
  | 0x09 => .ok (.mulh d a b)
  | 0x0a => .ok (.mulhu d a b)
  | 0x0b => .ok (.div d a b)
  | 0x0c => .ok (.divu d a b)
  | 0x0d => .ok (.rem d a b)
  | 0x0e => .ok (.remu d a b)
  | 0x0f => .ok (.min d a b)
  | 0x10 => .ok (.max d a b)
  | 0x11 => .ok (.minu d a b)
  | 0x12 => .ok (.maxu d a b)
  | 0x13 => .ok (.slt d a b)
  | 0x14 => .ok (.sltu d a b)
  | 0x15 => .ok (.seq d a b)
  | 0x16 => .ok (.sne d a b)
  | 0x17 => .ok (.addw d a b)
  | 0x18 => need (b == 0) (.clz d a)
  | 0x19 => need (b == 0) (.popc d a)
  | _ => .error .unassigned

/-- The opcode map of R178. `x` is the whole S-word. -/
def rawS (x : BitVec 32) : Except DecodeError Instr :=
  let d : SReg := fld x 19 6
  let a : SReg := fld x 13 6
  let b : SReg := fld x 7 6
  let fn : BitVec 7 := fld x 0 7
  let i13 : BitVec 13 := fld x 0 13
  let i19 : BitVec 19 := fld x 0 19
  let sc : Option Scope := Scope.ofCode (fld x 0 3)
  match (fld x 25 7 : BitVec 7).toNat with
  | 0x01 => rawInt d a b fn
  | 0x02 => .ok (.addi d a i13)
  | 0x03 => .ok (.andi d a i13)
  | 0x04 => .ok (.ori d a i13)
  | 0x05 => .ok (.xori d a i13)
  | 0x06 => need ((fld x 6 7 : BitVec 7) == 0) (.shli d a (fld x 0 6))
  | 0x07 => need ((fld x 6 7 : BitVec 7) == 0) (.shri d a (fld x 0 6))
  | 0x08 => need ((fld x 6 7 : BitVec 7) == 0) (.srai d a (fld x 0 6))
  | 0x09 => .ok (.slti d a i13)
  | 0x0a => .ok (.sltui d a i13)
  | 0x0b => .ok (.muli d a i13)
  | 0x0c => .ok (.li d i19)
  | 0x0d => .ok (.lui d i19)
  | 0x0e => .ok (.luh d i19)
  | 0x10 => .ok (.ldb d a i13)
  | 0x11 => .ok (.ldbu d a i13)
  | 0x12 => .ok (.ldh d a i13)
  | 0x13 => .ok (.ldhu d a i13)
  | 0x14 => .ok (.ldw d a i13)
  | 0x15 => .ok (.ldwu d a i13)
  | 0x16 => .ok (.ldd d a i13)
  | 0x18 => .ok (.stb d a i13)
  | 0x19 => .ok (.sth d a i13)
  | 0x1a => .ok (.stw d a i13)
  | 0x1b => .ok (.std d a i13)
  | 0x1c =>
    if (fld x 6 7 : BitVec 7) == 0 then
      orReserved ((Scope.ofCode (fld x 2 3)).map fun s => .lda d a (fld x 0 2) s (bit x 5))
    else .error .reserved
  | 0x1d =>
    if (fld x 6 7 : BitVec 7) == 0 then
      orReserved ((Scope.ofCode (fld x 2 3)).map fun s => .stl d a (fld x 0 2) s (bit x 5))
    else .error .reserved
  | 0x1e => orReserved (sc.map fun s => .atom d a b (AtomOp.ofCode (fld x 3 3)) s (bit x 6))
  | 0x1f => orReserved (sc.map fun s => .atoma d a b (AtomOp.ofCode (fld x 3 3)) s (bit x 6))
  | 0x20 => orReserved (sc.map fun s => .atoml d a b (AtomOp.ofCode (fld x 3 3)) s (bit x 6))
  | 0x21 => orReserved (sc.map fun s => .atomal d a b (AtomOp.ofCode (fld x 3 3)) s (bit x 6))
  | 0x22 =>
    if (fld x 7 18 : BitVec 18) == 0 && (fld x 5 2 : BitVec 2) == 0 then
      orReserved (sc.map fun s => .fence (FenceKind.ofCode (fld x 3 2)) s)
    else .error .reserved
  | 0x28 => .ok (.bz d i19)
  | 0x29 => .ok (.bnz d i19)
  | 0x2a => .ok (.bltz d i19)
  | 0x2b => .ok (.bgez d i19)
  | 0x2c => .ok (.call d i19)
  | 0x2d => .ok (.jr d a i13)
  | 0x2e => need (d == 0) (.bqt i19)
  | 0x2f => need (d == 0) (.bqf i19)
  | 0x30 => .ok (.loop d i19)
  | 0x31 => need (d == 0) (.lgo i19)
  | 0x32 => need (d == 0 && i13 == 0) (.lgor a)
  | 0x33 => need (d == 0 && i19 == 0) .lwait
  | 0x34 =>
    if (fld x 7 6 : BitVec 6) == 0 && (fld x 3 4 : BitVec 4) == 0 then
      if bit x 2 then .ok (.dqpIota d a (fld x 0 2))
      else need (a == 0) (.dqpBroadcast d (fld x 0 2))
    else .error .reserved
  | 0x35 => need (b == 0 && (fld x 5 2 : BitVec 2) == 0) (.dqld d a (bit x 4) (fld x 2 2) (fld x 0 2))
  | 0x36 => need ((fld x 5 2 : BitVec 2) == 0) (.dqstrm d a b (bit x 4) (fld x 2 2) (fld x 0 2))
  | 0x37 => need (i19 == 0) (.xqp d)
  | 0x38 => need (a == 0) (.srd d i13)
  | 0x39 => need (d == 0) (.swr a i13)
  | 0x3a => need (d == 0 && i19 == 0) .regn
  | 0x3b => need (b == 0 && (fld x 1 6 : BitVec 6) == 0) (.cwait d a (bit x 0))
  | 0x3c =>
    orReserved ((WaitCond.ofCode (fld x 3 3)).bind fun c => sc.map fun s => .waitv b d a c s (bit x 6))
  | 0x3d =>
    if (fld x 7 12 : BitVec 12) == 0 then
      match (fld x 4 3 : BitVec 3).toNat with
      | 0 => need (d == 0) (.barSync (fld x 0 4))
      | 1 => need (d == 0) (.barArrive (fld x 0 4))
      | 2 => need (d == 0) (.barWait (fld x 0 4))
      | 3 => .ok (.barExpect d (fld x 0 4))
      | 4 => .ok (.barInit d (fld x 0 4))
      | _ => .error .unassigned
    else .error .reserved
  | 0x3e => need (d == 0 && i19 == 0) .yieldW
  | 0x40 =>
    if bit x 6 then .ok (.cpyRegister d a b (fld x 0 6))
    else need (!bit x 12) (.cpyImmediate d a (bit x 11) (fld x 7 4) (fld x 0 6))
  | 0x41 => need ((fld x 10 3 : BitVec 3) == 0 && fn == 0) (.mxb d a (fld x 7 3))
  | 0x42 => .ok (.mxa d a (fld x 10 3) (fld x 7 3) (fld x 5 2) (fld x 0 5))
  | 0x43 => need ((fld x 5 2 : BitVec 2) == 0) (.mxrd d a (fld x 10 3) (fld x 7 3) (fld x 0 5))
  | 0x44 => need (d == 0 && a == 0 && (fld x 5 5 : BitVec 5) == 0) (.mxz (fld x 10 3) (fld x 0 5))
  | 0x45 => need ((fld x 4 21 : BitVec 21) == 0) (.qfence (fld x 0 4))
  | 0x46 => need (a == 0 && fn == 0) (.lnch b d)
  | 0x47 => need ((fld x 0 25 : BitVec 25) == 0) .hintsucc
  | 0x48 => need ((fld x 0 25 : BitVec 25) == 0) .waitpred
  | 0x50 => need (i13 == 0) (.crew d a)
  | 0x51 => need (d == 0 && a == 0 && fn == 0) (.creww b)
  | 0x52 => need ((fld x 0 25 : BitVec 25) == 0) .breakCrew
  | 0x53 => need ((fld x 0 25 : BitVec 25) == 0) .goStroke
  | 0x54 => need ((fld x 0 25 : BitVec 25) == 0) .srel
  | 0x55 => need (a == 0 && fn == 0) (.regroup b d)
  | 0x58 => need (fn == 0) (.qpush b d a)
  | 0x59 => need ((fld x 1 6 : BitVec 6) == 0) (.qpop b d a (bit x 0))
  | 0x5a => need (fn == 0) (.qsteal b d a)
  | 0x60 => .ok (.ssld d a b fn)
  | 0x61 => .ok (.ssst d a b fn)
  | 0x62 => need (fn == 0) (.ssnap d a b)
  | 0x63 => need (fn == 0) (.ssroll d a b)
  | 0x64 => need (fn == 0) (.ssfork d a b)
  | 0x65 => need (a == 0 && fn == 0) (.ssdrop d b)
  | 0x70 => need ((fld x 8 17 : BitVec 17) == 0 && bit x 7) (.trap (fld x 0 7))
  | 0x71 =>
    if (fld x 1 24 : BitVec 24) == 0 then .ok (if bit x 0 then .eretReplay else .eretResume)
    else .error .reserved
  | 0x72 => need ((fld x 0 25 : BitVec 25) == 0) .exitWarp
  | 0x73 =>
    if b == 0 then
      match fn.toNat with
      | 0 => .ok (.tlbiVa d a)
      | 1 => need (d == 0) (.tlbiCtx a)
      | 2 => .ok (.tlbiSplit d a)
      | 3 => .ok (.tlbiGpa d a)
      | _ => .error .unassigned
    else .error .reserved
  | 0x7f => need ((fld x 0 25 : BitVec 25) == 0) .nop
  | _ => .error .unassigned

/-- The instruction of an S-word, or why it is none. -/
def decodeS (x : BitVec 32) : Except DecodeError Instr :=
  match rawS x with
  | .error e => .error e
  | .ok i => if i.wf then .ok i else .error .illFormed

/-! ### L-words -/

/-- A prefix (R189): marker, mask, rounding, merge or zero, fourth operand, five zero bits. -/
def decodePrefix (u : BitVec 32) : Except DecodeError Prefix :=
  if (fld u 0 5 : BitVec 5) == 0 then
    match Opnd.ofCode (fld u 5 13) with
    | some e => .ok ⟨fld u 22 4, fld u 19 3, bit u 18, e⟩
    | none => .error .reserved
  else .error .reserved

/-- A unit whose top six bits are ones is a prefix (R189). -/
def isPrefix (u : BitVec 32) : Bool := (fld u 26 6 : BitVec 6) == 0x3f

/-- The operand and x fields of an L-word (R183). -/
structure LFields where
  op : BitVec 10
  d  : BitVec 13
  a  : BitVec 13
  b  : BitVec 13
  c  : BitVec 13
  x  : BitVec 22
  deriving DecidableEq, Repr

/-- The three units of an L-word as one 96-bit word, unit 0 the most significant (R183). -/
def lword (u0 u1 u2 : BitVec 32) : BitVec 96 := u0 ++ (u1 ++ u2 : BitVec 64)

/-- The fields of an L-word (R183). -/
def lfields (w : BitVec 96) : LFields where
  op := fld w 86 10
  d := fld w 61 13
  a := fld w 48 13
  b := fld w 35 13
  c := fld w 22 13
  x := fld w 0 22

/-- The control fields of an L-word under a prefix (R183, R184). -/
def lctl (w : BitVec 96) (p : Option Prefix) : LCtl where
  g := fld w 82 4
  w := fld w 79 3
  e := bit w 78
  ty := fld w 74 4
  pfx := p

/-- An operand field in use. -/
def useOp (c : BitVec 13) (k : Opnd → Except DecodeError Instr) : Except DecodeError Instr :=
  match Opnd.ofCode c with
  | some o => k o
  | none => .error .reserved

/-- Operand b or the immediate form (R187): x[21] selects it, b is then zero. `free` holds the x bits that
the entry assigns besides. -/
def useB (f : LFields) (free : BitVec 22) (k : BSrc → Except DecodeError Instr) : Except DecodeError Instr :=
  if bit f.x 21 then
    if f.b == 0 && f.x &&& ~~~(0x20FFFF#22 ||| free) == 0 then k (.imm (fld f.x 0 16)) else .error .reserved
  else if f.x &&& ~~~free == 0 then useOp f.b fun o => k (.op o) else .error .reserved

/-- Check that unused operand fields and x bits are zero. -/
def unusedZero (ok : Bool) (k : Except DecodeError Instr) : Except DecodeError Instr :=
  if ok then k else .error .reserved

/-- The address fields of VLD, VST and VATOM (R238). -/
def useAddr (x : BitVec 22) (k : LAddr → Except DecodeError Instr) : Except DecodeError Instr :=
  match Scope.ofCode (fld x 13 3) with
  | some s => k ⟨fld x 18 3, fld x 16 2, s, fld x 11 2⟩
  | none => .error .reserved

/-- A word with sources a and b (b with an immediate form) and destination d. -/
def rawBin (f : LFields) (mk : Opnd → Opnd → BSrc → Instr) : Except DecodeError Instr :=
  unusedZero (f.c == 0) <| useOp f.d fun d => useOp f.a fun a => useB f 0 fun b => .ok (mk d a b)

/-- A word with source a and destination d. -/
def rawUn (f : LFields) (mk : Opnd → Opnd → Instr) : Except DecodeError Instr :=
  unusedZero (f.b == 0 && f.c == 0 && f.x == 0) <|
    useOp f.d fun d => useOp f.a fun a => .ok (mk d a)

/-- A word with sources a and b, no immediate form, and destination d. -/
def rawBin' (f : LFields) (mk : Opnd → Opnd → Opnd → Instr) : Except DecodeError Instr :=
  unusedZero (f.c == 0 && f.x == 0) <|
    useOp f.d fun d => useOp f.a fun a => useOp f.b fun b => .ok (mk d a b)

/-- A word with sources a, b and c, no immediate form, and destination d. -/
def rawTri (f : LFields) (mk : Opnd → Opnd → Opnd → Opnd → Instr) : Except DecodeError Instr :=
  unusedZero (f.x == 0) <|
    useOp f.d fun d => useOp f.a fun a => useOp f.b fun b => useOp f.c fun c => .ok (mk d a b c)

/-- A predicate word: target x[3:0], sources x[7:4] and x[11:8]. -/
def rawPred (f : LFields) (mk : PCode → PCode → PCode → Instr) : Except DecodeError Instr :=
  need (f.d == 0 && f.a == 0 && f.b == 0 && f.c == 0 && (fld f.x 12 10 : BitVec 10) == 0)
    (mk (fld f.x 0 4) (fld f.x 4 4) (fld f.x 8 4))

/-- A compare: targets x[3:0] and x[7:4], condition x[10:8]. -/
def rawCmp (f : LFields) (mk : Opnd → Opnd → PCode → PCode → BitVec 3 → Instr) : Except DecodeError Instr :=
  unusedZero (f.d == 0 && f.c == 0 && (fld f.x 11 11 : BitVec 11) == 0) <|
    useOp f.a fun a => useOp f.b fun b => .ok (mk a b (fld f.x 0 4) (fld f.x 4 4) (fld f.x 8 3))

/-- No operand field in use, and no x bit outside `free`. -/
def onlyX (f : LFields) (free : BitVec 22) (i : Instr) : Except DecodeError Instr :=
  need (f.d == 0 && f.a == 0 && f.b == 0 && f.c == 0 && f.x &&& ~~~free == 0) i

/-- The opcode map of R188. -/
def rawL (c : LCtl) (f : LFields) : Except DecodeError Instr :=
  match f.op.toNat with
  | 0x000 => rawBin f fun d a b => .vadd c d a b
  | 0x001 => rawBin f fun d a b => .vsub c d a b
  | 0x002 => rawBin f fun d a b => .vmul c d a b
  | 0x003 => rawBin f fun d a b => .vmulh c d a b
  | 0x004 => rawBin f fun d a b => .vmulhu c d a b
  | 0x005 =>
    useOp f.d fun d => useOp f.a fun a => useOp f.c fun e => useB f 0 fun b => .ok (.vmad c d a b e)
  | 0x006 => rawBin f fun d a b => .vand c d a b
  | 0x007 => rawBin f fun d a b => .vor c d a b
  | 0x008 => rawBin f fun d a b => .vxor c d a b
  | 0x009 => rawBin f fun d a b => .vshl c d a b
  | 0x00a => rawBin f fun d a b => .vshr c d a b
  | 0x00b => rawBin f fun d a b => .vsra c d a b
  | 0x00c => rawBin f fun d a b => .vmin c d a b
  | 0x00d => rawBin f fun d a b => .vmax c d a b
  | 0x00e => rawUn f fun d a => .vabs c d a
  | 0x00f => rawUn f fun d a => .vneg c d a
  | 0x010 => rawUn f fun d a => .vpopc c d a
  | 0x011 => rawUn f fun d a => .vclz c d a
  | 0x012 =>
    unusedZero (f.c == 0 && f.x &&& ~~~0xF#22 == 0) <|
      useOp f.d fun d => useOp f.a fun a => useOp f.b fun b => .ok (.vsel c d a b (fld f.x 0 4))
  | 0x013 => rawUn f fun d a => .vmov c d a
  | 0x014 =>
    unusedZero (f.b == 0 && f.c == 0 && bit f.x 21 && (fld f.x 17 4 : BitVec 4) == 0) <|
      useOp f.d fun d => useOp f.a fun a => .ok (.vli c d a (bit f.x 16) (fld f.x 0 16))
  | 0x015 =>
    unusedZero (f.a == 0 && f.b == 0 && f.c == 0 && (fld f.x 3 19 : BitVec 19) == 0) <|
      useOp f.d fun d => .ok (.vsr c d (fld f.x 0 3))
  | 0x016 => rawBin f fun d a b => .vaddsat c d a b
  | 0x040 => rawCmp f fun a b t u k => .vcmp c a b t u k
  | 0x041 => rawCmp f fun a b t u k => .fcmp c a b t u k
  | 0x042 => rawPred f fun t p q => .pand c t p q
  | 0x043 => rawPred f fun t p q => .por c t p q
  | 0x044 => rawPred f fun t p q => .pxor c t p q
  | 0x045 => rawPred f fun t p q => .pandn c t p q
  | 0x046 =>
    unusedZero (f.d == 0 && f.b == 0 && f.c == 0 && (fld f.x 4 18 : BitVec 18) == 0) <|
      useOp f.a fun a => .ok (.pfromv c (fld f.x 0 4) a)
  | 0x047 =>
    unusedZero (f.a == 0 && f.b == 0 && f.c == 0 && (fld f.x 6 16 : BitVec 16) == 0) <|
      useOp f.d fun d => .ok (.vfromp c d (fld f.x 0 4) (fld f.x 4 2))
  | 0x048 =>
    unusedZero (f.a == 0 && f.b == 0 && f.c == 0 && f.x == 0) <| useOp f.d fun d => .ok (.xmrd c d)
  | 0x049 =>
    unusedZero (f.d == 0 && f.b == 0 && f.c == 0 && (fld f.x 6 16 : BitVec 16) == 0) <|
      useOp f.a fun a => .ok (.xmwr c a (fld f.x 0 4) (fld f.x 4 2))
  | 0x080 => rawBin' f fun d a b => .fadd c d a b
  | 0x081 => rawBin' f fun d a b => .fsub c d a b
  | 0x082 => rawBin' f fun d a b => .fmul c d a b
  | 0x083 => rawTri f fun d a b e => .ffma c d a b e
  | 0x084 => rawBin' f fun d a b => .fmin c d a b
  | 0x085 => rawBin' f fun d a b => .fmax c d a b
  | 0x086 => rawUn f fun d a => .frnd c d a
  | 0x0c0 => rawBin' f fun d a b => .hadd2 c d a b
  | 0x0c1 => rawBin' f fun d a b => .hsub2 c d a b
  | 0x0c2 => rawBin' f fun d a b => .hmul2 c d a b
  | 0x0c3 => rawTri f fun d a b e => .hfma2 c d a b e
  | 0x0c4 => rawBin' f fun d a b => .hmin2 c d a b
  | 0x0c5 => rawBin' f fun d a b => .hmax2 c d a b
  | 0x0c6 => rawTri f fun d a b e => .hdot2 c d a b e
  | 0x100 => rawUn f fun d a => .frcp c d a
  | 0x101 => rawUn f fun d a => .frsq c d a
  | 0x102 => rawUn f fun d a => .fsqrt c d a
  | 0x103 => rawUn f fun d a => .fexp2 c d a
  | 0x104 => rawUn f fun d a => .flog2 c d a
  | 0x105 => rawUn f fun d a => .fsin c d a
  | 0x106 => rawUn f fun d a => .fcos c d a
  | 0x107 => rawUn f fun d a => .ftanh c d a
  | 0x140 =>
    unusedZero (f.x &&& ~~~0x7F#22 == 0) <|
      useOp f.d fun d => useOp f.a fun a => useOp f.b fun b => useOp f.c fun e =>
        .ok (.cvt c d a b e (fld f.x 0 4) (fld f.x 4 2) (bit f.x 6))
  | 0x141 =>
    unusedZero (f.x &&& ~~~0xFF#22 == 0) <|
      useOp f.d fun d => useOp f.a fun a => useOp f.b fun b => useOp f.c fun e =>
        .ok (.qpack c d a b e (fld f.x 5 3) (fld f.x 0 5))
  | 0x142 =>
    unusedZero (f.c == 0 && f.x &&& ~~~0xFF#22 == 0) <|
      useOp f.d fun d => useOp f.a fun a => useOp f.b fun b =>
        .ok (.qunpk c d a b (fld f.x 5 3) (fld f.x 0 5))
  | 0x180 =>
    unusedZero (f.c == 0) <|
      useOp f.d fun d => useOp f.a fun a => useB f 0x180000 fun b => .ok (.shfl c d a b (fld f.x 19 2))
  | 0x181 =>
    unusedZero (f.a == 0 && f.b == 0 && f.c == 0 && f.x &&& ~~~0x7F#22 == 0) <|
      useOp f.d fun d => .ok (.vote c d (fld f.x 0 4) (fld f.x 4 2) (bit f.x 6))
  | 0x182 =>
    unusedZero (f.b == 0 && f.c == 0 && f.x &&& ~~~0x7#22 == 0) <|
      useOp f.d fun d => useOp f.a fun a => .ok (.vred c d a (fld f.x 0 3))
  | 0x183 =>
    unusedZero (f.b == 0 && f.c == 0 && f.x &&& ~~~0xF#22 == 0) <|
      useOp f.d fun d => useOp f.a fun a => .ok (.vscan c d a (fld f.x 0 3) (bit f.x 3))
  | 0x184 =>
    unusedZero (f.b == 0 && f.c == 0 && f.x &&& ~~~0x1F#22 == 0) <|
      useOp f.d fun d => useOp f.a fun a => .ok (.vmovx c d a (fld f.x 0 4) (bit f.x 4))
  | 0x1c0 =>
    unusedZero (f.b == 0 && f.c == 0 && !bit f.x 21) <|
      useOp f.d fun d => useOp f.a fun a => useAddr f.x fun m =>
        .ok (.vld c d a m (fld f.x 9 2) (fld f.x 0 9))
  | 0x1c1 =>
    unusedZero (f.d == 0 && f.b == 0 && !bit f.x 21) <|
      useOp f.a fun a => useOp f.c fun e => useAddr f.x fun m =>
        .ok (.vst c a e m (fld f.x 9 2) (fld f.x 0 9))
  | 0x1c2 =>
    unusedZero (!bit f.x 21) <|
      useOp f.d fun d => useOp f.a fun a => useOp f.b fun b => useOp f.c fun e => useAddr f.x fun m =>
        .ok (.vatom c d a b e m (AtomOp.ofCode (fld f.x 8 3)) (fld f.x 0 8))
  | 0x200 =>
    unusedZero (f.b == 0 && f.c == 0 && f.x &&& ~~~0x7FF#22 == 0) <|
      useOp f.d fun d => useOp f.a fun a => .ok (.tidx c d a (fld f.x 0 8) (fld f.x 8 3))
  | 0x240 =>
    unusedZero (f.d == 0 && f.b == 0 && f.c == 0 && f.x &&& ~~~0x7#22 == 0) <|
      useOp f.a fun a => .ok (.hfromv c a (fld f.x 0 3))
  | 0x241 =>
    unusedZero (f.a == 0 && f.b == 0 && f.c == 0 && f.x &&& ~~~0x38#22 == 0) <|
      useOp f.d fun d => .ok (.htov c d (fld f.x 3 3))
  | 0x242 =>
    unusedZero (f.d == 0 && f.b == 0 && f.c == 0 && !bit f.x 21) <|
      useOp f.a fun a => .ok (.hld c a (fld f.x 18 3) (fld f.x 16 2) (fld f.x 13 3) (fld f.x 0 13))
  | 0x243 =>
    unusedZero (f.d == 0 && f.b == 0 && f.c == 0 && !bit f.x 21) <|
      useOp f.a fun a => .ok (.hst c a (fld f.x 18 3) (fld f.x 16 2) (fld f.x 13 3) (fld f.x 0 13))
  | 0x244 => onlyX f 0x1FF (.hxor c (fld f.x 0 3) (fld f.x 3 3) (fld f.x 6 3))
  | 0x245 => onlyX f 0x1FFE3F (.hrot c (fld f.x 0 3) (fld f.x 3 3) (fld f.x 9 12))
  | 0x246 => onlyX f 0x3E38 (.hbun c (fld f.x 3 3) (fld f.x 9 1) (fld f.x 10 3) (bit f.x 13))
  | 0x247 => onlyX f 0x3C7 (.hthr c (fld f.x 0 3) (fld f.x 6 3) (fld f.x 9 1))
  | 0x248 => onlyX f 0x200 (.hkclr c (fld f.x 9 1))
  | 0x249 =>
    unusedZero (f.a == 0 && f.b == 0 && f.c == 0 && f.x &&& ~~~0x1F8#22 == 0) <|
      useOp f.d fun d => .ok (.hdist c d (fld f.x 3 3) (fld f.x 6 3))
  | 0x24a =>
    unusedZero (f.c == 0) <|
      useOp f.d fun d => useOp f.a fun a => useB f 0x070000 fun b => .ok (.hnear c d a b (fld f.x 16 3))
  | 0x24b =>
    unusedZero (f.d == 0 && f.a == 0 && f.c == 0) <|
      useB f 0x070000 fun b => .ok (.hput c b (fld f.x 16 3))
  | _ => .error .unassigned

/-- The instruction of an L-word under its prefix, or why it is none. -/
def decodeL (p : Option Prefix) (w : BitVec 96) : Except DecodeError Instr :=
  match rawL (lctl w p) (lfields w) with
  | .error e => .error e
  | .ok i => if i.wf then .ok i else .error .illFormed

/-! ### Bytes -/

/-- A little-endian 32-bit unit (R5). -/
def unitOf (b0 b1 b2 b3 : Byte) : BitVec 32 := b3 ++ (b2 ++ (b1 ++ b0 : BitVec 16) : BitVec 24)

/-- The instruction at the head of scalar code, and the bytes after it (R176). -/
def decodeScalar : List Byte → Except DecodeError (Instr × List Byte)
  | b0 :: b1 :: b2 :: b3 :: rest => (decodeS (unitOf b0 b1 b2 b3)).map (·, rest)
  | _ => .error .short

/-- The 32-bit units of a byte list. -/
def unitsOf : List Byte → List (BitVec 32)
  | b0 :: b1 :: b2 :: b3 :: rest => unitOf b0 b1 b2 b3 :: unitsOf rest
  | _ => []

/-- The lane word at the head of lane code with its prefix, and how many units it has (R183, R189). -/
def decodeLaneUnits : List (BitVec 32) → Except DecodeError (Instr × Nat)
  | u :: rest =>
    if isPrefix u then
      match rest with
      | u0 :: more =>
        if isPrefix u0 then .error .doublePrefix
        else match more with
          | u1 :: u2 :: _ =>
            match decodePrefix u with
            | .error e => .error e
            | .ok p => (decodeL (some p) (lword u0 u1 u2)).map (·, 4)
          | _ => .error .short
      | [] => .error .short
    else match rest with
      | u1 :: u2 :: _ => (decodeL none (lword u u1 u2)).map (·, 3)
      | _ => .error .short
  | [] => .error .short

/-- The bytes of a number, least significant first. -/
def bytesOfNat : Nat → Nat → List Byte
  | 0, _ => []
  | n + 1, w => BitVec.ofNat 8 w :: bytesOfNat n (w / 256)

/-- The instruction this decoder reads from the bits of `w`, numbered as the opcode table numbers them: an
S-word when the row has at most 32 bits, else a lane word, its first unit the lowest 32 bits. -/
def decodeTableWord (nbits w : Nat) : Option Instr :=
  if nbits ≤ 32 then
    match decodeScalar (bytesOfNat 4 w) with
    | .ok (i, _) => some i
    | .error _ => none
  else
    match decodeLaneUnits (unitsOf (bytesOfNat 16 w)) with
    | .ok (i, _) => some i
    | .error _ => none

/-! ### The encoder -/

/-- Format S.R, and S.E with fn as its sub field (R176). -/
def encR (op : BitVec 7) (d a b : SReg) (fn : BitVec 7) : BitVec 32 := op ++ (d ++ (a ++ (b ++ fn)))
/-- Format S.I (R176). -/
def encI (op : BitVec 7) (d a : SReg) (i : BitVec 13) : BitVec 32 := op ++ (d ++ (a ++ i))
/-- Formats S.U and S.B (R176). -/
def encU (op : BitVec 7) (d : SReg) (i : BitVec 19) : BitVec 32 := op ++ (d ++ i)

/-- One bit as a field. -/
def b1 (b : Bool) : BitVec 1 := BitVec.ofBool b

/-- The S-word of a scalar instruction (R176 to R180). -/
def encodeS : Instr → Option (BitVec 32)
  | .add d a b => some (encR 1 d a b 0x00)
  | .sub d a b => some (encR 1 d a b 0x01)
  | .andR d a b => some (encR 1 d a b 0x02)
  | .orR d a b => some (encR 1 d a b 0x03)
  | .xorR d a b => some (encR 1 d a b 0x04)
  | .shl d a b => some (encR 1 d a b 0x05)
  | .shr d a b => some (encR 1 d a b 0x06)
  | .sra d a b => some (encR 1 d a b 0x07)
  | .mul d a b => some (encR 1 d a b 0x08)
  | .mulh d a b => some (encR 1 d a b 0x09)
  | .mulhu d a b => some (encR 1 d a b 0x0a)
  | .div d a b => some (encR 1 d a b 0x0b)
  | .divu d a b => some (encR 1 d a b 0x0c)
  | .rem d a b => some (encR 1 d a b 0x0d)
  | .remu d a b => some (encR 1 d a b 0x0e)
  | .min d a b => some (encR 1 d a b 0x0f)
  | .max d a b => some (encR 1 d a b 0x10)
  | .minu d a b => some (encR 1 d a b 0x11)
  | .maxu d a b => some (encR 1 d a b 0x12)
  | .slt d a b => some (encR 1 d a b 0x13)
  | .sltu d a b => some (encR 1 d a b 0x14)
  | .seq d a b => some (encR 1 d a b 0x15)
  | .sne d a b => some (encR 1 d a b 0x16)
  | .addw d a b => some (encR 1 d a b 0x17)
  | .clz d a => some (encR 1 d a 0 0x18)
  | .popc d a => some (encR 1 d a 0 0x19)
  | .addi d a i => some (encI 0x02 d a i)
  | .andi d a i => some (encI 0x03 d a i)
  | .ori d a i => some (encI 0x04 d a i)
  | .xori d a i => some (encI 0x05 d a i)
  | .shli d a n => some (encI 0x06 d a (0#7 ++ n))
  | .shri d a n => some (encI 0x07 d a (0#7 ++ n))
  | .srai d a n => some (encI 0x08 d a (0#7 ++ n))
  | .slti d a i => some (encI 0x09 d a i)
  | .sltui d a i => some (encI 0x0a d a i)
  | .muli d a i => some (encI 0x0b d a i)
  | .li d i => some (encU 0x0c d i)
  | .lui d i => some (encU 0x0d d i)
  | .luh d i => some (encU 0x0e d i)
  | .ldb d a i => some (encI 0x10 d a i)
  | .ldbu d a i => some (encI 0x11 d a i)
  | .ldh d a i => some (encI 0x12 d a i)
  | .ldhu d a i => some (encI 0x13 d a i)
  | .ldw d a i => some (encI 0x14 d a i)
  | .ldwu d a i => some (encI 0x15 d a i)
  | .ldd d a i => some (encI 0x16 d a i)
  | .stb d a i => some (encI 0x18 d a i)
  | .sth d a i => some (encI 0x19 d a i)
  | .stw d a i => some (encI 0x1a d a i)
  | .std d a i => some (encI 0x1b d a i)
  | .lda d a z s r => some (encR 0x1c d a 0 (0#1 ++ (b1 r ++ (s.code ++ z))))
  | .stl d a z s r => some (encR 0x1d d a 0 (0#1 ++ (b1 r ++ (s.code ++ z))))
  | .atom d a b o s r => some (encR 0x1e d a b (b1 r ++ (o.code ++ s.code)))
  | .atoma d a b o s r => some (encR 0x1f d a b (b1 r ++ (o.code ++ s.code)))
  | .atoml d a b o s r => some (encR 0x20 d a b (b1 r ++ (o.code ++ s.code)))
  | .atomal d a b o s r => some (encR 0x21 d a b (b1 r ++ (o.code ++ s.code)))
  | .fence k s => some (encR 0x22 0 0 0 (0#2 ++ (k.code ++ s.code)))
  | .bz a i => some (encU 0x28 a i)
  | .bnz a i => some (encU 0x29 a i)
  | .bltz a i => some (encU 0x2a a i)
  | .bgez a i => some (encU 0x2b a i)
  | .call a i => some (encU 0x2c a i)
  | .jr d a i => some (encI 0x2d d a i)
  | .bqt i => some (encU 0x2e 0 i)
  | .bqf i => some (encU 0x2f 0 i)
  | .loop a i => some (encU 0x30 a i)
  | .lgo i => some (encU 0x31 0 i)
  | .lgor a => some (encI 0x32 0 a 0)
  | .lwait => some (encU 0x33 0 0)
  | .dqpBroadcast a q => some (encR 0x34 a 0 0 (0#5 ++ q))
  | .dqpIota a b q => some (encR 0x34 a b 0 (1#5 ++ q))
  | .dqld a b u z q => some (encR 0x35 a b 0 (0#2 ++ (b1 u ++ (z ++ q))))
  | .dqstrm a b k u z q => some (encR 0x36 a b k (0#2 ++ (b1 u ++ (z ++ q))))
  | .xqp d => some (encU 0x37 d 0)
  | .srd d i => some (encI 0x38 d 0 i)
  | .swr a i => some (encI 0x39 0 a i)
  | .regn => some (encU 0x3a 0 0)
  | .cwait a b y => some (encR 0x3b a b 0 (0#6 ++ b1 y))
  | .waitv k a b c s r => some (encR 0x3c a b k (b1 r ++ (c.code ++ s.code)))
  | .barSync b => some (encR 0x3d 0 0 0 (0#3 ++ b))
  | .barArrive b => some (encR 0x3d 0 0 0 (1#3 ++ b))
  | .barWait b => some (encR 0x3d 0 0 0 (2#3 ++ b))
  | .barExpect a b => some (encR 0x3d a 0 0 (3#3 ++ b))
  | .barInit a b => some (encR 0x3d a 0 0 (4#3 ++ b))
  | .yieldW => some (encU 0x3e 0 0)
  | .cpyImmediate a b e n s => some (encR 0x40 a b (0#1 ++ (b1 e ++ n)) (0#1 ++ s))
  | .cpyRegister a b k s => some (encR 0x40 a b k (1#1 ++ s))
  | .mxb a p f => some (encR 0x41 a p (0#3 ++ f) 0)
  | .mxa a p bs as r0 c => some (encR 0x42 a p (bs ++ as) (r0 ++ c))
  | .mxrd a b r0 g c => some (encR 0x43 a b (r0 ++ g) (0#2 ++ c))
  | .mxz r0 c => some (encR 0x44 0 0 (r0 ++ 0#3) (0#2 ++ c))
  | .qfence m => some (encR 0x45 0 0 0 (0#3 ++ m))
  | .lnch k a => some (encR 0x46 a 0 k 0)
  | .hintsucc => some (encU 0x47 0 0)
  | .waitpred => some (encU 0x48 0 0)
  | .crew a b => some (encR 0x50 a b 0 0)
  | .creww k => some (encR 0x51 0 0 k 0)
  | .breakCrew => some (encU 0x52 0 0)
  | .goStroke => some (encU 0x53 0 0)
  | .srel => some (encU 0x54 0 0)
  | .regroup k a => some (encR 0x55 a 0 k 0)
  | .qpush k a b => some (encR 0x58 a b k 0)
  | .qpop k a b u => some (encR 0x59 a b k (0#6 ++ b1 u))
  | .qsteal k a b => some (encR 0x5a a b k 0)
  | .ssld a b k n => some (encR 0x60 a b k n)
  | .ssst a b k n => some (encR 0x61 a b k n)
  | .ssnap a b k => some (encR 0x62 a b k 0)
  | .ssroll a b k => some (encR 0x63 a b k 0)
  | .ssfork a b k => some (encR 0x64 a b k 0)
  | .ssdrop a k => some (encR 0x65 a 0 k 0)
  | .trap n => some (encU 0x70 0 (0#11 ++ (1#1 ++ n)))
  | .eretResume => some (encU 0x71 0 0)
  | .eretReplay => some (encU 0x71 0 1)
  | .exitWarp => some (encU 0x72 0 0)
  | .tlbiVa a b => some (encR 0x73 a b 0 0)
  | .tlbiCtx b => some (encR 0x73 0 b 0 1)
  | .tlbiSplit a b => some (encR 0x73 a b 0 2)
  | .tlbiGpa a b => some (encR 0x73 a b 0 3)
  | .nop => some (encU 0x7f 0 0)
  | _ => none

/-- Operand b or the immediate: field b, and x[21] with x[15:0] (R187). -/
def BSrc.fields : BSrc → BitVec 13 × BitVec 22
  | .op o => (o.code, 0)
  | .imm i => (0, 0x200000#22 ||| (0#6 ++ i))

/-- The fields of a word with sources a and b or its immediate. -/
def encBin (op : BitVec 10) (d a : Opnd) (b : BSrc) (c : BitVec 13) (x : BitVec 22) : LFields :=
  ⟨op, d.code, a.code, b.fields.1, c, b.fields.2 ||| x⟩

/-- x of VLD and VST (R238). -/
def LAddr.x (m : LAddr) (size : BitVec 2) (off : BitVec 9) : BitVec 22 :=
  0#1 ++ (m.base ++ (m.scale ++ (m.scope.code ++ (m.order ++ (size ++ off)))))

/-- x of VATOM (R238). -/
def LAddr.xAtom (m : LAddr) (op : AtomOp) (off : BitVec 8) : BitVec 22 :=
  0#1 ++ (m.base ++ (m.scale ++ (m.scope.code ++ (m.order ++ (op.code ++ off)))))

/-- The control, operand and x fields of a lane instruction (R188 and the entries). -/
def encodeLFields : Instr → Option (LCtl × LFields)
  | .vadd c d a b => some (c, encBin 0x000 d a b 0 0)
  | .vsub c d a b => some (c, encBin 0x001 d a b 0 0)
  | .vmul c d a b => some (c, encBin 0x002 d a b 0 0)
  | .vmulh c d a b => some (c, encBin 0x003 d a b 0 0)
  | .vmulhu c d a b => some (c, encBin 0x004 d a b 0 0)
  | .vmad c d a b e => some (c, encBin 0x005 d a b e.code 0)
  | .vand c d a b => some (c, encBin 0x006 d a b 0 0)
  | .vor c d a b => some (c, encBin 0x007 d a b 0 0)
  | .vxor c d a b => some (c, encBin 0x008 d a b 0 0)
  | .vshl c d a b => some (c, encBin 0x009 d a b 0 0)
  | .vshr c d a b => some (c, encBin 0x00a d a b 0 0)
  | .vsra c d a b => some (c, encBin 0x00b d a b 0 0)
  | .vmin c d a b => some (c, encBin 0x00c d a b 0 0)
  | .vmax c d a b => some (c, encBin 0x00d d a b 0 0)
  | .vabs c d a => some (c, ⟨0x00e, d.code, a.code, 0, 0, 0⟩)
  | .vneg c d a => some (c, ⟨0x00f, d.code, a.code, 0, 0, 0⟩)
  | .vpopc c d a => some (c, ⟨0x010, d.code, a.code, 0, 0, 0⟩)
  | .vclz c d a => some (c, ⟨0x011, d.code, a.code, 0, 0, 0⟩)
  | .vsel c d a b p => some (c, ⟨0x012, d.code, a.code, b.code, 0, 0#18 ++ p⟩)
  | .vmov c d a => some (c, ⟨0x013, d.code, a.code, 0, 0, 0⟩)
  | .vli c d a hi i => some (c, ⟨0x014, d.code, a.code, 0, 0, 0x10#5 ++ (b1 hi ++ i)⟩)
  | .vsr c d s => some (c, ⟨0x015, d.code, 0, 0, 0, 0#19 ++ s⟩)
  | .vaddsat c d a b => some (c, encBin 0x016 d a b 0 0)
  | .vcmp c a b t u k => some (c, ⟨0x040, 0, a.code, b.code, 0, 0#11 ++ (k ++ (u ++ t))⟩)
  | .fcmp c a b t u k => some (c, ⟨0x041, 0, a.code, b.code, 0, 0#11 ++ (k ++ (u ++ t))⟩)
  | .pand c t p q => some (c, ⟨0x042, 0, 0, 0, 0, 0#10 ++ (q ++ (p ++ t))⟩)
  | .por c t p q => some (c, ⟨0x043, 0, 0, 0, 0, 0#10 ++ (q ++ (p ++ t))⟩)
  | .pxor c t p q => some (c, ⟨0x044, 0, 0, 0, 0, 0#10 ++ (q ++ (p ++ t))⟩)
  | .pandn c t p q => some (c, ⟨0x045, 0, 0, 0, 0, 0#10 ++ (q ++ (p ++ t))⟩)
  | .pfromv c t a => some (c, ⟨0x046, 0, a.code, 0, 0, 0#18 ++ t⟩)
  | .vfromp c d p f => some (c, ⟨0x047, d.code, 0, 0, 0, 0#16 ++ (f ++ p)⟩)
  | .xmrd c d => some (c, ⟨0x048, d.code, 0, 0, 0, 0⟩)
  | .xmwr c a p f => some (c, ⟨0x049, 0, a.code, 0, 0, 0#16 ++ (f ++ p)⟩)
  | .fadd c d a b => some (c, ⟨0x080, d.code, a.code, b.code, 0, 0⟩)
  | .fsub c d a b => some (c, ⟨0x081, d.code, a.code, b.code, 0, 0⟩)
  | .fmul c d a b => some (c, ⟨0x082, d.code, a.code, b.code, 0, 0⟩)
  | .ffma c d a b e => some (c, ⟨0x083, d.code, a.code, b.code, e.code, 0⟩)
  | .fmin c d a b => some (c, ⟨0x084, d.code, a.code, b.code, 0, 0⟩)
  | .fmax c d a b => some (c, ⟨0x085, d.code, a.code, b.code, 0, 0⟩)
  | .frnd c d a => some (c, ⟨0x086, d.code, a.code, 0, 0, 0⟩)
  | .hadd2 c d a b => some (c, ⟨0x0c0, d.code, a.code, b.code, 0, 0⟩)
  | .hsub2 c d a b => some (c, ⟨0x0c1, d.code, a.code, b.code, 0, 0⟩)
  | .hmul2 c d a b => some (c, ⟨0x0c2, d.code, a.code, b.code, 0, 0⟩)
  | .hfma2 c d a b e => some (c, ⟨0x0c3, d.code, a.code, b.code, e.code, 0⟩)
  | .hmin2 c d a b => some (c, ⟨0x0c4, d.code, a.code, b.code, 0, 0⟩)
  | .hmax2 c d a b => some (c, ⟨0x0c5, d.code, a.code, b.code, 0, 0⟩)
  | .hdot2 c d a b e => some (c, ⟨0x0c6, d.code, a.code, b.code, e.code, 0⟩)
  | .frcp c d a => some (c, ⟨0x100, d.code, a.code, 0, 0, 0⟩)
  | .frsq c d a => some (c, ⟨0x101, d.code, a.code, 0, 0, 0⟩)
  | .fsqrt c d a => some (c, ⟨0x102, d.code, a.code, 0, 0, 0⟩)
  | .fexp2 c d a => some (c, ⟨0x103, d.code, a.code, 0, 0, 0⟩)
  | .flog2 c d a => some (c, ⟨0x104, d.code, a.code, 0, 0, 0⟩)
  | .fsin c d a => some (c, ⟨0x105, d.code, a.code, 0, 0, 0⟩)
  | .fcos c d a => some (c, ⟨0x106, d.code, a.code, 0, 0, 0⟩)
  | .ftanh c d a => some (c, ⟨0x107, d.code, a.code, 0, 0, 0⟩)
  | .cvt c d a b e t s z =>
    some (c, ⟨0x140, d.code, a.code, b.code, e.code, 0#15 ++ (b1 z ++ (s ++ t))⟩)
  | .qpack c d a b e s p => some (c, ⟨0x141, d.code, a.code, b.code, e.code, 0#14 ++ (s ++ p)⟩)
  | .qunpk c d a b s p => some (c, ⟨0x142, d.code, a.code, b.code, 0, 0#14 ++ (s ++ p)⟩)
  | .shfl c d a b m => some (c, encBin 0x180 d a b 0 (0#1 ++ (m ++ 0#19)))
  | .vote c d p k q => some (c, ⟨0x181, d.code, 0, 0, 0, 0#15 ++ (b1 q ++ (k ++ p))⟩)
  | .vred c d a o => some (c, ⟨0x182, d.code, a.code, 0, 0, 0#19 ++ o⟩)
  | .vscan c d a o x => some (c, ⟨0x183, d.code, a.code, 0, 0, 0#18 ++ (b1 x ++ o)⟩)
  | .vmovx c d a p x => some (c, ⟨0x184, d.code, a.code, 0, 0, 0#17 ++ (b1 x ++ p)⟩)
  | .vld c d a m z o => some (c, ⟨0x1c0, d.code, a.code, 0, 0, m.x z o⟩)
  | .vst c a e m z o => some (c, ⟨0x1c1, 0, a.code, 0, e.code, m.x z o⟩)
  | .vatom c d a b e m p o => some (c, ⟨0x1c2, d.code, a.code, b.code, e.code, m.xAtom p o⟩)
  | .tidx c d a s n => some (c, ⟨0x200, d.code, a.code, 0, 0, 0#11 ++ (n ++ s)⟩)
  | .hfromv c a h => some (c, ⟨0x240, 0, a.code, 0, 0, 0#19 ++ h⟩)
  | .htov c d h => some (c, ⟨0x241, d.code, 0, 0, 0, 0#16 ++ (h ++ 0#3)⟩)
  | .hld c a n s h o => some (c, ⟨0x242, 0, a.code, 0, 0, 0#1 ++ (n ++ (s ++ (h ++ o)))⟩)
  | .hst c a n s h o => some (c, ⟨0x243, 0, a.code, 0, 0, 0#1 ++ (n ++ (s ++ (h ++ o)))⟩)
  | .hxor c d a b => some (c, ⟨0x244, 0, 0, 0, 0, 0#13 ++ (b ++ (a ++ d))⟩)
  | .hrot c d a n => some (c, ⟨0x245, 0, 0, 0, 0, 0#1 ++ (n ++ (0#3 ++ (a ++ d)))⟩)
  | .hbun c a k w n => some (c, ⟨0x246, 0, 0, 0, 0, 0#8 ++ (b1 n ++ (w ++ (k ++ (0#3 ++ (a ++ 0#3)))))⟩)
  | .hthr c d t k => some (c, ⟨0x247, 0, 0, 0, 0, 0#12 ++ (k ++ (t ++ (0#3 ++ d)))⟩)
  | .hkclr c k => some (c, ⟨0x248, 0, 0, 0, 0, 0#12 ++ (k ++ 0#9)⟩)
  | .hdist c d a b => some (c, ⟨0x249, d.code, 0, 0, 0, 0#13 ++ (b ++ (a ++ 0#3))⟩)
  | .hnear c d a b h => some (c, encBin 0x24a d a b 0 (0#3 ++ (h ++ 0#16)))
  | .hput c b h => some (c, ⟨0x24b, 0, 0, b.fields.1, 0, b.fields.2 ||| (0#3 ++ (h ++ 0#16))⟩)
  | _ => none

/-- The 96 bits of an L-word from its fields (R183). -/
def packL (c : LCtl) (f : LFields) : BitVec 96 :=
  f.op ++ (c.g ++ (c.w ++ (b1 c.e ++ (c.ty ++ (f.d ++ (f.a ++ (f.b ++ (f.c ++ f.x))))))))

/-- The unit of a prefix (R189). -/
def encPrefix (p : Prefix) : BitVec 32 :=
  0x3f#6 ++ (p.mask ++ (p.rnd ++ (b1 p.zero ++ (p.e.code ++ 0#5))))

/-- The units of an L-word, after its prefix where it has one (R183, R189). -/
def encodeL (c : LCtl) (f : LFields) : List (BitVec 32) :=
  let w := packL c f
  let us := [fld w 64 32, fld w 32 32, fld w 0 32]
  match c.pfx with
  | some p => encPrefix p :: us
  | none => us

/-- The 32-bit units of an instruction, in the order of their addresses; none for the part's own steps. -/
def encode (i : Instr) : Option (List (BitVec 32)) :=
  match encodeS i with
  | some w => some [w]
  | none => (encodeLFields i).map fun cf => encodeL cf.1 cf.2

/-- Decode the units of one instruction: a scalar word is one unit, a lane word three or four. -/
def decodeUnits : List (BitVec 32) → Except DecodeError Instr
  | [u] => decodeS u
  | us => (decodeLaneUnits us).map (·.1)

end Sys2Proof
end

