-- ==== Sys2Proof/Machine/Table.lean ====
section
/-!
DEFINITION. Sys2Proof/Machine/Table.lean: sparse tables. A key that is not listed holds the default value.
`set` keeps a listed key at any value; `put` lists no key at the default, so that a table of bytes, words or
registers has one form only.
-/
namespace Sys2Proof.Tbl

/-- The value at a key. -/
def get {α : Type} (d : α) : Tbl α → Nat → α
  | [], _ => d
  | (j, x) :: r, k => if j < k then get d r k else if j = k then x else d

/-- Set a key, listing it whatever the value. -/
def set {α : Type} : Tbl α → Nat → α → Tbl α
  | [], k, x => [(k, x)]
  | (j, y) :: r, k, x =>
    if j < k then (j, y) :: set r k x
    else if j = k then (k, x) :: r
    else (k, x) :: (j, y) :: r

/-- Set a key, listing it only when the value is not the default. -/
def put {α : Type} [DecidableEq α] (d : α) : Tbl α → Nat → α → Tbl α
  | [], k, x => if x = d then [] else [(k, x)]
  | (j, y) :: r, k, x =>
    if j < k then (j, y) :: put d r k x
    else if j = k then
      if x = d then r.dropWhile (fun e => decide (e.1 ≤ k)) else (k, x) :: r
    else if x = d then (j, y) :: r
    else (k, x) :: (j, y) :: r

/-- Keys strictly rising from above `lo`, and no value at the default. -/
def wfFrom {α : Type} [DecidableEq α] (d : α) : Option Nat → Tbl α → Bool
  | _, [] => true
  | lo, (k, x) :: r =>
    (match lo with
      | none => true
      | some l => decide (l < k)) && decide (x ≠ d) && wfFrom d (some k) r

/-- The canonical form of a table (of memory: R65's bytes). -/
def wf {α : Type} [DecidableEq α] (d : α) (t : Tbl α) : Bool := wfFrom d none t

/-- Write values at consecutive keys. -/
def putAll {α : Type} [DecidableEq α] (d : α) (t : Tbl α) (k : Nat) : List α → Tbl α
  | [] => t
  | x :: xs => putAll d (put d t k x) (k + 1) xs

/-- The values at `n` consecutive keys. -/
def range {α : Type} (d : α) (t : Tbl α) (k : Nat) : Nat → List α
  | 0 => []
  | n + 1 => get d t k :: range d t (k + 1) n

end Sys2Proof.Tbl
end

