-- ==== Sys2Proof/Machine/Phys.lean ====
section
/-!
DEFINITION. Sys2Proof/Machine/Phys.lean: the tables of State under their keys, lane vectors, physical memory
as bytes, and little-endian values (R5, R65).
-/
namespace Sys2Proof.Machine

/-! ### Bytes and values -/

/-- A little-endian value of a byte list (R5). -/
def leNat : List Byte → Nat
  | [] => 0
  | b :: r => b.toNat + 256 * leNat r

/-- The low `n` bytes of a value, least significant first (R5). -/
def leBytes : Nat → Nat → List Byte
  | 0, _ => []
  | n + 1, v => BitVec.ofNat 8 v :: leBytes n (v / 256)

/-- Bytes `[off, off+n)` of a record. -/
def fieldBytes (r : List Byte) (off n : Nat) : List Byte := (r.drop off).take n

/-- A little-endian field of a record. -/
def fieldNat (r : List Byte) (off n : Nat) : Nat := leNat (fieldBytes r off n)

/-- An 8-byte field of a record as a word. -/
def fieldWord (r : List Byte) (off : Nat) : Word := BitVec.ofNat 64 (fieldNat r off 8)

/-- Whether bytes `[off, off+n)` of a record are zero. -/
def zeroBytes (r : List Byte) (off n : Nat) : Bool := (fieldBytes r off n).all (· == 0)

/-- Insert a number into a rising list. -/
def insertAsc (x : Nat) : List Nat → List Nat
  | [] => [x]
  | y :: r => if x ≤ y then x :: y :: r else y :: insertAsc x r

/-- Insert a keyed item behind those of a key not above its own, and sort by rising key. -/
def insertKey {α : Type} (k : Nat) (x : α) : List (Nat × α) → List (Nat × α)
  | [] => [(k, x)]
  | (j, y) :: r => if j ≤ k then (j, y) :: insertKey k x r else (k, x) :: (j, y) :: r

def sortByKey {α : Type} (f : α → Nat) (xs : List α) : List α :=
  (xs.foldl (fun acc x => insertKey (f x) x acc) []).map (·.2)

/-! ### Lanes -/

/-- A lane's number. -/
abbrev LaneIx := Fin 32

/-- A vector register from its lanes. -/
def mkLanes (f : LaneIx → Lane) : Lanes := Vector.ofFn f

/-- Lane `i` of a vector register. -/
def lane (v : Lanes) (i : LaneIx) : Lane := v[i.val]

/-- Whether lane `i` is in a mask. -/
def inMask (m : Mask) (i : LaneIx) : Bool := m.getLsbD i.val

/-- The lanes a test holds for, as a mask. -/
def mkMask (f : LaneIx → Bool) : Mask :=
  (List.finRange 32).foldl (fun acc i => if f i then acc ||| (1#32 <<< i.val) else acc) 0#32

/-- The lanes of a mask in ascending order. -/
def maskLanes (m : Mask) : List LaneIx := (List.finRange 32).filter fun i => inMask m i

/-- `x` in the lanes of `m`, `y` elsewhere. -/
def blend (m : Mask) (x y : Lanes) : Lanes := mkLanes fun i => if inMask m i then lane x i else lane y i

/-! ### The tables of State -/

namespace State

def warpAt (s : State) (k : Nat) : Warp := Tbl.get Warp.absent s.warps k
def setWarp (s : State) (k : Nat) (w : Warp) : State := { s with warps := Tbl.set s.warps k w }
def blockAt (s : State) (k : Nat) : Block := Tbl.get Block.absent s.blocks k
def setBlock (s : State) (k : Nat) (b : Block) : State := { s with blocks := Tbl.set s.blocks k b }
def crewAt (s : State) (k : Nat) : Crew := Tbl.get Crew.absent s.crews k
def setCrew (s : State) (k : Nat) (c : Crew) : State := { s with crews := Tbl.set s.crews k c }
def coreAt (s : State) (k : Nat) : Core := Tbl.get Core.reset s.cores k
def setCore (s : State) (k : Nat) (c : Core) : State := { s with cores := Tbl.set s.cores k c }
def clusterAt (s : State) (k : Nat) : Cluster := Tbl.get Cluster.reset s.clusters k
def setCluster (s : State) (k : Nat) (c : Cluster) : State := { s with clusters := Tbl.set s.clusters k c }
def domainAt (s : State) (k : Nat) : Domain := Tbl.get Domain.reset s.domains k
def setDomain (s : State) (k : Nat) (d : Domain) : State := { s with domains := Tbl.set s.domains k d }
def ctxAt (s : State) (k : Nat) : Ctx := Tbl.get Ctx.absent s.ctxs k
def setCtx (s : State) (k : Nat) (c : Ctx) : State := { s with ctxs := Tbl.set s.ctxs k c }
def fnAt (s : State) (k : Nat) : Fn := Tbl.get Fn.reset s.fns k
def setFn (s : State) (k : Nat) (f : Fn) : State := { s with fns := Tbl.set s.fns k f }

/-- The acting warp. -/
def me (s : State) : Warp := s.warpAt s.cur
def setMe (s : State) (w : Warp) : State := s.setWarp s.cur w

/-- Add an entry to a context's error log (R130). -/
def log (s : State) (ctx : Nat) (e : LogEntry) : State :=
  s.setCtx ctx { s.ctxAt ctx with errs := (s.ctxAt ctx).errs ++ [e] }

end State

/-- The core, cluster and domain of a warp by its number (R1, R57). -/
def coreOf (w : Nat) : Nat := w / 64
def clusterOf (core : Nat) : Nat := core / 8
def domainOf (core : Nat) : Nat := core / 32
/-- The core of a block by its number. -/
def blockCore (b : Nat) : Nat := b / 8

/-- No grid. -/
def Grid.absent : Grid where
  src := .queue 0
  ctx := 0
  addr := 0
  record := ⟨0, 0, 0, 0, 0, 0, 0, 0, 0, 0, 0, 0, 0, 0, Vector.replicate 8 0, []⟩
  next := 0
  exited := 0
  hints := []
  born := 0
  code := []
  fresh := []
  done := true

namespace State

def gridAt (s : State) (g : Nat) : Grid := s.grids.getD g Grid.absent
def setGrid (s : State) (g : Nat) (x : Grid) : State := { s with grids := s.grids.set g x }
/-- The grid of a block. -/
def gridOf (s : State) (b : Nat) : Grid := s.gridAt (s.blockAt b).grid
/-- The acting warp's block, grid and context. -/
def myBlock (s : State) : Block := s.blockAt s.me.block
def myGrid (s : State) : Grid := s.gridOf s.me.block
def myCtx (s : State) : Nat := s.myGrid.ctx

end State

/-! ### Physical memory -/

/-- What a byte of memory that nothing has written reads as. DESIGN CHOICE, unsafe, log entry 1. -/
def emptyByte : Byte := 0

/-- The canonical form of memory: addresses strictly rising, no entry at `emptyByte`. -/
def Memory.wf (m : Tbl Byte) : Bool := Tbl.wf emptyByte m

/-- A byte of physical memory. -/
def readPhys (m : Tbl Byte) (pa : Nat) : Byte := Tbl.get emptyByte m pa
def writePhys (m : Tbl Byte) (pa : Nat) (b : Byte) : Tbl Byte := Tbl.put emptyByte m pa b

/-- Bytes of physical memory from an address. -/
def readBytes (m : Tbl Byte) (pa n : Nat) : List Byte := Tbl.range emptyByte m pa n
def writeBytes (m : Tbl Byte) (pa : Nat) (bs : List Byte) : Tbl Byte := Tbl.putAll emptyByte m pa bs

/-- The 8-byte entry at a physical address (R76, R127). -/
def readEntry (m : Tbl Byte) (pa : Nat) : Word := BitVec.ofNat 64 (leNat (readBytes m pa 8))

/-- The parts of the physical space (R65). -/
inductive PaRange where
  | stack (n : Nat) | host | peer | io | unassigned
  deriving DecidableEq, Repr

/-- Which part of the physical space an address lies in (R65). -/
def paRange (pa : Nat) : PaRange :=
  if pa < 0xC0_0000_0000 then .stack (pa / 0x10_0000_0000)
  else match pa / 0x1_0000_0000_0000 with
    | 8 => .host
    | 9 => .peer
    | 15 => .io
    | _ => .unassigned

end Sys2Proof.Machine
end

