-- ==== Sys2Proof/Machine/Translate.lean ====
section
/-!
DEFINITION. Sys2Proof/Machine/Translate.lean: causes and their priority (R162), address classes (R63),
page-table entries (R127), the walk in one and two stages (R72, R74), TLBs (R75) and scratchpad windows (R64).
-/
namespace Sys2Proof.Machine

/-! ### Causes (R162) -/

abbrev Cause := BitVec 8
abbrev cILLEGAL : Cause := 0x01
abbrev cPRIV : Cause := 0x02
abbrev cMISALIGN : Cause := 0x03
abbrev cPAGE : Cause := 0x04
abbrev cPROT : Cause := 0x05
abbrev cQUOTA : Cause := 0x06
abbrev cECC_SCRATCH : Cause := 0x07
abbrev cECC_REG : Cause := 0x08
abbrev cWINDOW : Cause := 0x09
abbrev cSTALL_SHORT : Cause := 0x0A
abbrev cFMT_ABSENT : Cause := 0x0B
abbrev cFMT_STRICT : Cause := 0x0C
abbrev cQUEUE_RIGHTS : Cause := 0x0D
abbrev cENGINE : Cause := 0x0F

/-- The place of a cause in the table of R162; the lowest is reported. -/
def priority (c : Cause) : Nat :=
  match c.toNat with
  | 0x08 => 1 | 0x07 => 2 | 0x01 => 3 | 0x02 => 4 | 0x09 => 5 | 0x03 => 6 | 0x05 => 7 | 0x04 => 8
  | 0x06 => 9 | 0x0D => 10 | 0x0F => 11 | 0x0B => 12 | 0x0C => 13 | 0x0A => 14 | _ => 15

/-- A cause raised at a word: the faulting address (0 where none applies), the lanes that raised it, and
whether the second stage of a translation raised it (R74). -/
structure Raise where
  cause  : Cause
  addr   : Word
  lanes  : Mask
  second : Bool
  deriving DecidableEq, Repr

/-- A cause without an address. -/
def Raise.plain (c : Cause) : Raise := ⟨c, 0, 0, false⟩
/-- A cause at an address. -/
def Raise.at (c : Cause) (a : Word) : Raise := ⟨c, a, 0, false⟩

/-! ### Address classes (R63) -/

/-- The class of an address. -/
inductive AddrClass where
  | translated
  | own (off : Nat)
  | peer (n off : Nat)
  | nonCanonical
  deriving DecidableEq, Repr

/-- R63, by bits [63:55] and the bits a window requires to be zero. -/
def addrClass (a : Word) : AddrClass :=
  let top : BitVec 8 := a.extractLsb' 56 8
  if (top = 0x00 ∧ a.getLsbD 55 = false) ∨ (top = 0xFF ∧ a.getLsbD 55 = true) then .translated
  else if top = 0xFE ∧ (a.extractLsb' 19 37 : BitVec 37) = 0 then
    .own (a.extractLsb' 0 19 : BitVec 19).toNat
  else if top = 0xFD ∧ (a.extractLsb' 22 34 : BitVec 34) = 0 then
    .peer (a.extractLsb' 19 3 : BitVec 3).toNat (a.extractLsb' 0 19 : BitVec 19).toNat
  else .nonCanonical

/-! ### Page-table entries and the walk -/

/-- What an access does at its address. -/
inductive Acc where
  | read | write | rw | fetch
  deriving DecidableEq, Repr

/-- What a walk meets in place of a leaf: an invalid entry of the first or of the second stage, or an
ill-formed or unreadable entry with its address. -/
inductive WalkErr where
  | page
  | page2
  | prot (entry : Option Nat)
  deriving DecidableEq, Repr

/-- Next table or leaf base, bits [51:14] (R127). -/
def pteAddr (e : Word) : Nat := (e.extractLsb' 14 38 : BitVec 38).toNat * 16384

/-- Levels with the lowest bit of their index; a leaf's offset lies below it (R72). -/
def walkLevels : List (Nat × Nat) := [(0, 47), (1, 36), (2, 25), (3, 14)]

/-- The index of an address at a level (R72). -/
def walkIndex (va shift : Nat) : Nat := if shift = 47 then va / 2 ^ 47 % 512 else va / 2 ^ shift % 2048

/-- Whether a valid entry is well-formed at its level (R127). A pointer at level 3 names no table; DEDUCED
ill-formed (log entry 12). -/
def pteOk (level shift : Nat) (e : Word) : Bool :=
  (e.extractLsb' 10 4 : BitVec 4) == 0 && (e.extractLsb' 52 4 : BitVec 4) == 0 &&
  if e.getLsbD 1 then
    level != 0 && (e.extractLsb' 8 2 : BitVec 2) != 3 && pteAddr e % 2 ^ shift == 0
  else level != 3 && (e.extractLsb' 2 8 : BitVec 8) == 0

/-- The permissions in an entry (R127). -/
def ptePerm (e : Word) : Perm := ⟨e.getLsbD 2, e.getLsbD 3, e.getLsbD 4, e.getLsbD 5⟩

/-- Permissions that refuse nothing: the second stage of a one-stage translation. -/
def Perm.all : Perm := ⟨true, true, true, true⟩

/-- The leaf an entry gives. -/
def pteLeaf (pte shift : Nat) (e : Word) : Leaf where
  pa := pteAddr e
  bits := shift
  perm := ptePerm e
  perm2 := Perm.all
  attr := e.extractLsb' 8 2
  gpa := 0
  clean := if e.getLsbD 6 then [] else [⟨pte, 0, 0⟩]

/-- Physical addresses a table may lie at: everything but unassigned addresses, which R65 refuses, and the register
space (DESIGN CHOICE, log entry 99). -/
def tableAt (pa : Nat) : Bool :=
  match paRange pa with
  | .stack _ | .host | .peer => true
  | .io | .unassigned => false

/-- A walk from a table base; `at_` gives the physical address of a table entry, itself translated in a
first stage of two (R74). A misaligned entry is as an ill-formed one (R117). -/
def walkFrom (m : Tbl Byte) (at_ : Nat → Except WalkErr Nat) (va : Nat) :
    List (Nat × Nat) → Nat → Except WalkErr Leaf
  | [], _ => .error (.prot none)
  | (level, shift) :: rest, base =>
    match at_ (base + 8 * walkIndex va shift) with
    | .error e => .error e
    | .ok pa =>
      if !tableAt pa then .error (.prot none)
      else if pa % 8 ≠ 0 then .error (.prot (some pa))
      else
        let e := readEntry m pa
        if !e.getLsbD 0 then .error .page
        else if !pteOk level shift e then .error (.prot (some pa))
        else if e.getLsbD 1 then .ok (pteLeaf pa shift e)
        else walkFrom m at_ va rest (pteAddr e)

/-- A walk of one stage from PTB (R72). -/
def walkOne (m : Tbl Byte) (ptb va : Nat) : Except WalkErr Leaf := walkFrom m .ok va walkLevels ptb

/-- A second-stage walk for a guest physical address; its invalid entries are the host's to serve (R74). -/
def walkGuest (m : Tbl Byte) (s2ptb gpa : Nat) : Except WalkErr Leaf :=
  match walkOne m s2ptb gpa with
  | .error .page => .error .page2
  | r => r

/-- The physical address of a guest physical address that the walker reads a table at. -/
def guestTable (m : Tbl Byte) (s2ptb gpa : Nat) : Except WalkErr Nat :=
  match walkGuest m s2ptb gpa with
  | .error e => .error e
  | .ok l => if l.perm.rd then .ok (l.pa + gpa % 2 ^ l.bits) else .error .page2

/-- The leaf of both stages: the smaller page, each stage's permissions, and the dirty bits found clear. The log of
the virtual function records the guest page of either stage's (R81, R116; DEDUCED, log entry 13). -/
def combine (vf : Nat) (va : Nat) (l1 l2 : Leaf) : Leaf :=
  let gpa := l1.pa + va % 2 ^ l1.bits
  let bits := min l1.bits l2.bits
  let pa := l2.pa + gpa % 2 ^ l2.bits
  { pa := pa - pa % 2 ^ bits
    bits := bits
    perm := l1.perm
    perm2 := l2.perm
    attr := if l1.attr.toNat < l2.attr.toNat then l2.attr else l1.attr
    gpa := gpa - gpa % 2 ^ bits
    clean := (l1.clean ++ l2.clean).map fun d => { d with vf := vf, gpa := gpa } }

/-- The second-stage walk of what a first-stage leaf maps an address to. -/
def walkSecond (s : State) (vf va : Nat) (l1 : Leaf) : Except WalkErr Found :=
  let s2 := ((s.fnAt vf).s2ptb.extractLsb' 0 52 : BitVec 52).toNat
  match walkGuest s.mem s2 (l1.pa + va % 2 ^ l1.bits) with
  | .error e => .error e
  | .ok l2 => .ok ⟨combine vf va l1 l2, l1, l2⟩

/-- A fresh walk of a context's address with the leaves of its stages (R72, R74). The walk starts at PTB's and S2PTB's
bits [51:0], whatever the others and their alignment (DESIGN CHOICE, log entry 61); the second stage's invalid entry
is met before the first stage's permission (DESIGN CHOICE, log entry 62). -/
def walkBoth (s : State) (ctx : Nat) (va : Nat) : Except WalkErr Found :=
  let c := s.ctxAt ctx
  let ptb := (c.ptb.extractLsb' 0 52 : BitVec 52).toNat
  if c.vf = 0 then (walkOne s.mem ptb va).map fun l => ⟨l, l, l⟩
  else
    let s2 := ((s.fnAt c.vf).s2ptb.extractLsb' 0 52 : BitVec 52).toNat
    match walkFrom s.mem (guestTable s.mem s2) va walkLevels ptb with
    | .error e => .error e
    | .ok l1 => walkSecond s c.vf va l1

/-- A fresh walk of a context's address (R72, R74). -/
def walk (s : State) (ctx : Nat) (va : Nat) : Except WalkErr Leaf := (walkBoth s ctx va).map (·.leaf)

/-! ### TLBs (R75) -/

/-- Whether two leaves map alike, whatever their dirty bits. -/
def Leaf.sameMap (x y : Leaf) : Bool := { x with clean := [] } == { y with clean := [] }

/-- An access as a translation sees it: the holder of its TLB (a core, or numCores + the number of a control core or
port; or a domain's walker, which has none), the context, the block, supervisor mode, the identifier its warp took at
its start, none for the context's own, and whether peer packages do not answer it (R301). -/
structure Who where
  core  : Nat
  ctx   : Nat
  block : Nat
  sup   : Bool
  ctxid : Option (BitVec 16)
  deaf  : Bool
  deriving DecidableEq, Repr

/-- The identifier an access translates under (R75). -/
def Who.tag (w : Who) (s : State) : BitVec 16 := w.ctxid.getD (s.ctxAt w.ctx).ctxid

/-- The control core that acts for a context in the part: launches, counters, frames. -/
def controlHolder : Nat := Config.numCores
/-- The storage port (R80). -/
def storageHolder : Nat := Config.numCores + 8

/-- The walker of a domain translates for that domain's state engine and task-queue controller (R71, R113); R75 lists
no TLB of theirs. -/
def walkerHolder (d : Nat) : Nat := Config.numCores + 64 + d
def walkerOf (core : Nat) : Option Nat :=
  if core < Config.numCores + 64 then none else some (core - (Config.numCores + 64))

/-- The TLB of a control core or port. -/
def State.portTlb (s : State) (core : Nat) : List TlbEntry := Tbl.get [] s.ports (core - Config.numCores)

/-- Whether an entry matches an address under an identifier. -/
def TlbEntry.hits (e : TlbEntry) (s : State) (id : BitVec 16) (va : Nat) : Bool :=
  e.ctxid == id && e.gen == Tbl.get 0 s.gens id.toNat && e.vpn == va / 2 ^ e.found.leaf.bits

/-- The entry that the access's TLB holds for an address: the core's or its cluster's, or the port's. -/
def tlbLookup (s : State) (w : Who) (va : Nat) : Option TlbEntry :=
  let held := if w.core < Config.numCores then (s.coreAt w.core).tlb ++ (s.clusterAt (clusterOf w.core)).tlb
    else if (walkerOf w.core).isSome then [] else s.portTlb w.core
  held.find? (·.hits s (w.tag s) va)

/-- Entries of a control core's or a port's TLB (R75). -/
def portEntries (core : Nat) : Nat := if core < Config.numCores + 8 then 256 else 1024

/-- Fill the TLB of an access with what it is translated by, keeping the TLB's size. -/
def tlbFill (s : State) (w : Who) (va : Nat) (x : Found) (gone : Bool) : State :=
  let id := w.tag s
  let e : TlbEntry := ⟨id, Tbl.get 0 s.gens id.toNat, va / 2 ^ x.leaf.bits, (s.ctxAt w.ctx).vf, x, true, gone⟩
  let add := fun (n : Nat) (t : List TlbEntry) => (e :: t.filter fun y => !y.hits s id va).take n
  if w.core < Config.numCores then
    let k := s.coreAt w.core
    let u := s.clusterAt (clusterOf w.core)
    (s.setCore w.core { k with tlb := add Config.tlbEntries k.tlb }).setCluster (clusterOf w.core)
      { u with tlb := add Config.clusterTlbEntries u.tlb }
  else if (walkerOf w.core).isSome then s
  else
    { s with ports := Tbl.set s.ports (w.core - Config.numCores) (add (portEntries w.core) (s.portTlb w.core)) }

/-- Whether permissions admit an access (R127). -/
def Perm.admits (p : Perm) (sup : Bool) (a : Acc) : Bool :=
  (sup || p.us) && match a with
    | .read => p.rd
    | .write => p.wr
    | .rw => p.rd && p.wr
    | .fetch => p.x

/-- Whether an access writes. -/
def Acc.writes : Acc → Bool
  | .write | .rw => true
  | .read | .fetch => false

/-- Whether a translation from held parts and a fresh walk lead an access to the same outcome, or the held one goes to
the walker: a cached clear dirty bit sends a write there (R79). -/
def agrees (held fresh : Except WalkErr Found) (a : Acc) : Bool :=
  match held, fresh with
  | .ok h, .ok f =>
    if a.writes then f.leaf == h.leaf || h.leaf.clean != []
    else { f.leaf with clean := [] } == { h.leaf with clean := [] }
  | .ok h, .error _ => a.writes && h.leaf.clean != []
  | .error x, .error y => x == y
  | .error _, .ok _ => false

/-- The translations that a held entry allows besides a fresh walk: the entry; of two stages, also each stage's held
leaf with a fresh walk of the other (R75 to R77). Each with whether its first stage has been invalidated. -/
def TlbEntry.choices (e : TlbEntry) (s : State) (va : Nat) (fresh : Except WalkErr Found) :
    List (Except WalkErr Found × Bool) :=
  let whole := if e.whole then [(Except.ok e.found, e.gone)] else []
  if e.vf = 0 then whole
  else
    let older := (walkSecond s e.vf va e.found.first, e.gone)
    let newer := match fresh with
      | .ok f =>
        let gpa := f.first.pa + va % 2 ^ f.first.bits
        if e.whole ∧ gpa / 2 ^ e.found.second.bits = e.found.leaf.gpa / 2 ^ e.found.second.bits then
          [(Except.ok ⟨combine e.vf va f.first e.found.second, f.first, e.found.second⟩, false)]
        else []
      | .error _ => []
    whole ++ [older] ++ newer

/-- Where a translation comes from: a walk of the page walker; a TLB entry that a walk would agree with; or one that has
not followed the tables, its first stage perhaps invalidated. -/
inductive Source where
  | walk
  | hit
  | stale (gone : Bool)
  deriving DecidableEq, Repr

/-- The first of some translations that the TLB holds (free, log entry 8), if any. -/
def pickHeld : List (Except WalkErr Found × Bool) → State → State × Option (Except WalkErr Found × Bool)
  | [], s => (s, none)
  | x :: r, s =>
    let t := { s with free := s.free + 1 }
    if Config.tlbHolds s.free then (t, some x) else pickHeld r t

/-- What an access translates by, and where it comes from: a fresh walk, or what a TLB still holds though the tables
have changed (R75 to R77; whether it still holds it is free, log entry 8). A write that finds a clear dirty bit cached
goes to the walker (R79). -/
def lookup (s : State) (w : Who) (a : Acc) (va : Nat) : State × Except WalkErr Found × Source :=
  let fresh := walkBoth s w.ctx va
  match tlbLookup s w va with
  | some e =>
    let cs := e.choices s va fresh
    match pickHeld (cs.filter fun x => !agrees x.1 fresh a) s with
    | (s, some x) => (s, x.1, .stale x.2)
    | (s, none) =>
      (s, fresh, if (a.writes && e.found.leaf.clean != []) || !cs.any (fun x => agrees x.1 fresh a) then .walk else .hit)
  | none => (s, fresh, .walk)

/-- The domain whose walker walks for an access: the core's, or that of the walker named; none for a control core's or
a port's own. -/
def Who.walker (w : Who) : Option Nat :=
  if w.core < Config.numCores then some (domainOf w.core) else walkerOf w.core

/-- The activities that have purses, by number (R140). -/
abbrev copyPurse : Nat := 0
abbrev bpagePurse : Nat := 1
abbrev statePurse : Nat := 2
abbrev walkerPurse : Nat := 3
abbrev fabricPurse : Nat := 5

/-- The purse of an activity of a domain, among the purses of all domains. -/
abbrev purseOf (dom i : Nat) : Nat := 8 * dom + i

/-- Ask slots of the purse of an activity of a domain. -/
def State.askSlots (s : State) (dom i n : Nat) : State :=
  { s with asked := Tbl.put 0 s.asked (purseOf dom i) (Tbl.get 0 s.asked (purseOf dom i) + n) }

/-- A walk asks for one slot of the page-walker purse of its walker's domain (R140; the number of slots is DESIGN
CHOICE, log entry 85). -/
def askWalk (s : State) (w : Who) (x : Source) : State :=
  match x, w.walker with
  | .walk, some d => s.askSlots d walkerPurse 1
  | _, _ => s

/-- Whether the first stage of what an access translates by has been invalidated (R77). -/
def Source.gone : Source → Bool
  | .stale g => g
  | .walk | .hit => false

/-- Whether a write meets a page that the write-back scanner holds, whose write permission it has taken away (R80). A
second stage without write permission is a page fault in any case (R74). -/
def State.scanned (s : State) (w : Who) (a : Acc) (va : Nat) (l : Leaf) : Bool :=
  a.writes && !l.perm.wr && s.scans.any fun x =>
    x.vf == 0 && x.ctx == w.ctx && x.page == va / 2 ^ x.bits * 2 ^ x.bits

/-- Translate an address (R72 to R75, R127). The walker logs an ill-formed entry, a misaligned one among them (R117). -/
def translate (s : State) (w : Who) (a : Acc) (va : Word) : State × Except Raise (Nat × Leaf) :=
  let (s, r, src) := lookup s w a va.toNat
  let s := askWalk s w src
  match r with
  | .error .page => (s, .error (.at cPAGE va))
  | .error .page2 => (s, .error ⟨cPAGE, va, 0, true⟩)
  | .error (.prot none) => (s, .error (.at cPROT va))
  | .error (.prot (some pte)) => (s.log w.ctx (.badEntry pte), .error (.at cPROT va))
  | .ok x =>
    let s := tlbFill s w va.toNat x src.gone
    let l := x.leaf
    if s.scanned w a va.toNat l then (s, .error (.at cPAGE va))
    else if !l.perm.admits w.sup a then (s, .error (.at cPROT va))
    else if !l.perm2.admits w.sup a then (s, .error ⟨cPAGE, va, 0, true⟩)
    else (s, .ok (l.pa + va.toNat % 2 ^ l.bits, l))

/-! ### Where an access lands -/

/-- Where an access lands: physical memory with the dirty bits it sets, its attribute and the TLB entry it was
translated with; a block's partition; or a control register, by its page's dirty bits and attribute. -/
inductive Spot where
  | mem (pa : Nat) (dirty : List Dirty) (attr : BitVec 2) (by_ : Option TlbEntry)
  | part (block off : Nat)
  | io (off : Nat) (dirty : List Dirty) (attr : BitVec 2)
  deriving DecidableEq, Repr

/-- The gang a block belongs to, by its index (R27). -/
def gangIx (s : State) (b : Nat) : Nat := (s.blockAt b).idx / (s.gridOf b).record.gang

/-- The lowest-numbered block of the issuer's gang on a core (R64). -/
def gangBlockOn (s : State) (b core : Nat) : Option Nat :=
  let cands := ((List.range Config.blockSlots).map (8 * core + ·)).filter fun k =>
    (s.blockAt k).live && (s.blockAt k).grid == (s.blockAt b).grid && gangIx s k == gangIx s b
  cands.foldl (fun best k =>
    match best with
    | none => some k
    | some j => if (s.blockAt k).idx < (s.blockAt j).idx then some k else some j) none

/-- The partition a window address reaches (R64). -/
def windowAt (s : State) (va : Word) (block : Option Nat) (off : Nat) : Except Raise Spot :=
  match block with
  | none => .error (.at cPROT va)
  | some b => if off < (s.blockAt b).size then .ok (.part b off) else .error (.at cPROT va)

/-- Where an access of `n` bytes lands, or the cause it raises: MISALIGN, then PROT, then PAGE (R63, R162).
Register space is mapped only for supervisor translations (R65). -/
def resolve (s : State) (w : Who) (a : Acc) (n : Nat) (va : Word) : State × Except Raise Spot :=
  if va.toNat % n ≠ 0 then (s, .error (.at cMISALIGN va))
  else
    match addrClass va with
    | .nonCanonical => (s, .error (.at cPROT va))
    | .own off => (s, windowAt s va (some w.block) off)
    | .peer k off => (s, windowAt s va (gangBlockOn s w.block (8 * clusterOf w.core + k)) off)
    | .translated =>
      match translate s w a va with
      | (s, .error r) => (s, .error r)
      | (s, .ok (pa, l)) =>
        match paRange pa with
        | .stack _ | .host | .peer =>
          (s, .ok (.mem pa (if a.writes then l.clean else []) l.attr (tlbLookup s w va.toNat)))
        | .io =>
          if w.sup then (s, .ok (.io (pa % 0x1_0000_0000_0000) (if a.writes then l.clean else []) l.attr))
          else (s, .error (.at cPROT va))
        | .unassigned => (s, .error (.at cPROT va))

end Sys2Proof.Machine
end

