-- ==== Sys2Proof/Machine/Access.lean ====
section
/-!
DEFINITION. Sys2Proof/Machine/Access.lean: reading and writing where an access lands: dirty bits and the dirty
log (R79, R81, R116), the register space (R298), stores held for commit (R42, R43), poisoned storage (R82), and
the part's own accesses by virtual address.
-/
namespace Sys2Proof.Machine

/-! ### Dirty bits and the dirty log -/

/-- DLSIZE where it is valid (R298). -/
def Fn.ringSize (f : Fn) : Option Nat :=
  let n := f.dlsize.toNat
  if 512 ≤ n ∧ n ≤ 65536 ∧ 2 ^ Nat.log2 n = n then some n else none

/-- Entries in an enabled ring with its size; none when the ring is disabled (R116). -/
def Fn.ring (f : Fn) : Option (Nat × Nat) :=
  if f.en then f.ringSize.map fun n => ((f.prod - f.cons).toNat, n) else none

/-- Whether an enabled ring is full (R116). -/
def Fn.isFull (f : Fn) : Bool := f.ring.any fun x => x.1 == x.2

/-- Whether a dirty bit is still clear. -/
def Dirty.pending (s : State) (d : Dirty) : Bool := !(readPhys s.mem d.pte).getLsbD 6

/-- The 16 KiB guest page of a dirty bit, and whether the log has its entry already (R81, R116; DEDUCED, log entry
13). -/
def Dirty.page (d : Dirty) : Nat := d.gpa / 16384
def Dirty.logged (s : State) (d : Dirty) : Bool := d.vf != 0 && (s.fnAt d.vf).ahead.contains d.page

/-- The log entries that setting some dirty bits appends: for each function, each 16 KiB guest page whose leaf of either
stage is clean, once (R81, R116). -/
def logPages (s : State) (ds : List Dirty) : List (Nat × Nat) :=
  ((ds.filter fun d => d.vf != 0 && d.pending s && !d.logged s).map fun d => (d.vf, d.page)).eraseDups

/-- The function whose log has no room for the entries that some dirty bits append (R81). -/
def logShort (s : State) (ds : List Dirty) : Option Nat :=
  let pages := logPages s ds
  (pages.find? fun x => match (s.fnAt x.1).ring with
    | some (n, size) => decide (size < n + (pages.filter fun y => y.1 == x.1).length)
    | none => false).map (·.1)

/-- Append a guest page to a function's log (R116). A ring that becomes full sets FULL and sends MSI-X. DLBASE is
taken as an address of the 52 bits of R65 (DESIGN CHOICE, log entry 107). -/
def dirtyLog (s : State) (vf gpa : Nat) : State :=
  let f := s.fnAt vf
  match f.ring with
  | none => s
  | some (n, size) =>
    let at_ := f.dlbase.toNat + 8 * (f.prod.toNat % size)
    let mem := writeBytes s.mem at_ (leBytes 8 (gpa / 16384 * 16384 + 1))
    let full := n + 1 = size
    let s := { s with mem := mem }
    let s := s.setFn vf { f with prod := f.prod + 1, full := f.full || full }
    if full then { s with boot := { s.boot with out := s.boot.out ++ [.msix vf] } } else s

/-- Set a dirty bit, whose page is in the log. -/
def Dirty.set (s : State) (d : Dirty) : State :=
  let t := { s with mem := writePhys s.mem d.pte (readPhys s.mem d.pte ||| 0x40) }
  if d.logged s then
    let f := t.fnAt d.vf
    t.setFn d.vf { f with ahead := f.ahead.filter (· != d.page) }
  else t

/-- Set dirty bits, after their log entries (R79, R81). The walker's write of a first-stage entry asks nothing of the
second-stage leaf of the table page and leaves its dirty bit (DESIGN CHOICE, log entry 81). -/
def setDirty (s : State) (ds : List Dirty) : State :=
  ds.foldl Dirty.set ((logPages s ds).foldl (fun s x => dirtyLog s x.1 (16384 * x.2)) s)

/-- Whether a function's log has room for an entry. -/
def logRoom (s : State) (vf : Nat) : Bool :=
  match (s.fnAt vf).ring with
  | some (n, size) => decide (n < size)
  | none => false

/-- Append the entry of a page whose write is to wait for more room. -/
def logAhead (s : State) (vf page : Nat) : State :=
  let s := dirtyLog s vf (16384 * page)
  let f := s.fnAt vf
  s.setFn vf { f with ahead := page :: f.ahead }

/-- Fill a log that has no room for all the entries of some dirty bits: those that fit are appended, in order, so that
the ring becomes full, and the leaves whose pages are then all logged are made dirty (R81, R116; DEDUCED, log entry
13). -/
def fillLog (s : State) (ds : List Dirty) : State :=
  let s := (logPages s ds).foldl (fun s x => if logRoom s x.1 then logAhead s x.1 x.2 else s) s
  (ds.filter fun d => (logPages s (ds.filter (·.pte == d.pte))).isEmpty).foldl Dirty.set s

/-! ### The register space (R109, R298, R306) -/

/-- LQSTAT as read. -/
def LaunchQ.stat (q : LaunchQ) : Nat :=
  q.en.toNat + 2 * q.err.toNat + 256 * q.reason.toNat + 65536 * q.rejix.toNat

/-- The register of a launch queue at an offset within its 64 bytes (R298). -/
def lqRead (q : LaunchQ) (r : Nat) : Nat :=
  match r with
  | 0x00 => q.base.toNat
  | 0x08 => q.size.toNat
  | 0x10 => q.tail.toNat
  | 0x18 => q.head.toNat
  | 0x20 => q.stat
  | 0x28 => q.own.toNat
  | _ => 0

/-- The register of a function table at an offset within its 64 bytes (R298). -/
def fnRead (f : Fn) (r : Nat) : Nat :=
  match r with
  | 0x00 => f.s2ptb.toNat
  | 0x08 => f.quota.toNat
  | 0x10 => f.qused.toNat
  | 0x18 => f.dlbase.toNat
  | 0x20 => f.dlsize.toNat
  | 0x28 => f.prod.toNat
  | 0x30 => f.cons.toNat
  | 0x38 => f.en.toNat + 2 * f.full.toNat
  | _ => 0

/-- REPREQ as read (R306). -/
def RepReq.read (r : RepReq) : Nat :=
  r.req.toNat + 2 * r.multi.toNat + 16 * r.unit.toNat + 65536 * r.index.toNat

/-- The registers of the space, by offset (R298); none where the table lists no register. -/
inductive IoReg where
  | lq (n r : Nat) | dpool (d : Nat) | repreq | sagcnt | qreset | fn (f r : Nat)
  deriving DecidableEq, Repr

/-- The register that the table lists at an offset; none for an offset within a register but for its first. -/
def ioReg (off : Nat) : Option IoReg :=
  if off % 8 ≠ 0 then none
  else if 0x100000 ≤ off ∧ off < 0x100400 then
    if off % 64 ≤ 0x30 then some (.lq ((off - 0x100000) / 64) (off % 64)) else none
  else if 0x200000 ≤ off ∧ off < 0x200060 then some (.dpool ((off - 0x200000) / 8))
  else if off = 0x300000 then some .repreq
  else if off = 0x300008 then some .sagcnt
  else if off = 0x300010 then some .qreset
  else if 0x400040 ≤ off ∧ off < 0x401040 then some (.fn ((off - 0x400000) / 64) (off % 64))
  else none

/-- The value of a register; QRESET reads zero. -/
def ioValue (s : State) (r : IoReg) : Nat :=
  match r with
  | .lq n r => lqRead (s.lqs.toList.getD n LaunchQ.reset) r
  | .dpool d => (s.domainAt d).cls.toNat + if (s.domainAt d).pend.isSome then 256 else 0
  | .repreq => s.repreq.read
  | .sagcnt => s.sagcnt.toNat
  | .fn f r => fnRead (s.fnAt f) r
  | .qreset => 0

/-- The value of the register at an offset; unlisted offsets read zero. -/
def ioRead (s : State) (off : Nat) : Nat := ((ioReg off).map (ioValue s)).getD 0

/-- The bytes an access to the space reads. -/
def ioBytes (s : State) (off n : Nat) : List Byte := (leBytes 8 (ioRead s off)).take n

/-- The step that a write of a register is (R298): the registers with a behaviour of their own have their own
steps. -/
def ioEvent (fn off : Nat) (value : Word) : Instr :=
  match ioReg off with
  | some (.lq n 0x10) => .launchQueueTailWrite fn (BitVec.ofNat 4 n) value
  | some (.lq n 0x30) => .lqstart fn (BitVec.ofNat 4 n) value
  | some (.dpool d) => .classChange d (value.extractLsb' 0 2)
  | some .qreset => .qreset value
  | some (.fn f 0x30) => .dlconsWrite f value
  | _ => .registerWrite fn (BitVec.ofNat 52 off) value

/-- What a store to part of a register puts in the bytes it does not write: the register's value, but nothing in a
field that a written one clears (R6; DESIGN CHOICE, log entry 60). -/
def ioKept (s : State) (off : Nat) : Nat :=
  match ioReg off with
  | some (.lq n 0x20) => (s.lqs.toList.getD n LaunchQ.reset).en.toNat
  | some (.fn f 0x38) => (s.fnAt f).en.toNat
  | some .repreq | some .sagcnt => 0
  | _ => ioRead s off

/-- A supervisor store to the space: the register's step is the machine's next (log entry 5); at an offset not listed
that step ignores it. An access wider than 8 bytes acts on its first register alone (DESIGN CHOICE, log entry 78). -/
def ioStore (s : State) (off : Nat) (bs : List Byte) : State :=
  let new := bs ++ (leBytes 8 (ioKept s off)).drop bs.length
  { s with inbox := s.inbox ++ [.event (ioEvent 0 off (BitVec.ofNat 64 (leNat new)))] }

/-! ### Crews and commitment -/

/-- The crew and number of a warp's stroke that is not committed (R42). -/
def uncommitted (s : State) (w : Warp) : Option (Nat × Nat) :=
  match w.stroke with
  | some (c, k) =>
    let cr := s.crewAt c
    if cr.record.breakable && decide (cr.commit ≤ k) then some (c, k) else none
  | none => none

/-- Whether a sequentially consistent fence of a warp's uncommitted stroke is still to take its place in the order of
R90: the reads after it wait for that, at its commit (R200; DEDUCED, log entry 87). -/
def fenceHeld (s : State) (w : Warp) : Bool :=
  match uncommitted s w with
  | some (c, k) => (s.crewAt c).held.any fun h => h.stroke == k && h.sc
  | none => false

/-- Entries of the speculative store buffer in use on a core (R43). -/
def specUsed (s : State) (core : Nat) : Nat :=
  ((List.range 64).map fun n => ((s.crewAt (64 * core + n)).held.map (·.units)).sum).sum

/-! ### Bytes at a spot -/

/-- The place of byte `i` of a spot. -/
def Spot.place (p : Spot) (i : Nat) : Place :=
  match p with
  | .mem pa _ _ _ => .phys (pa + i)
  | .part b off => .part b (off + i)
  | .io off _ _ => .phys (0xF_0000_0000_0000 + off + i)

/-- A spot whose dirty bits have been seen to. -/
def Spot.plain (p : Spot) : Spot :=
  match p with
  | .mem pa _ attr e => .mem pa [] attr e
  | .io off _ attr => .io off [] attr
  | .part .. => p

/-- A byte as performed stores have left it. -/
def placeByte (s : State) (p : Place) : Byte :=
  match p with
  | .phys pa => readPhys s.mem pa
  | .part b off => Tbl.get 0 (s.blockAt b).scratch off

/-- Write a byte. -/
def setPlace (s : State) (p : Place) (x : Byte) : State :=
  match p with
  | .phys pa => { s with mem := writePhys s.mem pa x }
  | .part b off =>
    s.setBlock b { s.blockAt b with scratch := Tbl.put 0 (s.blockAt b).scratch off x }

def setPlaces (s : State) : List (Place × Byte) → State
  | [] => s
  | (p, x) :: r => setPlaces (setPlace s p x) r

/-- The latest held store to a byte that a stroke sees: its own, else that of the highest lower stroke
(R42). -/
def heldByte (held : List Held) (k : Nat) (p : Place) : Option Byte :=
  let best := held.foldl (fun (acc : Option (Nat × Byte)) h =>
    if k < h.stroke then acc
    else match h.bytes.reverse.find? (fun e => e.1 == p) with
      | none => acc
      | some e =>
        match acc with
        | some (j, y) => if h.stroke < j then some (j, y) else some (h.stroke, e.2)
        | none => some (h.stroke, e.2)) none
  best.map (·.2)

/-- A byte as a warp reads it: an uncommitted stroke sees held stores (R42). -/
def seeByte (s : State) (w : Warp) (p : Place) : Byte :=
  match uncommitted s w with
  | some (c, k) => (heldByte (s.crewAt c).held k p).getD (placeByte s p)
  | none => placeByte s p

/-- `n` bytes at a spot as a warp reads them. -/
def seeBytes (s : State) (w : Warp) (p : Spot) (n : Nat) : List Byte :=
  match p with
  | .io off _ _ => ioBytes s off n
  | _ => (List.range n).map fun i => seeByte s w (p.place i)

/-- Whether a read of `n` bytes at a spot meets an uncorrectable error: a scratchpad word or a poisoned
128-byte line (R82). -/
def poisoned (s : State) (p : Spot) (n : Nat) : Bool :=
  s.poison.any fun e =>
    match p, e with
    | .part b off, .scratch b' off' => b == b' && off / 4 ≤ off' / 4 && off' / 4 ≤ (off + n - 1) / 4
    | .mem pa _ _ _, .line pa' => pa / 128 == pa' / 128
    | _, _ => false

/-- Whether a spot lies in the fabric's peer range (R65, R301). -/
def Spot.isPeer : Spot → Bool
  | .mem pa _ _ _ => paRange pa == .peer
  | _ => false

/-- Whether a peer package has not answered a warp's access to a spot (R301). -/
def unanswered (s : State) (k : Nat) (p : Spot) : Bool := s.silent == some (.warp k) && p.isPeer

/-! ### Cancellation for a full buffer (R43, R47) -/

/-- The window slot of name v(256 + j) in stroke k (R37). -/
def slotOf (r : CrewRec) (k : Int) (j : Nat) : Nat := (((j : Int) - k * r.s) % r.w).toNat

/-- Cancel stroke `j` of a crew and every stroke above it as a save does: held stores and warps go, their
out-slots stay absent, and the cox goes back to `j`. A BREAK in a stroke that is cancelled is undone (DEDUCED, log
entry 54); the template permits that it returned are not spent again (R46; DESIGN CHOICE, log entry 95). -/
def cancelFrom (s : State) (c j : Nat) : State :=
  let cr := s.crewAt c
  let gone := cr.strokes.filter fun x => decide (j ≤ x.k)
  let undone := cr.broke.any fun b => decide (j ≤ b)
  let s := gone.foldl (fun s x => s.setWarp x.warp Warp.absent) s
  let cleared := gone.foldl (fun (p : Tbl Mask) x =>
    (List.range cr.record.s).foldl (fun p i => Tbl.put 0 p (slotOf cr.record x.k i) 0) p) cr.pres
  s.setCrew c { cr with
    strokes := cr.strokes.filter fun x => decide (x.k < j)
    held := cr.held.filter fun h => decide (h.stroke < j)
    next := min cr.next j
    relMark := min cr.relMark j
    broke := if undone then none else cr.broke
    fill := if undone then [] else cr.fill
    pres := cleared }

/-- The highest stroke above `k` of a crew with entries in the buffer (R43). -/
def highestHolder (cr : Crew) (k : Nat) : Option Nat :=
  cr.held.foldl (fun (acc : Option Nat) h =>
    if k < h.stroke ∧ 0 < h.units then some (max h.stroke (acc.getD 0)) else acc) none

/-! ### Performing a store -/

/-- What became of a store word: performed or held; waiting for the buffer, perhaps with strokes cancelled for it;
parked for the dirty log of a function (R43, R81). -/
inductive Stored where
  | done (s : State)
  | full
  | freed (s : State)
  | logFull (vf : Nat) (ds : List Dirty)

/-- The bytes of a word's stores with their places, in lane order (R86). -/
def storeBytesOf (ws : List (Spot × List Byte)) : List (Place × Byte) :=
  ws.flatMap fun (p, bs) => bs.zipIdx.map fun (x, i) => (p.place i, x)

/-- The dirty bits a word's stores set. -/
def storeDirty (ws : List (Spot × List Byte)) : List Dirty :=
  ws.flatMap fun (p, _) => match p with
    | .mem _ d _ _ | .io _ d _ => d
    | .part .. => []

/-- The TLB entries that a word's addresses were translated with. -/
def storeTags (ws : List (Spot × List Byte)) : List TlbEntry :=
  ws.filterMap fun (p, _) => match p with
    | .mem _ _ _ e => e
    | .part .. | .io .. => none

/-- Hold a stroke's store in the speculative store buffer, cancelling the highest younger stroke that holds
entries while the buffer lacks room (R43). -/
def holdStore (core c : Nat) (h : Held) : Nat → Bool → State → Stored
  | 0, _, _ => .full
  | fuel + 1, freed, s =>
    if specUsed s core + h.units ≤ Config.specEntries then
      .done (s.setCrew c { s.crewAt c with held := (s.crewAt c).held ++ [h] })
    else
      match highestHolder (s.crewAt c) h.stroke with
      | some j => holdStore core c h fuel true (cancelFrom s c j)
      | none => if freed then .freed s else .full

/-- Perform stores at once, after the dirty bits they set (R79). An uncorrectable error of the storage stays (DESIGN
CHOICE, log entry 82). -/
def performStores (s : State) (ws : List (Spot × List Byte)) : State :=
  ws.foldl (fun s (p, bs) =>
    match p with
    | .io off _ _ => ioStore s off bs
    | .mem .. | .part .. => setPlaces s (storeBytesOf [(p, bs)])) (setDirty s (storeDirty ws))

/-- The stores of one word, in lane order (R86). In an uncommitted stroke they take `units` entries of the
buffer (R42, R43, R240, R244; a scalar store one, DEDUCED, log entry 14). -/
def storeWord (s : State) (core : Nat) (w : Warp) (units : Nat) (ws : List (Spot × List Byte)) : Stored :=
  match uncommitted s w with
  | some (c, k) => holdStore core c ⟨k, storeBytesOf ws, storeDirty ws, units, storeTags ws, false⟩ 65 false s
  | none =>
    match logShort s (storeDirty ws) with
    | some vf => .logFull vf (storeDirty ws)
    | none => .done (performStores s ws)

/-! ### The part's own accesses by virtual address -/

/-- Why an access of the part cannot be performed. -/
inductive PartErr where
  | raise (r : Raise)
  | logFull (vf : Nat)
  deriving DecidableEq, Repr

/-- The pieces, page by page, of `n` bytes at a virtual address: physical address, length, dirty bits.
Only memory can be reached (R65; DESIGN CHOICE, log entry 99). -/
def spanFrom (w : Who) (a : Acc) : Nat → State → Word → Nat →
    State × Except Raise (List (Nat × Nat × List Dirty))
  | 0, s, _, _ => (s, .ok [])
  | fuel + 1, s, va, n =>
    if n = 0 then (s, .ok [])
    else if addrClass va != .translated then (s, .error (.at cPROT va))
    else
      match translate s w a va with
      | (s, .error r) => (s, .error r)
      | (s, .ok (pa, l)) =>
        if !tableAt pa then (s, .error (.at cPROT va))
        else if w.deaf && paRange pa == .peer then (s, .error (.at cECC_SCRATCH va))
        else
          let len := min n (16384 - va.toNat % 16384)
          match spanFrom w a fuel s (va + BitVec.ofNat 64 len) (n - len) with
          | (s, .error e) => (s, .error e)
          | (s, .ok r) => (s, .ok ((pa, len, if a.writes then l.clean else []) :: r))

/-- The dirty bits of the pieces of a span. -/
def spanDirty (ps : List (Nat × Nat × List Dirty)) : List Dirty := ps.flatMap fun (_, _, d) => d

/-- The pieces of `n` bytes at a virtual address. -/
def pieces (s : State) (w : Who) (a : Acc) (va : Word) (n : Nat) : State × Except Raise (List (Nat × Nat × List Dirty)) :=
  spanFrom w a (n / 16384 + 2) s va n

/-- The same; a dirty log without room for those of a write holds it up (R81). -/
def span (s : State) (w : Who) (a : Acc) (va : Word) (n : Nat) :
    State × Except PartErr (List (Nat × Nat × List Dirty)) :=
  match pieces s w a va n with
  | (s, .error e) => (s, .error (.raise e))
  | (s, .ok ps) =>
    match logShort s (spanDirty ps) with
    | some vf => (s, .error (.logFull vf))
    | none => (s, .ok ps)

/-- Whether any of `n` bytes of memory lies in a poisoned line (R82). -/
def lineBad (s : State) (pa n : Nat) : Bool :=
  s.poison.any fun e => match e with
    | .line p => pa / 128 ≤ p / 128 && p / 128 ≤ (pa + n - 1) / 128
    | _ => false

/-- Read `n` bytes at a virtual address, each piece of memory as `look` gives its bytes. -/
def readSpanBy (look : State → Nat → Nat → List Byte) (s : State) (w : Who) (va : Word) (n : Nat) :
    State × Except PartErr (List Byte) :=
  match span s w .read va n with
  | (s, .error e) => (s, .error e)
  | (s, .ok ps) =>
    if ps.any fun (pa, len, _) => lineBad s pa len then (s, .error (.raise (.at cECC_SCRATCH va)))
    else (s, .ok (ps.flatMap fun (pa, len, _) => look s pa len))

/-- Read `n` bytes at a virtual address, as memory holds them. -/
def readSpan (s : State) (w : Who) (va : Word) (n : Nat) : State × Except PartErr (List Byte) :=
  readSpanBy (fun s pa len => readBytes s.mem pa len) s w va n

/-- Read `n` bytes at a virtual address, as a warp sees them (R42, R87). -/
def seeSpan (me : Warp) (s : State) (w : Who) (va : Word) (n : Nat) : State × Except PartErr (List Byte) :=
  readSpanBy (fun s pa len => (List.range len).map fun i => seeByte s me (.phys (pa + i))) s w va n

/-- Write the pieces of a span, their dirty bits set. -/
def writePieces (s : State) : List (Nat × Nat × List Dirty) → List Byte → State
  | [], _ => s
  | (pa, len, _) :: r, bs => writePieces { s with mem := writeBytes s.mem pa (bs.take len) } r (bs.drop len)

/-- Write bytes at a virtual address, all or none. -/
def writeSpan (s : State) (w : Who) (va : Word) (bs : List Byte) : State × Except PartErr Unit :=
  match span s w .write va bs.length with
  | (s, .error e) => (s, .error e)
  | (s, .ok ps) => (writePieces (setDirty s (spanDirty ps)) ps bs, .ok ())

end Sys2Proof.Machine
end

