-- ==== Sys2Proof/Machine/Ops.lean ====
section
/-!
DEFINITION. Sys2Proof/Machine/Ops.lean: the named operations that the meanings share: registers, landing
results, completion counters, barriers, killing a block, taking an exception and returning from one (R167 to
R169), and the frame of a scalar word.
-/
namespace Sys2Proof.Machine

/-! ### Registers -/

/-- Read a scalar register; s0 reads zero (R49). -/
def Warp.sreg (w : Warp) (r : SReg) : Word := if r = 0 then 0 else w.s[r.toNat]

/-- Write a scalar register; a write to s0 is discarded (R49). -/
def Warp.setS (w : Warp) (r : SReg) (x : Word) : Warp := if r = 0 then w else { w with s := w.s.set r.toNat x }

/-- Read a scalar register of the acting warp. -/
def State.sreg (s : State) (r : SReg) : Word := s.me.sreg r
/-- Write a scalar register of the acting warp. -/
def State.setS (s : State) (r : SReg) (x : Word) : State := s.setMe (s.me.setS r x)

/-- A predicate register; p0 is true in all lanes (R55). -/
def Warp.preg (w : Warp) (i : Nat) : Mask := if i = 0 then 0xFFFF_FFFF else w.p.toList.getD i 0

/-- Write a predicate's lanes in a mask; p0 keeps its value (R55). -/
def Warp.setP (w : Warp) (i : Nat) (m : Mask) (x : BitVec 32) : Warp :=
  if i = 0 then w else { w with p := w.p.setIfInBounds i ((w.preg i &&& ~~~m) ||| (x &&& m)) }

/-! ### Results of lane words -/

/-- A waiting read takes the lanes it needs that have become present; a lane it has taken keeps its value (R39, R45). -/
def WinRead.feed (cr : Crew) (x : WinRead) : WinRead :=
  let m := x.need &&& Tbl.get 0 cr.pres x.slot &&& ~~~x.got
  { x with got := x.got ||| m, vals := blend m (Tbl.get zeroLanes cr.slots x.slot) x.vals }

/-- Set a crew whose slots have changed: the reads of its strokes that wait take what has become present. -/
def State.putCrew (s : State) (c : Nat) (cr : Crew) : State :=
  cr.strokes.foldl (fun s x =>
    let w := s.warpAt x.warp
    if w.reads.isEmpty then s else s.setWarp x.warp { w with reads := w.reads.map (WinRead.feed cr) }) (s.setCrew c cr)

/-- Take one register write into the registers of a warp; a window slot's lanes become present (R39). An uncorrectable
error of the register stays until a read of it is repaired (DESIGN CHOICE, log entry 55). -/
def landWrite (s : State) (k : Nat) (x : LWrite) : State :=
  let w := s.warpAt k
  match x with
  | .vec (.main i) m v => s.setWarp k { w with v := Tbl.put zeroLanes w.v i (blend m v (Tbl.get zeroLanes w.v i)) }
  | .vec (.host j) m v =>
    s.setWarp k { w with host := Tbl.put zeroLanes w.host j (blend m v (Tbl.get zeroLanes w.host j)) }
  | .vec (.oper i) m v => s.setWarp k { w with o := w.o.setIfInBounds i (blend m v (w.o.toList.getD i zeroLanes)) }
  | .vec (.slot j) m v =>
    match w.stroke with
    | some (c, _) =>
      let cr := s.crewAt c
      s.putCrew c { cr with
        slots := Tbl.put zeroLanes cr.slots j (blend m v (Tbl.get zeroLanes cr.slots j))
        pres := Tbl.put 0 cr.pres j (Tbl.get 0 cr.pres j ||| m) }
    | none => s
  | .pred i m bits => s.setWarp k (w.setP i m bits)
  | .hv i v => s.setWarp k { w with h := w.h.setIfInBounds i v }
  | .bun i v => s.setWarp k { w with k := w.k.setIfInBounds i v }

/-- The shift of the last-result file (R53). -/
def Warp.shiftL (w : Warp) (x : LShift) : Warp :=
  match x with
  | .none => w
  | .one m v => { w with l1 := blend m w.l0 w.l1, l0 := blend m v w.l0 }
  | .pair m lo hi => { w with l0 := blend m lo w.l0, l1 := blend m hi w.l1 }

/-- The shift takes an uncorrectable error of l0 into l1 in the lanes it copies, at landing or as a word reads through
it (DESIGN CHOICE, log entry 55). -/
def State.shiftSites (s : State) (k : Nat) (x : LShift) : State :=
  match x with
  | .one m _ =>
    let copied := s.poison.filterMap fun e => match e with
      | .lreg k' (.l 0) m' => if k' = k ∧ m' &&& m ≠ 0 then some (EccSite.lreg k (.l 1) (m' &&& m)) else none
      | _ => none
    { s with poison := s.poison ++ copied.filter (! s.poison.contains ·) }
  | .none | .pair .. => s

/-- The storage of l1 as a word reads it through the shifts that are due and wait behind an older word (R53, R61). -/
def State.dueShifts (s : State) (k : Nat) : State :=
  (s.warpAt k).inflight.foldl (fun t p => if p.landAt ≤ s.cycle then t.shiftSites k p.shift else t) s

/-- A lane word completes: its writes, its shift, its sticky flags (R53, R58). -/
def landPending (s : State) (k : Nat) (p : Pending) : State :=
  let s := (p.writes.foldl (fun s x => landWrite s k x) s).shiftSites k p.shift
  let w := s.warpAt k
  s.setWarp k { w.shiftL p.shift with fcsr := w.fcsr ||| p.flags }

/-- Every result issued lands, in issue order (R62, R167). -/
def landAll (s : State) (k : Nat) : State :=
  let s' := (s.warpAt k).inflight.foldl (fun s p => landPending s k p) s
  s'.setWarp k { s'.warpAt k with inflight := [] }

/-! ### Blocks and their warps -/

/-- The warps of a block that hold a slot, strokes included, with their numbers. -/
def blockWarps (s : State) (b : Nat) : List (Nat × Warp) :=
  s.warps.filter fun e => e.2.block == b && e.2.stat != .absent

/-- Warps of a block that have not exited, strokes excluded: NW (R57). -/
def blockNW (s : State) (b : Nat) : Nat :=
  ((blockWarps s b).filter fun e => e.2.stat == .running && e.2.stroke == none).length

/-- The engine queues of a core, by number 0 to 3 (R106). -/
def Core.queue (c : Core) (q : Nat) : List Cmd :=
  match q with
  | 0 => c.copyQ
  | 1 => c.matrixQ
  | 2 => c.stateQ
  | _ => c.launchQ

def Core.setQueue (c : Core) (q : Nat) (l : List Cmd) : Core :=
  match q with
  | 0 => { c with copyQ := l }
  | 1 => { c with matrixQ := l }
  | 2 => { c with stateQ := l }
  | _ => { c with launchQ := l }

/-- Every command of a core. -/
def Core.cmds (c : Core) : List Cmd := c.copyQ ++ c.matrixQ ++ c.stateQ ++ c.launchQ

/-- Discard the commands of a core's queues that a test holds for. -/
def Core.dropCmds (c : Core) (f : Cmd → Bool) : Core :=
  { c with copyQ := c.copyQ.filter (! f ·), matrixQ := c.matrixQ.filter (! f ·),
           stateQ := c.stateQ.filter (! f ·), launchQ := c.launchQ.filter (! f ·) }

/-- The issuer of accesses of a warp. -/
def whoOf (s : State) (k : Nat) (w : Warp) : Who :=
  ⟨coreOf k, (s.gridOf w.block).ctx, w.block, w.sup, some w.ctxid, s.silent == some (.warp k)⟩

/-- The part acting for a context away from any core, through a control core's TLB (R75). -/
def whoPart (ctx : Nat) : Who := ⟨controlHolder, ctx, 0, false, none, false⟩

/-! ### Completion counters (R131) -/

/-- One more completion: COUNT modulo 2^62, bits [63:62] unchanged. -/
def countUp (v : Word) : Word :=
  (v &&& 0xC000_0000_0000_0000) ||| ((v + 1) &&& 0x3FFF_FFFF_FFFF_FFFF)

/-- What an update of a completion counter does: sets a bit, or counts. -/
def ctrValue (bit : Option Nat) (v : Word) : Word :=
  match bit with
  | some i => v ||| (1 <<< i)
  | none => countUp v

/-- What became of an update of a counter. -/
inductive CtrOut where
  | done (s : State)
  | page (s : State) (second : Bool)
  | failed (s : State) (c : Cause)

/-- One atomic update of the counter at an address, translated under a context (R25, R131). A counter lies in
translated memory; elsewhere the access breaks R63's classes. It reads its line, which may be in error (R82). A full
dirty log holds it up like an absent page. -/
def counterUpdate (s : State) (w : Who) (ctr : Word) (bit : Option Nat) : CtrOut :=
  match resolve s w .rw 8 ctr with
  | (s, .error r) => if r.cause = cPAGE then .page s r.second else .failed s r.cause
  | (s, .ok (.mem pa dirty attr e)) =>
    let p : Spot := .mem pa dirty attr e
    if poisoned s p 8 || (w.deaf && p.isPeer) then .failed s cECC_SCRATCH
    else if (logShort s dirty).isSome then .page s true
    else
      let s := setDirty s dirty
      .done { s with mem := writeBytes s.mem pa (leBytes 8 (ctrValue bit (readEntry s.mem pa)).toNat) }
  | (s, .ok _) => .failed s cPROT

/-- Whether an update of a counter still waits; a later one then waits behind it (R131). -/
def pendOn (s : State) (ctx : Nat) (ctr : Word) : Bool := s.pend.any fun p => p.ctx == ctx && p.ctr == ctr

/-- Queue an update of a counter: a bit goes before the increments that wait (R131). -/
def pendCounter (s : State) (p : PendCtr) : State :=
  let same := fun (q : PendCtr) => q.ctx == p.ctx && q.ctr == p.ctr && q.bit.isNone
  match if p.bit.isSome then s.pend.findIdx? same else none with
  | some i => { s with pend := s.pend.insertIdx i p }
  | none => { s with pend := s.pend ++ [p] }

/-- Set bit 62 or 63 of a record's counter; an absent page is served later, another failure, a misaligned address
among them (DESIGN CHOICE, log entry 64), is logged (R110, R130). -/
def markCounter (s : State) (ctx : Nat) (record ctr : Word) (bit : Nat) (grid : Nat) : State :=
  if ctr = 0 then s
  else
    match counterUpdate s (whoPart ctx) ctr (some bit) with
    | .done s => s
    | .page s second => pendCounter s ⟨ctx, record, ctr, some bit, grid, second⟩
    | .failed s c => s.log ctx (.counter record c)

/-! ### Killing a block (R130) -/

/-- Every warp of the block stops, its unstarted commands are discarded, and it counts as exited once the
started ones are complete. -/
def stopBlock (s : State) (b : Nat) (relaunch : Bool) : State :=
  let blk := s.blockAt b
  let core := s.coreAt (blockCore b)
  let s := s.setBlock b { blk with stopped := true, killed := true, relaunch := relaunch }
  let gone := (blockWarps s b).map (·.1)
  s.setCore (blockCore b)
    { core.dropCmds (fun c => c.block == b && !c.started) with
      relList := core.relList.filter (! gone.contains ·) }

/-- Kill a block with no relaunch: log its cause, set bit 62 of its grid's counter (R130). -/
def killBlock (s : State) (b : Nat) (cause : Cause) (epc : Word) (addr : Option Word) : State :=
  if (s.blockAt b).killed then s
  else
    let g := (s.blockAt b).grid
    let gr := s.gridAt g
    let s := stopBlock s b false
    let s := s.log gr.ctx (.kill cause epc (s.blockAt b).idx addr)
    markCounter s gr.ctx gr.addr gr.record.ctr 62 g

/-! ### Taking an exception and returning from one -/

/-- The address of the next lane word to issue; 0 if none (R166). -/
def Warp.nextLane (w : Warp) : Word := ((w.dispatch.find? (! ·.issued)).map (·.addr)).getD 0

/-- A trap about to be entered: the cause, whether it is the lane stream's, the word that raised it, where the
scalar stream resumes, whether it is asynchronous, the storage it found in error, whether a lane word raised one of
the causes that were pending (R166). -/
structure Trap where
  r      : Raise
  lane   : Bool
  epc    : Word
  resume : Word
  async  : Bool
  sites  : List EccSite
  byLane : Bool

/-- The address of a warp's trap save area (R167). -/
def trapArea (frb : Word) (k : Nat) : Word := frb + 0x1000 + BitVec.ofNat 64 (1024 * k)

/-- The wait that a warp takes up again after a trap: a SYNC that has counted its arrival waits on the same
phase, or has seen it open; every other word is executed again (R252). -/
def resumedWait (x : WaitSt) : WaitSt :=
  match x with
  | .barrier b phase true => .barrier b phase true
  | .released true | .passed true => .passed true
  | _ => .none

/-- Whether an asynchronous cause has ended a warp's wait: it is taken at the waiting word, which does not complete
(R252). -/
def Warp.interrupted (w : Warp) : Bool := !w.async.isEmpty && !w.sup

/-- The resumption of R166. -/
def trapRec (w : Warp) (t : Trap) (area : Word) : TrapRec :=
  let replay := t.byLane && w.openRgn
  { cause := t.r.cause, lane := t.lane, epc := t.epc, replay := replay, async := t.async
    region := w.openRgn, resume := if replay then w.rgn else t.resume
    laneAt := if replay then 0 else w.nextLane
    addr := t.r.addr, lanes := t.r.lanes, area := area, second := t.r.second, wait := resumedWait w.wait }

/-- The flags word of the save area (R167). -/
def TrapRec.flags (r : TrapRec) (parked sup : Bool) : Nat :=
  r.replay.toNat + 2 * r.async.toNat + 4 * r.region.toNat + 8 * parked.toNat + 16 * sup.toNat

/-- The 1024 bytes of a trap save area (R167). -/
def trapBytes (w : Warp) (r : TrapRec) (parked sup : Bool) : List Byte :=
  (w.s.toList.flatMap fun x => leBytes 8 x.toNat) ++ leBytes 8 r.resume.toNat ++ leBytes 8 r.laneAt.toNat
    ++ leBytes 8 (r.flags parked sup) ++ leBytes 8 r.addr.toNat ++ leBytes 4 r.lanes.toNat
    ++ List.replicate 476 0

/-- A trap vector entry is valid and well-formed (R130). -/
def vectorOk (e : Word) : Bool :=
  e.getLsbD 0 && !e.getLsbD 1 && (e.extractLsb' 56 8 : BitVec 8) == 0

/-- Steps 4 and 5 of R167: s1, the vector entry, supervisor mode, the handler. An entry that is invalid or
cannot be read kills the block (R130); a misaligned TVB makes every entry so. The handler's address is extended by zeros
(DESIGN CHOICE, log entry 89). -/
def enterHandler (s : State) (k : Nat) (r : TrapRec) (cause : Cause) : State :=
  let w := s.warpAt k
  let ctx := (s.gridOf w.block).ctx
  let tvb := (s.ctxAt ctx).tvb
  let at_ := tvb + BitVec.ofNat 64 (8 * cause.toNat)
  if tvb.toNat % 2048 ≠ 0 then killBlock s w.block cause r.epc (some at_)
  else
    match readSpan s { whoOf s k w with sup := true } at_ 8 with
    | (s, .error _) => killBlock s w.block cause r.epc (some at_)
    | (s, .ok bs) =>
      let e : Word := BitVec.ofNat 64 (leNat bs)
      if vectorOk e then
        let s := if cause = cECC_SCRATCH then
            s.setBlock w.block { s.blockAt w.block with stopped := true } else s
        s.setWarp k { (s.warpAt k).setS 1 r.area with
          pc := e &&& 0x00FF_FFFF_FFFF_FFFC, sup := true, trap := some r, parked := none }
      else killBlock s w.block cause r.epc none

/-- A register with an uncorrectable error is repaired to zero (R162). -/
def repair (s : State) (site : EccSite) : State :=
  let s := { s with poison := s.poison.filter (· != site) }
  match site with
  | .sreg k r => s.setWarp k { s.warpAt k with s := (s.warpAt k).s.setIfInBounds r 0 }
  | .lreg k (.v i) m =>
    landWrite s k (.vec (if i < 256 then .main i else .host (i - 256)) m zeroLanes)
  | .crewRow c j m =>
    let cr := s.crewAt c
    s.setCrew c { cr with slots := Tbl.put zeroLanes cr.slots j (blend m zeroLanes (Tbl.get zeroLanes cr.slots j)) }
  | .lreg k (.o i) m => landWrite s k (.vec (.oper i) m zeroLanes)
  | .lreg k (.l i) m =>
    let w := s.warpAt k
    s.setWarp k (if i = 0 then { w with l0 := blend m zeroLanes w.l0 } else { w with l1 := blend m zeroLanes w.l1 })
  | .lreg k (.p i) m => landWrite s k (.pred i m 0)
  | .lreg k (.h i) _ => landWrite s k (.hv i 0)
  | .lreg k (.k i) _ => landWrite s k (.bun i 0)
  | _ => s

/-- Take a warp out of its core's release list. -/
def State.unlist (s : State) (k : Nat) : State :=
  let c := s.coreAt (coreOf k)
  s.setCore (coreOf k) { c with relList := c.relList.filter (· != k) }

/-- The failure of a warp's access to a peer package or to host memory has been taken (R297, R301). -/
def State.answered (s : State) (k : Nat) : State :=
  let s := if s.silent = some (.warp k) then { s with silent := none } else s
  if s.aborted = some k then { s with aborted := none } else s

/-- A warp parks: its block's stall time starts afresh (R171). -/
def State.park (s : State) (k : Nat) (kind : ParkKind) (r : TrapRec) : State :=
  let w := s.warpAt k
  let s := s.setWarp k { w with parked := some (kind, r) }
  s.setBlock w.block { s.blockAt w.block with lastMove := s.cycle }

/-- TAKING AN EXCEPTION (R167): results land, CAUSE and EPC are written, then the trap save area, then the
handler is entered; on PAGE and FMT_ABSENT the warp parks instead (R169, R170). An area that cannot be written
kills the block. None while the area's page needs an entry of a full dirty log. -/
def takeTrap (s : State) (k : Nat) (t : Trap) : Option State :=
  let s := t.sites.foldl repair (landAll s k)
  let w := { s.warpAt k with cause := (if t.lane then 1#1 else 0#1) ++ t.r.cause, epc := t.epc }
  let ctx := (s.gridOf w.block).ctx
  let area := trapArea (s.ctxAt ctx).frb k
  let r := trapRec w t area
  let parks := t.r.cause = cPAGE ∨ t.r.cause = cFMT_ABSENT
  let w := { w with wait := .none, fault := none, laneFault := none, reads := [] }
  let s := ((s.setWarp k w).unlist k).answered k
  match writeSpan s { whoOf s k w with sup := true } area (trapBytes w r parks false) with
  | (_, .error (.logFull _)) => none
  | (s, .error (.raise _)) => some (killBlock s w.block t.r.cause t.epc (some area))
  | (s, .ok ()) =>
    if parks then
      let kind := if t.r.cause = cPAGE then ParkKind.page else .format
      some (s.park k kind r)
    else some (enterHandler s k r t.r.cause)

/-- Stop every stream and empty the queues between the streams, with the pops held (R105, R163). -/
def Warp.emptyQueues (w : Warp) : Warp :=
  { w with dq := Vector.replicate 4 ⟨[], none⟩, xq := [], bq := [], held := [] }

/-- Resume a warp by R166, replaying from RGN where the trap requires it or the handler asks for it. -/
def Warp.resumeBy (w : Warp) (r : TrapRec) (replay : Bool) : Warp :=
  let w := { w with sup := false, trap := none, parked := none }
  if replay || r.replay then { w.emptyQueues with dispatch := [], pc := w.rgn }
  else { w with pc := r.resume, wait := r.wait }

/-- A warp's cause as its handler finds it. -/
def Warp.withCause (w : Warp) (c : Cause) : Warp := { w with cause := (w.cause.extractLsb' 8 1 : BitVec 1) ++ c }

/-- Whether a block may be relaunched (R172). -/
def relaunchable (s : State) (b : Nat) : Bool :=
  (s.gridOf b).record.flags.getLsbD 1 && !(s.blockAt b).closed && !(s.blockAt b).touched

/-- The end of an ECC_SCRATCH handler: the block is killed, and relaunched where R172 allows it. -/
def endScratch (s : State) (k : Nat) (r : TrapRec) : State :=
  let b := (s.warpAt k).block
  if relaunchable s b then stopBlock s b true
  else killBlock s b cECC_SCRATCH r.epc none

/-- RETURN FROM AN EXCEPTION (R168, R214): s1 to s63 from the trap save area, user mode, resumption by R166, whose
addresses and flag the part keeps itself (DESIGN CHOICE, log entry 98). The error is a cause in supervisor mode, where
the area cannot be read. -/
def returnFrom (s : State) (k : Nat) (r : TrapRec) (replay : Bool) : Except Raise State :=
  let w := s.warpAt k
  if r.cause = cECC_SCRATCH then .ok (endScratch s k r)
  else
    match readSpan s (whoOf s k w) r.area 512 with
    | (_, .error (.raise e)) => .error e
    | (_, .error (.logFull _)) => .error (.at cPROT r.area)
    | (s, .ok bs) =>
      let regs := Vector.ofFn fun (i : Fin 64) => if i.val = 0 then 0#64 else fieldWord bs (8 * i.val)
      .ok (s.setWarp k { (s.warpAt k).resumeBy r replay with s := regs })

/-! ### Barriers (R133, R134) -/

def Block.bar (b : Block) (i : BitVec 4) : Barrier := b.bars[i.toNat]
def Block.setBar (b : Block) (i : BitVec 4) (x : Barrier) : Block := { b with bars := b.bars.set i.toNat x }

/-- Whether a phase opens (R133). -/
def Barrier.opens (x : Barrier) : Bool :=
  decide (1 ≤ x.expected.toNat) && decide (x.expected.toNat ≤ x.arrived.toNat) && x.bytes == 0 && !x.broken

/-- The state of a barrier after one phase opens. -/
def Barrier.next (x : Barrier) : Barrier :=
  { x with arrived := x.arrived - x.expected.setWidth 8, phase := x.phase + 1 }

/-- A wait for a phase of a barrier, and the same wait once the phase has opened. -/
def WaitSt.waitsOn (x : WaitSt) (b : BitVec 4) (phase : BitVec 16) : Bool :=
  match x with
  | .barrier b' phase' _ => b' == b.toNat && phase' == phase
  | _ => false
def WaitSt.release (x : WaitSt) : WaitSt :=
  match x with
  | .barrier _ _ sync => .released sync
  | y => y

/-- The warps of a block in the order waves release them: ascending WID, then strokes, those of equal number by warp
slot (R135; DESIGN CHOICE, log entry 90). -/
def releaseOrder (ws : List (Nat × Warp)) : List Nat :=
  let key := fun (w : Warp) => match w.stroke with
    | none => w.wid
    | some (_, k) => 64 + k
  (sortByKey (fun e => key e.2) ws).map (·.1)

/-- The warps of a block that wait for a phase of a barrier, with their numbers. -/
def phaseWaiters (s : State) (b : Nat) (i : BitVec 4) (phase : BitVec 16) : List (Nat × Warp) :=
  (s.warps.map fun e => (e.1, s.warpAt e.1)).filter fun e =>
    e.2.block == b && e.2.stat != .absent && e.2.wait.waitsOn i phase

/-- Open phases of a barrier while it meets its marks; the waiting warps join the release list (R133, R135). -/
def openPhases (b : Nat) (i : BitVec 4) : Nat → State → State
  | 0, s => s
  | fuel + 1, s =>
    let x := (s.blockAt b).bar i
    if x.opens then
      let freed := releaseOrder (phaseWaiters s b i x.phase)
      let s := freed.foldl (fun s k => s.setWarp k { s.warpAt k with wait := (s.warpAt k).wait.release }) s
      let c := s.coreAt (blockCore b)
      let s := s.setCore (blockCore b) { c with relList := c.relList ++ freed }
      openPhases b i fuel (s.setBlock b ((s.blockAt b).setBar i x.next))
    else s

/-- Set a barrier. The phases it meets the marks of open at the end of the cycle (R134). -/
def putBar (s : State) (b : Nat) (i : BitVec 4) (x : Barrier) : State := s.setBlock b ((s.blockAt b).setBar i x)

/-- Add to BYTES; a result outside 48 signed bits sets BROKEN instead (R134). -/
def Barrier.addBytes (x : Barrier) (n : Int) : Barrier :=
  let y := x.bytes + n
  if -(2 ^ 47) ≤ y ∧ y ≤ 2 ^ 47 - 1 then { x with bytes := y } else { x with broken := true }

/-- The phases that have come to open by the end of a cycle, in every barrier of every resident block (R134), by block
slot and then by barrier number (DESIGN CHOICE, log entry 90). -/
def openBarriers (s : State) : State :=
  s.blocks.foldl (fun s e =>
    if e.2.live then (List.finRange 16).foldl (fun s i => openPhases e.1 (BitVec.ofFin i) 256 s) s else s) s

/-! ### Purses (R140) -/

/-- Whether an activity of a domain has slots of its purse left in this period. -/
def purseOpen (s : State) (dom i : Nat) : Bool :=
  let d := s.domainAt dom
  let budget := (d.active.toList.getD i 0).toNat
  budget == 0xFFFF || decide (d.spent.toList.getD i 0 < max 1 budget)

/-- Whether an activity has slots for all that it asks for, and those that it has. -/
def purseTakes (s : State) (dom i n : Nat) : Bool :=
  let d := s.domainAt dom
  let budget := (d.active.toList.getD i 0).toNat
  n == 0 || budget == 0xFFFF || decide (d.spent.toList.getD i 0 + n ≤ max 1 budget)
def purseLeft (s : State) (dom i : Nat) : Nat :=
  let d := s.domainAt dom
  max 1 (d.active.toList.getD i 0).toNat - d.spent.toList.getD i 0

/-- An activity spends slots of 512 bytes. -/
def spendPurse (s : State) (dom i n : Nat) : State :=
  let d := s.domainAt dom
  s.setDomain dom { d with spent := d.spent.setIfInBounds i (d.spent.toList.getD i 0 + n) }

/-- What a step owes the purses: the slots it asks for but for those drawn already. -/
def owed (asked drawn : Tbl Nat) : Tbl Nat := asked.map fun e => (e.1, e.2 - Tbl.get 0 drawn e.1)

/-- Whether the purses have all the slots of a bill. -/
def billOpen (s : State) (bill : Tbl Nat) : Bool := bill.all fun e => purseTakes s (e.1 / 8) (e.1 % 8) e.2

/-- The slots of a bill are drawn. -/
def spendBill (s : State) (bill : Tbl Nat) : State := bill.foldl (fun s e => spendPurse s (e.1 / 8) (e.1 % 8) e.2) s

/-- The slots that a step asks for are paid for (R140). -/
def payBill (s : State) (bill : Tbl Nat) : State :=
  if s.asked.isEmpty then s else { spendBill s bill with asked := [] }

/-- The slots of a bill that the period has left. -/
def partBill (s : State) (bill : Tbl Nat) : Tbl Nat :=
  (bill.map fun e =>
    (e.1, if purseTakes s (e.1 / 8) (e.1 % 8) e.2 then e.2 else purseLeft s (e.1 / 8) (e.1 % 8))).filter (·.2 != 0)

/-- The slots of a bill that the period has left are drawn, beside those drawn before; none where it has none left. -/
def drawOwed (s : State) (bill drawn : Tbl Nat) : Option (State × Tbl Nat) :=
  let now := partBill s bill
  if now.isEmpty then none
  else some (spendBill s now, now.foldl (fun t e => Tbl.put 0 t e.1 (Tbl.get 0 t e.1 + e.2)) drawn)

/-- What a step of a warp from `s` to `t` owes the purses. -/
def stepBill (s t : State) (k : Nat) : Tbl Nat := owed t.asked (s.warpAt k).drawn

/-- A step of a warp that goes from `s` to `t`, its slots paid for; none where a purse has too few left. -/
def paidStep (s t : State) (k : Nat) : Option State :=
  if t.asked.isEmpty then some t
  else if billOpen s (stepBill s t k) then
    some ((payBill t (stepBill s t k)).setWarp k { t.warpAt k with drawn := [] })
  else none

/-- A warp whose step to `t` the purses cannot yet pay for draws the slots that the period has left. -/
def drawAhead (s t : State) (k : Nat) : Option State :=
  (drawOwed s (stepBill s t k) (s.warpAt k).drawn).map fun x =>
    x.1.setWarp k { x.1.warpAt k with drawn := x.2 }

/-- Slots that some bytes take. -/
def bursts (n : Nat) : Nat := (n + 511) / 512

/-! ### The frame of a scalar word -/

/-- What a scalar word does in a state: waits, raises a cause, raises ILLEGAL for a wait of the two streams on each
other (R104), raises a cause with a resumption of its own (TRAP), has its effect without completing here, or completes,
the next word's address given where it is not pc + 4. -/
inductive Did where
  | waits
  | raises (s : State) (r : Raise)
  | deadlocks
  | traps (r : Raise) (resume : Word)
  | stops (s : State)
  | done (s : State) (next : Option Word)

/-- What a scalar word asks before it acts: whether it closes a region (R164), waits for commitment in a
stroke (R42), and may run in a trap handler (R167). -/
structure Kind where
  closes  : Bool
  commits : Bool
  handler : Bool

abbrev Kind.plain : Kind := ⟨false, false, true⟩
abbrev Kind.closing : Kind := ⟨true, true, true⟩

abbrev Out := Host.Outcome State Fault Refusal

/-- The word waits: nothing changes but the mark that it did not issue. -/
def waits (s : State) : Out := .next { s with waited := true }

/-- Whether the acting warp may issue. -/
def canRun (s : State) : Bool :=
  let w := s.me
  w.stat == .running && w.parked == none
    && (!(s.blockAt w.block).stopped
      || (!(s.blockAt w.block).killed && w.sup && (w.trap.map (·.cause)) == some cECC_SCRATCH))

/-- Take a synchronous cause, unless an asynchronous one of higher priority is pending (R162). -/
def takeSync (s : State) (k : Nat) (t : Trap) : Option State :=
  match (s.warpAt k).async with
  | (c, a) :: rest =>
    if priority c < priority t.r.cause then
      let w := s.warpAt k
      takeTrap (s.setWarp k { w with async := rest }) k ⟨.plain c, false, a, w.pc, true, [], t.byLane⟩
    else takeTrap s k t
  | [] => takeTrap s k t

/-- The scalar registers among sites of errors. -/
def siteRegs (sites : List EccSite) : List Nat :=
  sites.filterMap fun e => match e with
    | .sreg _ r => some r
    | _ => none

/-- The issue of a word of one of the streams is counted, whether or not the word raises a cause (R30, R31; DEDUCED,
log entry 56). -/
def Warp.counted (w : Warp) (lane : Bool) : Warp :=
  { w with pass := 0, lastLane := lane, yielded := false, waitFrom := none }

/-- The trap of a scalar word's pending cause. -/
def ScalarFault.trap (x : ScalarFault) (w : Warp) (k : Nat) (byLane : Bool) : Trap :=
  ⟨⟨x.cause, x.addr, 0, x.second⟩, false, w.pc, x.resume, false, x.regs.map (.sreg k ·), byLane⟩

/-- The acting warp takes the cause of its scalar word. -/
def takeScalar (s s' : State) (x : ScalarFault) : Out :=
  match takeSync (s'.setMe (s'.me.counted false)) s.cur (x.trap s.me s.cur false) with
  | some s'' => .next s''
  | none => waits s

/-- A scalar word of the acting warp raises a cause: held in an uncommitted stroke (R42), fatal to the block in
supervisor mode, logged with the cause and the handler word's address (R167; DESIGN CHOICE, log entry 100), otherwise
taken once every dispatched lane block has completed, pending until then (R165), at once where none can complete (R104).
-/
def raiseScalar (s s' : State) (r : Raise) (resume : Word) (sites : List EccSite) (atOnce : Bool) : Out :=
  let w := s.me
  let held := (uncommitted s w).isSome
  let x : ScalarFault := ⟨r.cause, r.addr, r.second, resume, siteRegs sites, held, atOnce⟩
  if w.sup then .next (killBlock s' w.block r.cause w.pc none)
  else if held || (!atOnce && !w.dispatch.isEmpty) then
    if w.fault = some x then waits s else .next (s.setMe { w.counted false with fault := some x })
  else takeScalar s s' x

/-- A warp after a scalar word has issued (R30, R31, R57). -/
def Warp.retired (w : Warp) (next : Word) : Warp :=
  { w.counted false with pc := next, iret := w.iret + 1, wait := .none, fault := none }

/-- The block notes that one of its warps issued (R171), and that a closing word performed (R172). -/
def Block.moved (b : Block) (now : Nat) (closed : Bool) : Block :=
  { b with lastMove := now, closed := b.closed || closed }

/-- The acting warp's word completes. -/
def retire (s : State) (pc : Word) (next : Option Word) (closes : Bool) : State :=
  let w := s.me
  let w := w.retired (next.getD (pc + 4))
  let w := if closes then { w with openRgn := false } else w
  let s := s.setMe w
  s.setBlock w.block ((s.blockAt w.block).moved s.cycle closes)

/-- Source registers with an uncorrectable error (R61). -/
def badSources (s : State) (srcs : List SReg) : List EccSite :=
  s.poison.filter fun e => srcs.any fun r => r != 0 && e == .sreg s.cur r.toNat

/-- Run a scalar word of the acting warp (R193): the mode, the storage its sources stand in, the waits of its
kind, then its own effect. A word that a handler may not run kills the block, logged with CAUSE's code and the word's
own address (R167; DESIGN CHOICE, log entry 100). -/
def scalarWord (kind : Kind) (srcs : List SReg) (body : State → Did) (s : State) : Out :=
  let w := s.me
  if !canRun s then .fault .noWarp
  else if w.sup && !kind.handler then .next (killBlock s w.block (w.cause.extractLsb' 0 8) w.pc none)
  else
    let bad := badSources s srcs
    if !bad.isEmpty then raiseScalar s s (.plain cECC_REG) w.pc bad false
    else if kind.commits && (uncommitted s w).isSome then waits s
    else if kind.closes && !w.sup && !w.dispatch.isEmpty then waits s
    else
      match body s with
      | .waits => waits s
      | .raises s' r => raiseScalar s s' r w.pc [] false
      | .deadlocks => raiseScalar s s (.plain cILLEGAL) w.pc [] true
      | .traps r resume => raiseScalar s s r resume [] false
      | .stops s' => .next s'
      | .done s' next => .next (retire s' w.pc next kind.closes)

end Sys2Proof.Machine
end

