-- ==== Sys2Proof/Machine/Fetch.lean ====
section
/-!
DEFINITION. Sys2Proof/Machine/Fetch.lean: fetching the words of the two streams (R182, R191), and the waits of
the two streams on each other (R104).
-/
namespace Sys2Proof.Machine

/-- The 32-bit unit of code at a physical address: its newest value, or, where that differs, the value at the launch of
the warp's grid, each unit for itself (R192; free, log entry 69). -/
def codeUnit (s : State) (block pa : Nat) : State × BitVec 32 :=
  let at_ := fun (m : Tbl Byte) => BitVec.ofNat 32 (leNat (readBytes m pa 4))
  let new := at_ s.mem
  let old := at_ (s.gridOf block).code
  if new = old then (s, new)
  else ({ s with free := s.free + 1 }, if Config.fetchesOld s.free then old else new)

/-- Fetch a 32-bit unit of code. Code lies in translated addresses (R182); elsewhere the fetch breaks the X
permission that no page gives, and so it does in the register space (R65; DESIGN CHOICE, log entry 99). A line in error,
or a peer package that does not answer, raises ECC_SCRATCH (R82, R301). -/
def fetchUnit (s : State) (w : Who) (va : Word) : State × Except Raise (BitVec 32) :=
  if addrClass va != .translated then (s, .error (.at cPROT va))
  else
    match translate s w .fetch va with
    | (s, .error r) => (s, .error r)
    | (s, .ok (pa, _)) =>
      if !tableAt pa then (s, .error (.at cPROT va))
      else if lineBad s pa 4 || (w.deaf && paRange pa == .peer) then (s, .error (.at cECC_SCRATCH va))
      else
        let (s, u) := codeUnit s w.block pa
        (s, .ok u)

/-- Fetch the units of a lane word: three, or four with its prefix, or two prefixes in a row (R189, R190). -/
def fetchUnits (w : Who) : Nat → State → Word → State × Except Raise (List (BitVec 32))
  | 0, s, _ => (s, .ok [])
  | n + 1, s, va =>
    match fetchUnit s w va with
    | (s, .error r) => (s, .error r)
    | (s, .ok u) =>
      match fetchUnits w n s (va + 4) with
      | (s, .error r) => (s, .error r)
      | (s, .ok us) => (s, .ok (u :: us))

/-- Units already fetched go before others. -/
def unitsAfter (us : List (BitVec 32)) (x : State × Except Raise (List (BitVec 32))) :
    State × Except Raise (List (BitVec 32)) := (x.1, x.2.map fun vs => us ++ vs)

/-- A lane word's units at an address, each fetched once. -/
def fetchLane (s : State) (w : Who) (va : Word) : State × Except Raise (List (BitVec 32)) :=
  match fetchUnit s w va with
  | (s, .error r) => (s, .error r)
  | (s, .ok u) =>
    if isPrefix u then
      match fetchUnit s w (va + 4) with
      | (s, .error r) => (s, .error r)
      | (s, .ok u0) => if isPrefix u0 then (s, .ok [u, u0]) else unitsAfter [u, u0] (fetchUnits w 2 s (va + 8))
    else unitsAfter [u] (fetchUnits w 2 s (va + 4))

/-- The lane block whose words issue next (R14). -/
def Warp.laneBlock (w : Warp) : Option Dispatch := w.dispatch.find? (! ·.issued)

/-- The S-word a warp is about to issue, without effect on the machine. -/
def peekScalar (s : State) (k : Nat) : Option Instr :=
  let w := s.warpAt k
  match (fetchUnit s (whoOf s k w) w.pc).2 with
  | .ok u => (decodeS u).toOption
  | .error _ => none

/-- The lane word a warp is about to issue, without effect on the machine. -/
def peekLane (s : State) (k : Nat) : Option Instr :=
  let w := s.warpAt k
  match w.laneBlock with
  | none => none
  | some d =>
    match (fetchLane s (whoOf s k w) d.addr).2 with
    | .ok us => ((decodeLaneUnits us).toOption).map (·.1)
    | .error _ => none

/-- Whether every result of a warp's lane words in flight has landed. -/
def Warp.landed (w : Warp) (now : Nat) : Bool := w.inflight.all fun p => decide (p.landAt ≤ now)

/-- The scalar stream waits in LWAIT or EXIT, or in LGO or LGOR at the limit of R14 (R104). A wait of the lane stream
can end while a result is to come that its word's guard may read (DEDUCED, log entry 59). -/
def scalarStuck (s : State) (k : Nat) : Bool :=
  let w := s.warpAt k
  w.landed s.cycle && match peekScalar s k with
  | some .lwait | some .exitWarp => !w.dispatch.isEmpty
  | some (.lgo _) | some (.lgor _) => decide (4 ≤ w.dispatch.length)
  | _ => false

/-- The queues between the streams. -/
inductive SQueue where
  | dq (q : Nat) | xq | bq
  deriving DecidableEq, Repr

/-- Whether a warp's dq has a stream running (R102). -/
def Warp.streaming (w : Warp) (q : Nat) : Bool := ((w.dq.toList.getD q ⟨[], none⟩).stream).isSome

/-- Entries of a dq. -/
def Warp.dqEntries (w : Warp) (q : Nat) : List DqEntry := (w.dq.toList.getD q ⟨[], none⟩).entries

/-- The dq numbers a lane word pops, in order, and whether it pushes xq or bq (R100, R101). -/
def laneQueues (i : Instr) : List Nat × Bool × Bool :=
  match encodeLFields i with
  | none => ([], false, false)
  | some (c, f) =>
    let e : BitVec 13 := match c.pfx with
      | some p => p.e.code
      | none => 0
    let dq := fun (x : BitVec 13) => if 0x1800 ≤ x.toNat ∧ x.toNat ≤ 0x1803 then [x.toNat - 0x1800] else []
    let bq := match i with
      | .vote _ _ _ _ b => b
      | _ => false
    (dq f.a ++ dq f.b ++ dq f.c ++ dq e, f.d == 0x1808, bq)

end Sys2Proof.Machine
end

