-- ==== Sys2Proof/Machine/Operands.lean ====
section
/-!
DEFINITION. Sys2Proof/Machine/Operands.lean: the frame of a lane word and every operand form: guard, mask and
EXM (R17, R184, R220), the scoreboard (R16, R52), main-file, window, operand-file and last-result names (R36 to
R40, R50 to R54), dq, xq and bq (R99 to R104), the zero and discard ports (R186), pairs (R142).
-/
namespace Sys2Proof.Machine

/-! ### Grids, rows -/

def LaunchRec.early (r : LaunchRec) : Bool := r.flags.getLsbD 0
def LaunchRec.hv (r : LaunchRec) : Bool := r.flags.getLsbD 2
def LaunchRec.crew (r : LaunchRec) : Bool := r.flags.getLsbD 4
def LaunchRec.persist (r : LaunchRec) : Bool := r.flags.getLsbD 5

/-- The record of a warp's grid. -/
def recordOf (s : State) (w : Warp) : LaunchRec := (s.gridOf w.block).record

/-- Main-file rows a hypervector warp holds besides its names (R56). -/
def hvRows (r : LaunchRec) : Nat := if r.hv then 96 else 0

/-- Main-file rows a resident block holds: its warps', their host windows' (the window of the last crew and the
groups of host rows), its crews' windows and strokes (R12, R35, R51). -/
def blockRows (s : State) (b : Nat) : Nat :=
  let r := (s.gridOf b).record
  let blk := s.blockAt b
  let hosts := ((blockWarps s b).map fun e => if e.2.stroke.isSome then 0
    else 8 * e.2.groups.length + if e.2.hosts.isSome then 0 else e.2.win.toNat).sum
  let crews := s.crews.filter fun e => e.2.live && (s.warpAt e.2.host).block == b && e.1 / 64 == blockCore b
  let win := (crews.map fun e =>
    e.2.record.w + e.2.strokes.length * (8 * e.2.record.regs8 + hvRows r)).sum
  blk.nw * (8 * r.regs8 + hvRows r) - blk.donors * hvRows r + hosts + win

/-- The live blocks of a core. -/
def coreBlocks (s : State) (core : Nat) : List Nat :=
  ((List.range Config.blockSlots).map (8 * core + ·)).filter fun b => (s.blockAt b).live

/-- Main-file rows of a core that a self-test keeps out of use (R305). -/
def testedRows (s : State) (core : Nat) : Nat :=
  (s.testing.eraseDups.filter fun u => match u with
    | .regRow c _ => c == core
    | _ => false).length

/-- Free main-file rows of a core (R12). -/
def freeRows (s : State) (core : Nat) : Nat :=
  Config.mainRows - testedRows s core - ((coreBlocks s core).map (blockRows s)).sum

/-! ### The scoreboard -/

/-- A register as a word may read it: its value, the lanes in which a fixed-latency result has not landed (the value is
that from before it), and the lanes to be waited for (R16; lane by lane, DEDUCED, log entry 57). -/
structure Seen (α : Type) where
  val   : α
  early : Mask
  waits : Mask

/-- A register with nothing in flight. -/
def Seen.ready {α : Type} (x : α) : Seen α := ⟨x, 0, 0⟩

/-- A result that has landed replaces what stood in its lanes, whatever was in flight there (R52). -/
def Seen.landed {α : Type} (x : Seen α) (m : Mask) (f : α → α) : Seen α :=
  ⟨f x.val, x.early &&& ~~~m, x.waits &&& ~~~m⟩

/-- A result still to come makes its lanes early, or to be waited for. -/
def Seen.toCome {α : Type} (x : Seen α) (p : Pending) (m : Mask) : Seen α :=
  if p.interlocked then { x with waits := x.waits ||| m } else { x with early := x.early ||| m }

/-- Read a register through the results in flight, in issue order (R16, R52). `hit` gives the lanes that a word in
flight writes and what it does to the register. -/
def see {α : Type} (now : Nat) (hit : Pending → Option (Mask × (α → α))) : List Pending → Seen α → Seen α
  | [], acc => acc
  | p :: ps, acc =>
    match hit p with
    | none => see now hit ps acc
    | some (m, f) => see now hit ps (if p.landAt ≤ now then acc.landed m f else acc.toCome p m)

/-- The lanes that a list of writes writes. -/
def writtenLanes {α : Type} (ws : List (Mask × α)) : Mask := ws.foldl (fun m x => m ||| x.1) 0

/-- What a word in flight does to a vector register. -/
def hitVec (t : VTarget) (p : Pending) : Option (Mask × (Lanes → Lanes)) :=
  let ws := p.writes.filterMap fun x => match x with
    | .vec t' m v => if t' = t then some (m, v) else none
    | .pred .. | .hv .. | .bun .. => none
  if ws.isEmpty then none else some (writtenLanes ws, fun y => ws.foldl (fun y (m, v) => blend m v y) y)

/-- What a word in flight does to a predicate. -/
def hitPred (i : Nat) (p : Pending) : Option (Mask × (Mask → Mask)) :=
  let ws := p.writes.filterMap fun x => match x with
    | .pred j m b => if j = i then some (m, b) else none
    | .vec .. | .hv .. | .bun .. => none
  if ws.isEmpty then none
  else some (writtenLanes ws, fun y => ws.foldl (fun y (m, b) => (y &&& ~~~m) ||| (b &&& m)) y)

/-- What a word in flight does to a hypervector register. -/
def hitHv (i : Nat) (p : Pending) : Option (Mask × (HVec → HVec)) :=
  (p.writes.findSome? fun x => match x with
    | .hv j v => if j = i then some v else none
    | .vec .. | .pred .. | .bun .. => none).map fun v => (0xFFFF_FFFF, fun _ => v)

/-- What a word in flight does to a bundle accumulator. -/
def hitBun (i : Nat) (p : Pending) : Option (Mask × (Bundle → Bundle)) :=
  (p.writes.findSome? fun x => match x with
    | .bun j v => if j = i then some v else none
    | .vec .. | .pred .. | .hv .. => none).map fun v => (0xFFFF_FFFF, fun _ => v)

/-- l1 takes l0's old value, with what is still to come of it. -/
def Seen.follow (l1 l0 : Seen Lanes) (m : Mask) : Seen Lanes :=
  ⟨blend m l0.val l1.val, (l1.early &&& ~~~m) ||| (l0.early &&& m), (l1.waits &&& ~~~m) ||| (l0.waits &&& m)⟩

/-- Read l0 and l1 through the shifts in flight, in issue order (R52, R53). -/
def seeLast (now : Nat) : List Pending → Seen Lanes × Seen Lanes → Seen Lanes × Seen Lanes
  | [], x => x
  | p :: ps, (l0, l1) =>
    let due := decide (p.landAt ≤ now)
    seeLast now ps <| match p.shift with
      | .none => (l0, l1)
      | .one m v => if due then (l0.landed m (blend m v), l1.follow l0 m) else (l0.toCome p m, l1.toCome p m)
      | .pair m lo hi =>
        if due then (l0.landed m (blend m lo), l1.landed m (blend m hi)) else (l0.toCome p m, l1.toCome p m)

/-! ### The state of a lane word being issued -/

/-- The lanes' values of an operand, 64 bits wide: one register in the low half, or a pair. -/
abbrev Vals := LaneIx → BitVec 64

/-- Why a lane word does not complete: it waits, with what its reads of window slots have taken; it raises a cause (in
the state after its pops); or its warp parks for a dirty log. -/
inductive LStop where
  | waits (reads : List WinRead)
  | raises (s : State) (r : Raise) (sites : List EccSite) (popped : List (Nat × DqEntry))
  | stops (s : State)

/-- A lane word at issue: the machine, its block's dispatch, active(g), E, the entries popped, the chosen cause
among those its operands raised, what it writes, whether an operand is still to be waited for, and the groups of host
rows that its writes are the first to take. -/
structure LSt where
  s       : State
  disp    : Dispatch
  act     : Mask
  e       : Mask
  zero    : Bool
  popped  : List (Nat × DqEntry)
  cand    : Option (Raise × List EccSite)
  writes  : List LWrite
  shift   : LShift
  flags   : Flags
  blocked : Bool
  rows    : List Nat

/-- A part of a lane word's effect. -/
abbrev LM := StateT LSt (Except LStop)

/-- The lowest lane of a mask. -/
def lowest (m : Mask) : LaneIx := ((List.finRange 32).find? (inMask m)).getD 0

/-- Two raisings of one cause by lanes of one word: the lanes of both, the address of the lowest (R167). -/
def Raise.join (x y : Raise) : Raise :=
  let first := if lowest y.lanes < lowest x.lanes then y else x
  { first with lanes := x.lanes ||| y.lanes }

/-- Remember a cause that some lane raises; the highest of R162 stands. -/
def note (r : Raise) (sites : List EccSite) : LM Unit := do
  let st ← get
  if r.lanes = 0 then pure ()
  else
    match st.cand with
    | some (r', sites') =>
      if r.cause = r'.cause then set { st with cand := some (r'.join r, sites' ++ sites) }
      else if priority r.cause < priority r'.cause then set { st with cand := some (r, sites) }
    | none => set { st with cand := some (r, sites) }

/-- The word waits; what its window reads have taken is kept. -/
def wait {α : Type} : LM α := do
  let st ← get
  throw (.waits st.s.me.reads)

/-- An operand is to be waited for; the other operands are read all the same. -/
def block : LM Unit := modify fun st => { st with blocked := true }

/-- Wait for the operands that are to be waited for. -/
def sync : LM Unit := do
  let st ← get
  if st.blocked then wait else pure ()

/-- Whether the core has too few free rows for the groups of host rows that a word is the first to write (R51). -/
def LSt.short (st : LSt) : Bool :=
  !st.rows.isEmpty && decide (freeRows st.s (coreOf st.s.cur) < 8 * st.rows.length)

/-- Wait for the operands, then raise the cause they raised, if any, then wait for the rows its results need. -/
def settle : LM Unit := do
  sync
  let st ← get
  match st.cand with
  | some (r, sites) => throw (.raises st.s r sites st.popped)
  | none => if st.short then wait else pure ()

/-- A cause raised by every lane of E. -/
def noteHere (c : Cause) : LM Unit := do
  let st ← get
  note ⟨c, 0, st.e, false⟩ []

/-- ILLEGAL of a wait that cannot end (R104). A word pops and pushes whatever its E, so its active lanes raise it. -/
def noteStuck : LM Unit := do
  let st ← get
  note ⟨cILLEGAL, 0, st.act, false⟩ []

/-- Raise a cause at once, after those noted. -/
def fail (r : Raise) : LM Unit := do
  note r []
  settle

/-- What a word needs of a register: the lanes it waits for, and the lanes of E that raise a cause of given lanes. -/
structure Need where
  lanes : Mask
  blame : Mask → Mask

/-- Every lane of active(g), each for itself: a cause is raised in E only (R39, R220). -/
def needActive : LM Need := do
  let st ← get
  pure ⟨st.act, fun m => m &&& st.e⟩

/-- The lanes of E, each for itself: the movement words (R232). -/
def needE : LM Need := do
  let st ← get
  pure ⟨st.e, fun m => m &&& st.e⟩

/-- Every lane, for every lane of E. -/
def needWhole : LM Need := do
  let st ← get
  pure ⟨0xFFFF_FFFF, fun m => if m = 0 then 0 else st.e⟩

/-- Take what the scoreboard gives; wait, or note STALL_SHORT where the block checks (R16). -/
def take {α : Type} (need : Need) (x : Seen α) : LM α := do
  let st ← get
  if x.waits &&& need.lanes ≠ 0 then block
  if st.disp.chk then note ⟨cSTALL_SHORT, 0, need.blame (x.early &&& need.lanes), false⟩ []
  pure x.val

/-- The lanes in which a site of an error lies in a register of the acting warp or in a slot of a crew. -/
def siteLanes (k : Nat) (r : LReg) (row : Option (Nat × Nat)) (e : EccSite) : Option Mask :=
  match e with
  | .lreg k' r' m => if k' = k ∧ r' = r ∧ row.isNone then some m else none
  | .crewRow c j m => if row = some (c, j) then some m else none
  | _ => none

/-- Note ECC_REG where the storage of a register of the lane stream, or of a window slot, holds one of some
uncorrectable errors (R61, R162). -/
def noteEcc (r : LReg) (row : Option (Nat × Nat)) (need : Need) (sites : List EccSite) : LM Unit := do
  let st ← get
  let touched := fun e => (siteLanes st.s.cur r row e).any fun m => m &&& need.lanes != 0
  let bad := sites.filter touched
  let lanes := bad.foldl (fun acc e => acc ||| (siteLanes st.s.cur r row e).getD 0) 0
  note ⟨cECC_REG, 0, need.blame (lanes &&& need.lanes), false⟩ bad

/-- The same, of the errors that the storage holds. -/
def checkEcc (r : LReg) (row : Option (Nat × Nat)) (need : Need) : LM Unit := do
  noteEcc r row need (← get).s.poison

/-! ### Predicates -/

/-- Stage predicates (R41): true outside a crew. -/
def stagePred (s : State) (w : Warp) (j : Nat) : Mask :=
  match w.stroke with
  | none => 0xFFFF_FFFF
  | some (c, k) =>
    let n := (s.crewAt c).n
    let on := if n = 0 then j = 0 else j ≤ k ∧ k - j < n
    if on then 0xFFFF_FFFF else 0

/-- A predicate by its code (R184). -/
def readPredIn (need : Need) (c : PCode) : LM Mask := do
  let st ← get
  let w := st.s.me
  if 12 ≤ c.toNat then pure (stagePred st.s w (c.toNat - 12))
  else if c = 0 then pure 0xFFFF_FFFF
  else do
    checkEcc (.p c.toNat) none need
    take need (see st.s.cycle (hitPred c.toNat) w.inflight (.ready (w.preg c.toNat)))

/-- A predicate operand. -/
def readPred (c : PCode) : LM Mask := do readPredIn (← needActive) c

/-! ### Vector names -/

/-- Private names of a warp: P (R50), of its crew in a stroke (R35). -/
def privNames (s : State) (w : Warp) : Nat :=
  match w.stroke with
  | some (c, _) => 8 * (s.crewAt c).record.regs8
  | none => 8 * (recordOf s w).regs8

/-- The value a release gives an absent lane of a stroke's own out-slot (R40); none where HOLD waits for the
release of the stroke below. -/
def vacantValue (cr : Crew) (k j : Nat) : Option Lanes :=
  match cr.record.policy.toNat with
  | 0 => some zeroLanes
  | 1 => some (Vector.replicate 32 cr.record.const)
  | _ => if k ≤ cr.relMark then some (Tbl.get zeroLanes cr.slots (slotOf cr.record ((k : Int) - 1) j)) else none

/-- Whether a stroke number has been launched and its window slots are its own: not one that a BREAK has cancelled,
nor one cancelled for a relaunch until it is launched again (R38, R281; DEDUCED, log entry 58). -/
def Crew.launched (cr : Crew) (k : Int) : Bool := decide (k < cr.next) && !cr.broke.any fun b => decide ((b : Int) < k)

/-- A read of a slot that another stroke writes: the lanes present are taken, and kept while the others are waited for
(R39, R45). -/
def readPresent (cr : Crew) (slot : Nat) (need : Need) : LM Lanes := do
  let st ← get
  let w := st.s.me
  let old := (w.reads.find? (·.slot == slot)).getD ⟨slot, 0, 0, zeroLanes⟩
  let x := WinRead.feed cr { old with need := old.need ||| need.lanes }
  set { st with s := st.s.setMe { w with reads := x :: w.reads.filter (·.slot != slot) } }
  if need.lanes &&& ~~~x.got ≠ 0 then block
  pure x.vals

/-- A stroke's read of a window name (R37 to R40). A lane of its own out-slot that it has not written is waited for
where HOLD waits for the stroke below, and is else read where HOLD takes it from (R61). Once a stroke W/S above the one
read has launched, the slot is read as it stands, whatever lanes a waiting word had taken (R38; DESIGN CHOICE, log entry
93). -/
def readWindow (c k j : Nat) (need : Need) : LM Lanes := do
  let st ← get
  let cr := st.s.crewAt c
  let r := cr.record
  if r.w ≤ j then do
    noteHere cWINDOW
    pure zeroLanes
  else
    let slot := slotOf r k j
    checkEcc (.v (256 + j)) (some (c, slot)) need
    let held := Tbl.get zeroLanes cr.slots slot
    let pres := Tbl.get 0 cr.pres slot
    if j < r.s then
      let vacant : Need := ⟨need.lanes &&& ~~~pres, need.blame⟩
      if r.policy.toNat = 2 ∧ k ≤ cr.relMark then checkEcc (.v (256 + j)) (some (c, slotOf r ((k : Int) - 1) j)) vacant
      let base : Seen Lanes := match vacantValue cr k j with
        | some v => .ready (blend pres held v)
        | none => ⟨held, 0, ~~~pres⟩
      take need (see st.s.cycle (hitVec (.slot slot)) st.s.me.inflight base)
    else if cr.launched ((k : Int) - (j / r.s : Nat) + (r.w / r.s : Nat)) then pure held
    else readPresent cr slot need

/-- The main-file register or window name v`i`, for the lanes needed (R50, R51). -/
def readName (i : Nat) (need : Need) : LM Lanes := do
  let st ← get
  let w := st.s.me
  if i < 256 then
    if i < privNames st.s w then do
      checkEcc (.v i) none need
      take need (see st.s.cycle (hitVec (.main i)) w.inflight (.ready (Tbl.get zeroLanes w.v i)))
    else do
      noteHere cWINDOW
      pure zeroLanes
  else if !(recordOf st.s w).crew then do
    noteHere cWINDOW
    pure zeroLanes
  else
    match w.stroke with
    | some (c, k) => readWindow c k (i - 256) need
    | none =>
      if w.hosts.isSome then do
        noteHere cWINDOW
        pure zeroLanes
      else do
        checkEcc (.v i) none need
        take need (see st.s.cycle (hitVec (.host (i - 256))) w.inflight (.ready (Tbl.get zeroLanes w.host (i - 256))))

/-- Where a write to v`i` goes (R37, R50, R51). A word that is the first to write in a group of host rows, in some lane,
takes the group as it issues, waiting for free rows (`settle`, `laneFinish`). None where it raises WINDOW. -/
def nameTarget (i : Nat) : LM (Option VTarget) := do
  let st ← get
  let w := st.s.me
  if i < 256 then
    if i < privNames st.s w then pure (some (.main i))
    else do
      noteHere cWINDOW
      pure none
  else if !(recordOf st.s w).crew || w.hosts.isSome then do
    noteHere cWINDOW
    pure none
  else
    let j := i - 256
    match w.stroke with
    | some (c, k) =>
      let cr := st.s.crewAt c
      let released := cr.strokes.any fun x => x.k == k && x.relReq
      if j < cr.record.s ∧ j < cr.record.w ∧ !released then pure (some (.slot (slotOf cr.record k j)))
      else do
        noteHere cWINDOW
        pure none
    | none =>
      let held := decide (j < w.win.toNat) || w.groups.contains (j / 8) || st.rows.contains (j / 8)
      let writes := (if st.zero then st.act else st.e) != 0
      if writes && !held then set { st with rows := insertAsc (j / 8) st.rows }
      pure (some (.host j))

/-! ### Queues of the lane stream -/

/-- The oldest held entry that came from a dq, and the others (R163). -/
def takeHeld (q : Nat) : List (Nat × DqEntry) → Option (DqEntry × List (Nat × DqEntry))
  | [] => none
  | x :: rest => if x.1 = q then some (x.2, rest) else (takeHeld q rest).map fun y => (y.1, x :: y.2)

/-- The next entry of a dq for a word: the oldest that it holds from having raised its cause, else the queue's oldest;
and the warp after it (R100, R163). -/
def Warp.nextEntry (w : Warp) (q : Nat) : Option (DqEntry × Warp) :=
  match takeHeld q w.held with
  | some (x, rest) => some (x, { w with held := rest })
  | none =>
    let d := w.dq.toList.getD q ⟨[], none⟩
    match d.entries with
    | x :: rest => some (x, { w with dq := w.dq.setIfInBounds q { d with entries := rest } })
    | [] => none

/-- Pop a dq entry (R100), with the cause that its stream left in it (R103). A wait that cannot end is ILLEGAL (R104).
-/
def popDq (q : Nat) : LM Lanes := do
  let st ← get
  match st.s.me.nextEntry q with
  | some (x, w) => do
    set { st with s := st.s.setMe w, popped := st.popped ++ [(q, x)] }
    match x.fault with
    | some (c, a, second) => note ⟨c, a, st.e, second⟩ []
    | none => pure ()
    pure x.val
  | none =>
    if !st.s.me.streaming q && scalarStuck st.s st.s.cur then noteStuck else block
    pure zeroLanes

/-! ### Operands -/

/-- One register in the low half. -/
def single (v : Lanes) : Vals := fun i => (lane v i).setWidth 64
/-- One register, sign-extended to 64 bits. -/
def extended (v : Lanes) : Vals := fun i => (lane v i).signExtend 64
/-- Two registers, low and high. -/
def paired (lo hi : Lanes) : Vals := fun i => lane hi i ++ lane lo i

/-- A register of the operand file. -/
def readOper (i : Nat) (need : Need) : LM Lanes := do
  let st ← get
  checkEcc (.o i) none need
  take need (see st.s.cycle (hitVec (.oper i)) st.s.me.inflight (.ready (st.s.me.o.toList.getD i zeroLanes)))

/-- l0 or l1 as it stands before the word's own shift, read through the shifts that are due, with the errors they copy
(R53, R61). -/
def readLast (i : Nat) (need : Need) : LM Lanes := do
  let st ← get
  noteEcc (.l i) none need (st.s.dueShifts st.s.cur).poison
  let (l0, l1) := seeLast st.s.cycle st.s.me.inflight (.ready st.s.me.l0, .ready st.s.me.l1)
  take need (if i = 0 then l0 else l1)

/-- A source operand, one register or a pair, for the lanes needed (R142, R186). -/
def readOp (pair : Bool) (o : Opnd) (need : Need) : LM Vals := do
  match o with
  | .v i => do
    let lo ← readName i.toNat need
    if pair then do
      let hi ← readName (i.toNat + 1) need
      pure (paired lo hi)
    else pure (single lo)
  | .o i => do
    let lo ← readOper i.toNat need
    if pair then do
      let hi ← readOper (i.toNat + 1) need
      pure (paired lo hi)
    else pure (single lo)
  | .l i => do
    let lo ← readLast i.toNat need
    if pair then do
      let hi ← readLast (i.toNat + 1) need
      pure (paired lo hi)
    else pure (single lo)
  | .dq q => do
    let x ← popDq q.toNat
    pure (if pair then extended x else single x)
  | .xq | .zero => pure fun _ => 0

/-- A source operand, in the lanes of active(g) (R39, R218). -/
def readE (pair : Bool) (o : Opnd) : LM Vals := do readOp pair o (← needActive)

/-- A source operand of a movement word, in the lanes of E (R232). -/
def readMoved (pair : Bool) (o : Opnd) : LM Vals := do readOp pair o (← needE)

/-- Operand b or its immediate (R187). -/
def readB (pair : Bool) (b : BSrc) : LM Vals := do
  match b with
  | .op o => readE pair o
  | .imm i => pure fun _ => if pair then i.signExtend 64 else (i.signExtend 32).setWidth 64

/-- The prefix's fourth operand: none without a prefix (R221). -/
def readFourth (c : LCtl) : LM (Option Vals) := do
  match c.pfx with
  | none => pure none
  | some p => do
    let v ← readE (c.ty == 8) p.e
    pure (some v)

/-- A hypervector register, and a bundle accumulator. -/
def readHv (i : BitVec 3) : LM HVec := do
  let st ← get
  let need ← needWhole
  checkEcc (.h i.toNat) none need
  take need (see st.s.cycle (hitHv i.toNat) st.s.me.inflight (.ready st.s.me.h[i.toNat]))

def readBun (i : BitVec 1) : LM Bundle := do
  let st ← get
  let need ← needWhole
  checkEcc (.k i.toNat) none need
  take need (see st.s.cycle (hitBun i.toNat) st.s.me.inflight (.ready (st.s.me.k.toList.getD i.toNat 0)))

/-! ### Destinations -/

/-- Where a result goes. -/
inductive Dst where
  | vec (lo : Option VTarget) (hi : Option VTarget)
  | xq
  | none
  deriving DecidableEq, Repr

/-- Room in xq; a wait that cannot end is ILLEGAL (R104). -/
def needXq : LM Unit := do
  let st ← get
  if st.s.me.xq.length < 8 then pure ()
  else if scalarStuck st.s st.s.cur then noteStuck
  else block

/-- Prepare the destination, a pair in i64. -/
def prepare (pair : Bool) (d : Opnd) : LM Dst := do
  match d with
  | .v i => do
    let lo ← nameTarget i.toNat
    let hi ← if pair then nameTarget (i.toNat + 1) else pure none
    pure (.vec lo hi)
  | .o i => pure (.vec (some (.oper i.toNat)) (if pair then some (.oper (i.toNat + 1)) else none))
  | .l _ | .zero | .dq _ => pure .none
  | .xq => do
    needXq
    pure .xq

/-- The entry a result pushes to xq (R101). -/
def xqEntry (ty : BitVec 4) (x : BitVec 64) : Word :=
  if ty = 8 then x
  else if ty = 1 then (x.setWidth 32).setWidth 64
  else (x.setWidth 32).signExtend 64

/-- Write a result in the lanes of E, zeros in the rest of active(g) under a zeroing prefix, and shift the
last-result file (R53, R218, R220). `pair` is a 64-bit result. -/
def emit (ty : BitVec 4) (pair : Bool) (dst : Dst) (val : Vals) : LM Unit := do
  let st ← get
  let m := if st.zero then st.act else st.e
  let at_ := fun (i : LaneIx) => if inMask st.e i then val i else 0
  let lo := mkLanes fun i => (at_ i).setWidth 32
  let hi := mkLanes fun i => (at_ i).extractLsb' 32 32
  let ws := match dst with
    | .vec (some t) (some u) => [LWrite.vec t m lo, .vec u m hi]
    | .vec (some t) none => [.vec t m lo]
    | .vec none _ | .xq | .none => []
  let shift := if pair then LShift.pair m lo hi else .one m lo
  let s := match dst with
    | .xq => st.s.setMe { st.s.me with xq := st.s.me.xq ++ [xqEntry ty (val (lowest st.act))] }
    | .vec .. | .none => st.s
  set { st with s := s, writes := st.writes ++ ws, shift := shift }

/-- Write a predicate in the lanes of E, zeros under a zeroing prefix (R220, R225); p0 discards it (R55). -/
def emitPred (t : PCode) (bits : BitVec 32) : LM Unit := do
  let st ← get
  let m := if st.zero then st.act else st.e
  if t = 0 then pure ()
  else set { st with writes := st.writes ++ [LWrite.pred t.toNat m (bits &&& st.e)] }

/-- Write a register of the hypervector file. -/
def emitHv (i : BitVec 3) (x : HVec) : LM Unit :=
  modify fun st => { st with writes := st.writes ++ [.hv i.toNat x] }
def emitBun (i : BitVec 1) (x : Bundle) : LM Unit :=
  modify fun st => { st with writes := st.writes ++ [.bun i.toNat x] }

/-- Raise sticky flags (R150). -/
def raiseFlags (f : Flags) : LM Unit := modify fun st => { st with flags := st.flags ||| f }

/-! ### Issuing a lane word -/

/-- What a lane word asks before it acts: its fixed latency or none (R188), whether it closes a region (R164),
whether it waits for commitment (R42). -/
structure LKind where
  lat     : Option Nat
  closes  : Bool
  commits : Bool

abbrev LKind.fixed (n : Nat) : LKind := ⟨some n, false, false⟩
abbrev LKind.memory : LKind := ⟨none, false, false⟩

/-- Units of a lane word with its prefix. -/
def laneUnits (c : LCtl) : Nat := if c.pfx.isSome then 4 else 3

/-- The lane stream after a word of a warp: the next address, the end of the block, the stall count (R14, R16,
R184). -/
def Warp.laneIssued (w : Warp) (c : LCtl) (now : Nat) : Warp :=
  let step := fun (d : Dispatch) => { d with addr := d.addr + BitVec.ofNat 64 (4 * laneUnits c), issued := c.e }
  let n := w.dispatch.findIdx (! ·.issued)
  { w.counted true with
    dispatch := w.dispatch.modify n step
    laneAt := now + c.w.toNat + 1
    iret := w.iret + 1
    held := []
    reads := [] }

/-- A lane word issues: its results enter the list of those in flight, and the host rows they are the first to write are
taken (R51). -/
def laneFinish (k : LKind) (c : LCtl) (st : LSt) : State :=
  let w := st.s.me
  let p : Pending :=
    ⟨st.disp.seq, st.s.cycle + k.lat.getD Config.varLatency, k.lat.isNone, st.writes, st.shift, st.flags⟩
  let idle := st.writes.isEmpty && st.shift == .none && st.flags == 0
  let w := { w.laneIssued c st.s.cycle with inflight := if idle then w.inflight else w.inflight ++ [p] }
  let w := { w with groups := st.rows.foldl (fun gs r => insertAsc r gs) w.groups }
  let w := if k.closes then { w with openRgn := false } else w
  let s := st.s.setMe w
  s.setBlock w.block ((s.blockAt w.block).moved s.cycle k.closes)

/-- A lane word whose active(g) is empty: its slot, its stall count and its end bit only (R17, R190). -/
def laneSkip (c : LCtl) (s : State) : State :=
  let w := s.me.laneIssued c s.cycle
  let s := s.setMe { w with held := s.me.held }
  s.setBlock w.block ((s.blockAt w.block).moved s.cycle false)

/-- The trap of a lane word's cause, or that of the scalar word's pending cause where it stands higher (R162, R165). -/
def laneTrap (w : Warp) (k : Nat) (epc : Word) (r : Raise) (sites : List EccSite) : Trap :=
  let mine : Trap := ⟨r, true, epc, w.pc, false, sites, true⟩
  match w.fault with
  | none => mine
  | some x => if w.wait = .none ∧ priority x.cause < priority r.cause then x.trap w k true else mine

/-- The acting warp takes the cause of its lane word. -/
def takeLane (s s' : State) (epc : Word) (r : Raise) (sites : List EccSite) : Out :=
  let s' := s'.setMe (s'.me.counted true)
  match takeSync s' s.cur (laneTrap s'.me s.cur epc r sites) with
  | some s'' => .next s''
  | none => waits s

/-- A lane word raises a cause: taken with its pops kept, or held until its stroke commits (R42, R163). -/
def raiseLane (s s' : State) (epc : Word) (r : Raise) (sites : List EccSite) (popped : List (Nat × DqEntry)) :
    Out :=
  let w := s'.me
  let w := { w with held := popped ++ w.held }
  if (uncommitted s s.me).isSome then
    let f : LaneFault := ⟨r.cause, r.addr, r.lanes, r.second, sites⟩
    .next (s'.setMe { w.counted true with laneFault := some f, reads := [] })
  else takeLane s (s'.setMe w) epc r sites

/-- What becomes of a lane word at issue, before its own effect. -/
inductive LIssue where
  | stuck
  | waits
  | skips
  | raises (d : Dispatch) (r : Raise) (sites : List EccSite)
  | acts (st : LSt)

/-- EXM as a lane block's words find it (R17). -/
def Dispatch.mask (d : Dispatch) (w : Warp) : Mask := d.exm.getD w.exm

/-- The state of a word whose guard and mask are still to be read, in the lanes of a mask. -/
def LSt.start (s : State) (d : Dispatch) (m : Mask) : LSt :=
  ⟨s, d, m, m, false, [], none, [], .none, 0, false, []⟩

/-- active(g) of a lane word that issues (R17, R184); none where the guard is to be waited for. -/
def readGuard (s : State) (d : Dispatch) (c : LCtl) : Option Mask :=
  let m := d.mask s.me
  if m = 0 then some 0
  else
    match (readPred c.g).run (LSt.start s d m) with
    | .ok (g, st) => if st.blocked then none else some (m &&& g)
    | .error _ => none

/-- The lanes of active(g) that the mask of a word's prefix leaves; none where it is to be waited for (R220). -/
def readMask (s : State) (d : Dispatch) (c : LCtl) (act : Mask) : Option Mask :=
  match c.pfx with
  | none => some act
  | some p =>
    match (readPred p.mask).run (LSt.start s d act) with
    | .ok (m, st) => if st.blocked then none else some (act &&& m)
    | .error _ => none

/-- Note the causes of reading the guard and the mask, in the lanes of E (R16, R61, R220; DEDUCED, log entry 59). -/
def noteGuard (c : LCtl) : LM Unit := do
  let _ ← readPred c.g
  match c.pfx with
  | some p => do
    let _ ← readPred p.mask
    pure ()
  | none => pure ()

/-- The guard, then the legality of the word, then the mask of its prefix (R184, R190, R220). A word whose active(g) is
empty raises nothing (R17); the causes of reading the guard and the mask compete with those of the operands (R162). -/
def laneIssue (k : LKind) (c : LCtl) (legal : Bool) (s : State) : LIssue :=
  let w := s.me
  match w.laneBlock with
  | none => .stuck
  | some d =>
    if !canRun s || w.sup then .stuck
    else if s.cycle < w.laneAt then .waits
    else
      match readGuard s d c with
      | none => .waits
      | some act =>
        let acting := LSt.start s d act
        if act = 0 then .skips
        else if !legal then
          match (do let _ ← readPred c.g; noteHere cILLEGAL; settle : LM Unit).run acting with
          | .error (.raises _ r sites _) => .raises d r sites
          | .error (.waits _) | .error (.stops _) | .ok _ => .waits
        else if k.commits && (uncommitted s w).isSome then .waits
        else
          match readMask s d c act with
          | none => .waits
          | some e =>
            let st := { acting with e := e, zero := c.pfx.any (·.zero) }
            match (noteGuard c).run st with
            | .ok (_, st) => .acts st
            | .error _ => .waits

/-- The lane word waits, and what its reads of window slots have taken is kept (R39). -/
def waitsReading (s : State) (reads : List WinRead) : Out := waits (s.setMe { s.me with reads := reads })

/-- Run a lane word of the acting warp (R218). -/
def laneWord (k : LKind) (c : LCtl) (legal : Bool) (body : LM Unit) (s : State) : Out :=
  match laneIssue k c legal s with
  | .stuck => .fault .noWarp
  | .waits => waits s
  | .skips => .next (laneSkip c s)
  | .raises d r sites => raiseLane s s d.addr r sites []
  | .acts st =>
    match body.run st with
    | .error (.waits reads) => waitsReading s reads
    | .error (.raises s' r sites popped) => raiseLane s s' st.disp.addr r sites popped
    | .error (.stops s') => .next (s'.setMe (s'.me.counted true))
    | .ok (_, st') => .next (laneFinish k c st')

/-- A word whose bits are no instruction: ILLEGAL where a lane is active (R190). -/
def laneIllegal (c : LCtl) : State → Out := laneWord (.fixed 4) c false (pure ())

/-! ### Waits that cannot end (R104) -/

/-- The control fields of a lane word. -/
def laneCtl (i : Instr) : Option LCtl := (encodeLFields i).map (·.1)

/-- Whether the next lane word of a warp is not one that waits on a queue: its stall count runs, a result is still to
land that its guard may read, or its guard leaves it no active lane (R14, R16, R17). -/
def laneIdle (s : State) (k : Nat) (i : Instr) : Bool :=
  let w := s.warpAt k
  match w.laneBlock, laneCtl i with
  | some d, some c => decide (s.cycle < w.laneAt) || !w.landed s.cycle || (readGuard { s with cur := k } d c).getD 0 == 0
  | _, _ => true

/-- The queue that a warp's next lane word waits on and that only the scalar stream fills or drains (R104). -/
def laneQueueWait (s : State) (k : Nat) : Option SQueue :=
  let w := s.warpAt k
  match peekLane s k with
  | none => none
  | some i =>
    if laneIdle s k i then none
    else
      let (pops, toXq, toBq) := laneQueues i
      let has := fun q => (w.dqEntries q).length + (w.held.filter (·.1 == q)).length
      let short := pops.find? fun q => decide (has q < pops.count q) && !w.streaming q
      match short with
      | some q => some (.dq q)
      | none =>
        if toXq && decide (8 ≤ w.xq.length) then some .xq
        else if toBq && decide (32 ≤ w.bq.length) then some .bq
        else none

/-- A scalar word's wait on a queue cannot end (R104): no lane block is uncompleted, or the lane stream waits on
another queue of the scalar stream. -/
def scalarDeadlock (s : State) (q : SQueue) : Bool :=
  s.me.dispatch.isEmpty ||
    match laneQueueWait s s.cur with
    | some q' => q' != q
    | none => false

end Sys2Proof.Machine
end

