-- ==== Sys2Proof/Machine/Scalar.lean ====
section
/-!
DEFINITION. Sys2Proof/Machine/Scalar.lean: integer arithmetic, immediates and constants of the scalar stream
(R194 to R196), NOP (R216).
-/
namespace Sys2Proof.Machine

/-- An S-word that computes one register from two (R193). -/
def alu (d a b : SReg) (f : Word → Word → Word) (s : State) : Out :=
  scalarWord .plain [a, b] (fun s => .done (s.setS d (f (s.sreg a) (s.sreg b))) none) s

/-- An S-word that computes one register from one (R193). -/
def aluI (d a : SReg) (f : Word → Word) (s : State) : Out :=
  scalarWord .plain [a] (fun s => .done (s.setS d (f (s.sreg a))) none) s

/-- A truth value as a register (R194). -/
def truth (b : Bool) : Word := if b then 1 else 0

/-- The shift amount, bits [5:0] (R194). -/
def shamt (b : Word) : Nat := b.toNat % 64

/-- R194's integer operations. -/
def wMulh (a b : Word) : Word := BitVec.ofInt 64 (a.toInt * b.toInt / 2 ^ 64)
def wMulhu (a b : Word) : Word := BitVec.ofNat 64 (a.toNat * b.toNat / 2 ^ 64)
def wDiv (a b : Word) : Word := if b = 0 then BitVec.allOnes 64 else a.sdiv b
def wDivu (a b : Word) : Word := if b = 0 then BitVec.allOnes 64 else a / b
def wRem (a b : Word) : Word := if b = 0 then BitVec.allOnes 64 else a.srem b
def wRemu (a b : Word) : Word := if b = 0 then BitVec.allOnes 64 else a % b
def wMin (a b : Word) : Word := if a.slt b then a else b
def wMax (a b : Word) : Word := if a.slt b then b else a
def wMinu (a b : Word) : Word := if a.ult b then a else b
def wMaxu (a b : Word) : Word := if a.ult b then b else a
def wAddw (a b : Word) : Word := ((a + b).extractLsb' 0 32 : BitVec 32).signExtend 64
/-- Leading zero bits. -/
def clzBits {n : Nat} (x : BitVec n) : Nat := if x = 0 then n else n - 1 - Nat.log2 x.toNat
/-- Set bits. -/
def popBits {n : Nat} (x : BitVec n) : Nat := (List.range n).countP fun i => x.getLsbD i

def execAdd (d a b : SReg) : State → Out := alu d a b fun x y => x + y
def execSub (d a b : SReg) : State → Out := alu d a b fun x y => x - y
def execAnd (d a b : SReg) : State → Out := alu d a b fun x y => x &&& y
def execOr (d a b : SReg) : State → Out := alu d a b fun x y => x ||| y
def execXor (d a b : SReg) : State → Out := alu d a b fun x y => x ^^^ y
def execShl (d a b : SReg) : State → Out := alu d a b fun x y => x <<< shamt y
def execShr (d a b : SReg) : State → Out := alu d a b fun x y => x >>> shamt y
def execSra (d a b : SReg) : State → Out := alu d a b fun x y => x.sshiftRight (shamt y)
def execMul (d a b : SReg) : State → Out := alu d a b fun x y => x * y
def execMulh (d a b : SReg) : State → Out := alu d a b wMulh
def execMulhu (d a b : SReg) : State → Out := alu d a b wMulhu
def execDiv (d a b : SReg) : State → Out := alu d a b wDiv
def execDivu (d a b : SReg) : State → Out := alu d a b wDivu
def execRem (d a b : SReg) : State → Out := alu d a b wRem
def execRemu (d a b : SReg) : State → Out := alu d a b wRemu
def execMin (d a b : SReg) : State → Out := alu d a b wMin
def execMax (d a b : SReg) : State → Out := alu d a b wMax
def execMinu (d a b : SReg) : State → Out := alu d a b wMinu
def execMaxu (d a b : SReg) : State → Out := alu d a b wMaxu
def execSlt (d a b : SReg) : State → Out := alu d a b fun x y => truth (x.slt y)
def execSltu (d a b : SReg) : State → Out := alu d a b fun x y => truth (x.ult y)
def execSeq (d a b : SReg) : State → Out := alu d a b fun x y => truth (x == y)
def execSne (d a b : SReg) : State → Out := alu d a b fun x y => truth (x != y)
def execAddw (d a b : SReg) : State → Out := alu d a b wAddw
def execClz (d a : SReg) : State → Out := aluI d a fun x => BitVec.ofNat 64 (clzBits x)
def execPopc (d a : SReg) : State → Out := aluI d a fun x => BitVec.ofNat 64 (popBits x)

/-- The sign-extended immediate of R195. -/
def simm (i : BitVec 13) : Word := i.signExtend 64

def execAddi (d a : SReg) (i : BitVec 13) : State → Out := aluI d a fun x => x + simm i
def execAndi (d a : SReg) (i : BitVec 13) : State → Out := aluI d a fun x => x &&& simm i
def execOri (d a : SReg) (i : BitVec 13) : State → Out := aluI d a fun x => x ||| simm i
def execXori (d a : SReg) (i : BitVec 13) : State → Out := aluI d a fun x => x ^^^ simm i
def execShli (d a : SReg) (n : BitVec 6) : State → Out := aluI d a fun x => x <<< n.toNat
def execShri (d a : SReg) (n : BitVec 6) : State → Out := aluI d a fun x => x >>> n.toNat
def execSrai (d a : SReg) (n : BitVec 6) : State → Out := aluI d a fun x => x.sshiftRight n.toNat
def execSlti (d a : SReg) (i : BitVec 13) : State → Out := aluI d a fun x => truth (x.slt (simm i))
def execSltui (d a : SReg) (i : BitVec 13) : State → Out := aluI d a fun x => truth (x.ult (simm i))
def execMuli (d a : SReg) (i : BitVec 13) : State → Out := aluI d a fun x => x * simm i

/-- LI (R196). -/
def execLi (d : SReg) (i : BitVec 19) : State → Out :=
  scalarWord .plain [] fun s => .done (s.setS d (i.signExtend 64)) none
/-- LUI reads its destination (R196). -/
def execLui (d : SReg) (i : BitVec 19) : State → Out := aluI d d fun x => (x <<< 19) ||| i.setWidth 64
/-- LUH keeps bits [44:0] of its destination (R196). -/
def execLuh (d : SReg) (i : BitVec 19) : State → Out :=
  aluI d d fun x => (i.setWidth 64 <<< 45) ||| (x &&& 0x1FFF_FFFF_FFFF)

/-- NOP has no effect (R216). -/
def execNop : State → Out := scalarWord .plain [] fun s => .done s none

end Sys2Proof.Machine
end

