-- ==== Sys2Proof/Machine/LaneInt.lean ====
section
/-!
DEFINITION. Sys2Proof/Machine/LaneInt.lean: the integer lane words (R222, R223), compares, predicates and EXM
(R224 to R227).
-/
namespace Sys2Proof.Machine

/-! ### Element types -/

/-- Width of an element of an integer type (R142). -/
def tyWidth (ty : BitVec 4) : Nat :=
  match ty.toNat with
  | 3 | 4 | 5 => 16
  | 6 | 7 => 8
  | 8 => 64
  | _ => 32

/-- Unsigned types (R142). -/
def tyUnsigned (ty : BitVec 4) : Bool := ty == 1 || ty == 7

/-- Whether the type is the i64 pair. -/
abbrev isPair (ty : BitVec 4) : Bool := ty == 8

/-- Element `j` of width `w`. -/
def elem (w : Nat) (x : BitVec 64) (j : Nat) : BitVec w := x.extractLsb' (w * j) w

/-- Put elements of width `w` together. -/
def packElems (w : Nat) (es : List (BitVec w)) : BitVec 64 :=
  es.zipIdx.foldl (fun acc (e, j) => acc ||| (e.setWidth 64 <<< (w * j))) 0

/-- Elements of a type in a lane: one, two or four in 32 bits, one in 64. -/
def tyCount (ty : BitVec 4) : Nat := if isPair ty then 1 else 32 / tyWidth ty

/-- Compute element by element (R222). -/
def perElem (ty : BitVec 4) (f : ∀ w, BitVec w → BitVec w → BitVec w) (x y : BitVec 64) : BitVec 64 :=
  let w := tyWidth ty
  packElems w ((List.range (tyCount ty)).map fun j => f w (elem w x j) (elem w y j))

/-- A shift amount: the element modulo the width (R222). -/
def amount {w : Nat} (y : BitVec w) : Nat := y.toNat % w

/-- A signed product's bits from `w` up. -/
def mulHiS {w : Nat} (x y : BitVec w) : BitVec w := BitVec.ofInt w (x.toInt * y.toInt / 2 ^ w)
def mulHiU {w : Nat} (x y : BitVec w) : BitVec w := BitVec.ofNat w (x.toNat * y.toNat / 2 ^ w)

/-- The range of a type's element, and a clamp to it (R143). -/
def loOf (signed : Bool) (w : Nat) : Int := if signed then -(2 ^ (w - 1)) else 0
def hiOf (signed : Bool) (w : Nat) : Int := if signed then 2 ^ (w - 1) - 1 else 2 ^ w - 1
def clampInt (lo hi x : Int) : Int := if x < lo then lo else if hi < x then hi else x
/-- An element as an integer. -/
def intOf {w : Nat} (signed : Bool) (x : BitVec w) : Int := if signed then x.toInt else x.toNat

def addSat {w : Nat} (signed : Bool) (x y : BitVec w) : BitVec w :=
  BitVec.ofInt w (clampInt (loOf signed w) (hiOf signed w) (intOf signed x + intOf signed y))

def absElem {w : Nat} (x : BitVec w) : BitVec w := if x.msb then 0 - x else x

def minElem {w : Nat} (signed : Bool) (x y : BitVec w) : BitVec w :=
  if (if signed then x.slt y else x.ult y) then x else y
def maxElem {w : Nat} (signed : Bool) (x y : BitVec w) : BitVec w :=
  if (if signed then x.slt y else x.ult y) then y else x

/-! ### Shapes of words -/

/-- A word with sources a and b, computed element by element. -/
def laneBin (i : Instr) (c : LCtl) (d a : Opnd) (b : BSrc) (f : ∀ w, BitVec w → BitVec w → BitVec w) : State → Out :=
  laneWord (.fixed 4) c i.wf do
    let dst ← prepare (isPair c.ty) d
    let x ← readE (isPair c.ty) a
    let y ← readB (isPair c.ty) b
    settle
    emit c.ty (isPair c.ty) dst fun i => perElem c.ty f (x i) (y i)

/-- A word with source a, computed element by element. -/
def laneUn (i : Instr) (c : LCtl) (d a : Opnd) (f : ∀ w, BitVec w → BitVec w) : State → Out :=
  laneWord (.fixed 4) c i.wf do
    let dst ← prepare (isPair c.ty) d
    let x ← readE (isPair c.ty) a
    settle
    emit c.ty (isPair c.ty) dst fun i => perElem c.ty (fun w u _ => f w u) (x i) 0

def execVadd (c : LCtl) (d a : Opnd) (b : BSrc) : State → Out := laneBin (.vadd c d a b) c d a b fun _ x y => x + y
def execVsub (c : LCtl) (d a : Opnd) (b : BSrc) : State → Out := laneBin (.vsub c d a b) c d a b fun _ x y => x - y
def execVmul (c : LCtl) (d a : Opnd) (b : BSrc) : State → Out := laneBin (.vmul c d a b) c d a b fun _ x y => x * y
def execVmulh (c : LCtl) (d a : Opnd) (b : BSrc) : State → Out :=
  laneBin (.vmulh c d a b) c d a b fun _ x y => mulHiS x y
def execVmulhu (c : LCtl) (d a : Opnd) (b : BSrc) : State → Out :=
  laneBin (.vmulhu c d a b) c d a b fun _ x y => mulHiU x y

/-- VMAD: a × b + c + fourth (R221, R222). -/
def execVmad (c : LCtl) (d a : Opnd) (b : BSrc) (cc : Opnd) : State → Out :=
  laneWord (.fixed 4) c (Instr.vmad c d a b cc).wf do
    let dst ← prepare false d
    let x ← readE false a
    let y ← readB false b
    let z ← readE false cc
    let e ← readFourth c
    settle
    let sum := fun i => perElem c.ty (fun _ u v => u + v) (z i) ((e.map (· i)).getD 0)
    emit c.ty false dst fun i =>
      perElem c.ty (fun _ u v => u + v) (perElem c.ty (fun _ u v => u * v) (x i) (y i)) (sum i)

def execVand (c : LCtl) (d a : Opnd) (b : BSrc) : State → Out := laneBin (.vand c d a b) c d a b fun _ x y => x &&& y
def execVor (c : LCtl) (d a : Opnd) (b : BSrc) : State → Out := laneBin (.vor c d a b) c d a b fun _ x y => x ||| y
def execVxor (c : LCtl) (d a : Opnd) (b : BSrc) : State → Out := laneBin (.vxor c d a b) c d a b fun _ x y => x ^^^ y
def execVshl (c : LCtl) (d a : Opnd) (b : BSrc) : State → Out :=
  laneBin (.vshl c d a b) c d a b fun _ x y => x <<< amount y
def execVshr (c : LCtl) (d a : Opnd) (b : BSrc) : State → Out :=
  laneBin (.vshr c d a b) c d a b fun _ x y => x >>> amount y
def execVsra (c : LCtl) (d a : Opnd) (b : BSrc) : State → Out :=
  laneBin (.vsra c d a b) c d a b fun _ x y => x.sshiftRight (amount y)
def execVmin (c : LCtl) (d a : Opnd) (b : BSrc) : State → Out :=
  laneBin (.vmin c d a b) c d a b fun _ x y => minElem (!tyUnsigned c.ty) x y
def execVmax (c : LCtl) (d a : Opnd) (b : BSrc) : State → Out :=
  laneBin (.vmax c d a b) c d a b fun _ x y => maxElem (!tyUnsigned c.ty) x y
def execVabs (c : LCtl) (d a : Opnd) : State → Out := laneUn (.vabs c d a) c d a fun _ x => absElem x
def execVneg (c : LCtl) (d a : Opnd) : State → Out := laneUn (.vneg c d a) c d a fun _ x => 0 - x
def execVpopc (c : LCtl) (d a : Opnd) : State → Out :=
  laneUn (.vpopc c d a) c d a fun w x => BitVec.ofNat w (popBits x)
def execVclz (c : LCtl) (d a : Opnd) : State → Out :=
  laneUn (.vclz c d a) c d a fun w x => BitVec.ofNat w (clzBits x)

/-- VSEL (R222). -/
def execVsel (c : LCtl) (d a b : Opnd) (p : PCode) : State → Out :=
  laneWord (.fixed 4) c (Instr.vsel c d a b p).wf do
    let dst ← prepare (isPair c.ty) d
    let x ← readE (isPair c.ty) a
    let y ← readE (isPair c.ty) b
    let q ← readPred p
    settle
    emit c.ty (isPair c.ty) dst fun i => if inMask q i then x i else y i

/-- VMOV moves whole registers. -/
def execVmov (c : LCtl) (d a : Opnd) : State → Out :=
  laneWord (.fixed 4) c (Instr.vmov c d a).wf do
    let dst ← prepare (isPair c.ty) d
    let x ← readE (isPair c.ty) a
    settle
    emit c.ty (isPair c.ty) dst x

/-- VLI and VLI.hi (R222). -/
def execVli (c : LCtl) (d a : Opnd) (hi : Bool) (imm : BitVec 16) : State → Out :=
  laneWord (.fixed 4) c (Instr.vli c d a hi imm).wf do
    let dst ← prepare false d
    let x ← if hi then readE false a else pure fun _ => 0
    settle
    emit c.ty false dst fun i =>
      if hi then (imm ++ ((x i).setWidth 16 : BitVec 16) : BitVec 32).setWidth 64
      else (imm.signExtend 32).setWidth 64

/-- The tile width of LTILE (R18). -/
def tileWidth (ltile : BitVec 3) : Nat := 32 / 2 ^ ltile.toNat

/-- VSR's lane values, in tiles of a width (R223). -/
def laneValue (w : Warp) (t : Nat) (sel : BitVec 3) (i : LaneIx) : Lane :=
  match sel.toNat with
  | 0 => BitVec.ofNat 32 i.val
  | 1 => BitVec.ofNat 32 w.wid
  | 2 => w.iter.setWidth 32
  | 3 => BitVec.ofNat 32 (i.val % t)
  | 4 => BitVec.ofNat 32 (i.val / t)
  | _ => w.orig[i.val].setWidth 32

def execVsr (c : LCtl) (d : Opnd) (sel : BitVec 3) : State → Out :=
  laneWord (.fixed 4) c (Instr.vsr c d sel).wf do
    let dst ← prepare false d
    settle
    let st ← get
    emit c.ty false dst fun i => (laneValue st.s.me (tileWidth (st.disp.ltile.getD st.s.me.ltile)) sel i).setWidth 64

def execVaddsat (c : LCtl) (d a : Opnd) (b : BSrc) : State → Out :=
  laneBin (.vaddsat c d a b) c d a b fun _ x y => addSat (!tyUnsigned c.ty) x y

/-! ### Compares and predicates -/

/-- VCMP's conditions (R224). -/
def vCompare (ty : BitVec 4) (cond : BitVec 3) (x y : BitVec 64) : Bool :=
  let w := tyWidth ty
  let u := intOf (!tyUnsigned ty) (elem w x 0)
  let v := intOf (!tyUnsigned ty) (elem w y 0)
  match cond.toNat with
  | 0 => decide (u = v)
  | 1 => decide (u ≠ v)
  | 2 => decide (u < v)
  | 3 => decide (u ≤ v)
  | 4 => decide (v < u)
  | _ => decide (v ≤ u)

/-- The true and the complement predicate of a compare (R55). -/
def emitPair (pt pf : PCode) (bits : Mask) : LM Unit := do
  emitPred pt bits
  emitPred pf (~~~bits)

def execVcmp (c : LCtl) (a b : Opnd) (pt pf : PCode) (cond : BitVec 3) : State → Out :=
  laneWord (.fixed 4) c (Instr.vcmp c a b pt pf cond).wf do
    let x ← readE (isPair c.ty) a
    let y ← readE (isPair c.ty) b
    settle
    emitPair pt pf (mkMask fun i => vCompare c.ty cond (x i) (y i))

/-- PAND, POR, PXOR, PANDN (R225). -/
def lanePred (i : Instr) (c : LCtl) (t p q : PCode) (f : Mask → Mask → Mask) : State → Out :=
  laneWord (.fixed 4) c i.wf do
    let x ← readPred p
    let y ← readPred q
    settle
    emitPred t (f x y)

def execPand (c : LCtl) (t p q : PCode) : State → Out := lanePred (.pand c t p q) c t p q fun x y => x &&& y
def execPor (c : LCtl) (t p q : PCode) : State → Out := lanePred (.por c t p q) c t p q fun x y => x ||| y
def execPxor (c : LCtl) (t p q : PCode) : State → Out := lanePred (.pxor c t p q) c t p q fun x y => x ^^^ y
def execPandn (c : LCtl) (t p q : PCode) : State → Out := lanePred (.pandn c t p q) c t p q fun x y => x &&& ~~~y

def execPfromv (c : LCtl) (t : PCode) (a : Opnd) : State → Out :=
  laneWord (.fixed 4) c (Instr.pfromv c t a).wf do
    let x ← readE false a
    settle
    emitPred t (mkMask fun i => (x i).setWidth 32 != (0 : Lane))

/-- VFROMP (R226). -/
def execVfromp (c : LCtl) (d : Opnd) (p : PCode) (form : BitVec 2) : State → Out :=
  laneWord (.fixed 4) c (Instr.vfromp c d p form).wf do
    let dst ← prepare false d
    let q ← readPredIn (← needWhole) p
    settle
    emit c.ty false dst fun i =>
      match form.toNat with
      | 0 => if inMask q i then 1 else 0
      | 1 => if inMask q i then 0xFFFF_FFFF else 0
      | _ => q.setWidth 64

def execXmrd (c : LCtl) (d : Opnd) : State → Out :=
  laneWord (.fixed 4) c (Instr.xmrd c d).wf do
    let dst ← prepare false d
    settle
    let st ← get
    emit c.ty false dst fun _ => (st.disp.mask st.s.me).setWidth 64

/-- The machine with EXM rewritten by the lane stream, for the next lane word: the register, or the EXM of the blocks
that were dispatched before a handler rewrote the register (R17). -/
def State.setExm (s : State) (d : Dispatch) (m : Mask) : State :=
  let w := s.me
  if d.exm.isSome then
    s.setMe { w with dispatch := w.dispatch.map fun x => if x.exm.isSome then { x with exm := some m } else x }
  else s.setMe { w with exm := m }

/-- XMWR changes EXM when E is not empty (R17, R227). -/
def execXmwr (c : LCtl) (a : Opnd) (p : PCode) (form : BitVec 2) : State → Out :=
  laneWord (.fixed 4) c (Instr.xmwr c a p form).wf do
    let x ← if form = 0 then readE false a else pure fun _ => 0
    let q ← if form = 0 then pure 0 else readPred p
    settle
    let st ← get
    let old := st.disp.mask st.s.me
    let new := match form.toNat with
      | 0 => (x (lowest st.e)).setWidth 32
      | 1 => old &&& q
      | _ => old &&& ~~~q
    if st.e = 0 then pure () else set { st with s := st.s.setExm st.disp new }

end Sys2Proof.Machine
end

