-- ==== Sys2Proof/Machine/QBlock.lean ====
section
/-!
DEFINITION. Sys2Proof/Machine/QBlock.lean: format records (R120), Q-block elements and scales (R151 to R153),
quantisation (R155) and dequantisation (R156).
-/
namespace Sys2Proof.Machine

/-! ### Format records (R120) -/

def fmtElem (r : Word) : Nat := (r.extractLsb' 0 4 : BitVec 4).toNat
def fmtBlock (r : Word) : Nat := 16 * 2 ^ (r.extractLsb' 4 2 : BitVec 2).toNat
def fmtScale (r : Word) : Nat := (r.extractLsb' 8 2 : BitVec 2).toNat
def fmtStrict (r : Word) : Bool := r.getLsbD 10
def fmtSat (r : Word) : Bool := r.getLsbD 11
def fmtQrm (r : Word) : Nat := (r.extractLsb' 12 3 : BitVec 3).toNat

/-- A format record is well-formed (R120). -/
def fmtOk (r : Word) : Bool :=
  decide (fmtElem r ≤ 4) && (r.extractLsb' 6 2 : BitVec 2) == 0 && decide (fmtQrm r ≤ 5)
    && (r.extractLsb' 15 49 : BitVec 49) == 0

/-- Bits of an element (R151). -/
def elemBits (elem : Nat) : Nat :=
  match elem with
  | 0 => 2
  | 1 => 4
  | 2 => 8
  | 3 => 8
  | _ => 2

/-- The value of an element code, and whether the code is reserved (R151, R153). -/
def elemValue (elem code : Nat) : Int × Bool :=
  match elem with
  | 0 => match code with
    | 0 => (0, false)
    | 1 => (1, false)
    | 3 => (-1, false)
    | _ => (0, true)
  | 3 => (code, false)
  | _ => ((if code < 2 ^ (elemBits elem - 1) then (code : Int) else code - 2 ^ elemBits elem), false)

/-- The bytes of a scale (R152). -/
def scaleBytes (scale : Nat) : Nat :=
  match scale with
  | 0 => 1
  | 1 => 2
  | 2 => 4
  | _ => 0

/-- A scale's value as an exact number, and whether its code is reserved (R153). -/
def scaleValue (scale bits : Nat) : FVal × Bool :=
  match scale with
  | 0 => if bits % 256 = 255 then (.fin false 0 0, true) else (.fin false 1 ((bits % 256 : Nat) - 127), false)
  | 1 => (bf16.decode (bits % 65536), false)
  | 2 => (f32.decode bits, false)
  | _ => (.fin false 1 0, false)

/-! ### Quantisation (R155) -/

/-- Fit an integer to an element: clamped, or reduced into the code's range; the code's bits. -/
def fitElem (elem : Nat) (sat : Bool) (q : Int) : Nat :=
  let b := elemBits elem
  let lo : Int := if elem = 0 then -1 else loOf (elem != 3) b
  let hi : Int := if elem = 0 then 1 else hiOf (elem != 3) b
  let v := if elem = 0 || sat then clampInt lo hi q else q
  (v % 2 ^ b).toNat

/-- The rounded quotient of two finite values, the divisor not zero, and whether it is inexact. -/
def quotInt (rm : Rm) (xn : Bool) (xm : Nat) (xe : Int) (sn : Bool) (sm : Nat) (se : Int) : Int × Bool :=
  let neg := xn != sn
  let up := (max 0 (xe - se)).toNat
  let dn := (max 0 (se - xe)).toNat
  let n := xm * 2 ^ up
  let d := sm * 2 ^ dn
  let (u, inexact) := cutAt rm neg (4 * n / d) (-2) (4 * n % d != 0) 0
  ((if neg then -(u : Int) else u), inexact)

/-- Quantise a value with a scale: the element's bits and the flags (R155). -/
def quantise (elem : Nat) (sat : Bool) (rm : Rm) (x s : FVal) : Nat × Flags :=
  let lo : Int := if elem = 0 then -1 else loOf (elem != 3) (elemBits elem)
  let hi : Int := if elem = 0 then 1 else hiOf (elem != 3) (elemBits elem)
  match s with
  | .nan _ | .inf _ | .fin _ 0 _ => (0, fNV)
  | .fin sn sm se =>
    match x with
    | .nan _ => (0, fNV)
    | .inf n => (((if n then lo else hi) % 2 ^ elemBits elem).toNat, fNV)
    | .fin xn xm xe =>
      let (q, inexact) := quotInt rm xn xm xe sn sm se
      (fitElem elem sat q, if inexact then fNX else 0)

/-- The decoded element times the decoded scale, rounded once (R156). -/
def dequantise (f : Fmt) (rm : Rm) (v : Int) (s : FVal) : Nat × Flags :=
  let (t, fl) := mulTerm (.fin (decide (v < 0)) v.natAbs 0) s
  match t with
  | .nan => (f.canon, fl ||| sigFlag s)
  | .inf n => (f.infinity n, fl)
  | .fin n m e => if m = 0 then (f.zero n, fl) else let r := roundMag f rm n m e false; (r.1, r.2 ||| fl)

end Sys2Proof.Machine
end

