-- ==== Sys2Proof/Machine/Special.lean ====
section
/-!
DEFINITION. Sys2Proof/Machine/Special.lean: the six special functions of R229 whose bits are left to the
implementation. The result is the free value `Config.approx` (log entry 7) where that lies inside the manual's
bound, judged against a fixed-point enclosure of the exact value; elsewhere the enclosure's rounding.
-/
namespace Sys2Proof.Machine

/-! ### Fixed-point enclosures: a value v stands for v / 2^fixP -/

/-- Fraction bits of the enclosures. -/
abbrev fixP : Nat := 512
def fixOne : Int := 2 ^ fixP
def fixMul (a b : Int) : Int := a * b / fixOne

/-- ±m × 2^e in fixed point, cut below 2^-fixP. -/
def toFix (neg : Bool) (m : Nat) (e : Int) : Int :=
  let v : Nat := if 0 ≤ e + fixP then m * 2 ^ (e + fixP).toNat else m / 2 ^ (-(e + fixP)).toNat
  if neg then -(v : Int) else v

/-- The sum of a power series: the term is multiplied by `x` and divided by `step n`. -/
def series (x : Int) (step : Nat → Int) : Nat → Nat → Int → Int → Int
  | 0, _, _, acc => acc
  | fuel + 1, n, term, acc =>
    let t := fixMul term x / step n
    series x step fuel (n + 1) t (acc + t)

/-- e^x for |x| up to 64. -/
def fixExp (x : Int) : Int := series x (fun n => (n + 1 : Nat)) 420 0 fixOne fixOne

/-- The odd series z + z³/3 ± … with signs `s` = ±1: artanh and arctan. -/
def oddSeries (z2 : Int) (s : Int) : Nat → Nat → Int → Int → Int
  | 0, _, _, acc => acc
  | fuel + 1, n, pow, acc =>
    let p := fixMul pow z2 * s
    oddSeries z2 s fuel (n + 1) p (acc + p / (2 * n + 3 : Nat))

def fixAtanh (z : Int) : Int := oddSeries (fixMul z z) 1 330 0 z z
def fixLn2 : Int := 2 * fixAtanh (fixOne / 3)

/-- arctan (1 / k). -/
def fixArctanInv (k : Nat) : Int :=
  let z := fixOne / (k : Int)
  oddSeries (fixMul z z) (-1) 230 0 z z

def fixPi : Int := 16 * fixArctanInv 5 - 4 * fixArctanInv 239

/-- sin x and cos x for |x| below 7, by the series of their terms. -/
def fixSin (x : Int) : Int :=
  series (-(fixMul x x)) (fun n => ((2 * n + 2) * (2 * n + 3) : Nat)) 90 0 x x
def fixCos (x : Int) : Int :=
  series (-(fixMul x x)) (fun n => ((2 * n + 1) * (2 * n + 2) : Nat)) 90 0 fixOne fixOne

/-- An angle reduced by whole turns. -/
def reduceTurn (x : Int) : Int := x - x / (2 * fixPi) * (2 * fixPi)

/-- tanh x; beyond 32 it lies nearer to ±1, on zero's side, than any other binary32 value does. -/
def fixTanh (x : Int) : Int :=
  if 32 * fixOne < x then fixOne - 2 ^ 241
  else if x < -(32 * fixOne) then 2 ^ 241 - fixOne
  else
    let t := fixExp (2 * x)
    (t - fixOne) * fixOne / (t + fixOne)

/-- The approximate value of a function at an operand, at a scale 2^`k`: value × 2^fixP / 2^k. The scale keeps
the precision of FEXP2 and FRSQ for results near either end of the range. -/
def approxFix (fn : Config.ApproxFn) (neg : Bool) (m : Nat) (e : Int) : Int × Int :=
  let x := toFix neg m e
  match fn with
  | .exp2 =>
    let k := x / fixOne
    (fixExp (fixMul (x - k * fixOne) fixLn2), k)
  | .rsqrt =>
    let e' := if e % 2 = 0 then e else e - 1
    let m' := if e % 2 = 0 then m else 2 * m
    (isqrt (2 ^ (2 * fixP) / m'), -(e' / 2))
  | .log2 =>
    let t := Nat.log2 m
    let y := toFix false m (-(t : Int))
    let ln := 2 * fixAtanh ((y - fixOne) * fixOne / (y + fixOne))
    (ln * fixOne / fixLn2 + (e + t) * fixOne, 0)
  | .sin => (fixSin (reduceTurn x), 0)
  | .cos => (fixCos (reduceTurn x), 0)
  | .tanh => (fixTanh x, 0)

/-- The width of the enclosure on either side, in units of 2^-fixP: the series above and the reduction of an angle lose
less. Close to zero a tanh, which lies below its operand by a third of its cube alone, loses less than 2^24. -/
def fixSlack (fn : Config.ApproxFn) (v : Int) : Int := if fn = .tanh ∧ v.natAbs < 2 ^ 472 then 2 ^ 24 else 2 ^ 200

/-- The bound of R229 in units of 2^-fixP × 2^`k`: ulps of the exact result, or an absolute error. -/
def boundFix (fn : Config.ApproxFn) (v : Int) (k : Int) : Int :=
  let ulp := fun (n : Int) =>
    let top : Int := k + Nat.log2 (v.natAbs + (fixSlack fn v).toNat) - fixP
    n * toFix false 1 (max top (-126) - 23 - k)
  match fn with
  | .exp2 | .log2 | .tanh => ulp 2
  | .rsqrt => ulp 1
  | .sin | .cos => toFix false 1 (-22)

/-- Whether a result lies inside the bound, as far as the enclosure tells. -/
def insideBound (fn : Config.ApproxFn) (v k : Int) (y : Nat) : Bool :=
  match f32.decode y with
  | .fin n m e => decide ((toFix n m (e - k) - v).natAbs ≤ (boundFix fn v k + fixSlack fn v).toNat)
  | .nan _ | .inf _ => false

/-- The result at an operand with no special case. -/
def approxAt (fn : Config.ApproxFn) (a : Nat) (neg : Bool) (m : Nat) (e : Int) : Nat :=
  let (v, k) := approxFix fn neg m e
  let y := (Config.approx fn (BitVec.ofNat 32 a)).toNat
  if insideBound fn v k y then y
  else (roundInt f32 .rne v (k - fixP) false).1

/-- Whether a value at a scale 2^`k` lies below 2^-126. -/
def fixTiny (v k : Int) : Bool := v == 0 || decide ((Nat.log2 v.natAbs : Int) + k - fixP < -126)

/-- NX, and UF for a result that is tiny: returned below 2^-126, or as the zero of a tiny exact value (R149; by the
returned value, DESIGN CHOICE, log entry 108). -/
def approxFlags (y : Nat) (v k : Int) : Flags :=
  let zero := y % 2 ^ 31 == 0
  fNX ||| (if y / 2 ^ 23 % 256 == 0 && (!zero || fixTiny v k) then fUF else 0)

def approxed (fn : Config.ApproxFn) (a : Nat) (neg : Bool) (m : Nat) (e : Int) : Nat × Flags :=
  let y := approxAt fn a neg m e
  let (v, k) := approxFix fn neg m e
  (y, approxFlags y v k)

/-- The integer a finite value is, if it is one. -/
def exactInt (neg : Bool) (m : Nat) (e : Int) : Option Int :=
  let v : Option Nat := if 0 ≤ e then some (m * 2 ^ e.toNat)
    else if m % 2 ^ (-e).toNat = 0 then some (m / 2 ^ (-e).toNat) else none
  v.map fun n => if neg then -(n : Int) else n

/-- FRSQ (R229). -/
def fRsq (a : Nat) : Nat × Flags :=
  match f32.decode a with
  | .nan s => (f32.canon, sigFlag (.nan s))
  | .inf true => (f32.canon, fNV)
  | .inf false => (f32.zero false, 0)
  | .fin n m e =>
    if m = 0 then (f32.infinity n, fDZ)
    else if n then (f32.canon, fNV)
    else approxed .rsqrt a false m e

/-- FEXP2 of -256 and below: the exact value is all but zero, and the bits within two units of 2^-149 are free. -/
def tinyExp2 (a : Nat) : Nat :=
  let y := (Config.approx .exp2 (BitVec.ofNat 32 a)).toNat
  if y % 2 ^ 31 ≤ 1 ∨ y = 2 then y else 0

/-- FEXP2 (R229). An overflow is +∞ in every mode, as the mode affects only FRCP and FSQRT (DESIGN CHOICE, log entry
97). -/
def fExp2 (a : Nat) : Nat × Flags :=
  match f32.decode a with
  | .nan s => (f32.canon, sigFlag (.nan s))
  | .inf true => (f32.zero false, 0)
  | .inf false => (f32.infinity false, 0)
  | .fin n m e =>
    if m ≠ 0 ∧ 8 ≤ e + Nat.log2 m then
      if n then (tinyExp2 a, fUF ||| fNX) else (f32.infinity false, fOF ||| fNX)
    else if (exactInt n m e).any fun k => decide (-149 ≤ k ∧ k ≤ 127) then
      ((roundMag f32 .rne false 1 ((exactInt n m e).getD 0) false).1, 0)
    else if !n && decide (7 ≤ e + Nat.log2 m) then (f32.infinity false, fOF ||| fNX)
    else approxed .exp2 a n m e

/-- FLOG2 (R229). -/
def fLog2 (a : Nat) : Nat × Flags :=
  match f32.decode a with
  | .nan s => (f32.canon, sigFlag (.nan s))
  | .inf true => (f32.canon, fNV)
  | .inf false => (f32.infinity false, 0)
  | .fin n m e =>
    if m = 0 then (f32.infinity true, fDZ)
    else if n then (f32.canon, fNV)
    else if m = 2 ^ Nat.log2 m then ((roundInt f32 .rne (e + Nat.log2 m) 0 false).1, 0)
    else approxed .log2 a false m e

/-- FSIN (R229). -/
def fSin (a : Nat) : Nat × Flags :=
  match f32.decode a with
  | .nan s => (f32.canon, sigFlag (.nan s))
  | .inf _ => (f32.canon, fNV)
  | .fin n m e => if m = 0 then (f32.zero n, 0) else approxed .sin a n m e

/-- FCOS (R229). -/
def fCos (a : Nat) : Nat × Flags :=
  match f32.decode a with
  | .nan s => (f32.canon, sigFlag (.nan s))
  | .inf _ => (f32.canon, fNV)
  | .fin n m e => if m = 0 then (0x3F80_0000, 0) else approxed .cos a n m e

/-- FTANH (R229). -/
def fTanh (a : Nat) : Nat × Flags :=
  match f32.decode a with
  | .nan s => (f32.canon, sigFlag (.nan s))
  | .inf n => (if n then 0xBF80_0000 else 0x3F80_0000, 0)
  | .fin n m e => if m = 0 then (f32.zero n, 0) else approxed .tanh a n m e

end Sys2Proof.Machine
end

