-- ==== Sys2Proof/Machine/LaneFloat.lean ====
section
/-!
DEFINITION. Sys2Proof/Machine/LaneFloat.lean: floating-point lane words (R228, R229), conversions (R230) and
Q-block packing (R231).
-/
namespace Sys2Proof.Machine

/-- The format of a floating type; binary32 for the others. -/
def tyFmt (ty : BitVec 4) : Fmt :=
  match ty.toNat with
  | 3 => bf16
  | 4 => f16
  | _ => f32

/-- The word's rounding mode (R147). -/
def wordRm (c : LCtl) : LM Rm := do
  let st ← get
  pure (laneRm c st.disp.rm)

/-- Element `j` of a floating type as bits. -/
def felem (ty : BitVec 4) (x : BitVec 64) (j : Nat) : Nat := (elem (tyFmt ty).width x j).toNat

/-- Put the elements' bits together. -/
def fpack (ty : BitVec 4) (es : List Nat) : BitVec 64 :=
  packElems (tyFmt ty).width (es.map (BitVec.ofNat (tyFmt ty).width))

/-- Elements of a floating type in a lane. -/
def fcount (ty : BitVec 4) : Nat := if ty = 3 ∨ ty = 4 then 2 else 1

/-- Results with flags in the lanes of E: the lanes' values, and the flags of those lanes (R150). -/
def emitFlagged (ty : BitVec 4) (dst : Dst) (f : LaneIx → BitVec 64 × Flags) : LM Unit := do
  let st ← get
  raiseFlags ((maskLanes st.e).foldl (fun acc i => acc ||| (f i).2) 0)
  emit ty (isPair ty) dst fun i => (f i).1

/-- Compute element by element with flags. -/
def perF (ty : BitVec 4) (f : Nat → Nat × Flags) : BitVec 64 × Flags :=
  let rs := (List.range (fcount ty)).map f
  (fpack ty (rs.map (·.1)), rs.foldl (fun acc r => acc ||| r.2) 0)

/-- A floating word with sources a and b. -/
def fBin (i : Instr) (c : LCtl) (d a b : Opnd) (f : Fmt → Rm → Nat → Nat → Nat × Flags) : State → Out :=
  laneWord (.fixed 6) c i.wf do
    let dst ← prepare false d
    let x ← readE false a
    let y ← readE false b
    settle
    let rm ← wordRm c
    emitFlagged c.ty dst fun i => perF c.ty fun j => f (tyFmt c.ty) rm (felem c.ty (x i) j) (felem c.ty (y i) j)

/-- A fused multiply-add; the fourth operand is a term unless it is absent or the zero port (R221). -/
def fMulAdd (i : Instr) (c : LCtl) (d a b cc : Opnd) : State → Out :=
  laneWord (.fixed 6) c i.wf do
    let dst ← prepare false d
    let x ← readE false a
    let y ← readE false b
    let z ← readE false cc
    let e ← readFourth c
    settle
    let rm ← wordRm c
    let e := if (c.pfx.map (·.e)) = some .zero then none else e
    emitFlagged c.ty dst fun i => perF c.ty fun j =>
      fFma (tyFmt c.ty) rm (felem c.ty (x i) j) (felem c.ty (y i) j) (felem c.ty (z i) j)
        (e.map fun v => felem c.ty (v i) j)

/-- A word with source a and a binary32 result. -/
def fUn (i : Instr) (lat : Nat) (c : LCtl) (d a : Opnd) (f : Rm → Nat → Nat × Flags) : State → Out :=
  laneWord (.fixed lat) c i.wf do
    let dst ← prepare false d
    let x ← readE false a
    settle
    let rm ← wordRm c
    emitFlagged c.ty dst fun i => perF c.ty fun j => f rm (felem c.ty (x i) j)

def execFadd (c : LCtl) (d a b : Opnd) : State → Out := fBin (.fadd c d a b) c d a b fAdd
def execFsub (c : LCtl) (d a b : Opnd) : State → Out := fBin (.fsub c d a b) c d a b fSub
def execFmul (c : LCtl) (d a b : Opnd) : State → Out := fBin (.fmul c d a b) c d a b fMul
def execFfma (c : LCtl) (d a b cc : Opnd) : State → Out := fMulAdd (.ffma c d a b cc) c d a b cc
def execFmin (c : LCtl) (d a b : Opnd) : State → Out := fBin (.fmin c d a b) c d a b fun f _ => fMinMax f false
def execFmax (c : LCtl) (d a b : Opnd) : State → Out := fBin (.fmax c d a b) c d a b fun f _ => fMinMax f true
def execFrnd (c : LCtl) (d a : Opnd) : State → Out := fUn (.frnd c d a) 6 c d a (fRnd f32)
def execHadd2 (c : LCtl) (d a b : Opnd) : State → Out := fBin (.hadd2 c d a b) c d a b fAdd
def execHsub2 (c : LCtl) (d a b : Opnd) : State → Out := fBin (.hsub2 c d a b) c d a b fSub
def execHmul2 (c : LCtl) (d a b : Opnd) : State → Out := fBin (.hmul2 c d a b) c d a b fMul
def execHfma2 (c : LCtl) (d a b cc : Opnd) : State → Out := fMulAdd (.hfma2 c d a b cc) c d a b cc
def execHmin2 (c : LCtl) (d a b : Opnd) : State → Out := fBin (.hmin2 c d a b) c d a b fun f _ => fMinMax f false
def execHmax2 (c : LCtl) (d a b : Opnd) : State → Out := fBin (.hmax2 c d a b) c d a b fun f _ => fMinMax f true

/-- HDOT2 (R228). -/
def execHdot2 (c : LCtl) (d a b cc : Opnd) : State → Out :=
  laneWord (.fixed 6) c (Instr.hdot2 c d a b cc).wf do
    let dst ← prepare false d
    let x ← readE false a
    let y ← readE false b
    let z ← readE false cc
    settle
    let rm ← wordRm c
    let el := fun (v : BitVec 64) j => felem c.ty v j
    emitFlagged c.ty dst fun i =>
      let r := fDot2 (tyFmt c.ty) rm (el (x i) 0) (el (y i) 0) (el (x i) 1) (el (y i) 1) ((z i).setWidth 32).toNat
      (BitVec.ofNat 64 r.1, r.2)

def execFrcp (c : LCtl) (d a : Opnd) : State → Out := fUn (.frcp c d a) 14 c d a fRcp
def execFrsq (c : LCtl) (d a : Opnd) : State → Out := fUn (.frsq c d a) 14 c d a fun _ => fRsq
def execFsqrt (c : LCtl) (d a : Opnd) : State → Out := fUn (.fsqrt c d a) 14 c d a fSqrt
def execFexp2 (c : LCtl) (d a : Opnd) : State → Out := fUn (.fexp2 c d a) 14 c d a fun _ => fExp2
def execFlog2 (c : LCtl) (d a : Opnd) : State → Out := fUn (.flog2 c d a) 14 c d a fun _ => fLog2
def execFsin (c : LCtl) (d a : Opnd) : State → Out := fUn (.fsin c d a) 14 c d a fun _ => fSin
def execFcos (c : LCtl) (d a : Opnd) : State → Out := fUn (.fcos c d a) 14 c d a fun _ => fCos
def execFtanh (c : LCtl) (d a : Opnd) : State → Out := fUn (.ftanh c d a) 14 c d a fun _ => fTanh

/-- FCMP writes a predicate and its complement, and flags (R224). -/
def execFcmp (c : LCtl) (a b : Opnd) (pt pf : PCode) (cond : BitVec 3) : State → Out :=
  laneWord (.fixed 4) c (Instr.fcmp c a b pt pf cond).wf do
    let x ← readE false a
    let y ← readE false b
    settle
    let st ← get
    let r := fun (i : LaneIx) =>
      fCompare cond.toNat ((x i).setWidth 32 : Lane).toNat ((y i).setWidth 32 : Lane).toNat
    raiseFlags ((maskLanes st.e).foldl (fun acc i => acc ||| (r i).2) 0)
    emitPair pt pf (mkMask fun i => (r i).1)

/-! ### CVT (R230) -/

def isFloatTy (ty : BitVec 4) : Bool := ty == 2 || ty == 3 || ty == 4

/-- One element: from a source element of type `src` to a destination element of type `dst`, clamped where
`sat` selects it. -/
def cvtElem (src dst : BitVec 4) (rm : Rm) (sat : Bool) (x : BitVec 64) : BitVec 64 × Flags :=
  let w := tyWidth dst
  if isFloatTy src then
    let a := (x.setWidth (tyFmt src).width).toNat
    if isFloatTy dst then
      let r := cvtFloat (tyFmt src) (tyFmt dst) rm a
      (BitVec.ofNat 64 r.1, r.2)
    else
      let r := cvtToInt (tyFmt src) rm (loOf (!tyUnsigned dst) w) (hiOf (!tyUnsigned dst) w) a
      (BitVec.ofInt 64 r.1, r.2)
  else
    let v := intOf (!tyUnsigned src) (elem (tyWidth src) x 0)
    if isFloatTy dst then
      let r := cvtFromInt (tyFmt dst) rm v
      (BitVec.ofNat 64 r.1, r.2)
    else
      (BitVec.ofInt 64 (if sat then clampInt (loOf (!tyUnsigned dst) w) (hiOf (!tyUnsigned dst) w) v else v), 0)

/-- Elements of any type in a lane. -/
def elemsOf (ty : BitVec 4) : Nat := if isPair ty then 1 else 32 / tyWidth ty

def execCvt (c : LCtl) (d a b cc : Opnd) (src : BitVec 4) (sel : BitVec 2) (sat : Bool) : State → Out :=
  laneWord (.fixed 6) c (Instr.cvt c d a b cc src sel sat).wf do
    let nsrc := ((cvtRow src c.ty).map (·.nsrc)).getD 1
    let dst ← prepare (isPair c.ty) d
    let x ← readE (isPair src) a
    let y ← if 2 ≤ nsrc then readE false b else pure fun _ => 0
    let z ← if nsrc = 4 then readE false cc else pure fun _ => 0
    let e ← if nsrc = 4 then readFourth c else pure none
    settle
    let rm ← wordRm c
    let pick := fun (i : LaneIx) (j : Nat) =>
      if nsrc = 1 then
        let j := if elemsOf src = elemsOf c.ty then j else sel.toNat
        if isPair src then x i else (elem (tyWidth src) (x i) j).setWidth 64
      else match j with
        | 0 => x i
        | 1 => y i
        | 2 => z i
        | _ => (e.map (· i)).getD 0
    emitFlagged c.ty dst fun i =>
      let rs := (List.range (elemsOf c.ty)).map fun j => cvtElem src c.ty rm sat (pick i j)
      (packElems (tyWidth c.ty) (rs.map fun r => r.1.setWidth (tyWidth c.ty)),
        rs.foldl (fun acc r => acc ||| r.2) 0)

/-! ### QPACK and QUNPK (R231) -/

/-- The format record of a slot of the warp's grid (R121). -/
def slotRecord (slot : BitVec 3) : LM Word := do
  let st ← get
  pure (recordOf st.s st.s.me).fmts[slot.toNat]

/-- What the slot and the position allow: the position inside the word, and a scale operand only where the
record and the type read one (R231). -/
def qLegal (ty : BitVec 4) (r : Word) (pos : BitVec 5) (b : Opnd) : Bool :=
  let n := 32 / elemBits (fmtElem r)
  decide (pos.toNat + fcount ty ≤ n) && (if ty == 0 || fmtScale r == 3 then b == .unused else true)

/-- Wait for the operands, and raise a cause in the lanes of E that meet a test, unless the operands raised a higher
(R162). -/
def failWhere (cause : Cause) (test : LaneIx → Bool) : LM Unit := do
  let st ← get
  fail ⟨cause, 0, mkMask fun i => inMask st.e i && test i, false⟩

/-- The scale of lane `i`; a reserved code is scale 0 with QRSV, or FMT_STRICT (R153). -/
def laneScale (r : Word) (b : BitVec 64) : FVal × Flags × Bool :=
  let s := scaleValue (fmtScale r) ((b.setWidth 32 : Lane).toNat)
  (s.1, if s.2 then fQRSV else 0, s.2)

/-- A word of the slot's format that the slot refuses is ILLEGAL (R231). -/
def qCheck (ty : BitVec 4) (r : Word) (pos : BitVec 5) (b : Opnd) : LM Unit := do
  if qLegal ty r pos b then pure () else noteHere cILLEGAL

def execQpack (c : LCtl) (d a b cc : Opnd) (slot : BitVec 3) (pos : BitVec 5) : State → Out :=
  laneWord (.fixed 6) c (Instr.qpack c d a b cc slot pos).wf do
    let r ← slotRecord slot
    qCheck c.ty r pos b
    let scaled := c.ty != 0 && fmtScale r != 3
    let dst ← prepare false d
    let x ← readE false a
    let y ← if scaled then readE false b else pure fun _ => 0
    let z ← readE false cc
    failWhere cFMT_STRICT fun i => scaled && fmtStrict r && (laneScale r (y i)).2.2
    let st ← get
    let rm := quantRm (fmtQrm r) st.disp.rm
    let bits := elemBits (fmtElem r)
    let one := fun (i : LaneIx) (j : Nat) =>
      if c.ty = 0 then (fitElem (fmtElem r) (fmtSat r) ((x i).setWidth 32 : Lane).toInt, (0 : Flags))
      else quantise (fmtElem r) (fmtSat r) rm ((tyFmt c.ty).decode (felem c.ty (x i) j)) (laneScale r (y i)).1
    emitFlagged c.ty dst fun i =>
      let w := (List.range (fcount c.ty)).foldl (fun (acc : BitVec 64 × Flags) j =>
        let q := one i j
        let at_ := bits * (pos.toNat + j)
        ((acc.1 &&& ~~~(BitVec.ofNat 64 (2 ^ bits - 1) <<< at_)) ||| (BitVec.ofNat 64 q.1 <<< at_), acc.2 ||| q.2))
        (z i, 0)
      (w.1, w.2 ||| (if scaled then (laneScale r (y i)).2.1 else 0))

def execQunpk (c : LCtl) (d a b : Opnd) (slot : BitVec 3) (pos : BitVec 5) : State → Out :=
  laneWord (.fixed 6) c (Instr.qunpk c d a b slot pos).wf do
    let r ← slotRecord slot
    qCheck c.ty r pos b
    let scaled := c.ty != 0 && fmtScale r != 3
    let dst ← prepare false d
    let x ← readE false a
    let y ← if scaled then readE false b else pure fun _ => 0
    let bits := elemBits (fmtElem r)
    let el := fun (i : LaneIx) (j : Nat) => elemValue (fmtElem r) (elem bits (x i) (pos.toNat + j)).toNat
    failWhere cFMT_STRICT fun i => fmtStrict r &&
      ((scaled && (laneScale r (y i)).2.2) || (List.range (fcount c.ty)).any fun j => (el i j).2)
    let rm ← wordRm c
    emitFlagged c.ty dst fun i =>
      if c.ty = 0 then
        let v := el i 0
        ((BitVec.ofInt 32 v.1).setWidth 64, if v.2 then fQRSV else 0)
      else
        let s := laneScale r (y i)
        let v := perF c.ty fun j =>
          let q := dequantise (tyFmt c.ty) rm (el i j).1 s.1
          (q.1, q.2 ||| (if (el i j).2 then fQRSV else 0))
        (v.1, v.2 ||| (if scaled then s.2.1 else 0))

end Sys2Proof.Machine
end

