-- ==== Sys2Proof/Machine/LaneMove.lean ====
section
/-!
DEFINITION. Sys2Proof/Machine/LaneMove.lean: lane movement within tiles (R232 to R237).
-/
namespace Sys2Proof.Machine

/-- The tile width in force (R18). -/
def tileT : LM Nat := do
  let st ← get
  pure (tileWidth (st.disp.ltile.getD st.s.me.ltile))

/-- The first lane of a lane's tile. -/
def tileBase (t : Nat) (i : LaneIx) : Nat := i.val - i.val % t

/-- The lanes of a tile in ascending order. -/
def tileLanes (t : Nat) (i : LaneIx) : List LaneIx := (List.finRange 32).filter fun j => j.val / t == i.val / t

/-- SHFL's source lane (R233). -/
def shuffleSrc (mode : BitVec 2) (t : Nat) (i : LaneIx) (m : Nat) : LaneIx :=
  let b := tileBase t i
  let ix := i.val % t
  let src := match mode.toNat with
    | 0 => b + m % t
    | 1 => if m ≤ ix then i.val - m else i.val
    | 2 => if ix + m < t then i.val + m else i.val
    | _ => if ix ^^^ (m % 32) < t then b + (ix ^^^ (m % 32)) else i.val
  Fin.ofNat 32 src

/-- SHFL reads the lanes that some lane of E uses (R232, R233). A dq operand pops in its place. -/
def execShfl (c : LCtl) (d a : Opnd) (b : BSrc) (mode : BitVec 2) : State → Out :=
  laneWord (.fixed 10) c (Instr.shfl c d a b mode).wf do
    let dst ← prepare (isPair c.ty) d
    let t ← tileT
    let st ← get
    let first ← match a with
      | .dq _ => do
        let x ← readMoved (isPair c.ty) a
        pure (some x)
      | _ => pure none
    let y ← readB false b
    sync
    let src := fun (i : LaneIx) => shuffleSrc mode t i ((y i).setWidth 32 : Lane).toNat
    let need : Need :=
      { lanes := (maskLanes st.e).foldl (fun acc i => acc ||| (1#32 <<< (src i).val)) 0#32
        blame := fun m => mkMask fun i => inMask st.e i && inMask m (src i) }
    let x ← match first with
      | some x => pure x
      | none => readOp (isPair c.ty) a need
    settle
    emit c.ty (isPair c.ty) dst fun i => x (src i)

/-- A vote's outcome for the tile of a lane (R234). -/
def voteOutcome (kind : BitVec 2) (t : Nat) (e p : Mask) (i : LaneIx) : Lane :=
  let lanes := (tileLanes t i).filter (inMask e)
  match kind.toNat with
  | 0 => if lanes.any (inMask p) then 1 else 0
  | 1 => if lanes.all (inMask p) then 1 else 0
  | _ => mkMask fun j => lanes.contains j && inMask p j

def execVote (c : LCtl) (d : Opnd) (p : PCode) (kind : BitVec 2) (toBq : Bool) : State → Out :=
  laneWord (.fixed 10) c (Instr.vote c d p kind toBq).wf do
    let t ← tileT
    let dst ← if toBq then pure Dst.none else prepare false d
    let q ← readPredIn (← needE) p
    let st ← get
    if toBq && decide (32 ≤ st.s.me.bq.length) then
      if scalarStuck st.s st.s.cur then noteStuck else block
    settle
    let out := voteOutcome kind t st.e q
    if toBq then
      modify fun st => { st with s := st.s.setMe { st.s.me with bq := st.s.me.bq ++ [out (lowest st.e) == 1] } }
    else emit c.ty false dst fun i => (out i).setWidth 64

/-- A pairwise tree over a power of two of values (R235). -/
def redTree {α : Type} (f : α → α → α) : Nat → List α → List α
  | 0, xs => xs
  | n + 1, xs => redTree f n (pairs xs)
where
  /-- One level of the tree. -/
  pairs : List α → List α
    | x :: y :: r => f x y :: pairs r
    | xs => xs

/-- Combine two integer values of a type (R235). -/
def redInt (ty : BitVec 4) (op : BitVec 3) (x y : BitVec 64) : BitVec 64 :=
  let w := tyWidth ty
  let u : BitVec w := elem w x 0
  let v : BitVec w := elem w y 0
  let r : BitVec w := match op.toNat with
    | 0 => u + v
    | 1 => minElem (!tyUnsigned ty) u v
    | 2 => maxElem (!tyUnsigned ty) u v
    | 3 => u &&& v
    | 4 => u ||| v
    | _ => u ^^^ v
  r.setWidth 64

/-- The identity of an operation (R235). -/
def redIdentity (ty : BitVec 4) (op : BitVec 3) : BitVec 64 :=
  let w := tyWidth ty
  if ty = 2 then
    match op.toNat with
    | 0 => 0x8000_0000
    | 1 => 0x7F80_0000
    | _ => 0xFF80_0000
  else
    match op.toNat with
    | 1 => BitVec.ofInt 64 (hiOf (!tyUnsigned ty) w) &&& BitVec.ofNat 64 (2 ^ w - 1)
    | 2 => BitVec.ofInt 64 (loOf (!tyUnsigned ty) w) &&& BitVec.ofNat 64 (2 ^ w - 1)
    | 3 => BitVec.ofNat 64 (2 ^ w - 1)
    | _ => 0

/-- Combine two values with flags; binary32 addition rounds by FCSR.RM at dispatch (R235). -/
def redPair (ty : BitVec 4) (op : BitVec 3) (rm : Rm) (x y : BitVec 64 × Flags) : BitVec 64 × Flags :=
  if ty = 2 then
    let a := (x.1.setWidth 32 : Lane).toNat
    let b := (y.1.setWidth 32 : Lane).toNat
    let r := match op.toNat with
      | 0 => fAdd f32 rm a b
      | 1 => fMinMax f32 false a b
      | _ => fMinMax f32 true a b
    (BitVec.ofNat 64 r.1, x.2 ||| y.2 ||| r.2)
  else (redInt ty op x.1 y.1, x.2 ||| y.2)

def execVred (c : LCtl) (d a : Opnd) (op : BitVec 3) : State → Out :=
  laneWord (.fixed 10) c (Instr.vred c d a op).wf do
    let dst ← prepare (isPair c.ty) d
    let x ← readMoved (isPair c.ty) a
    settle
    let t ← tileT
    let st ← get
    let rm := Rm.ofCode st.disp.rm.toNat
    let tile := fun (i : LaneIx) =>
      let vals := (tileLanes t i).map fun j => ((if inMask st.e j then x j else redIdentity c.ty op), (0 : Flags))
      (redTree (redPair c.ty op rm) 5 vals).headD (0, 0)
    emitFlagged c.ty dst tile

def execVscan (c : LCtl) (d a : Opnd) (op : BitVec 3) (excl : Bool) : State → Out :=
  laneWord (.fixed 10) c (Instr.vscan c d a op excl).wf do
    let dst ← prepare (isPair c.ty) d
    let x ← readMoved (isPair c.ty) a
    settle
    let t ← tileT
    let st ← get
    emit c.ty (isPair c.ty) dst fun i =>
      let below := (tileLanes t i).filter fun j =>
        inMask st.e j && (if excl then decide (j.val < i.val) else decide (j.val ≤ i.val))
      below.foldl (fun acc j => redInt c.ty op acc (x j)) (redIdentity c.ty op)

/-- VMOVX's source lane, none where the lane receives 0 (R237). -/
def movxSrc (expand : Bool) (t : Nat) (e p : Mask) (i : LaneIx) : Option LaneIx :=
  let l := (tileLanes t i).filter (inMask e)
  let sel := l.filter (inMask p)
  if expand then
    if sel.contains i then l[sel.idxOf i]? else none
  else sel[l.idxOf i]?

def execVmovx (c : LCtl) (d a : Opnd) (p : PCode) (expand : Bool) : State → Out :=
  laneWord (.fixed 10) c (Instr.vmovx c d a p expand).wf do
    let dst ← prepare (isPair c.ty) d
    let x ← readMoved (isPair c.ty) a
    let q ← readPredIn (← needE) p
    settle
    let t ← tileT
    let st ← get
    emit c.ty (isPair c.ty) dst fun i => ((movxSrc expand t st.e q i).map x).getD 0

end Sys2Proof.Machine
end

