-- ==== Sys2Proof/Machine/ScalarMem.lean ====
section
/-!
DEFINITION. Sys2Proof/Machine/ScalarMem.lean: loads and stores (R197), LDA and STL (R198), atomics (R199). One
core after another performs its accesses in the order of the steps, which the ordering rules permit (log
entry 2): scopes, acquire and release, and the remote option then ask nothing more.
-/
namespace Sys2Proof.Machine

/-- Read `n` bytes at an address for the acting warp: the spot and the bytes, or the cause (R197, R82). -/
def loadAt (s : State) (a : Acc) (va : Word) (n : Nat) : State × Except Raise (Spot × List Byte) :=
  match resolve s (whoOf s s.cur s.me) a n va with
  | (s', .error r) => (s', .error r)
  | (s', .ok p) =>
    if poisoned s' p n || unanswered s' s'.cur p then (s', .error (.at cECC_SCRATCH va)) else (s', .ok (p, seeBytes s' s'.me p n))

/-- The spot of a store of `n` bytes for the acting warp, or the cause: a peer package that does not answer fails the
store as an uncorrectable error (R197, R301). -/
def storeAt (s : State) (va : Word) (n : Nat) : State × Except Raise Spot :=
  match resolve s (whoOf s s.cur s.me) .write n va with
  | (s', .error r) => (s', .error r)
  | (s', .ok p) => if unanswered s' s'.cur p then (s', .error (.at cECC_SCRATCH va)) else (s', .ok p)

/-- The acting warp parks until the dirty log of a function has room for its write (R81, R116): the log is filled, and
its word has taken the issue. One that has just been resumed and finds no room keeps its place before the others
(DEDUCED, log entry 45). -/
def parkLog (s : State) (vf : Nat) (ds : List Dirty) : State :=
  let s := fillLog s ds
  let w := s.me.counted false
  let r : TrapRec := ⟨0, false, w.pc, false, false, w.openRgn, w.pc, w.nextLane, 0, 0, 0, false, .none⟩
  let f := s.fnAt vf
  let s := s.setMe { w with fault := none, reads := [] }
  let again := f.waking == some (s.cur, w.iret)
  (s.park s.cur (.dirtyLog vf) r).setFn vf
    { f with parked := if again then s.cur :: f.parked else f.parked ++ [s.cur] }

/-- Write bytes at spots for the acting warp, as one word's store (R42, R43, R79, R81). -/
def storeBytes (s : State) (units : Nat) (ws : List (Spot × List Byte)) (k : State → Did) : Did :=
  match storeWord s (coreOf s.cur) s.me units ws with
  | .done s' => k s'
  | .full => .waits
  | .freed s => .stops (s.setMe (s.me.counted false))
  | .logFull vf ds => .stops (parkLog s vf ds)

/-- An ordinary load: the value is extended as the word says (R197). -/
def loadWord (d a : SReg) (i : BitVec 13) (n : Nat) (ext : Nat → Word) : State → Out :=
  scalarWord .plain [a] fun s =>
    if fenceHeld s s.me then .waits
    else match loadAt s .read (s.sreg a + simm i) n with
    | (s', .error r) => .raises s' r
    | (s', .ok (_, bs)) => .done (s'.setS d (ext (leNat bs))) none

/-- An ordinary store of the low bytes of s(d) (R197). -/
def storeWordAt (srcs : List SReg) (va : State → Word) (d : SReg) (n : Nat) : State → Out :=
  scalarWord .plain srcs fun s =>
    match storeAt s (va s) n with
    | (s', .error r) => .raises s' r
    | (s', .ok p) => storeBytes s' 1 [(p, leBytes n (s.sreg d).toNat)] fun s'' => .done s'' none

/-- Sign and zero extension of a value of `n` bytes. -/
def sextB (n v : Nat) : Word := (BitVec.ofNat (8 * n) v).signExtend 64
def zextB (v : Nat) : Word := BitVec.ofNat 64 v

def execLdb (d a : SReg) (i : BitVec 13) : State → Out := loadWord d a i 1 (sextB 1)
def execLdbu (d a : SReg) (i : BitVec 13) : State → Out := loadWord d a i 1 zextB
def execLdh (d a : SReg) (i : BitVec 13) : State → Out := loadWord d a i 2 (sextB 2)
def execLdhu (d a : SReg) (i : BitVec 13) : State → Out := loadWord d a i 2 zextB
def execLdw (d a : SReg) (i : BitVec 13) : State → Out := loadWord d a i 4 (sextB 4)
def execLdwu (d a : SReg) (i : BitVec 13) : State → Out := loadWord d a i 4 zextB
def execLdd (d a : SReg) (i : BitVec 13) : State → Out := loadWord d a i 8 zextB
def execStb (d a : SReg) (i : BitVec 13) : State → Out := storeWordAt [d, a] (fun s => s.sreg a + simm i) d 1
def execSth (d a : SReg) (i : BitVec 13) : State → Out := storeWordAt [d, a] (fun s => s.sreg a + simm i) d 2
def execStw (d a : SReg) (i : BitVec 13) : State → Out := storeWordAt [d, a] (fun s => s.sreg a + simm i) d 4
def execStd (d a : SReg) (i : BitVec 13) : State → Out := storeWordAt [d, a] (fun s => s.sreg a + simm i) d 8

/-- ILLEGAL where the word's fields are not a legal encoding (R181). -/
def legalWord (ok : Bool) (o : State → Out) : State → Out :=
  if ok then o else scalarWord .plain [] fun s => .raises s (.plain cILLEGAL)

/-- LDA (R198). -/
def execLda (d a : SReg) (size : BitVec 2) (sc : Scope) (rmt : Bool) : State → Out :=
  legalWord (remoteOk rmt sc) (scalarWord .plain [a] fun s =>
    if fenceHeld s s.me then .waits
    else match loadAt s .read (s.sreg a) (2 ^ size.toNat) with
    | (s', .error r) => .raises s' r
    | (s', .ok (_, bs)) => .done (s'.setS d (zextB (leNat bs))) none)

/-- STL (R198). -/
def execStl (d a : SReg) (size : BitVec 2) (sc : Scope) (rmt : Bool) : State → Out :=
  legalWord (remoteOk rmt sc) (storeWordAt [d, a] (fun s => s.sreg a) d (2 ^ size.toNat))

/-- The new value of an atomic (R199); none where a compare-and-swap fails and writes nothing. -/
def atomNew {n : Nat} (signed : Bool) (op : AtomOp) (old x expected : BitVec n) : Option (BitVec n) :=
  let less := if signed then old.slt x else old.ult x
  match op with
  | .swap => some x
  | .add => some (old + x)
  | .and => some (old &&& x)
  | .or => some (old ||| x)
  | .xor => some (old ^^^ x)
  | .min => some (if less then old else x)
  | .max => some (if less then x else old)
  | .cas => if old = expected then some x else none

/-- Where an atomic raises PROT: on device pages, the register space's among them, and on host memory but for swap,
add and cas (R199) or where the root port completes it with an abort (R297). -/
def atomRefused (s : State) (p : Spot) (op : AtomOp) : Bool :=
  match p with
  | .mem pa _ attr _ =>
    attr == 2 || (paRange pa == .host && (!(op == .swap || op == .add || op == .cas) || s.aborted == some s.cur))
  | .io _ _ attr => attr == 2
  | .part .. => false

/-- A 64-bit atomic of the acting warp (R199). -/
def atomic (d a b : SReg) (op : AtomOp) : State → Out :=
  scalarWord .closing (if op = .cas then [d, a, b] else [a, b]) fun s =>
    match loadAt s .rw (s.sreg a) 8 with
    | (s', .error r) => .raises s' r
    | (s', .ok (p, bs)) =>
      if atomRefused s' p op then .raises s' (.at cPROT (s.sreg a))
      else
        let old : Word := BitVec.ofNat 64 (leNat bs)
        match atomNew true op old (s.sreg b) (s.sreg d) with
        | none => .done (s'.setS d old) none
        | some new => storeBytes s' 1 [(p, leBytes 8 new.toNat)] fun s'' => .done (s''.setS d old) none

/-- ATOM has no remote option (R199). -/
def execAtom (d a b : SReg) (op : AtomOp) (_ : Scope) (rmt : Bool) : State → Out :=
  legalWord (!rmt) (atomic d a b op)
def execAtoma (d a b : SReg) (op : AtomOp) (sc : Scope) (rmt : Bool) : State → Out :=
  legalWord (remoteOk rmt sc) (atomic d a b op)
def execAtoml (d a b : SReg) (op : AtomOp) (sc : Scope) (rmt : Bool) : State → Out :=
  legalWord (remoteOk rmt sc) (atomic d a b op)
def execAtomal (d a b : SReg) (op : AtomOp) (sc : Scope) (rmt : Bool) : State → Out :=
  legalWord (remoteOk rmt sc) (atomic d a b op)

end Sys2Proof.Machine
end

