-- ==== Sys2Proof/Machine/LaneMem.lean ====
section
/-!
DEFINITION. Sys2Proof/Machine/LaneMem.lean: lane loads, stores and atomics (R238 to R240), shape records (R124)
and TIDX (R125, R241).
-/
namespace Sys2Proof.Machine

/-! ### Lane accesses -/

/-- The cause a word reports of those its lanes raised, its lanes, and the address of the lowest (R162, R239). -/
def chooseRaise (rs : List (LaneIx × Raise)) : Option Raise :=
  match rs with
  | [] => none
  | (_, r0) :: _ =>
    let best := rs.foldl (fun (acc : Raise) x => if priority x.2.cause < priority acc.cause then x.2 else acc) r0
    let same := rs.filter fun x => x.2.cause == best.cause
    some { best with lanes := mkMask fun i => same.any fun x => x.1 == i }

/-- Check every lane of E for alignment, class, translation and permission, and a read for storage in error,
before any is performed; the word reports the highest of what its lanes and its operands raised (R162, R163, R239). -/
def checkLanes (a : Acc) (n : Nat) (addr : LaneIx → Word) (refuse : Spot → Bool) : LM (List (LaneIx × Spot)) := do
  let st ← get
  let w := st.s.me
  let step := fun (acc : State × List (LaneIx × Spot) × List (LaneIx × Raise)) (i : LaneIx) =>
    match resolve acc.1 (whoOf acc.1 acc.1.cur w) a n (addr i) with
    | (s, .error r) => (s, acc.2.1, acc.2.2 ++ [(i, r)])
    | (s, .ok p) =>
      if refuse p then (s, acc.2.1, acc.2.2 ++ [(i, .at cPROT (addr i))])
      else if (a != .write && poisoned s p n) || unanswered s s.cur p then (s, acc.2.1, acc.2.2 ++ [(i, .at cECC_SCRATCH (addr i))])
      else (s, acc.2.1 ++ [(i, p)], acc.2.2)
  let (s, ok, bad) := (maskLanes st.e).foldl step (st.s, [], [])
  set { st with s := s }
  match chooseRaise bad with
  | some r => note r []
  | none => pure ()
  settle
  pure ok

/-- Perform or hold the stores of a lane word (R42, R43, R79, R81). -/
def laneStore (units : Nat) (ws : List (Spot × List Byte)) : LM Unit := do
  let st ← get
  match storeWord st.s (coreOf st.s.cur) st.s.me units ws with
  | .done s => set { st with s := s }
  | .full => wait
  | .freed s => throw (.stops (s.setMe { s.me with held := st.popped ++ s.me.held }))
  | .logFull vf ds =>
    let w := st.s.me
    throw (.stops (parkLog (st.s.setMe { w with held := st.popped ++ w.held }) vf ds))

/-- The address of lane `i` (R238). -/
def laneAddr (d : Dispatch) (base : BitVec 3) (scale : BitVec 2) (ix : Vals) (off : Word) (i : LaneIx) : Word :=
  d.ab[base.toNat] + ((((ix i).setWidth 32 : Lane).signExtend 64) <<< scale.toNat) + off

/-- Bytes of one lane's access (R238). -/
def accessSize (ty : BitVec 4) (size : BitVec 2) : Nat :=
  if size = 1 then 1 else if size = 2 then 2 else if isPair ty then 8 else 4

/-- A loaded value: narrow loads sign-extend for i32 and zero-extend for u32 (R239). -/
def loadedValue (ty : BitVec 4) (n : Nat) (bs : List Byte) : BitVec 64 :=
  let v := leNat bs
  if n < 4 ∧ ty = 0 then ((BitVec.ofNat (8 * n) v).signExtend 32).setWidth 64 else BitVec.ofNat 64 v

/-- The value lane `i` got, of the lanes that got one. -/
def laneResult (rs : List (LaneIx × BitVec 64)) (i : LaneIx) : BitVec 64 :=
  ((rs.find? fun x => x.1 == i).map (·.2)).getD 0

def execVld (c : LCtl) (d a : Opnd) (m : LAddr) (size : BitVec 2) (off : BitVec 9) : State → Out :=
  laneWord .memory c (Instr.vld c d a m size off).wf do
    let dst ← prepare (isPair c.ty) d
    let ix ← readE false a
    sync
    let st ← get
    if fenceHeld st.s st.s.me then wait
    let n := accessSize c.ty size
    let spots ← checkLanes .read n (laneAddr st.disp m.base m.scale ix (off.signExtend 64)) fun _ => false
    let st ← get
    let rs := spots.map fun (i, p) => (i, loadedValue c.ty n (seeBytes st.s st.s.me p n))
    emit c.ty (isPair c.ty) dst (laneResult rs)

def execVst (c : LCtl) (a cc : Opnd) (m : LAddr) (size : BitVec 2) (off : BitVec 9) : State → Out :=
  laneWord .memory c (Instr.vst c a cc m size off).wf do
    let ix ← readE false a
    let z ← readE (isPair c.ty) cc
    sync
    let st ← get
    let n := accessSize c.ty size
    let spots ← checkLanes .write n (laneAddr st.disp m.base m.scale ix (off.signExtend 64)) fun _ => false
    laneStore (if isPair c.ty then 2 else 1) (spots.map fun (i, p) => (p, leBytes n (z i).toNat))

/-- One lane's atomic: the machine after it, the old value, and the spot where it wrote (R199, R239). Its dirty bits
have been set. -/
def atomLane (ty : BitVec 4) (op : AtomOp) (s : State) (p : Spot) (x expected : BitVec 64) :
    State × BitVec 64 × Option Spot :=
  let n := if isPair ty then 8 else 4
  let w := tyWidth ty
  let old : BitVec w := BitVec.ofNat w (leNat (seeBytes s s.me p n))
  match atomNew (!tyUnsigned ty) op old (x.setWidth w) (expected.setWidth w) with
  | some new => (performStores s [(p.plain, leBytes n new.toNat)], old.setWidth 64, some p)
  | none => (s, old.setWidth 64, none)

/-- The lanes' atomics in ascending order: the machine after them, the old values, the spots written. -/
def atomLanes (ty : BitVec 4) (op : AtomOp) (x expected : Vals) (s : State) (spots : List (LaneIx × Spot)) :
    State × List (LaneIx × BitVec 64) × List Spot :=
  spots.foldl (fun acc y =>
    let (s, old, at_) := atomLane ty op acc.1 y.2 (x y.1) (expected y.1)
    (s, acc.2.1 ++ [(y.1, old)], acc.2.2 ++ at_.toList)) (s, [], [])

def execVatom (c : LCtl) (d a b cc : Opnd) (m : LAddr) (op : AtomOp) (off : BitVec 8) : State → Out :=
  laneWord ⟨none, true, true⟩ c (Instr.vatom c d a b cc m op off).wf do
    let dst ← prepare (isPair c.ty) d
    let ix ← readE false a
    let y ← if op = .cas then readE (isPair c.ty) b else pure fun _ => 0
    let z ← readE (isPair c.ty) cc
    sync
    let st ← get
    let n := if isPair c.ty then 8 else 4
    let spots ← checkLanes .rw n (laneAddr st.disp m.base m.scale ix (off.signExtend 64)) fun p => atomRefused st.s p op
    let st ← get
    let dirty := storeDirty ((atomLanes c.ty op z y st.s spots).2.2.map fun p => (p, []))
    match logShort st.s dirty with
    | some vf =>
      let w := st.s.me
      throw (.stops (parkLog (st.s.setMe { w with held := st.popped ++ w.held }) vf dirty))
    | none => pure ()
    let (s, rs, _) := atomLanes c.ty op z y (setDirty st.s dirty) spots
    set { st with s := s }
    emit c.ty (isPair c.ty) dst (laneResult rs)

/-! ### Shape records (R124) -/

/-- Five little-endian fields of `n` bytes from an offset. -/
def fiveFields (bs : List Byte) (off n : Nat) : List Nat := (List.range 5).map fun i => fieldNat bs (off + n * i) n

/-- Whether each of five fields meets a test below the rank and is zero from there. -/
def withinRank (rank : Nat) (f : Nat → Bool) (xs : List Nat) : Bool :=
  xs.zipIdx.all fun (x, i) => if i < rank then f x else x == 0

/-- A shape record, if it is well-formed (R124). -/
def shapeOf (bs : List Byte) : Option Shape :=
  let rank := fieldNat bs 0 1
  let esize := fieldNat bs 1 1
  let toff := fieldNat bs 4 4
  let ext := fiveFields bs 0x08 4
  let stride := fiveFields bs 0x20 8
  let box := fiveFields bs 0x48 4
  let magic := fiveFields bs 0x60 4
  let shift := fiveFields bs 0x74 1
  let el := 2 ^ esize
  let inRange := fun x => decide (1 ≤ x ∧ x < 2 ^ 31)
  if 1 ≤ rank ∧ rank ≤ 5 ∧ esize ≤ 3 ∧ toff % el = 0
      ∧ zeroBytes bs 2 2 ∧ zeroBytes bs 0x1C 4 ∧ zeroBytes bs 0x5C 4 ∧ zeroBytes bs 0x79 7
      ∧ withinRank rank inRange ext ∧ withinRank rank (fun x => x % el == 0) stride
      ∧ withinRank rank inRange box ∧ withinRank rank (fun _ => true) magic
      ∧ withinRank rank (fun x => decide (x ≤ 31)) shift then
    some ⟨rank, esize, toff, ext.take rank, stride.take rank, box.take rank, magic, shift⟩
  else none

/-- Coordinate `dim` of a linear index (R125). -/
def tidxCoord (sh : Shape) (dim x : Nat) : Nat :=
  let step := fun (d x : Nat) =>
    let t := (sh.magic.getD d 0 * x / 2 ^ 32 + x) % 2 ^ 33
    t / 2 ^ sh.shift.getD d 0 % 2 ^ 32
  let rec go : Nat → Nat → Nat → Nat
    | 0, _, x => x
    | n + 1, d, x =>
      if d + 1 = sh.rank then x
      else
        let q := step d x
        if d = dim then (x + 2 ^ 64 - q * sh.ext.getD d 0) % 2 ^ 32 else go n (d + 1) q
  go 5 0 x

/-- The shape record at an index of a table, from what a read of its bytes answered; none in a table that is not there
(R124). -/
def shapeIn (table : Word) (ix : Nat) (read : Word → State × Except PartErr (List Byte)) (s : State) :
    State × Except PartErr (Option Shape) :=
  if table = 0 then (s, .ok none)
  else
    match read (table + BitVec.ofNat 64 (128 * ix)) with
    | (s, .error e) => (s, .error e)
    | (s, .ok bs) => (s, .ok (shapeOf bs))

/-- The shape record of a command, as memory holds it. -/
def readShape (s : State) (w : Who) (table : Word) (ix : Nat) : State × Except PartErr (Option Shape) :=
  shapeIn table ix (fun va => readSpan s w va 128) s

/-- The shape record a TIDX names, as its warp sees it, its own stores among what it sees (R87, R241). -/
def seeShape (s : State) (table : Word) (ix : Nat) : State × Except PartErr (Option Shape) :=
  shapeIn table ix (fun va => seeSpan s.me s (whoOf s s.cur s.me) va 128) s

def execTidx (c : LCtl) (d a : Opnd) (shape : BitVec 8) (dim : BitVec 3) : State → Out :=
  laneWord (.fixed 8) c (Instr.tidx c d a shape dim).wf do
    let dst ← prepare false d
    let x ← readE false a
    sync
    let st ← get
    if st.e = 0 then do
      settle
      emit c.ty false dst fun _ => 0
    else do
      if fenceHeld st.s st.s.me then wait
      let w := st.s.me
      let at_ := (recordOf st.s w).shapes + BitVec.ofNat 64 (128 * shape.toNat)
      let (s, r) := seeShape st.s (recordOf st.s w).shapes shape.toNat
      set { st with s := s }
      match r with
      | .error (.raise r) => fail { r with addr := at_, lanes := st.e }
      | .error (.logFull _) => wait
      | .ok none => fail ⟨cENGINE, 0, st.e, false⟩
      | .ok (some sh) =>
        if sh.rank ≤ dim.toNat then fail ⟨cENGINE, 0, st.e, false⟩
        else do
          settle
          emit c.ty false dst fun i => BitVec.ofNat 64 (tidxCoord sh dim.toNat ((x i).setWidth 32 : Lane).toNat)

end Sys2Proof.Machine
end

