-- ==== Sys2Proof/Machine/LaneHv.lean ====
section
/-!
DEFINITION. Sys2Proof/Machine/LaneHv.lean: the hypervector words (R242 to R249) over h registers, bundle
accumulators and the cluster's vault (R56, R70, R129).
-/
namespace Sys2Proof.Machine

/-- A hypervector word exists only in grids with the HV flag (R56, R242). -/
def needHv : LM Unit := do
  let st ← get
  if (recordOf st.s st.s.me).hv then pure () else noteHere cILLEGAL

/-- A hypervector word: nothing happens where E is empty (R242); E is active(g), since it has no prefix. -/
def hvWord (k : LKind) (i : Instr) (c : LCtl) (body : LM Unit) : State → Out :=
  laneWord k c i.wf do
    needHv
    body

/-- The four main-file names from v`n`, which must lie within the private names (R242). -/
def fourNames (n : Nat) : LM Unit := do
  let st ← get
  if n + 3 < privNames st.s st.s.me ∧ n < 256 then pure () else noteHere cWINDOW

/-- The number of a main-file operand. -/
def mainIx : Opnd → Nat
  | .v i => i.toNat
  | _ => 0

/-- Bits of four rows as a hypervector: bit `i` is bit `i` mod 32 of lane `i` / 32 mod 32 of row `i` / 1024
(R56). -/
def rowsToHv (rows : List Lanes) : HVec :=
  BitVec.ofNat 4096 (leNat (rows.flatMap fun v => v.toList.flatMap fun x => leBytes 4 x.toNat))

/-- Row `r` of a hypervector. -/
def hvRow (h : HVec) (r : Nat) : Lanes := mkLanes fun i => h.extractLsb' (1024 * r + 32 * i.val) 32

def execHfromv (c : LCtl) (a : Opnd) (h : BitVec 3) : State → Out :=
  hvWord (.fixed 4) (.hfromv c a h) c do
    let n := mainIx a
    fourNames n
    let need ← needWhole
    let v0 ← readName n need
    let v1 ← readName (n + 1) need
    let v2 ← readName (n + 2) need
    let v3 ← readName (n + 3) need
    settle
    emitHv h (rowsToHv [v0, v1, v2, v3])

/-- HTOV writes all lanes of four rows; its vector result is the first (R243). -/
def execHtov (c : LCtl) (d : Opnd) (h : BitVec 3) : State → Out :=
  hvWord (.fixed 4) (.htov c d h) c do
    let n := mainIx d
    fourNames n
    let x ← readHv h
    settle
    let rows := (List.range 4).map fun r => LWrite.vec (.main (n + r)) 0xFFFF_FFFF (hvRow x r)
    modify fun st => { st with writes := st.writes ++ rows, shift := .one st.e (hvRow x 0) }

/-- The address of HLD and HST (R244). -/
def hvAddr (d : Dispatch) (base : BitVec 3) (scale : BitVec 2) (ix : Vals) (e : Mask) (off : BitVec 13) : Word :=
  laneAddr d base scale ix (off.signExtend 64) (lowest e)

/-- The spots of 512 bytes, word by word, all checked before any is accessed (R244). -/
def hvSpots (a : Acc) (va : Word) : LM (List Spot) := do
  let st ← get
  let w := st.s.me
  let lead := 1#32 <<< (lowest st.e).val
  if va.toNat % 4 ≠ 0 then note ⟨cMISALIGN, va, lead, false⟩ []
  let step := fun (acc : State × List Spot × List Raise) (j : Nat) =>
    let at_ := va + BitVec.ofNat 64 (4 * j)
    match resolve acc.1 (whoOf acc.1 acc.1.cur w) a 4 at_ with
    | (s, .error r) => (s, acc.2.1, acc.2.2 ++ [r])
    | (s, .ok p) =>
      if (a != .write && poisoned s p 4) || unanswered s s.cur p then (s, acc.2.1, acc.2.2 ++ [.at cECC_SCRATCH at_])
      else (s, acc.2.1 ++ [p], acc.2.2)
  let (s, ok, bad) := (List.range 128).foldl step (st.s, [], [])
  set { st with s := s }
  match chooseRaise (bad.map fun r => (lowest st.e, r)) with
  | some r => note r []
  | none => pure ()
  settle
  pure ok

def execHld (c : LCtl) (a : Opnd) (base : BitVec 3) (scale : BitVec 2) (h : BitVec 3) (off : BitVec 13) : State → Out :=
  hvWord .memory (.hld c a base scale h off) c do
    let ix ← readE false a
    sync
    let st ← get
    if fenceHeld st.s st.s.me then wait
    let spots ← hvSpots .read (hvAddr st.disp base scale ix st.e off)
    let st ← get
    emitHv h (BitVec.ofNat 4096 (leNat (spots.flatMap fun p => seeBytes st.s st.s.me p 4)))

def execHst (c : LCtl) (a : Opnd) (base : BitVec 3) (scale : BitVec 2) (h : BitVec 3) (off : BitVec 13) : State → Out :=
  hvWord .memory (.hst c a base scale h off) c do
    let ix ← readE false a
    let x ← readHv h
    sync
    let st ← get
    let spots ← hvSpots .write (hvAddr st.disp base scale ix st.e off)
    laneStore 4 (spots.zipIdx.map fun (p, j) => (p, leBytes 4 (x.extractLsb' (32 * j) 32 : Lane).toNat))

def execHxor (c : LCtl) (hd ha hb : BitVec 3) : State → Out :=
  hvWord (.fixed 4) (.hxor c hd ha hb) c do
    let x ← readHv ha
    let y ← readHv hb
    settle
    emitHv hd (x ^^^ y)

/-- HROT: bit (i + amount) mod 4096 of the result is bit i of the source (R245). -/
def execHrot (c : LCtl) (hd ha : BitVec 3) (amt : BitVec 12) : State → Out :=
  hvWord (.fixed 4) (.hrot c hd ha amt) c do
    let x ← readHv ha
    settle
    emitHv hd (x.rotateLeft amt.toNat)

/-- Counter `i` of an accumulator (R56). -/
def counter (k : Bundle) (i : Nat) : Int := (k.extractLsb' (8 * i) 8 : Byte).toInt

/-- One step of HBUN on a counter, and whether it clamped (R246). -/
def bundleStep (k : Bundle) (h : HVec) (wt : BitVec 3) (neg : Bool) (i : Nat) : Int × Bool :=
  let v : Int := if h.getLsbD i != neg then wt.toNat else -(wt.toNat : Int)
  let t := counter k i + v
  let y := clampInt (-127) 127 t
  (y, y != t)

def execHbun (c : LCtl) (ha : BitVec 3) (k : BitVec 1) (wt : BitVec 3) (neg : Bool) : State → Out :=
  hvWord (.fixed 6) (.hbun c ha k wt neg) c do
    let x ← readHv ha
    let y ← readBun k
    settle
    let out := (List.range 4096).map (bundleStep y x wt neg)
    if out.any (·.2) then raiseFlags fHSAT
    emitBun k (BitVec.ofNat 32768 (out.foldr (fun v acc => (v.1 % 256).toNat + 256 * acc) 0))

def execHthr (c : LCtl) (hd tie : BitVec 3) (k : BitVec 1) : State → Out :=
  hvWord (.fixed 6) (.hthr c hd tie k) c do
    let t ← readHv tie
    let y ← readBun k
    settle
    let one := fun i =>
      let v := counter y i
      if 0 < v then true else if v < 0 then false else t.getLsbD i
    emitHv hd (BitVec.ofNat 4096 ((List.range 4096).foldr (fun i acc => (one i).toNat + 2 * acc) 0))

def execHkclr (c : LCtl) (k : BitVec 1) : State → Out :=
  hvWord (.fixed 4) (.hkclr c k) c do
    settle
    emitBun k 0

def execHdist (c : LCtl) (d : Opnd) (ha hb : BitVec 3) : State → Out :=
  hvWord (.fixed 8) (.hdist c d ha hb) c do
    let dst ← prepare false d
    let x ← readHv ha
    let y ← readHv hb
    settle
    emit c.ty false dst fun _ => BitVec.ofNat 64 (popBits (x ^^^ y))

/-- The least distance among entries with the lowest index of it; none where there is no entry (R248). -/
def nearest (q : HVec) (es : List (Nat × HVec)) : Option (Nat × Nat) :=
  es.foldl (fun acc e =>
    let dist := popBits (q ^^^ e.2)
    match acc with
    | some (i, best) => if dist < best then some (e.1, dist) else some (i, best)
    | none => some (e.1, dist)) none

/-- HNEAR searches the valid entries in the range (R248), which are locations that a fence orders (R83, R90). -/
def execHnear (c : LCtl) (d a : Opnd) (b : BSrc) (h : BitVec 3) : State → Out :=
  hvWord .memory (.hnear c d a b h) c do
    let dst ← prepare false d
    let x ← readE false a
    let n ← readB false b
    let q ← readHv h
    sync
    let st ← get
    if fenceHeld st.s st.s.me then wait
    settle
    let lead := lowest st.e
    let lo := ((x lead).setWidth 32 : Lane).toNat
    let hi := lo + ((n lead).setWidth 32 : Lane).toNat
    let es := (st.s.clusterAt (clusterOf (coreOf st.s.cur))).vault.filter fun e => decide (lo ≤ e.1 ∧ e.1 < hi)
    let first := nearest q es
    let second := nearest q (es.filter fun e => (first.map (·.1)) != some e.1)
    let vals : List Nat := [(first.map (·.1)).getD 0xFFFF_FFFF, (first.map (·.2)).getD 4097,
      (second.map (·.2)).getD 4097, (second.map (·.1)).getD 0xFFFF_FFFF]
    emit c.ty false dst fun i => BitVec.ofNat 64 (vals.getD i.val 0)

/-- Whether a vault entry is fenced (R305). -/
def vaultFenced (s : State) (cluster entry : Nat) : Bool := s.fenced.contains (.vaultEntry cluster entry)

/-- HPUT writes an entry of its cluster's vault and makes it valid; one under a self-test is waited for (R249, R305;
DEDUCED, log entry 66). -/
def execHput (c : LCtl) (b : BSrc) (h : BitVec 3) : State → Out :=
  hvWord ⟨none, false, true⟩ (.hput c b h) c do
    let n ← readB false b
    let x ← readHv h
    sync
    let st ← get
    let lead := lowest st.e
    let e := ((n lead).setWidth 32 : Lane).toNat
    let cl := clusterOf (coreOf st.s.cur)
    if Config.vaultEntries ≤ e || vaultFenced st.s cl e then note ⟨cENGINE, 0, 1#32 <<< lead.val, false⟩ []
    settle
    if st.s.testing.contains (.vaultEntry cl e) then wait
    let u := st.s.clusterAt cl
    set { st with s := st.s.setCluster cl { u with vault := Tbl.set u.vault e x } }

end Sys2Proof.Machine
end

