-- ==== Sys2Proof/Machine/Control.lean ====
section
/-!
DEFINITION. Sys2Proof/Machine/Control.lean: branches (R201 to R203), dispatch and the queues to the lanes (R204
to R209), the affine stream engine (R103), special registers (R57 to R60, R210), regions, YIELD, TRAP, ERET and
EXIT (R211 to R215), FENCE (R200), TLBI (R73, R76, R217).
-/
namespace Sys2Proof.Machine

/-! ### Branches -/

/-- The target of a displacement (R201). -/
def branchTo (pc : Word) (disp : BitVec 19) : Word := pc + 4 * disp.signExtend 64

/-- A conditional branch on one register (R201). -/
def branchIf (a : SReg) (disp : BitVec 19) (test : Word → Bool) : State → Out :=
  scalarWord .plain [a] fun s => .done s (if test (s.sreg a) then some (branchTo s.me.pc disp) else none)

def execBz (a : SReg) (disp : BitVec 19) : State → Out := branchIf a disp fun x => x == 0
def execBnz (a : SReg) (disp : BitVec 19) : State → Out := branchIf a disp fun x => x != 0
def execBltz (a : SReg) (disp : BitVec 19) : State → Out := branchIf a disp fun x => x.msb
def execBgez (a : SReg) (disp : BitVec 19) : State → Out := branchIf a disp fun x => !x.msb

/-- CALL (R201). -/
def execCall (a : SReg) (disp : BitVec 19) : State → Out :=
  scalarWord .plain [] fun s => .done (s.setS a (s.me.pc + 4)) (some (branchTo s.me.pc disp))

/-- LOOP (R201): s0 holds no count, so its difference is never 0. -/
def execLoop (a : SReg) (disp : BitVec 19) : State → Out :=
  scalarWord .plain [a] fun s =>
    let t := s.sreg a - 1
    .done (s.setS a t) (if t != 0 then some (branchTo s.me.pc disp) else none)

/-- JR (R202). -/
def execJr (d a : SReg) (i : BitVec 13) : State → Out :=
  scalarWord .plain [a] fun s =>
    let t := s.sreg a + simm i
    if t.toNat % 4 ≠ 0 then .raises s (.at cMISALIGN t) else .done (s.setS d (s.me.pc + 4)) (some t)

/-- The words that a trap handler may not run (R167). -/
abbrev Kind.userOnly : Kind := ⟨false, false, false⟩

/-- A wait on a queue between the streams: ILLEGAL where it cannot end (R104). -/
def queueWait (s : State) (q : SQueue) : Did :=
  if scalarDeadlock s q then .deadlocks else .waits

/-- BQT and BQF (R203). -/
def branchBq (want : Bool) (disp : BitVec 19) : State → Out :=
  scalarWord .userOnly [] fun s =>
    let w := s.me
    match w.bq with
    | [] => queueWait s .bq
    | b :: rest => .done (s.setMe { w with bq := rest }) (if b == want then some (branchTo w.pc disp) else none)

def execBqt (disp : BitVec 19) : State → Out := branchBq true disp
def execBqf (disp : BitVec 19) : State → Out := branchBq false disp

/-! ### Dispatch -/

/-- Dispatch the lane block at an address (R14 to R16, R204). -/
def dispatchAt (s : State) (at_ : Word) : Did :=
  let w := s.me
  if at_.toNat % 4 ≠ 0 then .raises s (.at cMISALIGN at_)
  else if 4 ≤ w.dispatch.length then .waits
  else
    let d : Dispatch := ⟨at_, w.fcsr.extractLsb' 0 3, w.chk, w.ab, s.seq, false, none, none⟩
    .done { s.setMe { w with dispatch := w.dispatch ++ [d] } with seq := s.seq + 1 } none

def execLgo (i : BitVec 19) : State → Out :=
  scalarWord .userOnly [] fun s => dispatchAt s (s.me.lcb + 4 * i.setWidth 64)
def execLgor (a : SReg) : State → Out :=
  scalarWord .userOnly [a] fun s => dispatchAt s (s.me.lcb + s.sreg a)

/-- LWAIT (R205). -/
def execLwait : State → Out :=
  scalarWord .userOnly [] fun s => if s.me.dispatch.isEmpty then .done s none else .waits

/-- The wait "as LWAIT does" of other words. In a trap handler the dispatched blocks are suspended with the lane
stream, so that it asks for nothing (R167; DEDUCED, log entry 15). -/
def drained (s : State) : Bool := s.me.sup || s.me.dispatch.isEmpty

/-! ### dq and xq -/

/-- Push an entry to a dq of a warp. -/
def Warp.pushDq (w : Warp) (q : Nat) (e : DqEntry) : Warp :=
  let d := w.dq.toList.getD q ⟨[], none⟩
  { w with dq := w.dq.setIfInBounds q { d with entries := d.entries ++ [e] } }

/-- Push with the waits of R102 and R104; a running stream ends by itself unless the dq is full. -/
def dqPush (s : State) (q : BitVec 2) (k : State → Did) : Did :=
  let w := s.me
  let full := decide (8 ≤ (w.dqEntries q.toNat).length)
  if full then queueWait s (.dq q.toNat)
  else if w.streaming q.toNat then .waits
  else k s

/-- DQP (R206). -/
def execDqpBroadcast (a : SReg) (q : BitVec 2) : State → Out :=
  scalarWord .userOnly [a] fun s => dqPush s q fun s =>
    .done (s.setMe (s.me.pushDq q.toNat ⟨mkLanes fun _ => (s.sreg a).setWidth 32, none⟩)) none
def execDqpIota (a b : SReg) (q : BitVec 2) : State → Out :=
  scalarWord .userOnly [a, b] fun s => dqPush s q fun s =>
    .done (s.setMe (s.me.pushDq q.toNat
      ⟨mkLanes fun i => (s.sreg a + BitVec.ofNat 64 i.val * s.sreg b).setWidth 32, none⟩)) none

/-- One element of a dq entry, extended to 32 bits (R207). -/
def dqExtend (uns : Bool) (n v : Nat) : Lane :=
  if uns then BitVec.ofNat 32 v else (BitVec.ofNat (8 * n) v).signExtend 32

/-- Load one entry for a warp, lane `i` from the address `f i`; the cause is the one R162 chooses among the
lanes, at the lowest lane that raised it (R207). -/
def loadEntry (s : State) (k : Nat) (w : Warp) (who : Who) (uns : Bool) (n : Nat) (f : LaneIx → Word) :
    State × Except Raise Lanes :=
  let step := fun (acc : State × List (LaneIx × Lane) × List (LaneIx × Raise)) (i : LaneIx) =>
    match resolve acc.1 who .read n (f i) with
    | (s, .error r) => (s, acc.2.1, acc.2.2 ++ [(i, r)])
    | (s, .ok p) =>
      if poisoned s p n || unanswered s k p then (s, acc.2.1, acc.2.2 ++ [(i, .at cECC_SCRATCH (f i))])
      else (s, acc.2.1 ++ [(i, dqExtend uns n (leNat (seeBytes s w p n)))], acc.2.2)
  let (s, ok, bad) := (List.finRange 32).foldl step (s, [], [])
  match chooseRaise bad with
  | some r => (s, .error { r with lanes := 0 })
  | none => (s, .ok (mkLanes fun i => ((ok.find? fun x => x.1 == i).map (·.2)).getD 0))

/-- DQLD (R207). -/
def execDqld (a b : SReg) (uns : Bool) (size : BitVec 2) (q : BitVec 2) : State → Out :=
  scalarWord .userOnly [a, b] fun s => dqPush s q fun s =>
    if fenceHeld s s.me then .waits
    else match loadEntry s s.cur s.me (whoOf s s.cur s.me) uns (2 ^ size.toNat)
        (fun i => s.sreg a + BitVec.ofNat 64 i.val * s.sreg b) with
    | (s', .error r) => .raises s' r
    | (s', .ok v) => .done (s'.setMe (s'.me.pushDq q.toNat ⟨v, none⟩)) none

/-- Start a stream on a dq of a warp. -/
def Warp.setStream (w : Warp) (q : Nat) (x : Option Stream) : Warp :=
  let d := w.dq.toList.getD q ⟨[], none⟩
  { w with dq := w.dq.setIfInBounds q { d with stream := x } }

/-- DQSTRM (R208). A stream that can push no more, its dq full and the lane stream waiting on another queue,
never ends (R104). -/
def execDqstrm (a b k : SReg) (uns : Bool) (size : BitVec 2) (q : BitVec 2) : State → Out :=
  scalarWord .userOnly [a, b, k] fun s =>
    let w := s.me
    let count := ((s.sreg k).setWidth 32 : BitVec 32).toNat
    if count = 0 then .done s none
    else if w.streaming q.toNat then
      let other := match laneQueueWait s s.cur with
        | some q' => q' != .dq q.toNat
        | none => false
      if decide (8 ≤ (w.dqEntries q.toNat).length) && other then .deadlocks else .waits
    else
      let st : Stream :=
        { next := 0, count := count, base := s.sreg a, laneStride := s.sreg b
          entryStride := ((s.sreg k).extractLsb' 32 32 : BitVec 32).signExtend 64, uns := uns, size := size }
      .done (s.setMe (w.setStream q.toNat (some st))) none

/-- XQP (R209). -/
def execXqp (d : SReg) : State → Out :=
  scalarWord .userOnly [] fun s =>
    let w := s.me
    match w.xq with
    | [] => queueWait s .xq
    | x :: rest => .done ((s.setMe { w with xq := rest }).setS d x) none

/-- The affine stream engine pushes a stream's next entry once the dq has room; a fault ends the stream with a
marked entry (R103). Its loads are those of the warp in user mode; their walks draw on the page-walker purse (R140). -/
def execAffineStreamPush (k : Nat) (q : BitVec 2) (s : State) : Out :=
  let w := s.warpAt k
  match (w.dq.toList.getD q.toNat ⟨[], none⟩).stream with
  | none => .refused (.notEnabled "AFFINE_STREAM_PUSH")
  | some st =>
    if w.stat == .running && decide ((w.dqEntries q.toNat).length < 8) && !(s.blockAt w.block).stopped
        && !fenceHeld s w then
      let at_ := fun (i : LaneIx) =>
        st.base + BitVec.ofNat 64 st.next * st.entryStride + BitVec.ofNat 64 i.val * st.laneStride
      let (t, r) := loadEntry { s with asked := [] } k w { whoOf s k w with sup := false } st.uns (2 ^ st.size.toNat) at_
      match paidStep s t k with
      | none =>
        match drawAhead s t k with
        | some s => .next s
        | none => .refused (.notEnabled "AFFINE_STREAM_PUSH")
      | some s =>
        match r with
        | .error r =>
          .next (s.setWarp k (((s.warpAt k).setStream q.toNat none).pushDq q.toNat
            ⟨zeroLanes, some (r.cause, r.addr, r.second)⟩))
        | .ok v =>
          let rest := if st.next + 1 < st.count then some { st with next := st.next + 1 } else none
          .next (s.setWarp k (((s.warpAt k).setStream q.toNat rest).pushDq q.toNat ⟨v, none⟩))
    else .refused (.notEnabled "AFFINE_STREAM_PUSH")

/-! ### Special registers (R57) -/

/-- The special registers by index. -/
inductive SpReg where
  | wid | blk | nblk | nw | core | iter | exm | ltile | rgn | cause | epc | fcsr | chk | lcb | args | ctr
  | ab (i : Fin 8) | freq | tband | boost | slope | opcls | crewid | slide | win | depth | trip | cycle | iret
  | ptb | ctxid | tvb | frb | sdtb | purse (i : Fin 6)
  deriving DecidableEq, Repr

/-- The register of an index; none where R57 assigns none. -/
def SpReg.ofIndex (i : BitVec 13) : Option SpReg :=
  let n := i.toNat
  if h : 0x010 ≤ n ∧ n ≤ 0x017 then some (.ab ⟨n - 0x010, by omega⟩)
  else if h : 0x110 ≤ n ∧ n ≤ 0x115 then some (.purse ⟨n - 0x110, by omega⟩)
  else match n with
    | 0x000 => some .wid | 0x001 => some .blk | 0x002 => some .nblk | 0x003 => some .nw
    | 0x004 => some .core | 0x005 => some .iter | 0x006 => some .exm | 0x007 => some .ltile
    | 0x008 => some .rgn | 0x009 => some .cause | 0x00A => some .epc | 0x00B => some .fcsr
    | 0x00C => some .chk | 0x00D => some .lcb | 0x00E => some .args | 0x00F => some .ctr
    | 0x020 => some .freq | 0x021 => some .tband | 0x022 => some .boost | 0x023 => some .slope
    | 0x024 => some .opcls | 0x030 => some .crewid | 0x031 => some .slide | 0x032 => some .win
    | 0x033 => some .depth | 0x034 => some .trip | 0x040 => some .cycle | 0x041 => some .iret
    | 0x100 => some .ptb | 0x101 => some .ctxid | 0x102 => some .tvb | 0x103 => some .frb
    | 0x104 => some .sdtb
    | _ => none

/-- Registers that a warp in user mode may not reach (R60): to read, and to write. -/
def SpReg.privRead : SpReg → Bool
  | .ptb | .ctxid | .tvb | .frb | .sdtb | .purse _ => true
  | _ => false
def SpReg.privWrite (r : SpReg) : Bool := r.privRead || r == .slope

/-- Registers whose SRD and SWR wait for the dispatched lane blocks (R17, R59). -/
def SpReg.waitsLanes : SpReg → Bool
  | .exm | .ltile | .fcsr => true
  | _ => false

/-- A truth value, and a short field, as a register's value. -/
def zword {n : Nat} (x : BitVec n) : Word := x.setWidth 64

/-- CTR (R57): the warp's commands in the four engine queues. -/
def ctrOf (s : State) (k : Nat) : Word :=
  let c := s.coreAt (coreOf k)
  let n := fun q => BitVec.ofNat 16 ((c.queue q).filter fun x => x.warp == k && !x.emul).length
  (n 3 ++ (n 2 ++ (n 1 ++ n 0 : BitVec 32) : BitVec 48) : BitVec 64)

/-- CREWID (R57). -/
def crewIdOf (w : Warp) : Word :=
  match w.stroke, w.hosts with
  | some (c, _), _ => BitVec.ofNat 64 (c % 64)
  | none, some c => BitVec.ofNat 64 (c % 64)
  | none, none => BitVec.allOnes 64

/-- The value of a special register in warp `k` (R57). -/
def SpReg.read (r : SpReg) (s : State) (k : Nat) : Word :=
  let w := s.warpAt k
  let b := s.blockAt w.block
  let core := coreOf k
  let u := s.clusterAt (clusterOf core)
  let c := s.ctxAt (s.gridOf w.block).ctx
  let d := s.domainAt (domainOf core)
  let rec_ := recordOf s w
  match r with
  | .wid => BitVec.ofNat 64 w.wid
  | .blk => BitVec.ofNat 64 b.idx
  | .nblk => BitVec.ofNat 64 rec_.blocks
  | .nw => BitVec.ofNat 64 (blockNW s w.block)
  | .core => BitVec.ofNat 64 core
  | .iter => w.iter
  | .exm => zword w.exm
  | .ltile => zword w.ltile
  | .rgn => w.rgn
  | .cause => zword w.cause
  | .epc => w.epc
  | .fcsr => zword w.fcsr
  | .chk => truth w.chk
  | .lcb => w.lcb
  | .args => rec_.args
  | .ctr => ctrOf s k
  | .ab i => w.ab[i]
  | .freq => zword u.freq
  | .tband => zword u.tband
  | .boost => zword u.boost
  | .slope => zword u.slope
  | .opcls => BitVec.ofNat 64 rec_.cls
  | .crewid => crewIdOf w
  | .slide => w.slide
  | .win => w.win
  | .depth => w.depth
  | .trip => w.trip
  | .cycle => BitVec.ofNat 64 s.cycle
  | .iret => w.iret
  | .ptb => c.ptb
  | .ctxid => zword (Tbl.get 0 s.gens w.ctxid.toNat ++ w.ctxid : BitVec 24)
  | .tvb => c.tvb
  | .frb => c.frb
  | .sdtb => c.sdtb
  | .purse i => zword d.purse[i]

/-- Drop the entries of every TLB of every port that a test holds for (R76). -/
def dropTlb (s : State) (f : TlbEntry → Bool) : State :=
  { s with
    cores := s.cores.map fun e => (e.1, { e.2 with tlb := e.2.tlb.filter (! f ·) })
    clusters := s.clusters.map fun e => (e.1, { e.2 with tlb := e.2.tlb.filter (! f ·) })
    ports := s.ports.map fun e => (e.1, e.2.filter (! f ·)) }

/-- An SWR to CTXID assigns the identifier and advances its generation; a wrap first drops every entry of the
identifier (R75). -/
def assignCtxid (s : State) (ctx : Nat) (id : BitVec 16) : State :=
  let g := Tbl.get 0 s.gens id.toNat
  let s := if g = 255 then dropTlb s fun e => e.ctxid == id else s
  let s := { s with gens := Tbl.put 0 s.gens id.toNat (g + 1) }
  s.setCtx ctx { s.ctxAt ctx with ctxid := id }

/-- A lane block that is still dispatched while a handler rewrites EXM or LTILE keeps the value from before (R17,
R210). -/
def Dispatch.keepExm (m : Mask) (d : Dispatch) : Dispatch := { d with exm := some (d.exm.getD m) }
def Dispatch.keepLtile (t : BitVec 3) (d : Dispatch) : Dispatch := { d with ltile := some (d.ltile.getD t) }

/-- Write a special register of the acting warp; none where the value is refused (R210). The warp translates under the
CTXID it took at its start or wrote itself (R75; DEDUCED, log entry 63). -/
def SpReg.write (r : SpReg) (s : State) (x : Word) : Option State :=
  let w := s.me
  let core := coreOf s.cur
  let ctx := s.myCtx
  let c := s.ctxAt ctx
  match r with
  | .exm => some (s.setMe { w with exm := x.setWidth 32, dispatch := w.dispatch.map (Dispatch.keepExm w.exm) })
  | .ltile =>
    let t : BitVec 3 := x.setWidth 3
    if 5 ≤ t.toNat then none
    else some (s.setMe { w with ltile := t, dispatch := w.dispatch.map (Dispatch.keepLtile w.ltile) })
  | .fcsr =>
    if 6 ≤ (x.setWidth 3 : BitVec 3).toNat then none
    else some (s.setMe { w with fcsr := x.setWidth 12 &&& 0xFF7 })
  | .chk => some (s.setMe { w with chk := x.getLsbD 0 })
  | .lcb => some (s.setMe { w with lcb := x })
  | .ab i => some (s.setMe { w with ab := w.ab.set i x })
  | .slope =>
    let u := s.clusterAt (clusterOf core)
    some (s.setCluster (clusterOf core) { u with slope := x.setWidth 12 })
  | .ptb => some (s.setCtx ctx { c with ptb := x })
  | .ctxid =>
    let s := assignCtxid s ctx (x.setWidth 16)
    some (s.setMe { s.me with ctxid := x.setWidth 16 })
  | .tvb => some (s.setCtx ctx { c with tvb := x })
  | .frb => some (s.setCtx ctx { c with frb := x })
  | .sdtb => some (s.setCtx ctx { c with sdtb := x })
  | .purse i =>
    let d := s.domainAt (domainOf core)
    some (s.setDomain (domainOf core) { d with purse := d.purse.set i (x.setWidth 16) })
  | .wid | .blk | .nblk | .nw | .core | .iter | .rgn | .cause | .epc | .args | .ctr | .freq | .tband | .boost
  | .opcls | .crewid | .slide | .win | .depth | .trip | .cycle | .iret => some s

/-- SRD (R210). -/
def execSrd (d : SReg) (idx : BitVec 13) : State → Out :=
  scalarWord .plain [] fun s =>
    match SpReg.ofIndex idx with
    | none => .raises s (.plain cILLEGAL)
    | some r =>
      if r.privRead && !s.me.sup then .raises s (.plain cPRIV)
      else if r.waitsLanes && !drained s then .waits
      else .done (s.setS d (r.read s s.cur)) none

/-- SWR (R210). -/
def execSwr (a : SReg) (idx : BitVec 13) : State → Out :=
  scalarWord .plain [a] fun s =>
    match SpReg.ofIndex idx with
    | none => .raises s (.plain cILLEGAL)
    | some r =>
      if r.privWrite && !s.me.sup then .raises s (.plain cPRIV)
      else if r.waitsLanes && !drained s then .waits
      else
        match r.write s (s.sreg a) with
        | some s' => .done s' none
        | none => .raises s (.plain cILLEGAL)

/-! ### Regions, YIELD, FENCE -/

/-- REGN (R211). -/
def execRegn : State → Out :=
  scalarWord .plain [] fun s =>
    if drained s then .done (s.setMe { s.me with rgn := s.me.pc, openRgn := true }) none else .waits

/-- YIELD makes its warp the youngest of its slot until its next word (R212). -/
def execYieldW : State → Out :=
  scalarWord .plain [] fun s =>
    let s' := retire s s.me.pc none false
    .stops (s'.setMe { s'.me with yielded := true })

/-- FENCE waits as LWAIT does (R200). Accesses are performed in the order of the steps (log entry 2); the release half
of one in an uncommitted stroke takes its place among the held stores, and so does a sequentially consistent fence. -/
def execFence (kind : FenceKind) (_ : Scope) : State → Out :=
  scalarWord .plain [] fun s =>
    if !drained s then .waits
    else
      match uncommitted s s.me with
      | some (c, k) =>
        if kind = .acquire then .done s none
        else .done (s.setCrew c { s.crewAt c with held := (s.crewAt c).held ++ [⟨k, [], [], 0, [], kind == .seqCst⟩] }) none
      | none => .done s none

/-! ### TRAP, ERET, EXIT -/

/-- TRAP raises software cause 0x80 to 0xFF and resumes at the next word (R213). -/
def execTrap (code : BitVec 7) : State → Out :=
  scalarWord .plain [] fun s => .traps (.plain (1#1 ++ code)) (s.me.pc + 4)

/-- ERET (R214): PRIV in user mode. -/
def eret (replay : Bool) : State → Out :=
  scalarWord .plain [] fun s =>
    let w := s.me
    match w.sup, w.trap with
    | true, some r =>
      match returnFrom s s.cur r replay with
      | .error e => .raises s e
      | .ok s' =>
        let w' := s'.me
        let s' := s'.setMe { w'.counted false with iret := w'.iret + 1 }
        .stops (s'.setBlock w.block ((s'.blockAt w.block).moved s.cycle false))
    | _, _ => .raises s (.plain cPRIV)

def execEretResume : State → Out := eret false
def execEretReplay : State → Out := eret true

/-- The commands of a warp in its core's queues. -/
def warpCmds (s : State) (k : Nat) : List Cmd := (s.coreAt (coreOf k)).cmds.filter fun c => c.warp == k

/-- A stroke ends: it keeps its slot and issues nothing until it retires (R38). -/
def exitStroke (s : State) (k c n : Nat) : State :=
  let w := s.warpAt k
  let cr := s.crewAt c
  let s := s.setWarp k { w.emptyQueues with stat := .exited, sup := false, trap := none, dispatch := [] }
  s.setCrew c { cr with strokes := cr.strokes.map fun x => if x.k = n then { x with exited := true } else x }

/-- EXIT (R215). A warp that exits leaves its resident-warp number (R30); the block's count of warps is held until
the block exits (R12). -/
def execExitWarp : State → Out :=
  scalarWord .plain [] fun s =>
    let w := s.me
    if w.hosts.isSome then .raises s (.plain cILLEGAL)
    else if !drained s || !(warpCmds s s.cur).isEmpty then .waits
    else
      let s' := match w.stroke with
        | some (c, n) => exitStroke s s.cur c n
        | none => s.setMe Warp.absent
      .stops (s'.setBlock w.block ((s'.blockAt w.block).moved s.cycle false))

/-! ### TLBI -/

/-- A supervisor word: PRIV in user mode (R181, R217). -/
def supWord (srcs : List SReg) (body : State → Did) : State → Out :=
  scalarWord .plain srcs fun s => if s.me.sup then body s else .raises s (.plain cPRIV)

/-- Whether an access translated with an entry that a test holds for may not have been performed (R76): a store that a
stroke holds (R42), or what a state engine has still to write (R286), whose entries are not kept. -/
def heldThrough (s : State) (f : TlbEntry → Bool) : Bool :=
  (s.crews.any fun e => e.2.live && e.2.held.any fun h => h.tags.any f)
    || s.cores.any fun e => e.2.stateQ.any fun c => !c.moves.isEmpty

/-- A TLBI completes once every access translated with a dropped entry has been performed (R76). -/
def tlbiWord (s : State) (f : TlbEntry → Bool) (s' : State) : Did := if heldThrough s f then .waits else .done s' none

/-- Whether the first-stage leaf of an entry maps an address under an identifier, at any page size. -/
def TlbEntry.maps (e : TlbEntry) (id : BitVec 16) (va : Nat) : Bool :=
  e.ctxid == id && e.vpn * 2 ^ e.found.leaf.bits / 2 ^ e.found.first.bits == va / 2 ^ e.found.first.bits

/-- Whether an entry holds a second-stage leaf that maps a guest physical address of a function. -/
def TlbEntry.mapsGuest (e : TlbEntry) (vf gpa : Nat) : Bool :=
  e.whole && e.vf == vf && e.found.leaf.gpa / 2 ^ e.found.second.bits == gpa / 2 ^ e.found.second.bits

/-- Whether the other stage's part of an entry no longer stands in the tables, so that its invalidation has not
completed (R77). -/
def staleSecond (s : State) (e : TlbEntry) : Bool :=
  e.whole && e.vf != 0 &&
    (walkGuest s.mem ((s.fnAt e.vf).s2ptb.extractLsb' 0 52 : BitVec 52).toNat e.found.leaf.gpa).toOption.all
      (! ·.sameMap e.found.second)
def staleFirst (s : State) (e : TlbEntry) : Bool :=
  e.vf != 0 && s.ctxs.any fun c => c.2.ctxid == e.ctxid &&
    ((walkBoth s c.1 (e.vpn * 2 ^ e.found.leaf.bits)).map (·.first)).toOption.all (! ·.sameMap e.found.first)

/-- Every TLB entry of every port under a function. -/
def mapTlb (s : State) (f : TlbEntry → TlbEntry) : State :=
  { s with
    cores := s.cores.map fun e => (e.1, { e.2 with tlb := e.2.tlb.map f })
    clusters := s.clusters.map fun e => (e.1, { e.2 with tlb := e.2.tlb.map f })
    ports := s.ports.map fun e => (e.1, e.2.map f) }

/-- tlbi.va: every entry whose first stage maps the address under the identifier (R217), but for one whose second stage
has changed without its invalidation, which may be in use until then (R77). -/
def execTlbiVa (a b : SReg) : State → Out :=
  supWord [a, b] fun s =>
    let drops := fun (e : TlbEntry) => e.maps ((s.sreg b).setWidth 16) (s.sreg a).toNat
    tlbiWord s drops
      (mapTlb (dropTlb s fun e => drops e && !staleSecond s e) fun e => if drops e then { e with gone := true } else e)

/-- tlbi.ctx: every entry of the identifier. -/
def execTlbiCtx (b : SReg) : State → Out :=
  supWord [b] fun s =>
    let drops := fun (e : TlbEntry) => e.ctxid == (s.sreg b).setWidth 16
    tlbiWord s drops (dropTlb s drops)

/-- tlbi.gpa: the second-stage part of every entry built from the guest page of the virtual function, and the entry, but
for a first-stage part that has changed and whose invalidation has not completed (R77, R217). A function outside 1 to 64
is ILLEGAL, which goes before PRIV (R162). -/
def execTlbiGpa (a b : SReg) : State → Out :=
  scalarWord .plain [a, b] fun s =>
    let vf := ((s.sreg b).setWidth 7 : BitVec 7).toNat
    let drops := fun (e : TlbEntry) => e.mapsGuest vf (s.sreg a).toNat
    if vf = 0 ∨ 64 < vf then .raises s (.plain cILLEGAL)
    else if !s.me.sup then .raises s (.plain cPRIV)
    else
      tlbiWord s drops
        (mapTlb (dropTlb s fun e => drops e && (e.gone || !staleFirst s e)) fun e =>
          if drops e then { e with whole := false } else e)

/-- The leaf entry that maps an address in the first stage: its physical address, level and offset bits. -/
def leafEntry (m : Tbl Byte) (at_ : Nat → Except WalkErr Nat) (va : Nat) :
    List (Nat × Nat) → Nat → Except WalkErr (Nat × Nat × Nat)
  | [], _ => .error (.prot none)
  | (level, shift) :: rest, base =>
    match at_ (base + 8 * walkIndex va shift) with
    | .error e => .error e
    | .ok pa =>
      if !tableAt pa then .error (.prot none)
      else if pa % 8 ≠ 0 then .error (.prot (some pa))
      else
        let e := readEntry m pa
        if !e.getLsbD 0 then .error .page
        else if !pteOk level shift e then .error (.prot (some pa))
        else if e.getLsbD 1 then .ok (pa, level, shift)
        else leafEntry m at_ va rest (pteAddr e)

/-- The leaf entry of a context's address. -/
def leafOf (s : State) (ctx va : Nat) : Except WalkErr (Nat × Nat × Nat) :=
  let c := s.ctxAt ctx
  let at_ := if c.vf = 0 then Except.ok
    else guestTable s.mem ((s.fnAt c.vf).s2ptb.extractLsb' 0 52 : BitVec 52).toNat
  leafEntry s.mem at_ va walkLevels (c.ptb.extractLsb' 0 52 : BitVec 52).toNat

/-- Entry `i` of the table that replaces a large leaf: the same fields, its part of the range (R73). -/
def splinterEntry (e : Word) (shift i : Nat) : Word :=
  let base := pteAddr e + i * 2 ^ (shift - 11)
  (e &&& 0xFFF0_0000_0000_3FFF) ||| BitVec.ofNat 64 base

/-- The splinter of R73: the new table, the pointer to it, the large translation dropped. Of a virtual function's
context the address of the table is both where it is written and the guest pointer to it (DESIGN CHOICE, log entry 96).
-/
def splinter (s : State) (ctx pte shift va table : Nat) : State :=
  let e := readEntry s.mem pte
  let bytes := (List.range 2048).flatMap fun i => leBytes 8 (splinterEntry e shift i).toNat
  let mem := writeBytes (writeBytes s.mem table bytes) pte (leBytes 8 (table + 1))
  dropTlb { s with mem := mem } fun x => x.maps (s.ctxAt ctx).ctxid va

/-- The table page of a splinter is charged to the context's virtual function (R78; DEDUCED, log entry 23). -/
def chargeTable (s : State) (ctx : Nat) : State :=
  let vf := (s.ctxAt ctx).vf
  if vf = 0 then s else s.setFn vf { s.fnAt vf with qused := (s.fnAt vf).qused + 1 }

/-- tlbi.split: the splinter's writes ask for slots of the page-walker purse (R140, R217). -/
def execTlbiSplit (a b : SReg) : State → Out :=
  supWord [a, b] fun s =>
    let va := s.sreg a
    let table := s.sreg b
    if table.toNat % 16384 ≠ 0 then .raises s (.at cMISALIGN table)
    else if 0xC0_0000_0000 ≤ table.toNat then .raises s (.at cPROT table)
    else if addrClass va != .translated then .raises s (.at cPROT va)
    else
      match leafOf s s.myCtx va.toNat with
      | .error .page | .error .page2 => .raises s (.at cPAGE va)
      | .error (.prot none) => .raises s (.at cPROT va)
      | .error (.prot (some pte)) => .raises (s.log s.myCtx (.badEntry pte)) (.at cPROT va)
      | .ok (pte, level, shift) =>
        if level = 3 then .done s none
        else
          let s' := splinter (s.askSlots (domainOf (coreOf s.cur)) walkerPurse (bursts 16384 + 1)) s.myCtx pte shift va.toNat table.toNat
          tlbiWord s (·.maps (s.ctxAt s.myCtx).ctxid va.toNat) (chargeTable s' s.myCtx)

end Sys2Proof.Machine
end

