-- ==== Sys2Proof/Machine/Sync.lean ====
section
/-!
DEFINITION. Sys2Proof/Machine/Sync.lean: waits on counters and values (R132, R261, R262), barriers (R133, R134,
R263) and the release waves (R135), HINTSUCC and WAITPRED (R26, R265).
-/
namespace Sys2Proof.Machine

/-! ### CWAIT and WAITV -/

/-- Whether a counter satisfies a target (R132). -/
def counterMet (v target : Word) : Bool :=
  v.getLsbD 62 || v.getLsbD 63
    || decide ((target.extractLsb' 0 62 : BitVec 62).toNat ≤ (v.extractLsb' 0 62 : BitVec 62).toNat)

/-- CWAIT (R261). The yield option bears on swaps only (R32, R283). -/
def execCwait (a b : SReg) (_ : Bool) : State → Out :=
  scalarWord .plain [a, b] fun s =>
    if fenceHeld s s.me then .waits
    else match loadAt s .read (s.sreg a) 8 with
    | (s', .error r) => .raises s' r
    | (s', .ok (_, bs)) =>
      if counterMet (BitVec.ofNat 64 (leNat bs)) (s.sreg b) then .done s' none else .waits

/-- Whether a condition of WAITV holds (R262). -/
def waitMet (c : WaitCond) (v x : Word) : Bool :=
  match c with
  | .eq => v == x
  | .ne => v != x
  | .ltu => v.ult x
  | .geu => !v.ult x
  | .lt => v.slt x
  | .ge => !v.slt x

/-- WAITV (R262). -/
def execWaitv (k a b : SReg) (cond : WaitCond) (sc : Scope) (rmt : Bool) : State → Out :=
  legalWord (remoteOk rmt sc) (scalarWord .plain [a, b] fun s =>
    if fenceHeld s s.me then .waits
    else match loadAt s .read (s.sreg a) 8 with
    | (s', .error r) => .raises s' r
    | (s', .ok (_, bs)) =>
      let v : Word := BitVec.ofNat 64 (leNat bs)
      if waitMet cond v (s.sreg b) then .done (s'.setS k v) none else .waits)

/-! ### BAR (R134) -/

/-- The barrier of the acting warp's block. -/
def State.myBar (s : State) (b : BitVec 4) : Barrier := s.myBlock.bar b

/-- The checks of every kind but INIT: ILLEGAL on an uninitialised barrier or where the kind forbids its operand, then
ENGINE on a broken barrier (R134, R162). -/
def barCheck (s : State) (b : BitVec 4) (illegal : Barrier → Bool) (k : Barrier → Did) : Did :=
  let x := s.myBar b
  if x.expected = 0 || illegal x then .raises s (.plain cILLEGAL)
  else if x.broken then .raises s (.plain cENGINE)
  else k x

/-- Count one arrival (R133, R134). -/
def Barrier.arrive (x : Barrier) : Barrier := { x with arrived := x.arrived + 1 }

/-- Whether one more arrival would pass 255. -/
def Barrier.full (x : Barrier) : Bool := x.arrived == 255

def execBarArrive (b : BitVec 4) : State → Out :=
  scalarWord .closing [] fun s => barCheck s b Barrier.full fun x => .done (putBar s s.me.block b x.arrive) none

def execBarExpect (a : SReg) (b : BitVec 4) : State → Out :=
  scalarWord .closing [a] fun s =>
    let m := (s.sreg a).toNat
    barCheck s b (fun _ => decide (2 ^ 47 - 1 < m)) fun x => .done (putBar s s.me.block b (x.addBytes m)) none

/-- Whether a warp of the block waits on a barrier (R134). -/
def barWaiters (s : State) (k : Nat) (b : BitVec 4) : Bool :=
  (blockWarps s k).any fun e => match e.2.wait with
    | .barrier b' _ _ => b' == b.toNat
    | _ => false

def execBarInit (a : SReg) (b : BitVec 4) : State → Out :=
  scalarWord .closing [a] fun s =>
    let n := (s.sreg a).toNat
    if n = 0 ∨ 64 < n ∨ barWaiters s s.me.block b then .raises s (.plain cILLEGAL)
    else
      let x := s.myBar b
      .done (putBar s s.me.block b ⟨BitVec.ofNat 7 n, 0, 0, x.phase, false⟩) none

/-- The acting warp begins a wait inside its word: the word has closed its region and taken its issue, and counts as a
closing word that has been performed (R172; DESIGN CHOICE, log entry 103). -/
def beginWait (s : State) (x : WaitSt) : State :=
  let w := s.me
  let s := s.setMe { w.counted false with wait := x, openRgn := false }
  s.setBlock w.block ((s.blockAt w.block).moved s.cycle true)

/-- A wait on a barrier as it goes on: until its phase has opened, then until its wave (R135); a broken barrier
raises ENGINE in its waiters. -/
def barWaiting (s : State) (b : BitVec 4) (begin_ : State → Did) : Did :=
  match s.me.wait with
  | .passed _ => .done s none
  | .released _ => .waits
  | .barrier _ phase _ =>
    let x := s.myBar b
    if x.broken then .raises s (.plain cENGINE)
    else if x.phase = phase then .waits else .done s none
  | .none | .regroup .. | .record _ => begin_ s

def execBarWait (b : BitVec 4) : State → Out :=
  scalarWord .closing [] fun s => barWaiting s b fun s => barCheck s b (fun _ => false) fun x =>
    .stops (beginWait s (.barrier b.toNat x.phase false))

def execBarSync (b : BitVec 4) : State → Out :=
  scalarWord .closing [] fun s => barWaiting s b fun s => barCheck s b Barrier.full fun x =>
    .stops (putBar (beginWait s (.barrier b.toNat x.phase true)) s.me.block b x.arrive)

/-! ### Release waves (R135) -/

/-- A released warp's BAR completes, unless an asynchronous cause has ended its wait (R252). -/
def releaseWarp (s : State) (k : Nat) : State :=
  let w := s.warpAt k
  if w.interrupted then s else s.setWarp k (w.retired (w.pc + 4))

/-- RELEASE_WAVE: the next warps of the core's release list, all of them where SLOPE names no waves. -/
def execReleaseWave (core : Nat) (s : State) : Out :=
  let c := s.coreAt core
  let slope := (s.clusterAt (clusterOf core)).slope
  let a := (slope.extractLsb' 8 4 : BitVec 4).toNat
  let gap := (slope.extractLsb' 0 8 : BitVec 8).toNat
  let waves := a ≠ 0 ∧ gap ≠ 0
  if c.relList.isEmpty || (decide waves && decide (s.cycle < c.nextWave)) then .refused (.notEnabled "RELEASE_WAVE")
  else
    let n := if waves then a else c.relList.length
    let s' := (c.relList.take n).foldl releaseWarp s
    .next (s'.setCore core { s'.coreAt core with relList := c.relList.drop n, nextWave := s.cycle + gap })

/-! ### HINTSUCC and WAITPRED (R265) -/

def execHintsucc : State → Out :=
  scalarWord .plain [] fun s =>
    let b := s.me.block
    let g := (s.blockAt b).grid
    let gr := s.gridAt g
    .done (s.setGrid g { gr with hints := insertNew (s.blockAt b).idx gr.hints }) none
where
  /-- Add a block to those that have executed HINTSUCC. -/
  insertNew (x : Nat) (xs : List Nat) : List Nat := if xs.contains x then xs else insertAsc x xs

/-- The place of a source among those of one cycle, and of a head among equals: launch queues by number, then cores,
then nodes (R21, R119; DEDUCED, log entry 20). -/
def srcOrder : LaunchSrc → Nat
  | .queue q => q
  | .device c => 16 + c
  | .node _ n => 16 + Config.numCores + n

/-- Whether a grid was accepted before another (R119); a grid's place in the list is that of its reading. -/
def acceptedBefore (s : State) (g h : Nat) : Bool :=
  let x := s.gridAt g
  let y := s.gridAt h
  if x.born ≠ y.born then decide (x.born < y.born)
  else if srcOrder x.src ≠ srcOrder y.src then decide (srcOrder x.src < srcOrder y.src)
  else decide (g < h)

/-- A handle's kind, and the address of a kind-2 handle's counter (R119, R278). -/
def handleKind (h : Word) : Nat := (h.extractLsb' 62 2 : BitVec 2).toNat
def handleCtr (h : Word) : Word := ((h.extractLsb' 3 53 : BitVec 53) ++ 0#3 : BitVec 56).setWidth 64

/-- The predecessor of a grid: that of its context with the counter, accepted last before it (R119, R279). A handle
whose counter address is 0 names a grid that has no counter (DESIGN CHOICE, log entry 104). -/
def predOf (s : State) (g : Nat) : Option Nat :=
  let x := s.gridAt g
  if handleKind x.record.handle ≠ 2 then none
  else
    (List.range s.grids.length).foldl (fun acc h =>
      let y := s.gridAt h
      if y.ctx = x.ctx ∧ y.record.ctr = handleCtr x.record.handle ∧ acceptedBefore s h g then
        match acc with
        | none => some h
        | some j => if acceptedBefore s j h then some h else some j
      else acc) none

/-- Whether a grid waits for its predecessor (R26). -/
def predPending (s : State) (g : Nat) : Bool := (predOf s g).any fun p => !(s.gridAt p).done

def execWaitpred : State → Out :=
  scalarWord .plain [] fun s =>
    if s.myGrid.record.early && predPending s s.myBlock.grid then .waits else .done s none

end Sys2Proof.Machine
end

