-- ==== Sys2Proof/Machine/Engine.lean ====
section
/-!
DEFINITION. Sys2Proof/Machine/Engine.lean: engine commands (R94, R106, R107, R250, R251): their issue, the
commands of the copy and matrix queues (R253 to R259), QFENCE (R260), the failure of a command, and what a
command does when it starts; the copy's pieces (R254).
-/
namespace Sys2Proof.Machine

/-! ### Failure and completion of commands -/

/-- A warp's asynchronous cause is kept in the order of failure; a 129th kills the block (R162). -/
def postAsync (s : State) (k : Nat) (cause : Cause) (epc : Word) : State :=
  let w := s.warpAt k
  if w.stat = .absent then s
  else if 128 ≤ w.async.length then killBlock s w.block cause epc none
  else s.setWarp k { w with async := w.async ++ [(cause, epc)] }

/-- The head of an engine queue. -/
def headCmd (s : State) (core q : Nat) : Option Cmd := ((s.coreAt core).queue q).head?

/-- Replace the head of an engine queue. -/
def setHead (s : State) (core q : Nat) (c : Cmd) : State :=
  let k := s.coreAt core
  s.setCore core (k.setQueue q (c :: (k.queue q).drop 1))

/-- The head of an engine queue leaves it. -/
def dropHead (s : State) (core q : Nat) : State :=
  let k := s.coreAt core
  s.setCore core (k.setQueue q ((k.queue q).drop 1))

/-- A command fails: it leaves its queue without incrementing, and its warp takes the cause (R107, R162). -/
def failCmd (s : State) (core q : Nat) (c : Cmd) (cause : Cause) : State :=
  postAsync (dropHead s core q) c.warp cause c.pc

/-- Whether the command of a core whose step is taken finds that peer packages do not answer it (R301). -/
def cmdDeaf (s : State) (core : Nat) : Bool :=
  match s.silent with
  | some (.cmd k _) => k == core
  | _ => false

/-- The sequences that a command works on (R270). -/
def CmdOp.seqs : CmdOp → List Nat
  | .ssld seq .. | .ssst seq .. | .ssnap seq _ | .ssroll seq _ | .ssdrop seq => [seq]
  | .ssfork src dst _ => [src, dst]
  | .cpy .. | .tmpl .. | .mxb .. | .mxa .. | .mxrd .. | .mxz .. | .lnch .. => []

/-- The holder of the translations of a command's accesses: its core; of a command on sequences, the walker of the
domain whose state engine carries it out (R71). -/
def Cmd.holder (c : Cmd) (core : Nat) : Nat :=
  if c.op.seqs.isEmpty then core else walkerHolder (c.home.getD (domainOf core))

/-- The access rights of a command: its block's, in the mode of its issue. -/
def whoCmd (s : State) (core : Nat) (c : Cmd) : Who :=
  ⟨c.holder core, (s.gridOf c.block).ctx, c.block, c.sup, none, cmdDeaf s core⟩

/-- The barrier marks of a block that a command has counted or lowered (R172). -/
def touchBlock (s : State) (b : Nat) : State := s.setBlock b { s.blockAt b with touched := true }

/-! ### Issue -/

/-- Entries of the engine queues (R106). -/
def queueCap (q : Nat) : Nat :=
  match q with
  | 0 | 1 => 32
  | 2 => 16
  | _ => 4

/-- A command as an S-word of the acting warp issues it. -/
def newCmd (s : State) (i : Instr) (op : CmdOp) (a b k : Word) (scope : BitVec 3) (ctr : Word) : Cmd where
  op := op
  warp := s.cur
  block := s.me.block
  pc := s.me.pc
  word := (encodeS i).getD 0
  a := a
  b := b
  k := k
  scope := scope
  ctr := ctr
  seq := s.seq
  sup := s.me.sup
  started := false
  flags := 0
  status := none
  copy := none
  emul := false
  pageVa := none
  copies := []
  moves := []
  dirs := none
  drawn := []
  home := none

/-- Append a command to a queue of a core. -/
def pushCmd (s : State) (core q : Nat) (c : Cmd) : State :=
  let k := s.coreAt core
  { s.setCore core (k.setQueue q (k.queue q ++ [c])) with seq := s.seq + 1 }

/-- Whether a queue has room; the place of an absent-format command is no entry (R106, R170). -/
def queueRoom (s : State) (core q : Nat) : Bool :=
  decide (((((s.coreAt core).queue q).filter fun c => !c.emul).length) < queueCap q)

/-- Put a command into a queue, waiting for an entry (R106). -/
def enqueue (s : State) (q : Nat) (c : Cmd) : Did :=
  if queueRoom s (coreOf s.cur) q then .done (pushCmd s (coreOf s.cur) q c) none else .waits

/-- The fields of a command word (R251). -/
def cwScope (k : Word) : BitVec 3 := k.extractLsb' 0 3
def cwCtr (k : Word) : Word := (((k.extractLsb' 3 53 : BitVec 53) ++ 0#3 : BitVec 56)).signExtend 64
def cwMc (k : Word) : Bool := k.getLsbD 56
def cwBarn (k : Word) : Nat := (k.extractLsb' 57 4 : BitVec 4).toNat
def cwBare (k : Word) : Bool := k.getLsbD 61

/-- A legal command word: no reserved bit set; only CPY uses bits [61:56]. -/
def cwOk (cpy : Bool) (k : Word) : Bool :=
  decide ((cwScope k).toNat ≤ 5) && (k.extractLsb' 62 2 : BitVec 2) == 0
    && (cpy || (k.extractLsb' 56 8 : BitVec 8) == 0)

/-- Whether an address lies in a scratchpad window (R63). -/
def isWindow (a : Word) : Bool :=
  match addrClass a with
  | .own _ | .peer .. => true
  | .translated | .nonCanonical => false

/-- The checks of CPY at issue (R253). -/
def cpySides (dst src : Word) (mc : Bool) : Bool :=
  let one := (isWindow dst && addrClass src == .translated) || (isWindow src && addrClass dst == .translated)
  let own := match addrClass dst with
    | .own _ => true
    | _ => false
  one && (!mc || own)

/-- CPY at issue (R253, R255). -/
def cpyIssue (i : Instr) (s : State) (dst src : Word) (shape : Nat) (k : Word) (bare : Bool) (barn : Nat)
    (mc : Bool) (scope : BitVec 3) (ctr : Word) : Did :=
  if !cpySides dst src mc then .raises s (.plain cENGINE)
  else enqueue s 0 (newCmd s i (.cpy dst src shape bare barn mc) dst src k scope ctr)

def execCpyImmediate (a b : SReg) (bare : Bool) (barn : BitVec 4) (shape : BitVec 6) : State → Out :=
  scalarWord .closing [a, b] fun s =>
    cpyIssue (.cpyImmediate a b bare barn shape) s (s.sreg a) (s.sreg b) shape.toNat 0 bare barn.toNat false 1 0

def execCpyRegister (a b k : SReg) (shape : BitVec 6) : State → Out :=
  scalarWord .closing [a, b, k] fun s =>
    let cw := s.sreg k
    if !cwOk true cw then .raises s (.plain cILLEGAL)
    else cpyIssue (.cpyRegister a b k shape) s (s.sreg a) (s.sreg b) shape.toNat cw (cwBare cw) (cwBarn cw) (cwMc cw)
      (cwScope cw) (cwCtr cw)

/-- The format record of a slot of the acting warp's grid (R121). -/
def slotFmt (r : LaunchRec) (n : Nat) : Word := r.fmts.toList.getD n 0

/-- Take FMT_ABSENT at issue: the command's place is kept in the matrix queue and the warp parks (R170). -/
def absentFormat (s : State) (c : Cmd) : Did :=
  if s.me.sup then .raises s (.plain cFMT_ABSENT)
  else
    match takeTrap (pushCmd (s.setMe (s.me.counted false)) (coreOf s.cur) 1 { c with emul := true }) s.cur
        ⟨.plain cFMT_ABSENT, false, s.me.pc, s.me.pc, false, [], false⟩ with
    | some s' => .stops s'
    | none => .waits

/-- MXB at issue (R257). -/
def execMxb (a : SReg) (page : BitVec 6) (fmt : BitVec 3) : State → Out :=
  scalarWord .closing [a] fun s =>
    let x := s.sreg a
    let c := newCmd s (.mxb a page fmt) (.mxb x page.toNat fmt.toNat) x 0 0 1 0
    let e := fmtElem (slotFmt s.myGrid.record fmt.toNat)
    if x.toNat % 128 ≠ 0 then .raises s (.at cMISALIGN x)
    else if e = 3 ∨ e = 4 then absentFormat s c
    else enqueue s 1 c

/-- MXA at issue (R258). -/
def execMxa (a : SReg) (page : BitVec 6) (bslot aslot : BitVec 3) (rows1 : BitVec 2) (acc : BitVec 5) : State → Out :=
  scalarWord .closing [a] fun s =>
    let x := s.sreg a
    let rows := rows1.toNat + 1
    let c := newCmd s (.mxa a page bslot aslot rows1 acc)
      (.mxa x page.toNat bslot.toNat aslot.toNat rows acc.toNat) x 0 0 1 0
    let e := fmtElem (slotFmt s.myGrid.record aslot.toNat)
    if 32 < acc.toNat + rows then .raises s (.plain cILLEGAL)
    else if x.toNat % 16 ≠ 0 then .raises s (.at cMISALIGN x)
    else if e = 0 ∨ e = 3 then absentFormat s c
    else enqueue s 1 c

/-- MXRD at issue (R259). -/
def execMxrd (a b : SReg) (rows1 g : BitVec 3) (acc : BitVec 5) : State → Out :=
  scalarWord .closing [a, b] fun s =>
    let x := s.sreg a
    let cw := s.sreg b
    let rows := rows1.toNat + 1
    if 32 < acc.toNat + rows ∨ !cwOk false cw then .raises s (.plain cILLEGAL)
    else if x.toNat % 4 ≠ 0 then .raises s (.at cMISALIGN x)
    else enqueue s 1 (newCmd s (.mxrd a b rows1 g acc) (.mxrd x rows g.toNat acc.toNat) x cw 0 (cwScope cw) (cwCtr cw))

/-- MXZ at issue (R259). -/
def execMxz (rows1 : BitVec 3) (acc : BitVec 5) : State → Out :=
  scalarWord .closing [] fun s =>
    let rows := rows1.toNat + 1
    if 32 < acc.toNat + rows then .raises s (.plain cILLEGAL)
    else enqueue s 1 (newCmd s (.mxz rows1 acc) (.mxz rows acc.toNat) 0 0 0 1 0)

/-- QFENCE enters a join into the named queues (R260). -/
def execQfence (mask : BitVec 4) : State → Out :=
  scalarWord ⟨false, true, true⟩ [] fun s =>
    if mask = 0 then .raises s (.plain cILLEGAL)
    else
      let c := s.coreAt (coreOf s.cur)
      .done { s.setCore (coreOf s.cur) { c with joins := c.joins ++ [(mask, s.seq)] } with seq := s.seq + 1 } none

/-- The moments of issue of a core's uncompleted commands of a queue. The records of a core in an overflow ring are
commands of its launch queue (DEDUCED, log entry 67). -/
def queueSeqs (s : State) (core q : Nat) : List Nat :=
  let rung := s.ctxs.flatMap fun e => (e.2.ring.filter (·.core == core)).map (·.seq)
  ((s.coreAt core).queue q).map (·.seq) ++ if q = 3 then rung else []

/-- Whether a join still holds up a command issued after it to a queue (R94). -/
def joinHolds (s : State) (core q seq : Nat) (j : BitVec 4 × Nat) : Bool :=
  j.1.getLsbD q && decide (j.2 < seq)
    && (List.range 4).any fun i => j.1.getLsbD i && (queueSeqs s core i).any fun x => decide (x < j.2)

/-- Whether a command of a queue may start as far as the joins go (R94, R260). -/
def joinsOpen (s : State) (core q seq : Nat) : Bool := !(s.coreAt core).joins.any (joinHolds s core q seq)

/-! ### What a command does when it starts -/

/-- What becomes of a command at its start or at a piece: it goes on; it waits for a page; it fails; it waits for the
dirty log of a virtual function, with what it has read; or it waits for it having taken what room is left. What its step
asks of the purses stands in the state (R140). -/
inductive CmdDid where
  | goes (s : State) (c : Cmd)
  | page (s : State) (c : Cmd)
  | fails (s : State) (cause : Cause)
  | blocked (c : Cmd)
  | partly (s : State) (c : Cmd)

/-- A cause met by a command: an absent page is served in the queue, any other fails it (R250). -/
def cmdRaise (s : State) (c : Cmd) (r : Raise) : CmdDid :=
  if r.cause = cPAGE then .page s { c with pageVa := some (r.addr, r.second) } else .fails s cENGINE

/-- A command's writes wait for room in a dirty log, which they fill (R81, R116). -/
def awaitLog (s : State) (c : Cmd) (ds : List Dirty) : CmdDid :=
  if (logPages s ds).any fun x => logRoom s x.1 then .partly (fillLog s ds) c else .blocked c

/-- The partition and offset of a window address as a command's block reaches it (R64). -/
def windowOf (s : State) (core block : Nat) (a : Word) : Option (Nat × Nat) :=
  match addrClass a with
  | .own off => some (block, off)
  | .peer n off => (gangBlockOn s block (8 * clusterOf core + n)).map fun b => (b, off)
  | .translated | .nonCanonical => none

/-- `n` bytes of a partition: ENGINE beyond its size, ECC_SCRATCH where a word is in error (R82). -/
def partBytes (s : State) (b off n : Nat) : Except Cause (List Byte) :=
  if (s.blockAt b).size < off + n then .error cENGINE
  else if poisoned s (.part b off) n then .error cECC_SCRATCH
  else .ok (Tbl.range 0 (s.blockAt b).scratch off n)

/-- The spots of an aligned run of `n`-byte units from an address, all checked. No command reaches the register space
(DESIGN CHOICE, log entry 65). -/
def runSpots (s : State) (w : Who) (a : Acc) (n : Nat) : Nat → Word → State × Except Raise (List Spot)
  | 0, _ => (s, .ok [])
  | m + 1, va =>
    match resolve s w a n va with
    | (s, .error r) => (s, .error r)
    | (s, .ok (.io ..)) => (s, .error (.at cPROT va))
    | (s, .ok p) =>
      if w.deaf && p.isPeer then (s, .error (.at cECC_SCRATCH va))
      else
        match runSpots s w a n m (va + BitVec.ofNat 64 n) with
        | (s, .error r) => (s, .error r)
        | (s, .ok ps) => (s, .ok (p :: ps))

/-- Store values of `n` bytes from an address for a command, all checked first. -/
def cmdStore (s : State) (w : Who) (c : Cmd) (n : Nat) (va : Word) (xs : List (List Byte)) (k : State → CmdDid) : CmdDid :=
  match runSpots s w .write n xs.length va with
  | (s, .error r) => cmdRaise s c r
  | (s, .ok ps) =>
    let ws := ps.zip xs
    if (logShort s (storeDirty ws)).isSome then awaitLog s c (storeDirty ws) else k (performStores s ws)

/-! #### CPY -/

/-- Elements of a box (R254). -/
def Shape.count (sh : Shape) : Nat := sh.box.foldl (· * ·) 1
def Shape.esz (sh : Shape) : Nat := 2 ^ sh.esize

/-- Coordinates of a box element by its linear index, dimension 0 fastest. -/
def boxCoords : List Nat → Nat → List Nat
  | [], _ => []
  | b :: bs, j => j % b :: boxCoords bs (j / b)

/-- The byte offset of an element, and whether it lies outside the extents (R124, R254). -/
def Shape.element (sh : Shape) (j : Nat) : Nat × Bool :=
  let cs := boxCoords sh.box j
  ((cs.zip sh.stride).foldl (fun acc x => acc + x.1 * x.2) 0, (cs.zip sh.ext).any fun x => decide (x.2 ≤ x.1))

/-- The resident blocks of a block's gang. -/
def gangBlocks (s : State) (b : Nat) : List Nat :=
  (s.blocks.filter fun e => e.2.live && e.2.grid == (s.blockAt b).grid
    && e.2.idx / (s.gridOf b).record.gang == gangIx s b).map (·.1)

/-- Start a copy once its shape is read (R254). -/
def copyStart (s : State) (c : Cmd) (sh : Shape) (glob : Word) (targets : List Nat) (off : Nat) (load : Bool) :
    CmdDid :=
  let z := sh.esz
  let bytes := sh.count * z
  if glob.toNat % z ≠ 0 ∨ off % z ≠ 0 ∨ targets.any (fun t => decide ((s.blockAt t).size < off + bytes)) then
    .fails s cENGINE
  else .goes s { c with started := true, copy := some ⟨sh, glob, off, load, targets, 0⟩ }

/-- Read the shape a command names, at its start (R117, R124). -/
def withShape (s : State) (core : Nat) (c : Cmd) (ix : Nat) (k : State → Shape → CmdDid) : CmdDid :=
  match readShape s (whoCmd s core c) (s.gridOf c.block).record.shapes ix with
  | (s, .error (.raise r)) => cmdRaise s c r
  | (_, .error (.logFull _)) => .blocked c
  | (s, .ok none) => .fails s cENGINE
  | (s, .ok (some sh)) => k s sh

/-- The start of CPY (R254). -/
def cpyStart (s : State) (core : Nat) (c : Cmd) (dst src : Word) (shape : Nat) (mc : Bool) : CmdDid :=
  withShape s core c shape fun s sh =>
    let load := isWindow dst
    match windowOf s core c.block (if load then dst else src) with
    | none => .fails s cENGINE
    | some (b, off) =>
      copyStart s c sh (if load then src else dst) (if mc then gangBlocks s c.block else [b]) off load

/-- The start of a template copy (R46, R123): its box in the ring of F boxes. -/
def tmplStart (s : State) (core : Nat) (c : Cmd) (glob : Word) (store : Bool) (shape box : Nat) : CmdDid :=
  withShape s core c shape fun s sh =>
    copyStart s c sh glob [c.block] (sh.toff + box * (sh.count * sh.esz)) (!store)

/-- Elements of the next piece: at most 512 bytes. -/
def CopyProg.next (p : CopyProg) : Nat := min (p.shape.count - p.landed) (512 / p.shape.esz)

/-- The spots of a piece on the translated side; none for an element outside the extents. -/
def pieceSpots (s : State) (w : Who) (p : CopyProg) : Nat → Nat → State × Except Raise (List (Option Spot))
  | 0, _ => (s, .ok [])
  | m + 1, j =>
    let (d, outside) := p.shape.element j
    let va := p.glob + BitVec.ofNat 64 d
    if outside then
      match pieceSpots s w p m (j + 1) with
      | (s, .error r) => (s, .error r)
      | (s, .ok ps) => (s, .ok (none :: ps))
    else if addrClass va != .translated then (s, .error (.at cPROT va))
    else
      match resolve s w (if p.load then .read else .write) p.shape.esz va with
      | (s, .error r) => (s, .error r)
      | (s, .ok (.io ..)) => (s, .error (.at cPROT va))
      | (s, .ok q) =>
        if (p.load && poisoned s q p.shape.esz) || (w.deaf && q.isPeer) then (s, .error (.at cENGINE va))
        else
          match pieceSpots s w p m (j + 1) with
          | (s, .error r) => (s, .error r)
          | (s, .ok ps) => (s, .ok (some q :: ps))

/-- Bytes as performed stores have left them. -/
def spotBytes (s : State) (q : Spot) (n : Nat) : List Byte := (List.range n).map fun i => placeByte s (q.place i)

/-- Put bytes into a partition. -/
def partStore (s : State) (b off : Nat) (bs : List Byte) : State :=
  let blk := s.blockAt b
  s.setBlock b { blk with scratch := Tbl.putAll 0 blk.scratch off bs }

/-- The barrier of a command's landings, if it names one. -/
def CmdOp.lowers : CmdOp → Option Nat
  | .cpy _ _ _ bare barn _ | .tmpl _ _ _ _ bare barn => if bare then some barn else none
  | _ => none

/-- A piece's bytes lower the barrier of each block they land in or leave; the command's own block has then lowered one
(R134, R172, R254). -/
def lowerBars (s : State) (bar : Option Nat) (n block : Nat) (targets : List Nat) : State :=
  match bar with
  | none => s
  | some i =>
    let b := BitVec.ofNat 4 i
    touchBlock (targets.foldl (fun s t => putBar s t b (((s.blockAt t).bar b).addBytes (-(n : Int)))) s) block

/-- One piece of a copy (R254). Pieces land in ascending order (DESIGN CHOICE, log entry 16). -/
def landPiece (s : State) (core : Nat) (c : Cmd) (p : CopyProg) : CmdDid :=
  let n := p.next
  let z := p.shape.esz
  let at_ := p.off + p.landed * z
  if p.blocks.any fun t => !(s.blockAt t).live then .fails s cENGINE
  else
    match pieceSpots s (whoCmd s core c) p n p.landed with
    | (s, .error r) => cmdRaise s c r
    | (s, .ok spots) =>
      let fin := fun (s : State) =>
        CmdDid.goes (lowerBars s c.op.lowers (n * z) c.block p.blocks)
          { c with copy := some { p with landed := p.landed + n } }
      if p.load then
        let bs := spots.flatMap fun q => match q with
          | some q => spotBytes s q z
          | none => List.replicate z 0
        fin (p.blocks.foldl (fun s t => partStore s t at_ bs) s)
      else
        match p.blocks with
        | [] => .fails s cENGINE
        | t :: _ =>
          match partBytes s t at_ (n * z) with
          | .error cause => .fails s cause
          | .ok bs =>
            let ws := (spots.zipIdx.filterMap fun (q, i) => q.map fun q => (q, (bs.drop (i * z)).take z))
            if (logShort s (storeDirty ws)).isSome then awaitLog s c (storeDirty ws) else fin (performStores s ws)

/-! #### Matrix commands -/

/-- Whether a B page is fenced (R305). -/
def pageFenced (s : State) (core page : Nat) : Bool := s.fenced.contains (.bpage core page)

/-- A command's read of `n` bytes of scratchpad, with their block; any other class fails it (R256). -/
def readWindowBytes (s : State) (core : Nat) (c : Cmd) (a : Word) (n : Nat) : Except Cause (Nat × List Byte) :=
  match windowOf s core c.block a with
  | some (b, off) => (partBytes s b off n).map fun bs => (b, bs)
  | none => .error cENGINE

/-- The cell `j` of a row. -/
def cellOf (row : BitVec 128) (j : Nat) : BitVec 2 := row.extractLsb' (2 * j) 2

/-- A row with its reserved TERN cells made zero (R257). -/
def cleanRow (row : BitVec 128) : BitVec 128 :=
  (List.range 64).foldl (fun r j => if cellOf r j = 2 then r &&& ~~~(3#128 <<< (2 * j)) else r) row

/-- MXB in its engine (R257). A load from another core's partition draws on the B-page purse (R256); a page under a
self-test is waited for (R305; DEDUCED, log entry 66). -/
def mxbStart (s : State) (core : Nat) (c : Cmd) (a : Word) (page fmt : Nat) : CmdDid :=
  let f := slotFmt (s.gridOf c.block).record fmt
  let k := s.coreAt core
  let pg := Tbl.get BPage.reset k.pages page
  if pageFenced s core page || !(pg.owner == none || pg.owner == some c.block) then .fails s cENGINE
  else if s.testing.contains (.bpage core page) then .blocked c
  else
    match readWindowBytes s core c a 8192 with
    | .error cause => .fails s cause
    | .ok (b, bs) =>
      let rows := (List.range 512).map fun i => BitVec.ofNat 128 (fieldNat bs (16 * i) 16)
      let bad := fmtElem f == 0 && rows.any fun r => (List.range 64).any fun j => cellOf r j == 2
      if bad && fmtStrict f then .fails s cFMT_STRICT
      else
        let rows := if bad then rows.map cleanRow else rows
        let tbl := rows.zipIdx.foldl (fun t (r, i) => Tbl.put 0 t i r) []
        let fin := fun (s : State) =>
          let s := { s with poison := s.poison.filter (· != EccSite.bpage core page) }
          CmdDid.goes (s.setCore core { k with pages := Tbl.set k.pages page ⟨some c.block, tbl⟩ })
            { c with started := true, flags := if bad then fQRSV else 0 }
        fin (if blockCore b = core then s else s.askSlots (domainOf core) bpagePurse (bursts 8192))

/-- The columns and the cells of an element of a B page, by element code (R154, R258). -/
def bCells (elem : Nat) : Nat := elemBits elem / 2
def bColumns (elem : Nat) : Nat := 64 / bCells elem

/-- Accumulate the terms of one block (R158 to R161): the new bits, the flags. `sa`, `sb` are the scale codes of
the two sides, `xa`, `xb` their bits. -/
def accumulate (acc : Lane) (p : Int) (sa sb xa xb : Nat) : Lane × Flags :=
  if sa = 3 ∧ sb = 3 then
    let t := acc.toInt + p
    let v := clampInt (-(2 ^ 31)) (2 ^ 31 - 1) t
    (BitVec.ofInt 32 v, if v = t then 0 else fACCSAT)
  else
    let va := scaleValue sa xa
    let vb := scaleValue sb xb
    let pv : FVal := .fin (decide (p < 0)) p.natAbs 0
    if (sa = 0 ∨ sa = 3) ∧ (sb = 0 ∨ sb = 3) then
      let rsv := va.2 || vb.2
      let t := if rsv then Term.fin false 0 0 else
        match (mulTerm va.1 vb.1).1 with
        | .fin n m e => (mulTerm pv (.fin n m e)).1
        | t => t
      let x := f32.decode acc.toNat
      let r := sumTerms f32 .rne [.ofVal x, t]
      (BitVec.ofNat 32 r.1, r.2 ||| sigFlag x ||| if rsv then fQRSV else 0)
    else
      let (t0, g0) := mulTerm va.1 vb.1
      let s1 := match t0 with
        | .nan => (f32.canon, g0 ||| sigFlag va.1 ||| sigFlag vb.1)
        | .inf n => (f32.infinity n, g0)
        | .fin n m e => if m = 0 then (f32.zero n, 0) else roundMag f32 .rne n m e false
      let (t1, g1) := mulTerm pv (f32.decode s1.1)
      let s2 := match t1 with
        | .nan => (f32.canon, g1)
        | .inf n => (f32.infinity n, g1)
        | .fin n m e => if m = 0 then (f32.zero n, 0) else roundMag f32 .rne n m e false
      let r := fAdd f32 .rne acc.toNat s2.1
      (BitVec.ofNat 32 r.1, s1.2 ||| s2.2 ||| r.2 ||| if va.2 || vb.2 then fQRSV else 0)

/-- The operands of an MXA once read (R258). -/
structure MxaArgs where
  aElem  : Nat
  bElem  : Nat
  aScale : Nat
  bScale : Nat
  block  : Nat
  nb     : Nat
  image  : List Byte
  rows   : Nat
  page   : Tbl (BitVec 128)

namespace MxaArgs

/-- Bytes of one A row. -/
def rowBytes (x : MxaArgs) : Nat := 512 * elemBits x.aElem / 8
/-- The bits of an A row. -/
def aRow (x : MxaArgs) (i : Nat) : Nat := fieldNat x.image (i * x.rowBytes) x.rowBytes
/-- A decoded element of an A row's bits, and of a B column. -/
def aVal (x : MxaArgs) (row k : Nat) : Int × Bool :=
  elemValue x.aElem (row / 2 ^ (elemBits x.aElem * k) % 2 ^ elemBits x.aElem)
def bVal (x : MxaArgs) (k n : Nat) : Int × Bool :=
  let w := elemBits x.bElem
  elemValue x.bElem ((Tbl.get 0 x.page k).extractLsb' (w * n) w : BitVec w).toNat
/-- The scale bits of a block on each side. -/
def aScaleAt (x : MxaArgs) (i m : Nat) : Nat :=
  fieldNat x.image (x.rows * x.rowBytes + (i * x.nb + m) * scaleBytes x.aScale) (scaleBytes x.aScale)
def bScaleAt (x : MxaArgs) (n m : Nat) : Nat :=
  fieldNat x.image (x.rows * x.rowBytes + x.rows * x.nb * scaleBytes x.aScale
    + (n * x.nb + m) * scaleBytes x.bScale) (scaleBytes x.bScale)
/-- The exact sum of one block, and whether a reserved element was decoded (R157). -/
def partialSum (x : MxaArgs) (row n m : Nat) : Int × Bool :=
  (List.range x.block).foldl (fun acc i =>
    let k := m * x.block + i
    let a := x.aVal row k
    let b := x.bVal k n
    (acc.1 + a.1 * b.1, acc.2 || a.2 || b.2)) (0, false)
/-- One accumulator element after all blocks in ascending order (R158). -/
def element (x : MxaArgs) (i row n : Nat) (acc : Lane) : Lane × Flags :=
  (List.range x.nb).foldl (fun st m =>
    let p := x.partialSum row n m
    let r := accumulate st.1 p.1 x.aScale x.bScale (x.aScaleAt i m) (x.bScaleAt n m)
    (r.1, st.2 ||| r.2 ||| if p.2 then fQRSV else 0)) (acc, 0)
/-- Whether a reserved E8 scale is decoded on a side. -/
def aRsv (x : MxaArgs) : Bool :=
  (List.range (x.rows * x.nb)).any fun i => (scaleValue x.aScale (x.aScaleAt 0 i)).2
def bRsv (x : MxaArgs) : Bool :=
  (List.range (bColumns x.bElem * x.nb)).any fun i => (scaleValue x.bScale (x.bScaleAt 0 i)).2
/-- Whether a reserved element code is decoded in the B page. -/
def bElemRsv (x : MxaArgs) : Bool :=
  (List.range 512).any fun k => (List.range (bColumns x.bElem)).any fun n => (x.bVal k n).2
def aElemRsv (x : MxaArgs) : Bool :=
  (List.range x.rows).any fun i => (List.range 512).any fun k => (x.aVal (x.aRow i) k).2

end MxaArgs

/-- The place of an accumulator element (R158). -/
def accIx (row col : Nat) : Nat := 512 * row + col

/-- MXA in its engine (R258). -/
def mxaStart (s : State) (core : Nat) (c : Cmd) (a : Word) (page bslot aslot rows acc : Nat) : CmdDid :=
  let rec_ := (s.gridOf c.block).record
  let fa := slotFmt rec_ aslot
  let fb := slotFmt rec_ bslot
  let k := s.coreAt core
  let pg := Tbl.get BPage.reset k.pages page
  let scaled := fmtScale fa ≠ 3 ∨ fmtScale fb ≠ 3
  let nb := 512 / fmtBlock fb
  let cols := bColumns (fmtElem fb)
  let size := rows * (512 * elemBits (fmtElem fa) / 8) + rows * nb * scaleBytes (fmtScale fa)
    + cols * nb * scaleBytes (fmtScale fb)
  if pg.owner ≠ some c.block ∨ (scaled ∧ fmtBlock fa ≠ fmtBlock fb) ∨ s.poison.contains (EccSite.bpage core page) then
    .fails s cENGINE
  else
    match readWindowBytes s core c a size with
    | .error cause => .fails s cause
    | .ok (_, image) =>
      let x : MxaArgs := ⟨fmtElem fa, fmtElem fb, fmtScale fa, fmtScale fb, fmtBlock fb, nb, image, rows, pg.rows⟩
      if (fmtStrict fa && (x.aRsv || x.aElemRsv)) || (fmtStrict fb && (x.bRsv || x.bElemRsv)) then .fails s cFMT_STRICT
      else
        let step := fun (st : Tbl Lane × Flags) (i : Nat) =>
          let row := x.aRow i
          (List.range cols).foldl (fun st n =>
            let ix := accIx (acc + i) (64 * (page / 8) + n)
            let r := x.element i row n (Tbl.get 0 st.1 ix)
            (Tbl.put 0 st.1 ix r.1, st.2 ||| r.2)) st
        let (tbl, fl) := (List.range rows).foldl step (k.acc, 0)
        .goes (s.setCore core { k with acc := tbl }) { c with started := true, flags := fl }

/-- MXRD in its engine (R259). -/
def mxrdStart (s : State) (core : Nat) (c : Cmd) (a : Word) (rows g acc : Nat) : CmdDid :=
  let k := s.coreAt core
  let xs := (List.range (64 * rows)).map fun i =>
    leBytes 4 (Tbl.get 0 k.acc (accIx (acc + i / 64) (64 * g + i % 64))).toNat
  cmdStore s (whoCmd s core c) c 4 a xs fun s => .goes s { c with started := true }

/-- MXZ in its engine (R259). -/
def mxzStart (s : State) (core : Nat) (c : Cmd) (rows acc : Nat) : CmdDid :=
  let k := s.coreAt core
  let tbl := k.acc.filter fun e => !(decide (512 * acc ≤ e.1) && decide (e.1 < 512 * (acc + rows)))
  .goes (s.setCore core { k with acc := tbl }) { c with started := true }

end Sys2Proof.Machine
end

