-- ==== Sys2Proof/Machine/StateStore.lean ====
section
/-!
DEFINITION. Sys2Proof/Machine/StateStore.lean: the state store (R71, R97, R128, R270 to R277, R285): the issue of
its words and their commands on sequences, whose copies a state engine makes word by word (R286).
-/
namespace Sys2Proof.Machine

/-! ### Issue (R270) -/

/-- The address operands of a state-store word are checked, then it enters the state queue. -/
def ssIssue (s : State) (ok : Bool) (align : Nat) (b : Word) (cw : Word) (c : Cmd) : Did :=
  if !ok || !cwOk false cw then .raises s (.plain cILLEGAL)
  else if b.toNat % align ≠ 0 then .raises s (.at cMISALIGN b)
  else enqueue s 2 { c with scope := cwScope cw, ctr := cwCtr cw }

/-- The sequence number, and the rest of an a operand. -/
def seqOf (a : Word) : Nat := (a.extractLsb' 0 16 : BitVec 16).toNat
def aboveSeq (a : Word) : Nat := (a.extractLsb' 16 48 : BitVec 48).toNat

def execSsld (a b k : SReg) (len : BitVec 7) : State → Out :=
  scalarWord .closing [a, b, k] fun s =>
    let x := s.sreg a
    ssIssue s true 16 (s.sreg b) (s.sreg k) (newCmd s (.ssld a b k len)
      (.ssld (seqOf x) (aboveSeq x * 512) (s.sreg b) ((len.toNat + 1) * 512)) x (s.sreg b) (s.sreg k) 0 0)

def execSsst (a b k : SReg) (len : BitVec 7) : State → Out :=
  scalarWord .closing [a, b, k] fun s =>
    let x := s.sreg a
    ssIssue s true 16 (s.sreg b) (s.sreg k) (newCmd s (.ssst a b k len)
      (.ssst (seqOf x) (aboveSeq x * 512) (s.sreg b) ((len.toNat + 1) * 512)) x (s.sreg b) (s.sreg k) 0 0)

def execSsnap (a b k : SReg) : State → Out :=
  scalarWord .closing [a, b, k] fun s =>
    let x := s.sreg a
    ssIssue s (aboveSeq x == 0) 1 (s.sreg b) (s.sreg k)
      (newCmd s (.ssnap a b k) (.ssnap (seqOf x) (s.sreg b)) x (s.sreg b) (s.sreg k) 0 0)

def execSsroll (a b k : SReg) : State → Out :=
  scalarWord .closing [a, b, k] fun s =>
    let x := s.sreg a
    ssIssue s (aboveSeq x == 0) 1 (s.sreg b) (s.sreg k)
      (newCmd s (.ssroll a b k) (.ssroll (seqOf x) (s.sreg b)) x (s.sreg b) (s.sreg k) 0 0)

def execSsfork (a b k : SReg) : State → Out :=
  scalarWord .closing [a, b, k] fun s =>
    let x := s.sreg a
    let dst := (x.extractLsb' 16 16 : BitVec 16).toNat
    ssIssue s ((x.extractLsb' 32 32 : BitVec 32) == 0 && seqOf x != dst) 64 (s.sreg b) (s.sreg k)
      (newCmd s (.ssfork a b k) (.ssfork (seqOf x) dst (s.sreg b)) x (s.sreg b) (s.sreg k) 0 0)

def execSsdrop (a k : SReg) : State → Out :=
  scalarWord .closing [a, k] fun s =>
    let x := s.sreg a
    ssIssue s (aboveSeq x == 0) 1 0 (s.sreg k)
      (newCmd s (.ssdrop a k) (.ssdrop (seqOf x)) x 0 (s.sreg k) 0 0)

/-! ### Accesses of a command -/

/-- A command's state engine asks its purse for the bursts of an access of some bytes (R71, R140; DESIGN CHOICE, log
entry 24). -/
def askEngine (s : State) (core : Nat) (c : Cmd) (n : Nat) : State :=
  if c.op.seqs.isEmpty then s else s.askSlots (c.home.getD (domainOf core)) statePurse (bursts n)

/-- Read bytes for a command: a window, or translated memory. -/
def cmdRead (s : State) (core : Nat) (c : Cmd) (va : Word) (n : Nat) (k : State → List Byte → CmdDid) : CmdDid :=
  if isWindow va then
    match readWindowBytes s core c va n with
    | .ok (_, bs) => k s bs
    | .error cause => .fails s cause
  else
    match readSpan (askEngine s core c n) (whoCmd s core c) va n with
    | (s, .error (.raise r)) => cmdRaise s c r
    | (_, .error (.logFull _)) => .blocked c
    | (s, .ok bs) => k s bs

/-- Read translated memory for a command. -/
def memRead (s : State) (core : Nat) (c : Cmd) (va : Word) (n : Nat) (k : State → List Byte → CmdDid) : CmdDid :=
  if isWindow va then .fails s cENGINE else cmdRead s core c va n k

/-! ### What a state engine writes (R286) -/

/-- The place `n` bytes on. -/
def Place.plus (p : Place) (n : Nat) : Place :=
  match p with
  | .phys pa => .phys (pa + n)
  | .part b off => .part b (off + n)

/-- The bytes that a piece of work writes, read now. -/
def MoveSrc.now (x : MoveSrc) (s : State) : List Byte :=
  match x with
  | .word p => (List.range 4).map fun i => placeByte s (p.plus i)
  | .bytes bs => bs

def MoveSrc.size (x : MoveSrc) : Nat :=
  match x with
  | .word _ => 4
  | .bytes bs => bs.length

/-- A piece of work is done: it reads and writes at once. -/
def Move.perform (s : State) (m : Move) : State :=
  setPlaces s ((m.src.now s).zipIdx.map fun x => (m.dst.plus x.2, x.1))

/-- Some of the pieces are done now (free, log entry 76), the others are left. -/
def moveSome : List Move → State → State × List Move
  | [], s => (s, [])
  | m :: r, s =>
    let t := { s with free := s.free + 1 }
    if Config.movesNow s.free then moveSome r (m.perform t)
    else
      let (u, rest) := moveSome r t
      (u, m :: rest)

/-- All the pieces are done. -/
def moveAll (s : State) (ms : List Move) : State := ms.foldl Move.perform s

/-- The 32-bit words of a partition's bytes. -/
def partWords (b off n : Nat) : List Place := (List.range (n / 4)).map fun i => .part b (off + 4 * i)

/-- The 32-bit words of the pieces of a span. -/
def spanWords (ps : List (Nat × Nat × List Dirty)) : List Place :=
  ps.flatMap fun (pa, len, _) => (List.range (len / 4)).map fun i => .phys (pa + 4 * i)

/-- The words of translated memory that a command copies from, found and checked at its start. -/
def memSource (s : State) (core : Nat) (c : Cmd) (va : Word) (n : Nat) (k : State → List Place → CmdDid) : CmdDid :=
  if isWindow va then .fails s cENGINE
  else
    match span (askEngine s core c n) (whoCmd s core c) .read va n with
    | (s, .error (.raise r)) => cmdRaise s c r
    | (_, .error (.logFull _)) => .blocked c
    | (s, .ok ps) => if ps.any fun x => lineBad s x.1 x.2.1 then .fails s cENGINE else k s (spanWords ps)

/-- The physical address of a byte of a span. -/
def spanByte : List (Nat × Nat × List Dirty) → Nat → Nat
  | [], _ => 0
  | (pa, len, _) :: r, n => if n < len then pa + n else spanByte r (n - len)

/-- Pieces of work one after another over a span. -/
def aimed (ps : List (Nat × Nat × List Dirty)) : Nat → List MoveSrc → List Move
  | _, [] => []
  | n, x :: r => ⟨.phys (spanByte ps n), x⟩ :: aimed ps (n + x.size) r

/-- Check the writes of a command, in translated memory, before any is performed: their spans, with what each takes. -/
def probeWrites (w : Who) : State → List (Word × List MoveSrc) →
    State × Except Raise (List (List (Nat × Nat × List Dirty) × List MoveSrc))
  | s, [] => (s, .ok [])
  | s, (va, xs) :: r =>
    match pieces s w .write va (xs.map (·.size)).sum with
    | (s, .error e) => (s, .error e)
    | (s, .ok ps) =>
      match probeWrites w s r with
      | (s, .error e) => (s, .error e)
      | (s, .ok rest) => (s, .ok ((ps, xs) :: rest))

/-- The writes of a command to translated memory, once all of them are allowed and their dirty bits are set. -/
def memMoves (s : State) (core : Nat) (c : Cmd) (ws : List (Word × List MoveSrc)) (k : State → List Move → CmdDid) :
    CmdDid :=
  let asked := ws.foldl (fun s x => askEngine s core c (x.2.map (·.size)).sum) s
  match probeWrites (whoCmd s core c) asked ws with
  | (s, .error r) => cmdRaise s c r
  | (s, .ok ps) =>
    let dirty := ps.flatMap fun x => spanDirty x.1
    if (logShort s dirty).isSome then awaitLog s c dirty
    else k (setDirty s dirty) (ps.flatMap fun x => aimed x.1 0 x.2)

/-! ### Descriptors and the region directory (R128) -/

/-- A sequence descriptor as read. -/
structure SeqDesc where
  at_   : Word
  raw   : List Byte
  live  : Word
  size  : Nat
  ring  : Word
  slots : Word
  depth : Nat
  head  : Nat
  used  : Bool
  valid : Word
  pins  : Word
  count : Word
  deriving DecidableEq, Repr

def SeqDesc.of (at_ : Word) (bs : List Byte) : SeqDesc where
  at_ := at_
  raw := bs
  live := fieldWord bs 0x00
  size := fieldNat bs 0x08 8
  ring := fieldWord bs 0x18
  slots := fieldWord bs 0x20
  depth := fieldNat bs 0x28 1
  head := fieldNat bs 0x29 1
  used := fieldNat bs 0x2A 1 % 2 == 1
  valid := fieldWord bs 0x30
  pins := fieldWord bs 0x38
  count := fieldWord bs 0x40

/-- Whether two regions share a byte. -/
def overlap (x y : Nat × Nat) : Bool := decide (x.1 < y.1 + y.2) && decide (y.1 < x.1 + x.2)

/-- The three regions of a sequence. -/
def regionsOf (live : Word) (size : Nat) (ring slots : Word) (depth : Nat) : Regions :=
  ⟨(live.toNat, size), (ring.toNat, depth * size), (slots.toNat, 16 * depth)⟩

def Regions.list (r : Regions) : List (Nat × Nat) := [r.live, r.ring, r.slots]

/-- Whether a region lies in translated memory (R71). -/
def inTranslated (x : Word) (n : Nat) : Bool :=
  addrClass x == .translated && addrClass (x + BitVec.ofNat 64 (n - 1)) == .translated

/-- The limits that a descriptor and a fork block share. -/
def layoutOk (live : Word) (size : Nat) (ring slots : Word) (depth : Nat) (pins : Word) : Bool :=
  let r := regionsOf live size ring slots depth
  live.toNat % 512 == 0 && size % 512 == 0 && decide (512 ≤ size) && decide (size ≤ 2 ^ 30)
    && ring.toNat % 512 == 0 && slots.toNat % 64 == 0 && decide (4 ≤ depth) && decide (depth ≤ 64)
    && decide (pins.toNat < 2 ^ depth) && !overlap r.live r.ring && !overlap r.live r.slots && !overlap r.ring r.slots
    && inTranslated live size && inTranslated ring (depth * size)

/-- The reserved fields of a descriptor are zero. -/
def reservedOk (bs : List Byte) : Bool := zeroBytes bs 0x2B 5 && zeroBytes bs 0x4C 4 && zeroBytes bs 0x58 40

/-- A descriptor within every limit of R128. -/
def SeqDesc.ok (d : SeqDesc) : Bool :=
  layoutOk d.live d.size d.ring d.slots d.depth d.pins && decide (d.head < d.depth)
    && decide (fieldNat d.raw 0x2A 1 ≤ 1) && reservedOk d.raw && decide (d.valid.toNat < 2 ^ d.depth)

def SeqDesc.regions (d : SeqDesc) : Regions := regionsOf d.live d.size d.ring d.slots d.depth

/-- Whether regions overlap those of another sequence in the directory. -/
def dirClash (dir : Tbl Regions) (seq : Nat) (r : Regions) : Bool :=
  dir.any fun e => e.1 != seq && e.2.list.any fun x => r.list.any fun y => overlap x y

/-- Set or remove the directory's entry of a sequence. -/
def dirSet (s : State) (ctx seq : Nat) (r : Option Regions) : State :=
  let c := s.ctxAt ctx
  s.setCtx ctx { c with dir := match r with
    | some r => Tbl.set c.dir seq r
    | none => c.dir.filter fun e => e.1 != seq }

/-- Read a descriptor of the issuer's context; a misaligned one is as an ill-formed one. The command acts on the copy of
its first start, whatever it waits for afterwards (R117). -/
def readDesc (s : State) (core : Nat) (c : Cmd) (seq : Nat) (k : State → Cmd → SeqDesc → CmdDid) : CmdDid :=
  let at_ := (s.ctxAt (s.gridOf c.block).ctx).sdtb + BitVec.ofNat 64 (128 * seq)
  if at_.toNat % 128 ≠ 0 then .fails s cENGINE
  else
    match c.copies.find? fun x => x.1 == at_ with
    | some (_, bs) => k s c (.of at_ bs)
    | none => memRead s core c at_ 128 fun s bs => k s { c with copies := c.copies ++ [(at_, bs)] } (.of at_ bs)

/-- Read the descriptor of a command's sequence, check it and enter its regions (R128, R270). -/
def withSeq (s : State) (core : Nat) (c : Cmd) (seq : Nat) (k : State → Cmd → SeqDesc → CmdDid) : CmdDid :=
  readDesc s core c seq fun s c d =>
    let ctx := (s.gridOf c.block).ctx
    if !d.used then .fails (dirSet s ctx seq none) cENGINE
    else if !d.ok || dirClash (s.ctxAt ctx).dir seq d.regions then .fails s cENGINE
    else k (dirSet s ctx seq (some d.regions)) c d

/-- A command has done its work with a status (R271). -/
def Cmd.ends (c : Cmd) (status : Word) : Cmd := { c with started := true, status := some status }

/-- The bytes of a sequence's descriptor as a command finds them: the copy of its first start, else memory's (R117). -/
def descBytes (s : State) (w : Who) (c : Cmd) (at_ : Word) : Option (List Byte) :=
  match c.copies.find? fun x => x.1 == at_ with
  | some (_, bs) => some bs
  | none => ((readSpan s w at_ 128).2).toOption

/-- The domain whose state engine carries out a command on sequences: that which homes the first byte of the live region
of the first of them (R71); the issuing core's own where no stack holds it (DESIGN CHOICE, log entry 24). -/
def homeDomain (s : State) (core : Nat) (c : Cmd) (seq : Nat) : Nat :=
  let w := whoCmd s core { c with home := none }
  match descBytes s w c ((s.ctxAt w.ctx).sdtb + BitVec.ofNat 64 (128 * seq)) with
  | none => domainOf core
  | some bs =>
    match (translate s w .read (fieldWord bs 0)).2 with
    | .ok (pa, _) =>
      match paRange pa with
      | .stack n => n
      | .host | .peer | .io | .unassigned => domainOf core
    | .error _ => domainOf core

/-- A command as it comes to start: one on sequences has been given to a state engine. -/
def Cmd.homed (s : State) (core : Nat) (c : Cmd) : Cmd :=
  match c.op.seqs with
  | seq :: _ => { c with home := some (homeDomain s core c seq) }
  | [] => c

/-- A command starts its writes, to end with status 0 (R286). -/
def ssMoves (s : State) (c : Cmd) (ms : List Move) : CmdDid :=
  let (s, rest) := moveSome ms s
  .goes s { c.ends 0 with moves := rest }

/-! ### The commands -/

/-- The address of ring slot `i`, of its entry in the slot table, of a field of the descriptor. -/
def SeqDesc.slotAt (d : SeqDesc) (i : Nat) : Word := d.ring + BitVec.ofNat 64 (i * d.size)
def SeqDesc.entryAt (d : SeqDesc) (i : Nat) : Word := d.slots + BitVec.ofNat 64 (16 * i)
def SeqDesc.field (d : SeqDesc) (off n v : Nat) : Word × List MoveSrc :=
  (d.at_ + BitVec.ofNat 64 off, [.bytes (leBytes n v)])

/-- SSLD (R272). -/
def ssldStart (s : State) (core : Nat) (c : Cmd) (seq off : Nat) (other : Word) (len : Nat) : CmdDid :=
  withSeq s core c seq fun s c d =>
    if d.size < off + len then .fails s cENGINE
    else
      memSource s core c (d.live + BitVec.ofNat 64 off) len fun s src =>
        match windowOf s core c.block other with
        | some (b, o) =>
          if o + len ≤ (s.blockAt b).size then
            ssMoves s c ((partWords b o len).zipWith (fun p q => ⟨p, .word q⟩) src)
          else .fails s cENGINE
        | none =>
          if isWindow other then .fails s cENGINE
          else memMoves s core c [(other, src.map .word)] fun s ms => ssMoves s c ms

/-- The words that SSST copies from: scratchpad, whose bytes are checked, or translated memory. -/
def ssSource (s : State) (core : Nat) (c : Cmd) (va : Word) (n : Nat) (k : State → List Place → CmdDid) : CmdDid :=
  match windowOf s core c.block va with
  | some (b, off) =>
    match partBytes s b off n with
    | .ok _ => k s (partWords b off n)
    | .error cause => .fails s cause
  | none => memSource s core c va n k

/-- SSST (R272). -/
def ssstStart (s : State) (core : Nat) (c : Cmd) (seq off : Nat) (other : Word) (len : Nat) : CmdDid :=
  withSeq s core c seq fun s c d =>
    if d.size < off + len then .fails s cENGINE
    else
      ssSource s core c other len fun s src =>
        memMoves s core c [(d.live + BitVec.ofNat 64 off, src.map .word)] fun s ms => ssMoves s c ms

/-- The slot SSNAP writes: the first from the head that is not pinned (R273). -/
def snapSlot (d : SeqDesc) : Nat → Nat → Option Nat
  | 0, _ => none
  | tries + 1, i => if d.pins.getLsbD i then snapSlot d tries ((i + 1) % d.depth) else some i

/-- SSNAP (R273). -/
def ssnapStart (s : State) (core : Nat) (c : Cmd) (seq : Nat) (p : Word) : CmdDid :=
  withSeq s core c seq fun s c d =>
    match snapSlot d d.depth d.head with
    | none => .goes s (c.ends 2)
    | some i =>
      memSource s core c d.live d.size fun s src =>
        memMoves s core c
          [(d.slotAt i, src.map .word), (d.entryAt i, [.bytes (leBytes 8 p.toNat ++ leBytes 8 d.count.toNat)]),
            d.field 0x40 8 (d.count + 1).toNat, d.field 0x30 8 (d.valid ||| 1 <<< i).toNat,
            d.field 0x29 1 ((i + 1) % d.depth), d.field 0x10 8 p.toNat]
          fun s ms => ssMoves s c ms

/-- Position and stamp of slot `i` in a slot table's bytes. -/
def slotPos (tab : List Byte) (i : Nat) : Nat := fieldNat tab (16 * i) 8
def slotStamp (tab : List Byte) (i : Nat) : Nat := fieldNat tab (16 * i + 8) 8

/-- The choice of R274: the newest valid slot at or below a position, the later stamp on a tie. -/
def bestSlot (d : SeqDesc) (tab : List Byte) (p : Nat) : Option Nat :=
  (List.range d.depth).foldl (fun best i =>
    if d.valid.getLsbD i && decide (slotPos tab i ≤ p) then
      match best with
      | none => some i
      | some j =>
        if slotPos tab j < slotPos tab i ∨ (slotPos tab i = slotPos tab j ∧ slotStamp tab j < slotStamp tab i) then
          some i
        else some j
    else best) none

/-- The valid mask without the slots above a position (R275). -/
def dropAbove (d : SeqDesc) (tab : List Byte) (q : Nat) : Word :=
  (List.range d.depth).foldl (fun m i =>
    if d.valid.getLsbD i && decide (q < slotPos tab i) then m &&& ~~~(1#64 <<< i) else m) d.valid

/-- SSROLL (R275). -/
def ssrollStart (s : State) (core : Nat) (c : Cmd) (seq : Nat) (p : Word) : CmdDid :=
  withSeq s core c seq fun s c d =>
    memRead s core c d.slots (16 * d.depth) fun s tab =>
      match bestSlot d tab p.toNat with
      | none => .goes s (c.ends 1)
      | some i =>
        memSource s core c (d.slotAt i) d.size fun s src =>
          let q := slotPos tab i
          memMoves s core c [(d.live, src.map .word), d.field 0x10 8 q, d.field 0x30 8 (dropAbove d tab q).toNat]
            fun s ms => ssMoves s c ms

/-- SSFORK (R276, R285). -/
def ssforkStart (s : State) (core : Nat) (c : Cmd) (src dst : Nat) (blk : Word) : CmdDid :=
  withSeq s core c src fun s c d =>
    readDesc s core c dst fun s c t =>
      let ctx := (s.gridOf c.block).ctx
      if t.used then .goes s (c.ends 3)
      else
        let s := dirSet s ctx dst none
        if !reservedOk t.raw then .fails s cENGINE
        else
          memRead s core c d.slots (16 * d.depth) fun s tab =>
            cmdRead s core c blk 64 fun s fb =>
              match bestSlot d tab (fieldNat fb 0x00 8) with
              | none => .goes s (c.ends 1)
              | some i =>
                let live := fieldWord fb 0x08
                let ring := fieldWord fb 0x10
                let slots := fieldWord fb 0x18
                let depth := fieldNat fb 0x20 1
                let regions := regionsOf live d.size ring slots depth
                if !zeroBytes fb 0x21 31 || !layoutOk live d.size ring slots depth t.pins
                    || dirClash (s.ctxAt ctx).dir dst regions then .fails s cENGINE
                else
                  memSource s core c (d.slotAt i) d.size fun s words =>
                    memMoves s core c
                      [(live, words.map .word), t.field 0x00 8 live.toNat, t.field 0x08 8 d.size, t.field 0x10 8 (slotPos tab i),
                        t.field 0x18 8 ring.toNat, t.field 0x20 8 slots.toNat, t.field 0x28 1 depth,
                        t.field 0x29 1 0, t.field 0x2A 1 (fieldNat t.raw 0x2A 1 ||| 1), t.field 0x30 8 0,
                        t.field 0x40 8 0, t.field 0x48 4 src, t.field 0x50 8 (slotPos tab i)]
                      fun s ms => ssMoves s { c with dirs := some (dst, some regions) } ms

/-- SSDROP (R277). -/
def ssdropStart (s : State) (core : Nat) (c : Cmd) (seq : Nat) : CmdDid :=
  withSeq s core c seq fun s c d =>
    memMoves s core c [d.field 0x2A 1 0, d.field 0x30 8 0] fun s ms =>
      ssMoves s { c with dirs := some (seq, none) } ms

/-! ### The steps of the engines -/

/-- What a command does when it starts (R250). A launch record is passed by the launch engine (R108). -/
def cmdStart (s : State) (core : Nat) (c : Cmd) : CmdDid :=
  match c.op with
  | .cpy dst src shape _ _ mc => cpyStart s core c dst src shape mc
  | .tmpl glob store shape box _ _ => tmplStart s core c glob store shape box
  | .mxb a page fmt => mxbStart s core c a page fmt
  | .mxa a page bslot aslot rows acc => mxaStart s core c a page bslot aslot rows acc
  | .mxrd a rows g acc => mxrdStart s core c a rows g acc
  | .mxz rows acc => mxzStart s core c rows acc
  | .ssld seq off other len => ssldStart s core c seq off other len
  | .ssst seq off other len => ssstStart s core c seq off other len
  | .ssnap seq p => ssnapStart s core c seq p
  | .ssroll seq p => ssrollStart s core c seq p
  | .ssfork src dst blk => ssforkStart s core c src dst blk
  | .ssdrop seq => ssdropStart s core c seq
  | .lnch .. => .blocked c

/-- The machine as a command's step leaves it; none where the step waits. -/
def CmdDid.state : CmdDid → Option State
  | .goes s _ | .page s _ | .fails s _ | .partly s _ => some s
  | .blocked _ => none

/-- What a step asked of the purses has been paid (R140). -/
def CmdDid.paid (d : CmdDid) (bill : Tbl Nat) : CmdDid :=
  match d with
  | .goes s c => .goes (payBill s bill) { c with drawn := [] }
  | .page s c => .page (payBill s bill) { c with drawn := [] }
  | .partly s c => .partly (payBill s bill) { c with drawn := [] }
  | .fails s cause => .fails (payBill s bill) cause
  | .blocked c => .blocked c

/-- A command's step is taken once the slots it asks of the purses are drawn; until then it draws those that each period
has left (R140; DESIGN CHOICE, log entries 24 and 85). -/
def gatePurses (s : State) (core q : Nat) (c : Cmd) (d : CmdDid) (k : CmdDid → Option State) : Option State :=
  match d.state with
  | none => k d
  | some t =>
    let bill := owed t.asked c.drawn
    if billOpen s bill then k (d.paid bill)
    else (drawOwed s bill c.drawn).map fun x => setHead x.1 core q { c with drawn := x.2 }

/-- The state after what a command did; none where it waits for a dirty log and keeps nothing new. -/
def afterCmd (s : State) (core q : Nat) (c : Cmd) (d : CmdDid) : Option State :=
  gatePurses s core q c d fun d =>
    match d with
    | .goes s c' | .page s c' | .partly s c' => some (setHead s core q c')
    | .fails s cause => some (failCmd s core q c cause)
    | .blocked c' => if c' = c then none else some (setHead s core q c')

/-- A step of the part that is enabled or not. -/
def enabledStep (name : String) (s : Option State) : Out :=
  match s with
  | some s => .next s
  | none => .refused (.notEnabled name)

/-- Whether the state engine of one of a command's sequences is at work on a command of another core, which has
started or has read its descriptor (R97). -/
def seqBusy (s : State) (core : Nat) (c : Cmd) : Bool :=
  s.cores.any fun e => e.1 != core && e.2.stateQ.head?.any fun d =>
    (d.started || !d.copies.isEmpty) && (s.gridOf d.block).ctx == (s.gridOf c.block).ctx
      && d.op.seqs.any fun x => c.op.seqs.contains x

/-- ENGINE_COMMAND_START (R94, R250): the head of a queue, once the joins before it are met and its sequence's state
engine is free (R97). The state engine can be asked to go on with a started command, at moments between its start and
its completion (R286). -/
def execEngineCommandStart (core : Nat) (queue : BitVec 2) (s : State) : Out :=
  enabledStep "ENGINE_COMMAND_START" <|
    match headCmd s core queue.toNat with
    | none => none
    | some c =>
      if c.started && !c.moves.isEmpty then
        let (s, rest) := moveSome c.moves s
        some (setHead s core queue.toNat { c with moves := rest })
      else if c.started || c.emul || c.pageVa.isSome || !joinsOpen s core queue.toNat c.seq || seqBusy s core c then none
      else
        let s := { s with asked := [] }
        let c := c.homed s core
        afterCmd s core queue.toNat c (cmdStart s core c)

/-- Whether an EXPECT or an arrival has reached a barrier of a piece's in this cycle, whose landings come before them:
the piece lands in the next (R134). -/
def landsLate (s : State) (c : Cmd) (p : CopyProg) : Bool :=
  c.op.lowers.any fun i => s.reached.any fun x => x.2.1 == i && p.blocks.contains x.1

/-- COPY_PIECE_LANDING (R254, R255). -/
def execCopyPieceLanding (core : Nat) (s : State) : Out :=
  enabledStep "COPY_PIECE_LANDING" <|
    match headCmd s core 0 with
    | none => none
    | some c =>
      match c.started, c.pageVa, c.copy with
      | true, none, some p =>
        if p.landed < p.shape.count && !landsLate s c p then
          let s := { s with asked := [] }
          afterCmd s core 0 c (landPiece (s.askSlots (domainOf core) copyPurse 1) core c p)
        else none
      | _, _, _ => none

/-- Whether a command's work is done. -/
def Cmd.finished (c : Cmd) : Bool :=
  c.started && c.pageVa.isNone && match c.copy with
    | some p => decide (p.shape.count ≤ p.landed)
    | none => true

/-- Store a command's status beside its counter (R271), then increment the counter (R131). -/
def cmdCount (s : State) (core : Nat) (c : Cmd) : CmdDid :=
  if c.ctr = 0 then .goes s c
  else
    let count := fun (s : State) =>
      match counterUpdate (askEngine s core c 8) (whoCmd s core c) c.ctr none with
      | .done s => CmdDid.goes (touchBlock s c.block) c
      | .page s second => .page s { c with pageVa := some (c.ctr, second) }
      | .failed s _ => .fails s cENGINE
    match c.status with
    | none => count s
    | some st => memMoves s core c [(c.ctr + 8, [.bytes (leBytes 8 st.toNat)])] fun s ms => count (moveAll s ms)

/-- A command's flags reach FCSR of its warp (R58). -/
def orFlags (s : State) (c : Cmd) : State :=
  let w := s.warpAt c.warp
  if w.stat = .absent then s else s.setWarp c.warp { w with fcsr := w.fcsr ||| c.flags }

/-- What a command has still to write is written (R97). -/
def finishMoves (s : State) (core q : Nat) (c : Cmd) : State × Cmd :=
  if c.moves.isEmpty then (s, c)
  else
    let c' := { c with moves := [] }
    (setHead (moveAll s c.moves) core q c', c')

/-- Whether regions that a command enters when it completes have come to overlap another sequence's since its start:
it then fails (R128; DEDUCED, log entry 88). -/
def dirRefused (s : State) (c : Cmd) : Bool :=
  match c.dirs with
  | some (seq, some r) => dirClash (s.ctxAt (s.gridOf c.block).ctx).dir seq r
  | _ => false

/-- The change of the region directory that a command makes when it completes with status 0 (R128). -/
def dirDone (s : State) (c : Cmd) : State :=
  match c.dirs with
  | some (seq, r) => dirSet s (s.gridOf c.block).ctx seq r
  | none => s

/-- ENGINE_COMMAND_COMPLETION: the command's writes end, the flags reach FCSR (R58), the counter counts, the region
directory changes (R128), the command leaves its queue (R97, R106, R107). A counter that faults fails the command, its
work performed (R131). -/
def execEngineCommandCompletion (core : Nat) (queue : BitVec 2) (s : State) : Out :=
  enabledStep "ENGINE_COMMAND_COMPLETION" <|
    match headCmd s core queue.toNat with
    | none => none
    | some c =>
      if !c.finished then none
      else
        let (s, c) := finishMoves { s with asked := [] } core queue.toNat c
        if dirRefused s c then some (failCmd (orFlags s c) core queue.toNat c cENGINE)
        else
          gatePurses s core queue.toNat c (cmdCount s core c) fun d =>
            match d with
            | .goes s c => some (dropHead (orFlags (dirDone s c) c) core queue.toNat)
            | .fails s cause => some (failCmd (orFlags s c) core queue.toNat c cause)
            | .page s c | .partly s c => some (setHead s core queue.toNat c)
            | .blocked _ => none

end Sys2Proof.Machine
end

