-- ==== Sys2Proof/Machine/Crew.lean ====
section
/-!
DEFINITION. Sys2Proof/Machine/Crew.lean: crews (R34 to R47, R122, R123, R136, R266, R267, R281): the host's and
the strokes' words, the steps of the cox; and REGROUP (R19, R20, R268).
-/
namespace Sys2Proof.Machine

/-! ### Warp slots -/

/-- Warp slots of a core that no resident block holds (R12). -/
def freeWarps (s : State) (core : Nat) : Nat :=
  let strokes := ((s.crews.filter fun e => e.2.live && e.1 / 64 == core).map fun e => e.2.strokes.length).sum
  Config.warpSlots - (((coreBlocks s core).map fun b => (s.blockAt b).nw).sum + strokes)

/-- The lowest resident-warp number free on a core (R30). -/
def freeSlot (s : State) (core : Nat) : Option Nat :=
  ((List.range Config.warpSlots).map (64 * core + ·)).find? fun k => (s.warpAt k).stat == .absent

/-- ORIG of a warp that starts: each lane's own warp and lane (R19, R223). -/
def origOf (wid : Nat) : Vector (BitVec 16) 32 := Vector.ofFn fun i => BitVec.ofNat 16 (256 * wid + i.val)

/-- Put a warp that starts into a slot, whose registers are then free of error. -/
def startWarp (s : State) (k : Nat) (w : Warp) : State :=
  { s.setWarp k w with
    poison := s.poison.filter fun e => match e with
      | .sreg k' _ | .lreg k' _ _ => k' != k
      | _ => true }

/-! ### The crew record (R122, R123) -/

/-- A crew record, if it is well-formed (R34, R122). -/
def crewRecOf (bs : List Byte) : Option CrewRec :=
  let w := fieldNat bs 0x08 2
  let sl := fieldNat bs 0x0A 1
  let d := fieldNat bs 0x0B 1
  let f := fieldNat bs 0x0C 1
  let fl : BitVec 8 := BitVec.ofNat 8 (fieldNat bs 0x0D 1)
  let p8 := fieldNat bs 0x0E 1
  let tmpl := fl.getLsbD 3
  let tf : BitVec 16 := BitVec.ofNat 16 (fieldNat bs 0x1A 2)
  let tshape := fieldNat bs 0x18 2
  let tctr := fieldWord bs 0x30
  let policy : BitVec 2 := fl.extractLsb' 1 2
  let tmplOk := !tmpl || (decide (1 ≤ f) && decide (tshape ≤ 255) && (tf.extractLsb' 9 7 : BitVec 7) == 0
    && decide ((tf.extractLsb' 0 3 : BitVec 3).toNat ≤ 5) && tctr.toNat % 8 == 0)
  if fieldNat bs 0 8 % 4 = 0 ∧ 1 ≤ w ∧ w ≤ 1792 ∧ 1 ≤ sl ∧ w % sl = 0 ∧ 1 ≤ d ∧ d ≤ 4 ∧ policy ≠ 3
      ∧ (fl.extractLsb' 4 4 : BitVec 4) = 0 ∧ 1 ≤ p8 ∧ p8 ≤ 32 ∧ zeroBytes bs 0x0F 1 ∧ zeroBytes bs 0x14 4
      ∧ zeroBytes bs 0x1C 4 ∧ zeroBytes bs 0x38 8 ∧ tmplOk then
    some
      { body := fieldWord bs 0, w := w, s := sl, d := d, f := f, breakable := fl.getLsbD 0, policy := policy
        tmpl := tmpl, regs8 := p8, const := BitVec.ofNat 32 (fieldNat bs 0x10 4), shape := tshape, tflags := tf
        tbase := fieldWord bs 0x20, tstep := fieldWord bs 0x28, tctr := tctr, raw := bs }
  else none

/-- Strokes of a crew; none where it is unbounded (R41). -/
def Crew.total (c : Crew) : Option Nat := if c.n = 0 then none else some (c.n + c.record.d - 1)

/-- Whether a stroke number is one the crew runs. -/
def Crew.runs (c : Crew) (k : Nat) : Bool :=
  match c.total with
  | none => true
  | some t => decide (k < t)

/-- The crew's lead L (R37). -/
def CrewRec.lead (r : CrewRec) : Nat := max 1 (r.w / r.s / 2)

/-! ### CREW and CREWW (R266) -/

/-- What the strokes copy from their host (R35). -/
def seedOf (w : Warp) : Seed := ⟨w.s, w.ab, w.lcb, w.fcsr, w.chk, w.ltile, w.pc⟩

/-- The lowest crew number free on a core (R57). -/
def freeCrew (s : State) (core : Nat) : Option Nat :=
  ((List.range 64).map (64 * core + ·)).find? fun c => !(s.crewAt c).live

/-- The window at CREW: host row `j` in the slot of stroke −1, every lane present (R51). -/
def seedWindow (w : Warp) (r : CrewRec) : Tbl Lanes :=
  (List.range r.w).foldl (fun t j => Tbl.put zeroLanes t (slotOf r (-1) j) (Tbl.get zeroLanes w.host j)) []

/-- The errors in the host's rows go with them into the window; those of the rows freed are gone (R34, R61). -/
def sitesToCrew (k c : Nat) (r : CrewRec) (e : EccSite) : Option EccSite :=
  match e with
  | .lreg k' (.v i) m =>
    if k' = k ∧ 256 ≤ i then if i - 256 < r.w then some (.crewRow c (slotOf r (-1) (i - 256)) m) else none else some e
  | .crewRow c' .. => if c' = c then none else some e
  | _ => some e

/-- Hand a crew of the acting warp to the cox (R34, R51). -/
def startCrew (s : State) (c : Nat) (r : CrewRec) (n : Nat) : State :=
  let w := s.me
  let cr : Crew :=
    { Crew.absent with
      live := true, host := s.cur, record := r, seed := seedOf w, n := n
      slots := seedWindow w r
      pres := (List.range r.w).map fun j => (j, 0xFFFF_FFFF#32) }
  let w := { w with
    hosts := some c, slide := BitVec.ofNat 64 r.s, win := BitVec.ofNat 64 r.w
    depth := BitVec.ofNat 64 r.d, trip := BitVec.ofNat 64 n, host := [], groups := [] }
  { (s.setMe w).setCrew c cr with poison := s.poison.filterMap (sitesToCrew s.cur c r) }

/-- CREW waits for a crew number or for rows, keeping the record it has read (R117, R266). -/
def holdRecord (s : State) (bs : List Byte) : State :=
  let w := s.me
  let s := s.setMe { w.counted false with wait := .record bs }
  s.setBlock w.block ((s.blockAt w.block).moved s.cycle false)

/-- The bytes of CREW's record: those it has read, else those at its address. -/
def crewRecord (s : State) (va : Word) : State × Except Raise (List Byte) :=
  match s.me.wait with
  | .record bs => (s, .ok bs)
  | .none | .barrier .. | .released _ | .passed _ | .regroup .. =>
    match loadAt s .read va 64 with
    | (s, .error r) => (s, .error r)
    | (s, .ok (_, bs)) => (s, .ok bs)

/-- CREW (R34, R266). -/
def execCrew (a b : SReg) : State → Out :=
  scalarWord ⟨true, false, true⟩ [a, b] fun s =>
    let w := s.me
    let va := s.sreg a
    let n := (s.sreg b).toNat
    if !(recordOf s w).crew ∨ w.stroke.isSome ∨ w.hosts.isSome ∨ va.toNat % 64 ≠ 0 ∨ 2 ^ 62 < n then
      .raises s (.plain cILLEGAL)
    else
      match crewRecord s va with
      | (s', .error r) => .raises s' r
      | (s', .ok bs) =>
        let hold := if s.me.wait = .none then Did.stops (holdRecord s' bs) else .waits
        match crewRecOf bs with
        | none => .raises s' (.plain cILLEGAL)
        | some r =>
          if n = 0 ∧ !(r.breakable && r.d == 1) then .raises s' (.plain cILLEGAL)
          else
            match freeCrew s' (coreOf s'.cur) with
            | none => hold
            | some c => if freeRows s' (coreOf s'.cur) < r.w then hold else .done (startCrew s' c r n) none

/-- Whether a crew has finished: every stroke retired or cancelled, and none to come (R36, R266). -/
def Crew.finished (c : Crew) : Bool :=
  c.strokes.isEmpty && c.fill.isEmpty && (c.broke.isSome || match c.total with
    | none => false
    | some t => decide (t ≤ c.next))

/-- What CREWW returns, and the stroke whose mapping the host's names take (R36). -/
def Crew.result (c : Crew) : Nat × Nat :=
  match c.broke with
  | some b => (b, b + 1)
  | none => (c.n + c.record.d - 1, c.n + c.record.d - 1)

/-- The crew's window as host names (R51). -/
def hostNames (c : Crew) : Tbl Lanes :=
  (List.range c.record.w).foldl (fun t j =>
    Tbl.put zeroLanes t j (Tbl.get zeroLanes c.slots (slotOf c.record c.result.2 j))) []

/-- The errors in the window go with its rows to the host's names. -/
def sitesToHost (k c : Nat) (cr : Crew) (e : EccSite) : Option EccSite :=
  match e with
  | .crewRow c' slot m =>
    if c' = c then
      ((List.range cr.record.w).find? fun j => slotOf cr.record cr.result.2 j == slot).map fun j =>
        .lreg k (.v (256 + j)) m
    else some e
  | _ => some e

/-- CREWW (R266). -/
def execCreww (k : SReg) : State → Out :=
  scalarWord .plain [] fun s =>
    match s.me.hosts with
    | none => .raises s (.plain cILLEGAL)
    | some c =>
      let cr := s.crewAt c
      if !cr.finished then .waits
      else
        let s := s.setMe { s.me with hosts := none, host := hostNames cr }
        let s := { s with poison := s.poison.filterMap (sitesToHost s.cur c cr) }
        .done ((s.setCrew c Crew.absent).setS k (BitVec.ofNat 64 cr.result.1)) none

/-! ### Releases (R40, R45) -/

/-- Apply a stroke's release: its absent lanes take the vacant value and become present. -/
def Crew.release (c : Crew) (k : Nat) : Crew :=
  let c := (List.range c.record.s).foldl (fun (c : Crew) i =>
    let slot := slotOf c.record k i
    let held := Tbl.get zeroLanes c.slots slot
    let pres := Tbl.get 0 c.pres slot
    let v := (vacantValue c k i).getD zeroLanes
    { c with slots := Tbl.put zeroLanes c.slots slot (blend pres held v)
             pres := Tbl.put 0 c.pres slot 0xFFFF_FFFF }) c
  { c with relMark := k + 1 }

/-- Give every lane of a cancelled stroke's out-slots the vacant value (R44). -/
def Crew.fillStroke (c : Crew) (k : Nat) : Crew :=
  (List.range c.record.s).foldl (fun (c : Crew) i =>
    let slot := slotOf c.record k i
    let v := match c.record.policy.toNat with
      | 0 => zeroLanes
      | 1 => Vector.replicate 32 c.record.const
      | _ => Tbl.get zeroLanes c.slots (slotOf c.record ((k : Int) - 1) i)
    { c with slots := Tbl.put zeroLanes c.slots slot v, pres := Tbl.put 0 c.pres slot 0xFFFF_FFFF }) c

/-- The vacant fill of the strokes that BREAK cancelled, in stroke order (R44, R281). -/
def Crew.fillAll (c : Crew) : Crew := { c.fill.foldl Crew.fillStroke c with fill := [] }

/-- After a release, the fill that waited for it (R281). -/
def Crew.afterRelease (c : Crew) (k : Nat) : Crew := if c.broke = some k then c.fillAll else c

/-- The errors that HOLD copies with the rows of the stroke below into the given lanes of a stroke's out-slots (R40,
R61; DEDUCED, log entry 55). -/
def Crew.holdSites (cr : Crew) (c k : Nat) (into : Nat → Mask) (ps : List EccSite) : List EccSite :=
  if cr.record.policy.toNat < 2 then ps
  else
    (List.range cr.record.s).foldl (fun ps i =>
      let dst := slotOf cr.record k i
      ps ++ ps.filterMap fun e => match e with
        | .crewRow c' j m =>
          if c' = c ∧ j = slotOf cr.record ((k : Int) - 1) i ∧ m &&& into dst ≠ 0 then some (.crewRow c dst (m &&& into dst))
          else none
        | _ => none) ps

/-- The errors that a stroke's release copies, and those that the vacant fill of the cancelled strokes does. -/
def State.releaseSites (s : State) (c : Nat) (cr : Crew) (k : Nat) : State :=
  { s with poison := cr.holdSites c k (fun j => ~~~(Tbl.get 0 cr.pres j)) s.poison }
def State.fillSites (s : State) (c : Nat) (cr : Crew) : State :=
  { s with poison := cr.fill.foldl (fun ps k => cr.holdSites c k (fun _ => 0xFFFF_FFFF) ps) s.poison }
def State.afterSites (s : State) (c : Nat) (cr : Crew) (k : Nat) : State :=
  if cr.broke = some k then s.fillSites c cr else s

/-! ### BREAK, GO, SREL (R267) -/

/-- A word that only a stroke may run: its crew and number. -/
def strokeWord (body : State → Nat → Nat → Stroke → Did) : State → Out :=
  scalarWord ⟨true, false, true⟩ [] fun s =>
    match s.me.stroke with
    | none => .raises s (.plain cILLEGAL)
    | some (c, k) =>
      match (s.crewAt c).strokes.find? (·.k == k) with
      | none => .raises s (.plain cILLEGAL)
      | some x => body s c k x

/-- Change a stroke's entry. -/
def Crew.setStroke (c : Crew) (k : Nat) (f : Stroke → Stroke) : Crew :=
  { c with strokes := c.strokes.map fun x => if x.k = k then f x else x }

/-- Whether every lane of a stroke's out-slots is present. -/
def Crew.allPresent (c : Crew) (k : Nat) : Bool :=
  (List.range c.record.s).all fun i => Tbl.get 0 c.pres (slotOf c.record k i) == 0xFFFF_FFFF

/-- The out-slots of some strokes lose their presence. -/
def Crew.unfill (c : Crew) (ks : List Nat) : Crew :=
  { c with pres := ks.foldl (fun p (k : Nat) =>
      (List.range c.record.s).foldl (fun p i => Tbl.put 0 p (slotOf c.record k i) 0) p) c.pres }

/-- BREAK in stroke `b`: the strokes above are cancelled, none is launched any more (R44). A fill that waits leaves
their out-slots absent until then (R281). -/
def breakAt (s : State) (c b : Nat) : State :=
  let cr := s.crewAt c
  let above := cr.strokes.filter fun x => decide (b < x.k)
  let s := above.foldl (fun s x => s.setWarp x.warp Warp.absent) s
  let cr := cr.setStroke b fun x => { x with broke := true }
  let cr := { cr with
    strokes := cr.strokes.filter fun x => decide (x.k ≤ b)
    held := cr.held.filter fun h => decide (h.stroke ≤ b)
    tout := cr.tout.filter fun k => decide (k ≤ b)
    broke := some b
    fill := (List.range (max cr.high cr.next)).filter fun k => decide (b < k) }
  if cr.allPresent b then (s.fillSites c cr).putCrew c cr.fillAll else s.putCrew c (cr.unfill cr.fill)

def execBreakCrew : State → Out :=
  strokeWord fun s c k x =>
    if !(s.crewAt c).record.breakable || x.going then .raises s (.plain cILLEGAL)
    else if x.broke then .done s none
    else .done (breakAt s c k) none

def execGoStroke : State → Out :=
  strokeWord fun s c k x =>
    if !(s.crewAt c).record.breakable || x.broke then .done s none
    else .done (s.setCrew c ((s.crewAt c).setStroke k fun x => { x with going := true })) none

def execSrel : State → Out :=
  strokeWord fun s c k _ =>
    .done (s.setCrew c ((s.crewAt c).setStroke k fun x => { x with relReq := true })) none

/-! ### The cox -/

/-- The commit mark once stroke `k` has been launched: every stroke of a crew without BREAKABLE is committed at launch,
and stroke 0 of any crew (R42, R136). -/
def Crew.markAt (c : Crew) (k : Nat) : Nat :=
  if !c.record.breakable || k == 0 then max c.commit (k + 1) else c.commit

/-- Launch the next stroke of a crew into a warp slot (R35, R38, R39). It takes its context's identifier (R75). -/
def launchStroke (s : State) (c slot : Nat) : State :=
  let cr := s.crewAt c
  let k := cr.next
  let h := s.warpAt cr.host
  let sd := cr.seed
  let w : Warp :=
    { Warp.absent with
      stat := .running, block := h.block, wid := h.wid, stroke := some (c, k), s := sd.s.set 0 0
      pc := cr.record.body, ab := sd.ab, lcb := sd.lcb, fcsr := sd.fcsr, chk := sd.chk, ltile := sd.ltile
      orig := origOf h.wid, iter := BitVec.ofNat 64 k, slide := BitVec.ofNat 64 cr.record.s, win := BitVec.ofNat 64 cr.record.w
      depth := BitVec.ofNat 64 cr.record.d, trip := BitVec.ofNat 64 cr.n
      ctxid := (s.ctxAt (s.gridOf h.block).ctx).ctxid }
  let pres := (List.range cr.record.s).foldl (fun p i => Tbl.put 0 p (slotOf cr.record k i) 0) cr.pres
  (startWarp s slot w).setCrew c { cr with
    next := k + 1, high := max cr.high (k + 1), commit := cr.markAt k, pres := pres
    strokes := cr.strokes ++ [⟨k, slot, false, false, false, false⟩] }

/-- STROKE_LAUNCH (R38, R43, R46). A relaunch waits for a free entry of the store buffer, also after a save (R47; DESIGN
CHOICE, log entry 94). -/
def execStrokeLaunch (c : Nat) (s : State) : Out :=
  enabledStep "STROKE_LAUNCH" <|
    let cr := s.crewAt c
    let core := c / 64
    let b := (s.warpAt cr.host).block
    let rows := 8 * cr.record.regs8 + hvRows (s.gridOf b).record
    if cr.live && !(s.blockAt b).stopped && cr.broke.isNone && cr.runs cr.next
        && decide (cr.next < cr.oldest + cr.record.lead) && decide (rows ≤ freeRows s core)
        && decide (1 ≤ freeWarps s core) && (!cr.record.tmpl || decide (cr.next < cr.tissued))
        && (decide (cr.high ≤ cr.next) || decide (specUsed s core < Config.specEntries)) then
      (freeSlot s core).map (launchStroke s c)
    else none

/-- TEMPLATE_COPY_ISSUE (R46, R123). The command is the host's. -/
def execTemplateCopyIssue (c : Nat) (s : State) : Out :=
  enabledStep "TEMPLATE_COPY_ISSUE" <|
    let cr := s.crewAt c
    let r := cr.record
    let core := c / 64
    let b := (s.warpAt cr.host).block
    let k := cr.tissued
    if cr.live && r.tmpl && !(s.blockAt b).stopped && cr.broke.isNone && cr.runs k
        && decide (cr.tout.length < r.f) && queueRoom s core 0 then
      let glob := r.tbase + BitVec.ofNat 64 k * r.tstep
      let cmd : Cmd :=
        { op := .tmpl glob (r.tflags.getLsbD 3) r.shape (k % r.f) (r.tflags.getLsbD 8)
            (r.tflags.extractLsb' 4 4 : BitVec 4).toNat
          warp := cr.host, block := b, pc := cr.seed.pc, word := 0, a := glob, b := 0, k := 0
          scope := r.tflags.extractLsb' 0 3, ctr := r.tctr, seq := s.seq, sup := false, started := false, flags := 0
          status := none, copy := none, emul := false, pageVa := none, copies := [], moves := [], dirs := none
          drawn := [], home := none }
      some ((pushCmd s core 0 cmd).setCrew c { cr with tissued := k + 1, tout := cr.tout ++ [k] })
    else none

/-- Whether a stroke is committed (R42). -/
def Crew.committed (c : Crew) (k : Nat) : Bool := !c.record.breakable || decide (k < c.commit)

/-- STROKE_RETIRE (R38, R40, R45): the oldest stroke, once it has exited and is committed; it releases. -/
def execStrokeRetire (c : Nat) (s : State) : Out :=
  enabledStep "STROKE_RETIRE" <|
    let cr := s.crewAt c
    match cr.strokes.find? (·.k == cr.oldest) with
    | none => none
    | some x =>
      if cr.live && x.exited && cr.committed x.k then
        let s := if cr.relMark ≤ x.k then s.releaseSites c cr x.k else s
        let cr := if cr.relMark ≤ x.k then cr.release x.k else cr
        let s := s.afterSites c cr x.k
        let cr := cr.afterRelease x.k
        some ((s.setWarp x.warp Warp.absent).putCrew c { cr with
          oldest := x.k + 1
          strokes := cr.strokes.filter fun y => y.k != x.k
          tout := cr.tout.filter (· != x.k) })
      else none

/-- OUT_SLOT_RELEASE (R40): the release that SREL asked for, once every lower stroke has released. -/
def execOutSlotRelease (c : Nat) (s : State) : Out :=
  enabledStep "OUT_SLOT_RELEASE" <|
    let cr := s.crewAt c
    if cr.live && cr.strokes.any (fun x => x.k == cr.relMark && x.relReq) then
      let s := (s.releaseSites c cr cr.relMark).afterSites c cr cr.relMark
      some (s.putCrew c ((cr.release cr.relMark).afterRelease cr.relMark))
    else none

/-- Perform the held stores of a stroke in program order, after the dirty bits they set (R42, R79). -/
def performHeld (s : State) (hs : List Held) : State :=
  hs.foldl (fun s h => setPlaces s h.bytes) (setDirty s (hs.flatMap (·.dirty)))

/-- STROKE_COMMIT (R42, R136): the lowest uncommitted stroke, once the stroke below has executed GO or has retired
without BREAK. Stores that need room in a dirty log fill it and hold the commit up (DEDUCED, log entry 17). -/
def execStrokeCommit (c : Nat) (s : State) : Out :=
  enabledStep "STROKE_COMMIT" <|
    let cr := s.crewAt c
    let m := cr.commit
    let below := (decide (m ≤ cr.oldest) && cr.broke != some (m - 1))
      || cr.strokes.any fun x => x.k + 1 == m && x.going
    let mine := cr.held.filter fun h => h.stroke == m
    let dirty := mine.flatMap (·.dirty)
    if !(cr.live && cr.record.breakable && decide (1 ≤ m) && below) then none
    else if (logShort s dirty).isSome then
      if (logPages s dirty).any fun x => logRoom s x.1 then some (fillLog s dirty) else none
    else
      let s := performHeld s mine
      some (s.setCrew c { s.crewAt c with
        commit := m + 1, held := (s.crewAt c).held.filter fun h => h.stroke != m })

/-! ### REGROUP (R19, R20, R268) -/

/-- A warp whose queues are not empty, a stream of which runs, or that hosts a crew, is refused (R20). -/
def regroupRefused (w : Warp) : Bool :=
  w.dq.toList.any (fun q => !q.entries.isEmpty || q.stream.isSome) || !w.xq.isEmpty || !w.bq.isEmpty || w.hosts.isSome

/-- The waiting warp that an arriving warp pairs with: of lowest WID, at the same address, fitting, its 256 cycles not
past (R20, R268), its wait not ended by an asynchronous cause (R252). -/
def regroupPartner (s : State) (k : Nat) : Option Nat :=
  let w := s.warpAt k
  let fits := (blockWarps s w.block).filter fun e =>
    e.1 != k && (match e.2.wait with
      | .regroup since _ _ => decide (s.cycle < since + Config.regroupCycles)
      | _ => false) && !e.2.interrupted && e.2.pc == w.pc && decide (popBits e.2.exm + popBits w.exm ≤ 32)
  (sortByKey (fun e => e.2.wid) fits).head?.map (·.1)

/-- A lane of one register set into a lane of another. -/
def moveLane (dst src : Lanes) (rp dl : LaneIx) : Lanes :=
  mkLanes fun i => if i = rp then lane src dl else lane dst i

/-- Zero in the lanes of a mask. -/
def clearLanes (m : Mask) (v : Lanes) : Lanes := blend m zeroLanes v

/-- The receiver's inactive positions with the donor's active lanes that fill them, in ascending order (R19). -/
def fusePairs (r d : Warp) : List (LaneIx × LaneIx) :=
  ((List.finRange 32).filter fun i => !inMask r.exm i).zip (maskLanes d.exm)

/-- The errors of the donor's registers go with their lanes (R19, R61; DEDUCED, log entry 55). -/
def fuseSite (rk dk n : Nat) (pairs : List (LaneIx × LaneIx)) (e : EccSite) : Option EccSite :=
  match e with
  | .lreg k r m =>
    let m' := mkMask fun i => pairs.any fun x => x.1 == i && inMask m x.2
    let moves := match r with
      | .v i => decide (i < n)
      | .p _ => true
      | _ => false
    if k == dk && moves && m' != 0 then some (.lreg rk r m') else none
  | _ => none

/-- The receiver of a fusion: the donor's active lanes in its inactive positions (R19). `n` is the donor's
operand. -/
def fuse (r d : Warp) (n : Nat) : Warp :=
  let pairs := fusePairs r d
  let m := pairs.foldl (fun acc x => acc ||| (1#32 <<< x.1.val)) 0#32
  let take := fun (i : Nat) (v : Lanes) => pairs.foldl (fun v x => moveLane v (Tbl.get zeroLanes d.v i) x.1 x.2) v
  let cleared := r.v.map fun e => (e.1, clearLanes m e.2)
  let v := (List.range n).foldl (fun t i =>
    Tbl.put zeroLanes t i (take i (Tbl.get zeroLanes r.v i))) (cleared.filter fun e => e.2 != zeroLanes)
  let p := Vector.ofFn fun (j : Fin 12) =>
    if j.val = 0 then r.p[j]
    else pairs.foldl (fun (b : BitVec 32) x =>
      if (d.p[j]).getLsbD x.2.val then b ||| (1#32 <<< x.1.val) else b &&& ~~~(1#32 <<< x.1.val)) r.p[j]
  let orig := pairs.foldl (fun o x => o.set x.1.val d.orig[x.2.val]) r.orig
  { r with
    exm := r.exm ||| m, v := v, p := p, orig := orig
    host := (r.host.map fun e => (e.1, clearLanes m e.2)).filter fun e => e.2 != zeroLanes
    o := r.o.map (clearLanes m), l0 := clearLanes m r.l0, l1 := clearLanes m r.l1 }

/-- A REGROUP completes in a warp with a status. -/
def regroupEnds (s : State) (k : Nat) (status : Word) : State :=
  let w := s.warpAt k
  match w.wait with
  | .regroup _ _ d => s.setWarp k ((w.setS (BitVec.ofNat 6 d) status).retired (w.pc + 4))
  | _ => s

/-- A number that names no warp: the commands of a donor that has retired (DEDUCED, log entry 18). -/
def noWarpKey : Nat := 64 * Config.numCores

/-- Two warps fuse: the one of lower WID receives, the other retires (R19). -/
def regroupFuse (s : State) (x y : Nat) : State :=
  let (rk, dk) := if (s.warpAt x).wid < (s.warpAt y).wid then (x, y) else (y, x)
  let d := s.warpAt dk
  let n := match d.wait with
    | .regroup _ n _ => n
    | _ => 0
  let b := d.block
  let moved := s.poison.filterMap (fuseSite rk dk n (fusePairs (s.warpAt rk) d))
  let s := { s with poison := s.poison ++ moved }
  let s := (s.setWarp rk (fuse (s.warpAt rk) d n)).setWarp dk Warp.absent
  let core := s.coreAt (coreOf dk)
  let rename := fun (l : List Cmd) => l.map fun c => if c.warp = dk then { c with warp := noWarpKey } else c
  let s := s.setCore (coreOf dk) { core with
    copyQ := rename core.copyQ, matrixQ := rename core.matrixQ
    stateQ := rename core.stateQ, launchQ := rename core.launchQ }
  let s := s.setBlock b { s.blockAt b with donors := (s.blockAt b).donors + 1 }
  regroupEnds s rk 0

/-- REGROUP (R268). -/
def execRegroup (k a : SReg) : State → Out :=
  scalarWord ⟨true, false, true⟩ [a] fun s =>
    let w := s.me
    let n := (s.sreg a).toNat
    match w.wait with
    | .regroup .. => .waits
    | _ =>
      if w.stroke.isSome ∨ privNames s w < n then .raises s (.plain cILLEGAL)
      else if regroupRefused w then .done (s.setS k 1) none
      else
        let s := beginWait s (.regroup s.cycle n k.toNat)
        match regroupPartner s s.cur with
        | none => .stops s
        | some j => .stops (regroupFuse s s.cur j)

/-- REGROUP_TIMEOUT (R20, R268): 256 cycles since the wait began, those for which its block was saved among them (DESIGN
CHOICE, log entry 92). -/
def execRegroupTimeout (k : Nat) (s : State) : Out :=
  enabledStep "REGROUP_TIMEOUT" <|
    match (s.warpAt k).wait with
    | .regroup since _ _ =>
      if !(s.warpAt k).interrupted && decide (since + Config.regroupCycles ≤ s.cycle) then some (regroupEnds s k 1) else none
    | _ => none

end Sys2Proof.Machine
end

