-- ==== Sys2Proof/Machine/TaskQueue.lean ====
section
/-!
DEFINITION. Sys2Proof/Machine/TaskQueue.lean: task queues (R111 to R115, R269): descriptors, handles and their
check code, the three words, QRESET.
-/
namespace Sys2Proof.Machine

/-! ### SHA-256 of one block (R113) -/

/-- The 64 round constants, the first in the highest bits. -/
def shaTable : BitVec 2048 :=
  0x428a2f9871374491b5c0fbcfe9b5dba53956c25b59f111f1923f82a4ab1c5ed5d807aa9812835b01243185be550c7dc372be5d7480deb1fe9bdc06a7c19bf174e49b69c1efbe47860fc19dc6240ca1cc2de92c6f4a7484aa5cb0a9dc76f988da983e5152a831c66db00327c8bf597fc7c6e00bf3d5a7914706ca63511429296727b70a852e1b21384d2c6dfc53380d13650a7354766a0abb81c2c92e92722c85a2bfe8a1a81a664bc24b8b70c76c51a3d192e819d6990624f40e3585106aa07019a4c1161e376c082748774c34b0bcb5391c0cb34ed8aa4a5b9cca4f682e6ff3748f82ee78a5636f84c878148cc7020890befffaa4506cebbef9a3f7c67178f2

/-- The eight initial registers, the first in the highest bits. -/
def shaSeed : BitVec 256 := 0x6a09e667bb67ae853c6ef372a54ff53a510e527f9b05688c1f83d9ab5be0cd19

/-- Word `i` of a value of `n` words, counted from its highest bits. -/
def shaPart {m : Nat} (n : Nat) (x : BitVec m) (i : Nat) : BitVec 32 := x.extractLsb' (32 * (n - 1 - i)) 32

/-- The exclusive or of some rotations of a word. -/
def turns (rs : List Nat) (x : BitVec 32) : BitVec 32 := rs.foldl (fun acc r => acc ^^^ x.rotateRight r) 0

/-- The registers of a digest under way, from the first to the last, and the sixteen message words to come. -/
structure ShaRun where
  reg : Vector (BitVec 32) 8
  msg : Vector (BitVec 32) 16

/-- One round: the message moves on by a word, the registers by a place. -/
def ShaRun.round (x : ShaRun) (i : Nat) : ShaRun :=
  let r := x.reg
  let m := x.msg
  let pick := r[6] ^^^ (r[4] &&& (r[5] ^^^ r[6]))
  let most := (r[0] &&& r[1]) ||| (r[2] &&& (r[0] ||| r[1]))
  let mixed := r[7] + turns [6, 11, 25] r[4] + pick + shaPart 64 shaTable i + m[0]
  let fresh := m[0] + (turns [7, 18] m[1] ^^^ m[1] >>> 3) + m[9] + (turns [17, 19] m[14] ^^^ m[14] >>> 10)
  { reg := #v[mixed + turns [2, 13, 22] r[0] + most, r[0], r[1], r[2], r[3] + mixed, r[4], r[5], r[6]]
    msg := Vector.ofFn fun j => if h : j.val < 15 then m[j.val + 1] else fresh }

/-- SHA-256 of a message of at most 55 bytes: one block of 64 rounds. -/
def sha256 (msg : List Byte) : List Byte :=
  let block : BitVec 512 := BitVec.ofNat 512
    (leNat ((leBytes 8 (8 * msg.length)) ++ List.replicate (55 - msg.length) 0 ++ [0x80] ++ msg.reverse))
  let seed := Vector.ofFn fun (i : Fin 8) => shaPart 8 shaSeed i.val
  let start : ShaRun := ⟨seed, Vector.ofFn fun i => shaPart 16 block i.val⟩
  let last := (List.range 64).foldl ShaRun.round start
  (List.finRange 8).flatMap fun i => (leBytes 4 (seed[i] + last.reg[i]).toNat).reverse

/-! ### Descriptors and handles (R112, R113) -/

/-- The kinds of task queue (R111). -/
inductive TqKind where
  | fifo | deque | prio
  deriving DecidableEq, Repr

/-- A descriptor. -/
structure TqDesc where
  kind    : TqKind
  home    : Nat
  cap     : Nat
  area    : Word
  gen     : Nat
  secret  : List Byte
  victims : List Nat
  deriving DecidableEq, Repr

/-- The bytes of descriptor `x` of a context. -/
def tqBytes (s : State) (ctx x : Nat) : List Byte := readBytes s.mem ((s.ctxAt ctx).tqBase + 64 * x) 64

/-- The queue indices of a victim set, 0xFFFF ending it early. -/
def victimSet (bs : List Byte) : List Nat :=
  ((List.range 8).map fun i => fieldNat bs (0x20 + 2 * i) 2).takeWhile (· != 0xFFFF)

/-- Whether a descriptor's flags name a DEQUE in use. -/
def isDeque (bs : List Byte) : Bool := fieldNat bs 0 1 == 3

/-- A descriptor in use and well-formed (R113). -/
def tqDesc (s : State) (ctx x : Nat) : Option TqDesc :=
  let bs := tqBytes s ctx x
  let fl := fieldNat bs 0 1
  let kind := match fl with
    | 1 => some TqKind.fifo
    | 3 => some .deque
    | 5 => some .prio
    | _ => none
  let vs := if kind = some .deque then victimSet bs else []
  match kind with
  | none => none
  | some k =>
    if fieldNat bs 1 1 ≤ 11 ∧ fieldNat bs 4 4 ≤ 2 ^ 24 ∧ fieldNat bs 8 8 % 4096 = 0 ∧ zeroBytes bs 0x30 16
        ∧ vs.all (fun v => isDeque (tqBytes s ctx v)) then
      some ⟨k, fieldNat bs 1 1, fieldNat bs 4 4, fieldWord bs 8, fieldNat bs 2 2, fieldBytes bs 0x10 16, vs⟩
    else none

/-- The check code of a handle (R113). -/
def checkCode (d : TqDesc) (x rights : Nat) : Nat :=
  leNat ((sha256 (d.secret ++ leBytes 2 x ++ leBytes 2 d.gen ++ leBytes 1 rights)).take 5)

/-- The rights of a handle: enqueue, dequeue, steal. -/
abbrev rightEnq : Nat := 1
abbrev rightDeq : Nat := 2
abbrev rightSteal : Nat := 4

/-- The queue a handle names, if it grants the rights asked for (R112). -/
def openHandle (s : State) (ctx : Nat) (h : Word) (need : Nat) : Option (Nat × TqDesc) :=
  let rights := (h.extractLsb' 56 8 : BitVec 8).toNat
  let x := (h.extractLsb' 40 16 : BitVec 16).toNat
  match tqDesc s ctx x with
  | none => none
  | some d =>
    if rights < 8 ∧ checkCode d x rights = (h.extractLsb' 0 40 : BitVec 40).toNat ∧ rights &&& need = need then
      some (x, d)
    else none

/-! ### Entries -/

/-- The entries of a queue, oldest first, and setting them. -/
def tqGet (s : State) (ctx x : Nat) : List (BitVec 256) := Tbl.get [] (s.ctxAt ctx).tqs x
def tqPut (s : State) (ctx x : Nat) (es : List (BitVec 256)) : State :=
  let c := s.ctxAt ctx
  s.setCtx ctx { c with tqs := Tbl.put [] c.tqs x es }

/-- Entries of a queue that its home domain's controller keeps, the oldest ones; the others lie in its overflow area
(R111; which lie where is DESIGN CHOICE, log entry 29). -/
abbrev hardEntries : Nat := 256
/-- Task queues whose entries a controller keeps (R113). -/
abbrev heldQueues : Nat := 64

/-- Entries as the overflow area holds them. -/
def entryBytes (es : List (BitVec 256)) : List Byte := es.flatMap fun e => leBytes 32 e.toNat

/-- What a write to an overflow area comes to: the machine after it, or the virtual function whose dirty log has no room
for the dirty bits that it sets (R81). -/
abbrev AreaOut (α : Type) := Except (Nat × List Dirty) α

/-- The accesses of a queue's home controller, through the walker of its domain under the context (R113). -/
def whoQueue (ctx : Nat) (d : TqDesc) : Who := ⟨walkerHolder d.home, ctx, 0, false, none, false⟩

/-- Write to a queue's overflow area. Bytes whose page cannot be reached stay as they are (DESIGN CHOICE, log entry 29).
-/
def areaWrite (s : State) (ctx : Nat) (d : TqDesc) (off : Nat) (bs : List Byte) : AreaOut State :=
  if bs.isEmpty then .ok s
  else
    match pieces s (whoQueue ctx d) .write (d.area + BitVec.ofNat 64 off) bs.length with
    | (s, .error _) => .ok s
    | (s, .ok ps) =>
      match logShort s (spanDirty ps) with
      | some vf => .error (vf, spanDirty ps)
      | none => .ok (writePieces (setDirty s (spanDirty ps)) ps bs)

/-- The controller takes up a queue that a word names; the one it used least recently goes to its save space (R113). -/
def bringIn (s : State) (ctx x : Nat) (d : TqDesc) : AreaOut State :=
  let others := (s.domainAt d.home).queues.filter (· != (ctx, x))
  let put := match if others.length < heldQueues then none else others.getLast? with
    | some (c, y) =>
      match tqDesc s c y with
      | some e => areaWrite s c e 0 (entryBytes ((tqGet s c y).take hardEntries))
      | none => .ok s
    | none => .ok s
  put.map fun s => s.setDomain d.home { s.domainAt d.home with queues := ((ctx, x) :: others).take heldQueues }

/-- Set the entries of a queue; those beyond the controller's go to the overflow area, after its 8 KiB of save space
(R113). -/
def tqStore (s : State) (ctx x : Nat) (d : TqDesc) (es : List (BitVec 256)) : AreaOut State :=
  areaWrite (tqPut s ctx x es) ctx d 8192 (entryBytes (es.drop hardEntries))

/-- Entries a queue may hold (R113). -/
def TqDesc.room (d : TqDesc) (es : List (BitVec 256)) : Nat := hardEntries + d.cap - es.length

/-- The key of an entry of a PRIO queue (R111). -/
def entryKey (e : BitVec 256) : Nat := (e.extractLsb' 0 64 : BitVec 64).toNat

/-- The place of the lowest key, the oldest of equals. -/
def lowestKey (es : List (BitVec 256)) : Nat :=
  (es.zipIdx.foldl (fun (acc : Option (Nat × Nat)) x =>
    match acc with
    | none => some (entryKey x.1, x.2)
    | some (k, _) => if entryKey x.1 < k then some (entryKey x.1, x.2) else acc) none).map (·.2) |>.getD 0

/-- The entry QPOP takes, with the rest (R111). -/
def takeEntry (k : TqKind) (es : List (BitVec 256)) : Option (BitVec 256 × List (BitVec 256)) :=
  let i := match k with
    | .fifo => 0
    | .deque => es.length - 1
    | .prio => lowestKey es
  (es[i]?).map fun e => (e, es.eraseIdx i)

/-- Move the oldest half of a victim's entries, as far as the thief has room (R111, R114). -/
def stealFrom (s : State) (ctx victim thief : Nat) (dv d : TqDesc) : AreaOut (State × Nat) :=
  (bringIn s ctx victim dv).bind fun s =>
    let v := tqGet s ctx victim
    let m := min ((v.length + 1) / 2) (d.room (tqGet s ctx thief))
    (tqStore s ctx victim dv (v.drop m)).bind fun s =>
      (tqStore s ctx thief d (tqGet s ctx thief ++ v.take m)).map fun s => (s, m)

/-- The steal unit's probes (R114): the victims are drawn from the set, up to four. A victim with no
queue in use counts as empty (DESIGN CHOICE, log entry 84). -/
def probe (s : State) (core ctx thief : Nat) (d : TqDesc) : Nat → AreaOut (State × Nat)
  | 0 => .ok (s, 0)
  | n + 1 =>
    let c := s.coreAt core
    let v := d.victims.getD (Config.victimDraw core c.draws % d.victims.length) 0
    let s := s.setCore core { c with draws := c.draws + 1 }
    match tqDesc s ctx v with
    | none => probe s core ctx thief d n
    | some dv =>
      if (tqGet s ctx v).isEmpty then (bringIn s ctx v dv).bind fun s => probe s core ctx thief d n
      else stealFrom s ctx v thief dv d

/-! ### The words (R269) -/

/-- What the acting warp's word does with a queue once its overflow area is written; it parks where a dirty log has no
room (R81). -/
def AreaOut.andThen {α : Type} (x : AreaOut α) (s : State) (k : α → Did) : Did :=
  match x with
  | .ok y => k y
  | .error (vf, ds) => .stops (parkLog s vf ds)

/-- QPUSH. -/
def execQpush (k a b : SReg) : State → Out :=
  scalarWord .closing [a, b] fun s =>
    match loadAt s .read (s.sreg b) 32 with
    | (s', .error r) => .raises s' r
    | (s', .ok (_, bs)) =>
      let ctx := s'.myCtx
      match openHandle s' ctx (s.sreg a) rightEnq with
      | none => .raises s' (.plain cQUEUE_RIGHTS)
      | some (x, d) =>
        let es := tqGet s' ctx x
        (bringIn s' ctx x d).andThen s' fun t =>
          if d.room es = 0 then .done (t.setS k 1) none
          else
            (tqStore t ctx x d (es ++ [BitVec.ofNat 256 (leNat bs)])).andThen s' fun t => .done (t.setS k 0) none

/-- QPOP takes an entry, after a steal where AUTO finds its DEQUE empty: the machine after it, the entry, the
status (R114). -/
def popQueue (s : State) (ctx x : Nat) (d : TqDesc) (auto : Bool) : AreaOut (State × Option (BitVec 256) × Word) :=
  (bringIn s ctx x d).bind fun s =>
    match takeEntry d.kind (tqGet s ctx x) with
    | some (e, rest) => (tqStore s ctx x d rest).map fun s => (s, some e, 0)
    | none =>
      if auto && d.kind == .deque && !d.victims.isEmpty then
        (probe s (coreOf s.cur) ctx x d 4).bind fun (s, m) =>
          if m = 0 then .ok (s, none, 1)
          else
            match takeEntry d.kind (tqGet s ctx x) with
            | some (e, rest) => (tqStore s ctx x d rest).map fun s => (s, some e, 2)
            | none => .ok (s, none, 1)
      else .ok (s, none, 1)

/-- QPOP. -/
def execQpop (k a b : SReg) (auto : Bool) : State → Out :=
  scalarWord .closing [a, b] fun s =>
    match storeAt s (s.sreg b) 32 with
    | (s', .error r) => .raises s' r
    | (s', .ok p) =>
      let ctx := s'.myCtx
      match openHandle s' ctx (s.sreg a) (if auto then rightDeq + rightEnq else rightDeq) with
      | none => .raises s' (.plain cQUEUE_RIGHTS)
      | some (x, d) =>
        (popQueue s' ctx x d auto).andThen s' fun y =>
          match y with
          | (t, none, st) => .done (t.setS k st) none
          | (t, some e, st) =>
            match logShort t (storeDirty [(p, [])]) with
            | some vf => .stops (parkLog s' vf (storeDirty [(p, [])]))
            | none => .done ((performStores t [(p, leBytes 32 e.toNat)]).setS k st) none

/-- QSTEAL (R269). A thief handle that names no DEQUE raises QUEUE_RIGHTS, as a victim does (R111; DESIGN CHOICE, log
entry 106). -/
def execQsteal (k a b : SReg) : State → Out :=
  scalarWord .closing [a, b] fun s =>
    let ctx := s.myCtx
    match openHandle s ctx (s.sreg a) rightEnq, openHandle s ctx (s.sreg b) rightSteal with
    | some (t, dt), some (v, dv) =>
      if dt.kind = .deque ∧ dv.kind = .deque then
        AreaOut.andThen ((bringIn s ctx t dt).bind fun s => stealFrom s ctx v t dv dt) s fun y =>
          .done (y.1.setS k (BitVec.ofNat 64 y.2)) none
      else .raises s (.plain cQUEUE_RIGHTS)
    | _, _ => .raises s (.plain cQUEUE_RIGHTS)

/-- QRESET (R113, R298): the queue of the context with the identifier loses its entries, and its controller keeps it no
more. -/
def execQreset (value : Word) (s : State) : Out :=
  let x := (value.extractLsb' 0 16 : BitVec 16).toNat
  let id : BitVec 16 := value.extractLsb' 16 16
  let named := (s.ctxs.filter fun e => e.2.live && e.2.ctxid == id).map (·.1)
  let s := named.foldl (fun s c => tqPut s c x []) s
  let keep := fun (d : Domain) => { d with queues := d.queues.filter fun q => !(named.contains q.1 && q.2 == x) }
  .next { s with domains := s.domains.map fun e => (e.1, keep e.2) }

end Sys2Proof.Machine
end

