-- ==== Sys2Proof/Machine/Launch.lean ====
section
/-!
DEFINITION. Sys2Proof/Machine/Launch.lean: from record to core (R21 to R28): launch records (R110, R118 to R120),
the hardware launch queues (R109), LNCH and the launch engine (R29, R108, R264), the graph table (R22 to R24,
R126), the placement of gangs (R12, R27, R28), and the exit of blocks and the completion of grids (R25).
-/
namespace Sys2Proof.Machine

/-! ### Launch records (R118 to R120) -/

/-- A launch record's fields, whatever their values. -/
def recordFields (bs : List Byte) : LaunchRec where
  entry := fieldWord bs 0x00
  lcb := fieldWord bs 0x08
  args := fieldWord bs 0x10
  ctr := fieldWord bs 0x18
  blocks := fieldNat bs 0x20 4
  warps := fieldNat bs 0x24 1
  regs8 := fieldNat bs 0x25 1
  flags := BitVec.ofNat 16 (fieldNat bs 0x26 2)
  scratch := fieldNat bs 0x28 4
  gang := fieldNat bs 0x2C 1
  prio := fieldNat bs 0x2D 1
  cls := fieldNat bs 0x2E 1
  shapes := fieldWord bs 0x30
  handle := fieldWord bs 0x38
  fmts := Vector.ofFn fun i => fieldWord bs (0x40 + 8 * i.val)
  raw := bs

/-- Whether a handle's bits are as R119 asks. -/
def handleOk (h : Word) : Bool :=
  match handleKind h with
  | 0 => h == 0
  | 1 => (h.extractLsb' 16 46 : BitVec 46) == 0
  | 2 => (h.extractLsb' 56 6 : BitVec 6) == 0 && (h.extractLsb' 0 3 : BitVec 3) == 0
  | _ => false

/-- The faults of reason 8: alignment, reserved fields, flag bits, handle, format records (R118). -/
def recordForm (bs : List Byte) (r : LaunchRec) : Bool :=
  r.entry.toNat % 4 == 0 && r.lcb.toNat % 4 == 0 && r.ctr.toNat % 8 == 0 && r.shapes.toNat % 128 == 0
    && (r.flags.extractLsb' 6 10 : BitVec 10) == 0 && zeroBytes bs 0x2F 1 && handleOk r.handle
    && r.fmts.toList.all fmtOk

/-- A partition's size: whole granules of 1 KiB (R68). -/
def LaunchRec.granules (r : LaunchRec) : Nat := (r.scratch + 1023) / 1024 * 1024

/-- Main-file rows of one of the grid's blocks (R12). -/
def LaunchRec.rows (r : LaunchRec) : Nat := r.warps * (8 * r.regs8 + hvRows r)

/-- Enabled cores of a cluster, without those that are being fenced (R305). -/
def clusterCores (s : State) (u : Nat) : List Nat :=
  ((List.range Config.coresPerCluster).map (Config.coresPerCluster * u + ·)).filter fun c =>
    !s.removed.contains c && !s.fencing.contains c

/-- The clusters of the pool of a class (R299). -/
def poolClusters (s : State) (cls : Nat) : List Nat :=
  (List.range Config.numClusters).filter fun u => (s.domainAt (u / 4)).cls.toNat == cls

/-- Blocks of a grid that an empty core holds. -/
def emptyFit (r : LaunchRec) : Nat :=
  min (min Config.blockSlots (Config.warpSlots / r.warps))
    (min (Config.mainRows / r.rows) (if r.granules = 0 then Config.blockSlots else Config.scratchBytes / r.granules))

/-- Whether all blocks of a grid are resident at once in an empty pool, gang by gang (R28). -/
def fitsEmptyPool (s : State) (r : LaunchRec) : Bool :=
  let caps := (poolClusters s r.cls).map fun u => (clusterCores s u).length * emptyFit r
  let whole := (caps.map fun c => c / r.gang).sum
  let need := r.blocks / r.gang
  let rest := r.blocks % r.gang
  if rest = 0 then decide (need ≤ whole)
  else decide (need + 1 ≤ whole) || (decide (need ≤ whole) && caps.any fun c => decide (rest ≤ c % r.gang))

/-- The lowest reason for which a record is rejected (R110). -/
def rejectReason (s : State) (bs : List Byte) : Option Nat :=
  let r := recordFields bs
  if r.warps = 0 ∨ 32 < r.warps then some 1
  else if r.regs8 = 0 ∨ 32 < r.regs8 then some 2
  else if Config.scratchBytes < r.scratch then some 3
  else if r.gang = 0 ∨ 8 < r.gang then some 4
  else if 7 < r.prio then some 5
  else if 3 < r.cls then some 6
  else if r.blocks = 0 then some 7
  else if !recordForm bs r then some 8
  else if r.persist && !fitsEmptyPool s r then some 9
  else none

/-! ### Acceptance (R119) -/

/-- Accept a record: the grid joins the order of acceptance, by the cycle and its source. -/
def acceptGrid (s : State) (src : LaunchSrc) (ctx : Nat) (addr : Word) (bs : List Byte) : State :=
  let r := recordFields bs
  let g : Grid :=
    { src := src, ctx := ctx, addr := addr, record := r, next := 0, exited := 0, hints := []
      born := s.cycle, fresh := [], code := s.mem, done := false }
  { s with grids := s.grids ++ [g] }

/-- A number that names no grid. -/
def noGrid : Nat := 2 ^ 64

/-- Reject a record: bit 63 of its counter, if it names one (R110). -/
def rejectMark (s : State) (ctx : Nat) (addr : Word) (bs : List Byte) : State :=
  markCounter s ctx addr (recordFields bs).ctr 63 noGrid

/-! ### Hardware launch queues (R109) -/

def LaunchQ.ring (q : LaunchQ) : Option Nat :=
  let n := q.size.toNat
  if 16 ≤ n ∧ n ≤ 32768 ∧ 2 ^ Nat.log2 n = n then some n else none

def lqAt (s : State) (n : Nat) : LaunchQ := s.lqs.toList.getD n LaunchQ.reset
def setLq (s : State) (n : Nat) (q : LaunchQ) : State := { s with lqs := s.lqs.setIfInBounds n q }

/-- LAUNCH_QUEUE_TAIL_WRITE by the PF or the owner (R109, R298). While SIZE is invalid TAIL is kept as it is written
(DESIGN CHOICE, log entry 68). -/
def execLaunchQueueTailWrite (fn : Nat) (q : BitVec 4) (value : Word) (s : State) : Out :=
  let x := lqAt s q.toNat
  if fn ≠ 0 ∧ fn ≠ x.own.toNat then .next s
  else
    let t := (value.setWidth 16 : BitVec 16).toNat
    let t := match x.ring with
      | some n => t % n
      | none => t
    .next (setLq s q.toNat { x with tail := BitVec.ofNat 16 t })

/-- Read the record at the head of a queue (R21, R117). -/
def readQueue (s : State) (n : Nat) : Option State :=
  let q := lqAt s n
  match q.ring with
  | none => none
  | some size =>
    if q.en && decide (q.own.toNat ≤ 64) && q.head != q.tail && q.grid.isNone then
      let at_ := q.base.toNat / 128 * 128 + 128 * q.head.toNat
      let bs := readBytes s.mem at_ 128
      let q := { q with head := BitVec.ofNat 16 ((q.head.toNat + 1) % size) }
      match rejectReason s bs with
      | none =>
        let s' := acceptGrid s (.queue n) q.ctx (BitVec.ofNat 64 at_) bs
        some (setLq s' n { q with grid := some s.grids.length })
      | some why =>
        let s := rejectMark s q.ctx (BitVec.ofNat 64 at_) bs
        some (setLq s n { q with
          err := true, reason := BitVec.ofNat 8 why, rejix := (lqAt s n).head })
    else none

/-- LAUNCH_RECORD_READ. The records of device launches and graph nodes are read within DEVICE_LAUNCH_PASS and
within the decrement that makes a node ready. -/
def execLaunchRecordRead (src : LaunchSrc) (s : State) : Out :=
  enabledStep "LAUNCH_RECORD_READ" <|
    match src with
    | .queue n => if n < 16 then readQueue s n else none
    | .device _ | .node .. => none

/-! ### LNCH and the launch engine (R29, R108, R264) -/

/-- Whether a context's overflow ring holds a record from a core. -/
def ringHolds (c : Ctx) (core : Nat) : Bool := c.ring.any fun e => e.core == core

/-- LNCH. -/
def execLnch (k a : SReg) : State → Out :=
  scalarWord .closing [a] fun s =>
    let va := s.sreg a
    if va.toNat % 128 ≠ 0 then .raises s (.at cMISALIGN va)
    else
      match loadAt s .read va 128 with
      | (s', .error r) => .raises s' r
      | (s', .ok (_, bs)) =>
        let core := coreOf s'.cur
        let ctx := s'.myCtx
        let c := s'.ctxAt ctx
        if queueRoom s' core 3 && !ringHolds c core then
          .done ((pushCmd s' core 3 (newCmd s' (.lnch k a) (.lnch bs va) va 0 0 1 0)).setS k 0) none
        else if c.ring.length < 4096 then
          let s' := s'.setCtx ctx { c with ring := c.ring ++ [⟨core, va, bs, s'.seq⟩] }
          .done ({ s' with seq := s'.seq + 1 }.setS k 1) none
        else .done (s'.setS k 2) none

/-- Check a device launch and pass it to the distributor, or reject it (R110). -/
def passRecord (s : State) (core ctx : Nat) (addr : Word) (bs : List Byte) : State :=
  match rejectReason s bs with
  | none => acceptGrid s (.device core) ctx addr bs
  | some why => (rejectMark s ctx addr bs).log ctx (.rejected addr why)

/-- The oldest record from a core in the overflow rings, with its context: the launches of one core go in issue order
(R108). -/
def oldestRung (s : State) (core : Nat) : Option (Nat × RingRec) :=
  let all := s.ctxs.flatMap fun e => (e.2.ring.filter (·.core == core)).map fun x => (e.1, x)
  (sortByKey (fun x => x.2.seq) all).head?

/-- DEVICE_LAUNCH_PASS: the head of the pending-launch queue, else the oldest record in an overflow ring from the
core (R108). -/
def execDeviceLaunchPass (core : Nat) (s : State) : Out :=
  enabledStep "DEVICE_LAUNCH_PASS" <|
    match headCmd s core 3 with
    | some c =>
      match c.op with
      | .lnch bs addr =>
        if joinsOpen s core 3 c.seq then
          some (passRecord (dropHead s core 3) core (s.gridOf c.block).ctx addr bs)
        else none
      | _ => none
    | none =>
      match oldestRung s core with
      | none => none
      | some (ctx, e) =>
        if joinsOpen s core 3 e.seq then
          let c := s.ctxAt ctx
          some (passRecord (s.setCtx ctx { c with ring := c.ring.erase e }) core ctx e.addr e.bytes)
        else none

/-! ### The graph table (R22 to R24, R126) -/

/-- The physical address of a node's entry. -/
def nodeAt (s : State) (ctx n : Nat) : Nat := (s.ctxAt ctx).graph + 32 * n

/-- Set bits of a node's status byte. -/
def nodeStatus (s : State) (at_ : Nat) (bits : BitVec 8) : State :=
  { s with mem := writePhys s.mem (at_ + 0x0D) (readPhys s.mem (at_ + 0x0D) ||| bits) }

/-- A node's entry within its limits and valid (R126). -/
def nodeOk (bs : List Byte) : Bool :=
  let fl := fieldNat bs 0x0C 1
  fieldNat bs 0x00 8 % 128 == 0 && decide (fieldNat bs 0x0A 2 ≤ 1024) && (fl == 1 || fl == 3)
    && decide (fieldNat bs 0x0D 1 < 8)
    && zeroBytes bs 0x0E 2 && (if fl == 3 then fieldNat bs 0x10 8 % 4 == 0 else zeroBytes bs 0x10 8)
    && fieldNat bs 0x18 8 % 8 == 0

/-- The successors an entry names; none where the list cannot be read (DEDUCED, log entry 19). -/
def nodeSuccessors (s : State) (ctx : Nat) (bs : List Byte) : State × Option (List Nat) :=
  let n := fieldNat bs 0x0A 2
  if n = 0 then (s, some [])
  else
    match readSpan s (whoPart ctx) (fieldWord bs 0x18) (2 * n) with
    | (s, .ok l) => (s, some ((List.range n).map fun i => fieldNat l (2 * i) 2))
    | (s, .error _) => (s, none)

/-- A node whose counter has reached zero is ill-formed, or its record is rejected: status bit 2, the log, and bit
63 of the record's counter if the record could be read. -/
def nodeBad (s : State) (ctx n : Nat) (addr : Word) (rec_ : Option (List Byte)) : State :=
  let s := (nodeStatus s (nodeAt s ctx n) 4).log ctx (.node n)
  match rec_ with
  | some bs => rejectMark s ctx addr bs
  | none => s

/-- A node fires: its grid is launched, or a false predicate completes it at once. The record is read, and *fired* is
set, where the entry is valid (R126). The second part of the answer is the nodes its completion decrements. -/
def fireNode (s : State) (ctx n : Nat) : State × List Nat :=
  let at_ := nodeAt s ctx n
  let bs := readBytes s.mem at_ 32
  let addr := fieldWord bs 0
  let (s, rec_) := if (fieldNat bs 0x0C 1) % 2 = 0 then (s, none)
    else match readSpan s (whoPart ctx) addr 128 with
      | (s, .ok r) => (nodeStatus s at_ 1, some r)
      | (s, .error _) => (nodeStatus s at_ 1, none)
  if !nodeOk bs || at_ % 32 != 0 then (nodeBad s ctx n addr rec_, [])
  else
    match rec_ with
    | none => (nodeBad s ctx n addr none, [])
    | some r =>
      if (rejectReason s r).isSome then (nodeBad s ctx n addr (some r), [])
      else if fieldNat bs 0x0C 1 = 3 then
        match readSpan s (whoPart ctx) (fieldWord bs 0x10) 4 with
        | (s, .error _) => (nodeBad s ctx n addr (some r), [])
        | (s, .ok p) =>
          if leNat p ≠ 0 then (acceptGrid s (.node ctx n) ctx addr r, [])
          else
            match nodeSuccessors s ctx bs with
            | (s, some l) => (s, l)
            | (s, none) => (s.log ctx (.node n), [])
      else (acceptGrid s (.node ctx n) ctx addr r, [])

/-- Decrement a node's counter (R22): the machine after it and the nodes it decrements in turn. -/
def decrementNode (s : State) (ctx n : Nat) : State × List Nat :=
  let at_ := nodeAt s ctx n
  let v := leNat (readBytes s.mem (at_ + 0x08) 2)
  if v = 0 then (nodeStatus s at_ 2, [])
  else
    let s := { s with mem := writeBytes s.mem (at_ + 0x08) (leBytes 2 (v - 1)) }
    if v = 1 then fireNode s ctx n else (s, [])

/-- Apply decrements one after another (R22). A node fires once, so that 2^27 bounds their number. -/
def decrements (ctx : Nat) : Nat → List Nat → State → State
  | 0, _, s => s
  | _ + 1, [], s => s
  | fuel + 1, n :: r, s =>
    let (s, more) := decrementNode s ctx n
    decrements ctx fuel (r ++ more) s

/-- Deliver completion events. -/
def deliver (s : State) (ctx : Nat) (ns : List Nat) : State := decrements ctx (2 ^ 27) ns s

/-- LQSTART: a start event for a node of the context bound to the queue (R23, R109). -/
def execLqstart (fn : Nat) (q : BitVec 4) (value : Word) (s : State) : Out :=
  let x := lqAt s q.toNat
  if fn ≠ 0 ∧ fn ≠ x.own.toNat then .next s
  else .next (deliver s x.ctx [(value.setWidth 16 : BitVec 16).toNat])

/-! ### Placement (R12, R21, R26 to R28, R70, R299) -/

/-- Whether a self-test keeps a scratchpad bank of a core out of use (R305). -/
def bankTested (s : State) (core : Nat) : Bool :=
  s.testing.any fun u => match u with
    | .scratchBank c _ => c == core
    | _ => false

/-- Scratchpad bytes and block slots free on a core (R12). Every granule lies in all banks (R68), so that none is free
while a bank is tested. -/
def freeScratch (s : State) (core : Nat) : Nat :=
  if bankTested s core then 0
  else Config.scratchBytes - ((coreBlocks s core).map fun b => (s.blockAt b).size).sum
def freeBlock (s : State) (core : Nat) : Option Nat :=
  ((List.range Config.blockSlots).map (8 * core + ·)).find? fun b => !(s.blockAt b).live

/-- Whether a core has room for a block of a grid (R12). -/
def coreRoom (s : State) (core : Nat) (r : LaunchRec) : Bool :=
  (freeBlock s core).isSome && decide (r.warps ≤ freeWarps s core) && decide (r.rows ≤ freeRows s core)
    && decide (r.granules ≤ freeScratch s core)

/-- Whether a context may use a cluster's vault (R70). -/
def vaultOk (s : State) (u ctx : Nat) : Bool :=
  match (s.clusterAt u).owner with
  | none => true
  | some c => c == ctx

/-- A warp as its block starts (R48), under an identifier (R75). -/
def firstWarp (r : LaunchRec) (b wid : Nat) (id : BitVec 16) : Warp :=
  { Warp.absent with
    stat := .running, block := b, wid := wid, pc := r.entry, lcb := r.lcb, chk := r.flags.getLsbD 3
    orig := origOf wid, ctxid := id }

/-- Start the warps of a block in the lowest free slots, in ascending WID (R30). -/
def startWarps (r : LaunchRec) (b core : Nat) (id : BitVec 16) : Nat → Nat → State → State
  | 0, _, s => s
  | n + 1, wid, s =>
    match freeSlot s core with
    | some k => startWarps r b core id n (wid + 1) (startWarp s k (firstWarp r b wid id))
    | none => s

/-- Start block `idx` of a grid on a core with room. -/
def startBlock (s : State) (g idx core : Nat) : State :=
  let gr := s.gridAt g
  let r := gr.record
  match freeBlock s core with
  | none => s
  | some b =>
    let blk : Block :=
      { Block.absent with
        live := true, grid := g, idx := idx, nw := r.warps, size := r.granules, born := s.seq, lastMove := s.cycle }
    let s : State := { s.setBlock b blk with
      seq := s.seq + 1
      poison := s.poison.filter fun e => match e with
        | .scratch b' _ => b' != b
        | _ => true }
    let u := clusterOf core
    let s := if r.hv then
        let c := s.clusterAt u
        if c.owner == some gr.ctx then s else s.setCluster u { c with owner := some gr.ctx, vault := [] }
      else s
    startWarps r b core (s.ctxAt gr.ctx).ctxid r.warps 0 s

/-- Start blocks in one cluster, each on its lowest-numbered core with room; none where one does not fit (R27). -/
def startGang (g u : Nat) : List Nat → State → Option State
  | [], s => some s
  | idx :: rest, s =>
    match (clusterCores s u).find? fun c => coreRoom s c (s.gridAt g).record with
    | none => none
    | some c => startGang g u rest (startBlock s g idx c)

/-- The clusters a gang may go to, the most free warp slots first, then the lowest number (R27). -/
def clusterOrder (s : State) (ctx : Nat) (r : LaunchRec) : List Nat :=
  let us := (poolClusters s r.cls).filter fun u =>
    (s.domainAt (u / 4)).pend.isNone && (!r.hv || vaultOk s u ctx)
  let room := fun u => ((clusterCores s u).map (freeWarps s)).sum
  sortByKey (fun u => 8 * Config.warpSlots - room u) us

/-- Place blocks of a grid as one gang in one cluster. -/
def placeGang (s : State) (g : Nat) (idxs : List Nat) : Option State :=
  (clusterOrder s (s.gridAt g).ctx (s.gridAt g).record).findSome? fun u => startGang g u idxs s

/-- The next gang of a grid. -/
def nextGang (g : Grid) : List Nat :=
  (List.range (min g.record.gang (g.record.blocks - g.next))).map (g.next + ·)

/-- Place the next gang and count its blocks. -/
def placeNext (s : State) (g : Nat) : Option State :=
  let gr := s.gridAt g
  let idxs := nextGang gr
  (placeGang s g idxs).map fun s => s.setGrid g { s.gridAt g with next := gr.next + idxs.length }

/-- Whether every block yet to be placed fits now (R28). -/
def allFit (g : Nat) : Nat → State → Bool
  | 0, _ => true
  | fuel + 1, s =>
    if (s.gridAt g).record.blocks ≤ (s.gridAt g).next then true
    else
      match placeNext s g with
      | none => false
      | some s => allFit g fuel s

/-- Whether a grid's predecessor lets its blocks start (R26). A kind-2 handle's grid waits for the end of the cycle in
which it is accepted, since that cycle's other acceptances may go before it (R119). -/
def predReady (s : State) (g : Nat) : Bool :=
  let x := s.gridAt g
  (handleKind x.record.handle != 2 || decide (x.born < s.cycle)) &&
    match predOf s g with
    | none => true
    | some p =>
      let q := s.gridAt p
      q.done || (x.record.early && decide (q.record.blocks ≤ q.hints.length))

/-- Whether a context's blocks may be placed (R175). -/
def admitted (s : State) (ctx : Nat) : Bool := (s.ctxAt ctx).stage == .admitted

/-- Whether a saved block waits for no page (R171). -/
def Saved.eligible (x : Saved) : Bool :=
  x.warps.all fun e => match e.2.parked with
    | some (.page, _) => false
    | _ => true

/-- The lowest block of a grid that has not started (R32, R172). -/
def Grid.lowest (g : Grid) : Nat := g.fresh.headD g.next

/-- Whether a saved block of a grid is to be restored before an unstarted one is placed (R171): one that waits for no
page and has the lower index, as blocks start and are restored in ascending order (R32). A block that waits for a page
holds nothing back, and one that does not does so whatever the rest of its gang waits for (DESIGN CHOICE, log entry
102). -/
def savedFirst (s : State) (g : Nat) : Bool :=
  s.saved.any fun x => x.block.grid == g && x.eligible && decide (x.block.idx < (s.gridAt g).lowest)

/-- Whether a grid has a block to place. -/
def hasUnplaced (g : Grid) : Bool := !g.done && (!g.fresh.isEmpty || decide (g.next < g.record.blocks))

/-- Whether a grid is a head that the distributor may choose (R21, R299). -/
def headReady (s : State) (g : Nat) : Bool :=
  let gr := s.gridAt g
  hasUnplaced gr && admitted s gr.ctx && !(poolClusters s gr.record.cls).isEmpty && predReady s g

/-- Whether an earlier grid of the same core still has blocks to place (R108). -/
def behindCore (s : State) (g : Nat) : Bool :=
  match (s.gridAt g).src with
  | .device c => (s.grids.take g).any fun x => x.src == .device c && hasUnplaced x && x.next < x.record.blocks
  | .queue _ | .node .. => false

/-- The heads that the distributor may choose among. -/
def readyHeads (s : State) : List Nat :=
  (List.range s.grids.length).filter fun g => headReady s g && !behindCore s g

/-- The head that a fresh choice takes: the highest priority, then the source's order, then acceptance. -/
def freshHead (s : State) : Option Nat :=
  let key := fun g =>
    let gr := s.gridAt g
    (7 - gr.record.prio) * 2 ^ 20 + srcOrder gr.src
  (sortByKey key (readyHeads s)).head?

/-- The grid whose gang is placed next: the choice made before, which only a head of higher priority displaces, else a
fresh one (R21). -/
def chosenHead (s : State) : Option Nat :=
  match s.choice, freshHead s with
  | some g, some h =>
    if (readyHeads s).contains g ∧ (s.gridAt h).record.prio ≤ (s.gridAt g).record.prio then some g else some h
  | _, h => h

/-- A queue whose grid is wholly placed goes on to its next record (R21). -/
def releaseQueue (s : State) (g : Nat) : State :=
  let gr := s.gridAt g
  match gr.src with
  | .queue q =>
    if gr.record.blocks ≤ gr.next ∧ (lqAt s q).grid = some g then setLq s q { lqAt s q with grid := none } else s
  | .device _ | .node .. => s

/-- Place the next blocks of a chosen grid where they fit: a saved block is restored before (R171), and a block to start
again goes before the next gang (R172). -/
def placeChosen (s : State) (g : Nat) : Option State :=
  let gr := s.gridAt g
  if savedFirst s g then none
  else
    match gr.fresh with
    | idx :: rest => (placeGang s g [idx]).map fun s => s.setGrid g { s.gridAt g with fresh := rest }
    | [] =>
      if gr.record.persist && !allFit g (gr.record.blocks + 1) s then none
      else (placeNext s g).map fun s => releaseQueue s g

/-- The choice that stands after a gang of a grid has been placed: of a PERSIST grid until all of its blocks are
(R28). -/
def keptChoice (s : State) (g : Nat) : Option Nat :=
  let gr := s.gridAt g
  if gr.record.persist && hasUnplaced gr then some g else none

/-- GANG_PLACEMENT (R21, R27, R28): the chosen head's gang is placed; one that does not fit keeps the choice. -/
def execGangPlacement (s : State) : Out :=
  enabledStep "GANG_PLACEMENT" <|
    match chosenHead s with
    | none => none
    | some g =>
      match placeChosen s g with
      | some s => some { s with choice := keptChoice s g }
      | none => if s.choice = some g then none else some { s with choice := some g }

/-! ### Blocks end (R25, R69, R107, R172) -/

/-- The commands of a block in its core's queues. -/
def blockCmds (s : State) (b : Nat) : List Cmd := (s.coreAt (blockCore b)).cmds.filter fun c => c.block == b

/-- Whether a live block has ended: every warp has exited or it is killed, and its commands are complete. A record in an
overflow ring keeps no block from its end (DESIGN CHOICE, log entry 83). -/
def blockEnded (s : State) (b : Nat) : Bool :=
  let blk := s.blockAt b
  blk.live && (blk.killed || (blockWarps s b).isEmpty) && (blockCmds s b).isEmpty

/-- Free what a block holds (R12, R69). -/
def freeBlockState (s : State) (b : Nat) : State :=
  let gone := (blockWarps s b).map (·.1)
  let s := gone.foldl (fun s k => s.setWarp k Warp.absent) s
  let crews := (s.crews.filter fun e => e.2.live && gone.contains e.2.host).map (·.1)
  let s := crews.foldl (fun s c => s.setCrew c Crew.absent) s
  let s : State := { s with poison := s.poison.filter fun e => match e with
    | .crewRow c .. => !crews.contains c
    | _ => true }
  let c := s.coreAt (blockCore b)
  let s := s.setCore (blockCore b)
    { c with
      pages := c.pages.map fun e => if e.2.owner == some b then (e.1, { e.2 with owner := none }) else e
      relList := c.relList.filter (! gone.contains ·) }
  let s : State := { s with
    fns := s.fns.map fun e => (e.1, { e.2 with
      parked := e.2.parked.filter (! gone.contains ·), waking := e.2.waking.filter fun x => !gone.contains x.1 })
    toSave := s.toSave.filter (·.2 != b) }
  s.setBlock b Block.absent

/-- A block counts as exited (R25); a predecessor's block that has exited counts for EARLY (R26). -/
def countExit (s : State) (g idx : Nat) : State :=
  let gr := s.gridAt g
  s.setGrid g { gr with exited := gr.exited + 1, hints := execHintsucc.insertNew idx gr.hints }

/-- BLOCK_EXIT. -/
def execBlockExit (b : Nat) (s : State) : Out :=
  enabledStep "BLOCK_EXIT" <|
    let blk := s.blockAt b
    if blockEnded s b && !blk.relaunch then some (countExit (freeBlockState s b) blk.grid blk.idx) else none

/-- BLOCK_RELAUNCH: a block killed for ECC_SCRATCH starts again with its index once its started commands are
complete (R172). -/
def execBlockRelaunch (b : Nat) (s : State) : Out :=
  enabledStep "BLOCK_RELAUNCH" <|
    let blk := s.blockAt b
    if blockEnded s b && blk.relaunch then
      let s := freeBlockState s b
      let gr := s.gridAt blk.grid
      some (s.setGrid blk.grid { gr with fresh := insertAsc blk.idx gr.fresh })
    else none

/-! ### Grids complete (R25) -/

/-- Steps 3 and 4 of R25: completion events to the successors of a kind-1 handle's node, then the grids that name
this one may start. The entry's own checks are not made, and a count above 1024 names 1024 (DESIGN CHOICE, log entry
79). -/
def finishGrid (s : State) (g : Nat) : State :=
  let gr := s.gridAt g
  let s := s.setGrid g { gr with done := true }
  if handleKind gr.record.handle = 1 then
    let n := (gr.record.handle.setWidth 16 : BitVec 16).toNat
    match nodeSuccessors s gr.ctx (readBytes s.mem (nodeAt s gr.ctx n) 32) with
    | (s, some l) => deliver s gr.ctx (l.take 1024)
    | (s, none) => s.log gr.ctx (.node n)
  else s

/-- The increment of R25 and what follows it. -/
def completeGrid (s : State) (g : Nat) : State :=
  let gr := s.gridAt g
  let ctr := gr.record.ctr
  if ctr = 0 then finishGrid s g
  else
    if pendOn s gr.ctx ctr then pendCounter s ⟨gr.ctx, gr.addr, ctr, none, g, false⟩
    else
      match counterUpdate s (whoPart gr.ctx) ctr none with
      | .done s => finishGrid s g
      | .page s second => pendCounter s ⟨gr.ctx, gr.addr, ctr, none, g, second⟩
      | .failed s c => finishGrid (s.log gr.ctx (.counter gr.addr c)) g

/-- GRID_COMPLETION: once every block has exited and no update of the counter is outstanding. -/
def execGridCompletion (g : Nat) (s : State) : Out :=
  enabledStep "GRID_COMPLETION" <|
    let gr := s.gridAt g
    if !gr.done && decide (gr.record.blocks ≤ gr.exited) && !s.pend.any (fun p => p.grid == g) then
      some (completeGrid s g)
    else none

end Sys2Proof.Machine
end

