-- ==== Sys2Proof/Machine/Save.lean ====
section
/-!
DEFINITION. Sys2Proof/Machine/Save.lean: context frames (R173, R174): saving a gang and restoring it; swap-outs
(R171, R283), pre-emption (R175), the release of a context (R70, R128) and class changes (R299). The frame's bytes
are written as R173 lays them out; a restore reads the warps, the partition, B pages, barriers and windows back from them,
and takes what the layout does not hold from `State.saved` (DESIGN CHOICE, log entry 21).
-/
namespace Sys2Proof.Machine

/-! ### The frame pool (R173) -/

/-- The part's own supervisor accesses for a context. -/
def whoFrame (ctx : Nat) : Who := ⟨controlHolder, ctx, 0, true, none, false⟩

/-- A context's frame pool: frame size, frame count, bitmap. -/
structure Pool where
  size  : Nat
  count : Nat
  used  : Nat

/-- Read a context's frame pool; none where it cannot be read or its head is out of limits. The reserved field at 0x0C
is ignored (DESIGN CHOICE, log entry 77). -/
def framePool (s : State) (ctx : Nat) : State × Option Pool :=
  match readSpan s (whoFrame ctx) (s.ctxAt ctx).frb 0x210 with
  | (s, .error _) => (s, none)
  | (s, .ok bs) =>
    let p : Pool := ⟨fieldNat bs 0 8, fieldNat bs 8 4, fieldNat bs 0x10 512⟩
    (s, if p.size % 4096 = 0 ∧ p.count ≤ 4096 then some p else none)

/-- The lowest free frame. -/
def Pool.free (p : Pool) : Option Nat := (List.range p.count).find? fun i => !p.used.testBit i

/-- The address of a frame. -/
def frameAt (frb : Word) (p : Pool) (i : Nat) : Word := frb + BitVec.ofNat 64 (0x0180_1000 + i * p.size)

/-- Write bytes for the part; none where they cannot be written. -/
def partWrite (s : State) (ctx : Nat) (va : Word) (bs : List Byte) : Option State :=
  match writeSpan s (whoFrame ctx) va bs with
  | (s, .ok ()) => some s
  | (_, .error _) => none

/-- Write the bitmap's byte that holds a frame's bit. -/
def markFrame (s : State) (ctx : Nat) (p : Pool) (i : Nat) (used : Bool) : Option State :=
  let byte := p.used / 2 ^ (i / 8 * 8) % 256
  let byte := if used then byte ||| 2 ^ (i % 8) else byte - byte % 2 ^ (i % 8 + 1) + byte % 2 ^ (i % 8)
  partWrite s ctx ((s.ctxAt ctx).frb + BitVec.ofNat 64 (0x10 + i / 8)) (leBytes 1 byte)

/-! ### The image of a frame (R173) -/

def zeros (n : Nat) : List Byte := List.replicate n 0
/-- A row of 128 bytes. -/
def rowBytes (v : Lanes) : List Byte := v.toList.flatMap fun x => leBytes 4 x.toNat
/-- A list cut or filled with zeros to a length. -/
def padTo (n : Nat) (bs : List Byte) : List Byte := (bs ++ zeros (n - bs.length)).take n

/-- Groups of host rows in use: those taken by writes, and the window of the last crew (R51). -/
def hostGroups (w : Warp) : List Nat :=
  (List.range 224).filter fun g =>
    w.groups.contains g || (w.stroke.isNone && w.hosts.isNone && decide (8 * g < w.win.toNat))

/-- The resumption a warp that is saved resumes by. -/
def currentRec (w : Warp) : TrapRec :=
  match w.parked with
  | some (_, r) => r
  | none => { trapRec w ⟨.plain 0, false, w.pc, w.pc, false, [], false⟩ 0 with replay := false }

/-- The 96 hypervector rows of a warp (R56). -/
def hvImage (w : Warp) : List Byte :=
  (w.h.toList.flatMap fun x => leBytes 512 x.toNat) ++ w.k.toList.flatMap fun x => leBytes 4096 x.toNat

/-- A dispatch entry (96 bytes). -/
def Dispatch.image (d : Dispatch) : List Byte :=
  leBytes 8 d.addr.toNat ++ leBytes 8 (d.rm.toNat + 256 * d.chk.toNat)
    ++ (d.ab.toList.flatMap fun x => leBytes 8 x.toNat) ++ zeros 16

/-- A stream's state (32 bytes): next entry, count, address, strides. The widths are DESIGN CHOICE (log entry
21). -/
def Dq.image (q : Dq) : List Byte :=
  match q.stream with
  | none => zeros 32
  | some x => leBytes 4 x.next ++ leBytes 4 x.count ++ leBytes 8 x.base.toNat ++ leBytes 8 x.laneStride.toNat
      ++ leBytes 8 x.entryStride.toNat

/-- Bits as a number, the first lowest. -/
def bitsNat (bs : List Bool) : Nat := bs.foldr (fun b n => b.toNat + 2 * n) 0

/-- A warp area; `area` holds the trap save area of a warp in its handler, `p` its private names. -/
def warpImage (w : Warp) (area : List Byte) (p : Nat) (hv : Bool) : List Byte :=
  List.flatten [
    padTo 1024 (trapBytes w (currentRec w) w.parked.isSome w.sup), padTo 1024 area,
    leBytes 4 w.exm.toNat, leBytes 1 w.ltile.toNat, leBytes 1 w.chk.toNat, zeros 2, leBytes 4 w.fcsr.toNat, zeros 4,
    [w.lcb, w.rgn, w.cause.setWidth 64, w.epc, w.iret, w.iter].flatMap fun x => leBytes 8 x.toNat,
    w.ab.toList.flatMap fun x => leBytes 8 x.toNat,
    padTo 384 (w.dispatch.flatMap Dispatch.image),
    padTo 64 ((w.p.toList.drop 1).flatMap fun x => leBytes 4 x.toNat),
    w.dq.toList.flatMap Dq.image,
    w.dq.toList.map fun q => BitVec.ofNat 8 q.entries.length,
    [BitVec.ofNat 8 w.xq.length, BitVec.ofNat 8 w.bq.length, BitVec.ofNat 8 w.held.length, 0],
    leBytes 4 (bitsNat w.bq), zeros 20,
    padTo 32 (leBytes 28 ((hostGroups w).foldl (fun n g => n + 2 ^ g) 0)),
    padTo 256 (w.xq.flatMap fun x => leBytes 8 x.toNat),
    w.dq.toList.flatMap fun q => padTo 1024 (q.entries.flatMap fun e => rowBytes e.val),
    w.o.toList.flatMap rowBytes, rowBytes w.l0, rowBytes w.l1,
    padTo 512 (w.held.flatMap fun e => rowBytes e.2.val),
    padTo 2056 (leBytes 8 w.async.length ++ w.async.flatMap fun e => leBytes 1 e.1.toNat ++ (zeros 7 ++ leBytes 8 e.2.toNat)),
    zeros 1272,
    (List.range p).flatMap fun i => rowBytes (Tbl.get zeroLanes w.v i),
    (hostGroups w).flatMap fun g => (List.range 8).flatMap fun i => rowBytes (Tbl.get zeroLanes w.host (8 * g + i)),
    if hv then hvImage w else []]

/-- Bytes of a crew's presence masks in its area. -/
def maskBytes (c : Crew) : Nat := (4 * c.record.w + 127) / 128 * 128

/-- A crew area: the record, the counts of R136, the presence masks, the window. -/
def crewImage (c : Crew) : List Byte :=
  padTo 64 c.record.raw
    ++ ([c.next, c.oldest, c.commit, c.record.f - c.tout.length].flatMap fun n => leBytes 8 n)
    ++ padTo (maskBytes c)
        ((List.range c.record.w).flatMap fun j => leBytes 4 (Tbl.get 0 c.pres j).toNat)
    ++ (List.range c.record.w).flatMap fun j => rowBytes (Tbl.get zeroLanes c.slots j)

/-- An engine command that has not started (64 bytes). -/
def Cmd.image (q : BitVec 2) (c : Cmd) : List Byte :=
  leBytes 1 q.toNat ++ leBytes 1 (c.warp % 64) ++ zeros 2 ++ leBytes 4 c.word.toNat
    ++ ([c.pc, c.a, c.b, c.k].flatMap fun x => leBytes 8 x.toNat) ++ zeros 24

/-- A barrier (16 bytes). -/
def Barrier.image (x : Barrier) : List Byte :=
  leBytes 8 (x.expected.toNat + 256 * x.arrived.toNat + 65536 * x.broken.toNat + 2 ^ 32 * x.phase.toNat)
    ++ leBytes 8 (BitVec.ofInt 64 x.bytes).toNat

/-- A B page (8 KiB). -/
def BPage.image (p : BPage) : List Byte := (List.range 512).flatMap fun i => leBytes 16 (Tbl.get 0 p.rows i).toNat

/-- Private names of a saved warp (R35, R50). -/
def Saved.names (x : Saved) (r : LaunchRec) (w : Warp) : Nat :=
  match w.stroke with
  | none => 8 * r.regs8
  | some (c, _) => 8 * (((x.crews.find? fun e => e.1 == c).map fun e => e.2.record.regs8).getD 0)

/-- Bytes of a warp area, of a crew area. -/
def Saved.areaSize (x : Saved) (r : LaunchRec) (w : Warp) : Nat :=
  0x3000 + 128 * (x.names r w + 8 * (hostGroups w).length + hvRows r)
def crewSize (c : Crew) : Nat := 96 + maskBytes c + 128 * c.record.w

/-- Where the parts of a frame begin: warp areas, scratchpad image, B pages, crew areas; and where its areas end. -/
def Saved.partAt (x : Saved) (r : LaunchRec) : Nat := 512 + (x.warps.map fun e => x.areaSize r e.2).sum
def Saved.pagesAt (x : Saved) (r : LaunchRec) : Nat := x.partAt r + x.block.size
def Saved.crewsAt (x : Saved) (r : LaunchRec) : Nat := x.pagesAt r + 8192 * x.pages.length
def Saved.areasEnd (x : Saved) (r : LaunchRec) : Nat := x.crewsAt r + (x.crews.map fun e => crewSize e.2).sum

/-- The image of a frame. `areas` holds the trap save areas of its warps. -/
def frameImage (x : Saved) (r : LaunchRec) (ctxid : BitVec 16) (gen : BitVec 8) (now : Nat) (areas : List (List Byte)) :
    List Byte :=
  let ws := (x.warps.zip areas).flatMap fun (e, a) => warpImage e.2 a (x.names r e.2) r.hv
  let scr := Tbl.range 0 x.block.scratch 0 x.block.size
  let pgs := x.pages.flatMap fun e => e.2.image
  let crs := x.crews.flatMap fun e => crewImage e.2
  let cms := x.cmds.flatMap fun e => e.2.image e.1
  List.flatten [
    leBytes 4 1, leBytes 1 x.warps.length, leBytes 1 (r.hv.toNat + 2 * (!x.crews.isEmpty).toNat + 4 * x.stall.toNat),
    zeros 2, leBytes 4 x.block.idx, leBytes 4 (ctxid.toNat + 65536 * gen.toNat),
    leBytes 8 (x.pages.foldl (fun n e => n + 2 ^ e.1) 0), leBytes 8 now,
    [512, x.partAt r, x.pagesAt r, if x.crews.isEmpty then 0 else x.crewsAt r, x.areasEnd r].flatMap fun n => leBytes 4 n,
    leBytes 2 x.cmds.length, zeros 74, padTo 128 r.raw, x.block.bars.toList.flatMap Barrier.image,
    ws, scr, pgs, crs, cms]

/-! ### Saving (R47, R62, R69, R107, R171, R174) -/

/-- Crews of the warps of a block. -/
def blockCrews (s : State) (b : Nat) : List (Nat × Crew) :=
  s.crews.filter fun e => e.2.live && (s.warpAt e.2.host).block == b && e.1 / 64 == blockCore b
    && (s.warpAt e.2.host).stat != .absent

/-- The warps of a block in the frame's order: host warps by WID, then strokes by number. -/
def frameOrder (ws : List (Nat × Warp)) : List (Nat × Warp) :=
  let key := fun (w : Warp) => match w.stroke with
    | none => w.wid
    | some (_, k) => 64 + k
  sortByKey (fun e => key e.2) ws

/-- Whether a site of an error lies in a block, its warps, its crews or its B pages. -/
def siteOf (b : Nat) (ws crews pages : List Nat) (e : EccSite) : Bool :=
  match e with
  | .sreg k _ | .lreg k _ _ => ws.contains k
  | .crewRow c .. => crews.contains c
  | .scratch b' _ => b' == b
  | .bpage core p => core == blockCore b && pages.contains p
  | .line _ | .vault .. | .tlb _ | .slice .. | .storeBuf .. | .specBuf .. | .clusterTlb _ | .portTlb _
  | .walker _ => false

/-- What a save keeps of a warp: a barrier released and not yet woken has opened (R33, R135), and lane blocks whose
words have all issued are complete, their results having landed (R62). The cycles of a REGROUP's wait run on (R20;
DESIGN CHOICE, log entry 92). -/
def Warp.atSave (w : Warp) : Warp :=
  let w := { w with dispatch := w.dispatch.filter (! ·.issued), fault := none, laneFault := none, reads := [], waitFrom := none }
  match w.wait with
  | .released sync => { w with wait := .passed sync }
  | _ => w

/-- The commands of a block with their queues. -/
def queuedCmds (s : State) (b : Nat) : List (BitVec 2 × Cmd) :=
  (List.range 4).flatMap fun q =>
    (((s.coreAt (blockCore b)).queue q).filter fun c => c.block == b).map fun c => (BitVec.ofNat 2 q, c)

/-- An unstarted command as it is reissued on restore: it will read its descriptors again (R97, R107). -/
def Cmd.reissued (c : Cmd) : Cmd := { c with copies := [], pageVa := none, drawn := [], home := none }

/-- Whether a block may be saved now: live, not killed, not at its end, its started commands complete. -/
def savable (s : State) (b : Nat) : Bool :=
  (s.blockAt b).live && !(s.blockAt b).killed && !blockEnded s b && !(blockCmds s b).any (·.started)

/-- The part lets a block come to rest: uncommitted strokes are cancelled, results land. -/
def settleBlock (s : State) (b : Nat) : State :=
  let s := (blockCrews s b).foldl (fun s e =>
    if e.2.record.breakable then cancelFrom s e.1 e.2.commit else s) s
  (blockWarps s b).foldl (fun s e => landAll s e.1) s

/-- What is kept of a block that has come to rest, and of the joins that its commands stand behind. Those of other
blocks that stay on the core are waited for no more where it is restored (DESIGN CHOICE, log entry 105). -/
def takeBlock (s : State) (stall : Bool) (b frame : Nat) : Saved :=
  let ws := frameOrder (blockWarps s b)
  let core := s.coreAt (blockCore b)
  let pages := core.pages.filter fun e => e.2.owner == some b
  { ctx := (s.gridOf b).ctx
    frame := frame
    cluster := clusterOf (blockCore b)
    stall := stall
    block := s.blockAt b
    warps := ws.map fun e => (e.1, e.2.atSave)
    crews := blockCrews s b
    cmds := (queuedCmds s b).map fun e => (e.1, e.2.reissued)
    joins := core.joins.filter fun j => (queuedCmds s b).any fun e => j.1.getLsbD e.1.toNat && decide (e.2.seq < j.2)
    pages := pages
    sites := s.poison.filter (siteOf b (ws.map (·.1)) ((blockCrews s b).map (·.1)) (pages.map (·.1))) }

/-- Take a saved block off its core. A join there waits for its unstarted commands no more (DESIGN CHOICE, log entry
105). -/
def removeBlock (s : State) (b : Nat) (x : Saved) : State :=
  let core := s.coreAt (blockCore b)
  let s := s.setCore (blockCore b) (core.dropCmds fun c => c.block == b)
  let s := freeBlockState s b
  { s with poison := s.poison.filter fun e => !x.sites.contains e }

/-- Save one block to the lowest free frame of its context; none where it is not saved. -/
def saveBlock (stall : Bool) (b : Nat) (s : State) : Option State :=
  if !savable s b then none
  else
    let s := settleBlock s b
    let ctx := (s.gridOf b).ctx
    match framePool s ctx with
    | (_, none) => none
    | (s, some p) =>
      match p.free with
      | none => none
      | some i =>
        let x := takeBlock s stall b i
        let c := s.ctxAt ctx
        let areas := x.warps.map fun e =>
          match e.2.sup, e.2.trap with
          | true, some r =>
            match readSpan s (whoFrame ctx) r.area 1024 with
            | (_, .ok bs) => bs
            | (_, .error _) => zeros 1024
          | _, _ => zeros 1024
        let img := frameImage x (s.gridOf b).record c.ctxid (Tbl.get 0 s.gens c.ctxid.toNat) s.cycle areas
        if p.size < img.length then none
        else
          match partWrite s ctx (frameAt c.frb p i) img with
          | none => none
          | some s =>
            match markFrame s ctx p i true with
            | none => none
            | some s => some (removeBlock { s with saved := s.saved ++ [x] } b x)

/-- Save blocks, all or none. -/
def saveBlocks (stall : Bool) : List Nat → State → Option State
  | [], s => some s
  | b :: r, s =>
    match saveBlock stall b s with
    | none => none
    | some s => saveBlocks stall r s

/-- The live blocks of a gang of a grid, by rising index. -/
def gangOf (s : State) (g gang : Nat) : List Nat :=
  let bs := s.blocks.filter fun e => e.2.live && e.2.grid == g && e.2.idx / (s.gridAt g).record.gang == gang
  (sortByKey (fun e => e.2.idx) bs).map (·.1)

/-- Save a gang: its blocks are saved together (R64). -/
def saveGang (s : State) (stall : Bool) (g gang : Nat) : Option State := saveBlocks stall (gangOf s g gang) s

/-- The gangs with resident blocks for which a test of the block's number holds. -/
def residentGangs (s : State) (f : Nat → Bool) : List (Nat × Nat) :=
  ((s.blocks.filter fun e => e.2.live && f e.1).map fun e => (e.2.grid, gangIx s e.1)).eraseDups

/-- Save every gang of a list that can be saved now; whether any was. -/
def saveGangs (s : State) (gs : List (Nat × Nat)) : State × Bool :=
  gs.foldl (fun st x =>
    match saveGang st.1 false x.1 x.2 with
    | some s => (s, true)
    | none => st) (s, false)

/-! ### Restoring (R47, R69, R171, R174, R284) -/

/-- Change the place a warp number or a crew number names, by a list of old and new numbers. -/
def rekey (m : List (Nat × Nat)) (k : Nat) : Nat := (m.lookup k).getD k

/-- Main-file rows a saved block needs (R12). -/
def Saved.rows (x : Saved) (r : LaunchRec) : Nat :=
  let hosts := (x.warps.map fun e => if e.2.stroke.isSome then 0
    else 8 * e.2.groups.length + if e.2.hosts.isSome then 0 else e.2.win.toNat).sum
  let crews := (x.crews.map fun e =>
    e.2.record.w + e.2.strokes.length * (8 * e.2.record.regs8 + hvRows r)).sum
  x.block.nw * (8 * r.regs8 + hvRows r) - x.block.donors * hvRows r + hosts + crews

/-- Warp slots a saved block needs. -/
def Saved.slots (x : Saved) : Nat := x.block.nw + (x.crews.map fun e => e.2.strokes.length).sum

/-- Whether a core's queues have entries for a saved block's commands (R106). -/
def savedQueues (s : State) (core : Nat) (x : Saved) : Bool :=
  (List.range 4).all fun q =>
    let held := ((s.coreAt core).queue q).filter fun c => !c.emul
    let back := x.cmds.filter fun e => e.1.toNat == q && !e.2.emul
    decide (held.length + back.length ≤ queueCap q)

/-- Whether a core has room for a saved block, the same page numbers free and none of them under a self-test (R12, R69,
R106, R305). -/
def savedRoom (s : State) (core : Nat) (x : Saved) : Bool :=
  let r := (s.gridAt x.block.grid).record
  let pages := (s.coreAt core).pages
  let crews := (List.range 64).filter fun n => !(s.crewAt (64 * core + n)).live
  (freeBlock s core).isSome && decide (x.slots ≤ freeWarps s core) && decide (x.rows r ≤ freeRows s core)
    && decide (x.block.size ≤ freeScratch s core) && decide (x.crews.length ≤ crews.length)
    && savedQueues s core x
    && x.pages.all fun e => (Tbl.get BPage.reset pages e.1).owner.isNone && !pageFenced s core e.1
      && !s.testing.contains (.bpage core e.1)

/-- The new numbers of keyed items, from a list of free numbers in rising order. -/
def renumber {α : Type} (xs : List (Nat × α)) (free : List Nat) : List (Nat × Nat) := (xs.map (·.1)).zip free

/-- A warp under its new numbers and its context's identifier (R62). -/
def Warp.moveTo (w : Warp) (b : Nat) (id : BitVec 16) (area : Word) (crews : List (Nat × Nat)) : Warp :=
  { w with
    block := b
    ctxid := id
    stroke := w.stroke.map fun x => (rekey crews x.1, x.2)
    hosts := w.hosts.map (rekey crews)
    parked := w.parked.map fun x => (x.1, { x.2 with area := area }) }

/-- A site of an error under new numbers. -/
def moveSite (b : Nat) (warps crews : List (Nat × Nat)) (e : EccSite) : EccSite :=
  match e with
  | .crewRow c j m => .crewRow (rekey crews c) j m
  | .sreg k r => .sreg (rekey warps k) r
  | .lreg k r m => .lreg (rekey warps k) r m
  | .scratch _ off => .scratch b off
  | .bpage _ p => .bpage (blockCore b) p
  | e => e

/-- Put a saved command back: its numbers change, and its place among the joins is kept. -/
def moveCmd (c : Cmd) (b base : Nat) (warps : List (Nat × Nat)) : Cmd :=
  { c with warp := rekey warps c.warp, block := b, seq := base + c.seq }

/-- What a warp that was parked at its save comes to in its new slot: it parks again, or its wait has ended meanwhile
and it resumes, or it enters the handler of the cause its page was declined with (R166, R169, R171). The trap save
area of a trap that is still to be served or handled is written for the new slot. -/
def returnParked (ctx k : Nat) (kind : ParkKind) (r : TrapRec) (s : State) : State :=
  let area := fun (w : Warp) => (partWrite s ctx r.area (trapBytes w r true w.sup)).getD s
  let w := s.warpAt k
  match kind with
  | .page | .format => area w
  | .dirtyLog vf => s.setFn vf { s.fnAt vf with parked := (s.fnAt vf).parked ++ [k], drains := true }
  | .served => s.setWarp k (w.resumeBy r false)
  | .denied c => enterHandler ((area w).setWarp k (w.withCause c)) k r c

/-- The warps come back, each to its slot. -/
def restoreWarps (ctx b : Nat) (frb : Word) (crews warps : List (Nat × Nat)) : List (Nat × Warp) → State → State
  | [], s => s
  | (old, w) :: r, s =>
    let k := rekey warps old
    let w := w.moveTo b (s.ctxAt ctx).ctxid (trapArea frb k) crews
    let s := s.setWarp k w
    let s := match w.parked with
      | some (kind, rec_) => returnParked ctx k kind rec_ s
      | none => s
    restoreWarps ctx b frb crews warps r s

/-- The trap save area of a warp in its handler is written back where the handler knows it (DEDUCED, log entry
22). -/
def restoreArea (s : State) (x : Saved) (img : List Byte) (i : Nat) (w : Warp) : State :=
  match w.sup, w.trap with
  | true, some r => (partWrite s x.ctx r.area (fieldBytes img i 1024)).getD s
  | _, _ => s

/-- A row of 128 bytes as a vector register. -/
def rowAt (bs : List Byte) (at_ : Nat) : Lanes :=
  mkLanes fun i => BitVec.ofNat 32 (fieldNat bs (at_ + 4 * i.val) 4)

/-- A table of rows that lie one after another. -/
def rowsAt (bs : List Byte) (at_ : Nat) (keys : List Nat) : Tbl Lanes :=
  keys.zipIdx.foldl (fun t (k, i) => Tbl.put zeroLanes t k (rowAt bs (at_ + 128 * i))) []

/-- A warp with its registers as a warp area holds them (R62, R173). -/
def Warp.regsFrom (w : Warp) (p : Nat) (hv : Bool) (bs : List Byte) : Warp :=
  let groups := hostGroups w
  let hosts := 0x3000 + 128 * p
  let hvAt := hosts + 1024 * groups.length
  { w with
    s := Vector.ofFn fun i => if i.val = 0 then 0 else fieldWord bs (8 * i.val)
    exm := BitVec.ofNat 32 (fieldNat bs 0x800 4)
    ltile := BitVec.ofNat 3 (fieldNat bs 0x804 1)
    chk := fieldNat bs 0x805 1 % 2 == 1
    fcsr := BitVec.ofNat 12 (fieldNat bs 0x808 4) &&& 0xFF7
    lcb := fieldWord bs 0x810
    rgn := fieldWord bs 0x818
    cause := BitVec.ofNat 9 (fieldNat bs 0x820 8)
    epc := fieldWord bs 0x828
    iret := fieldWord bs 0x830
    iter := fieldWord bs 0x838
    ab := Vector.ofFn fun i => fieldWord bs (0x840 + 8 * i.val)
    p := Vector.ofFn fun i => if i.val = 0 then w.p[i] else BitVec.ofNat 32 (fieldNat bs (0xA00 + 4 * (i.val - 1)) 4)
    o := Vector.ofFn fun i => rowAt bs (0x1C00 + 128 * i.val)
    l0 := rowAt bs 0x2000
    l1 := rowAt bs 0x2080
    v := rowsAt bs 0x3000 (List.range p)
    host := rowsAt bs hosts (groups.flatMap fun g => (List.range 8).map (8 * g + ·))
    h := if hv then Vector.ofFn fun i => BitVec.ofNat 4096 (fieldNat bs (hvAt + 512 * i.val) 512) else w.h
    k := if hv then Vector.ofFn fun i => BitVec.ofNat 32768 (fieldNat bs (hvAt + 4096 + 4096 * i.val) 4096) else w.k }

/-- Rows that lie one after another as queue entries; a mark of an entry is no part of its row. -/
def entriesAt (bs : List Byte) (at_ n : Nat) (old : List DqEntry) : List DqEntry :=
  (List.range n).map fun j => ⟨rowAt bs (at_ + 128 * j), (old[j]?).bind (·.fault)⟩

/-- The held pops of a warp area; the dq each came from is no part of its row. -/
def heldAt (bs : List Byte) (n : Nat) (old : List (Nat × DqEntry)) : List (Nat × DqEntry) :=
  (entriesAt bs 0x2100 n (old.map (·.2))).zipIdx.map fun (x, j) => ((old[j]?).elim 0 (·.1), x)

/-- A stream from its 32 bytes; its size and sign are no part of them. -/
def Stream.fromBytes (x : Stream) (bs : List Byte) : Stream :=
  { x with next := fieldNat bs 0 4, count := fieldNat bs 4 4, base := fieldWord bs 8, laneStride := fieldWord bs 16
           entryStride := fieldWord bs 24 }

/-- A dispatched lane block from its 96 bytes. -/
def Dispatch.fromBytes (d : Dispatch) (bs : List Byte) : Dispatch :=
  { d with addr := fieldWord bs 0, rm := BitVec.ofNat 3 (fieldNat bs 8 1), chk := fieldNat bs 9 1 % 2 == 1
           ab := Vector.ofFn fun i => fieldWord bs (16 + 8 * i.val) }

/-- A warp with its resume address, queues, dispatch list and pending causes as a warp area holds them (R105, R173). -/
def Warp.queuesFrom (w : Warp) (bs : List Byte) : Warp :=
  let count := fun i most => min most (fieldNat bs (0xAC0 + i) 1)
  { w with
    pc := if w.parked.isNone then fieldWord bs 0x200 else w.pc
    parked := w.parked.map fun x => (x.1, { x.2 with resume := fieldWord bs 0x200 })
    dispatch := w.dispatch.zipIdx.map fun (d, i) => d.fromBytes (fieldBytes bs (0x880 + 96 * i) 96)
    dq := Vector.ofFn fun q =>
      ⟨entriesAt bs (0xC00 + 1024 * q.val) (count q.val 8) w.dq[q].entries,
        w.dq[q].stream.map fun x => x.fromBytes (fieldBytes bs (0xA40 + 32 * q.val) 32)⟩
    xq := (List.range (count 4 32)).map fun i => fieldWord bs (0xB00 + 8 * i)
    bq := (List.range (count 5 32)).map fun i => (fieldNat bs 0xAC8 4).testBit i
    held := heldAt bs (count 6 4) w.held
    async := (List.range (min 128 (fieldNat bs 0x2300 8))).map fun i =>
      (BitVec.ofNat 8 (fieldNat bs (0x2308 + 16 * i) 1), fieldWord bs (0x2310 + 16 * i)) }

/-- A warp as its area holds it. -/
def Warp.fromArea (w : Warp) (p : Nat) (hv : Bool) (bs : List Byte) : Warp := (w.regsFrom p hv bs).queuesFrom bs

/-- A barrier from its 16 bytes (R133). -/
def Barrier.fromBytes (bs : List Byte) : Barrier :=
  let x := fieldWord bs 0
  ⟨x.setWidth 7, x.extractLsb' 8 8, (fieldWord bs 8).toInt, x.extractLsb' 32 16, x.getLsbD 16⟩

/-- A crew with its window and presence masks as a crew area holds them (R47). -/
def Crew.fromArea (c : Crew) (bs : List Byte) : Crew :=
  { c with
    pres := (List.range c.record.w).foldl (fun t j => Tbl.put 0 t j (BitVec.ofNat 32 (fieldNat bs (96 + 4 * j) 4))) []
    slots := rowsAt bs (96 + maskBytes c) (List.range c.record.w) }

/-- Items with what a frame holds of each, their parts lying one after another. -/
def fromParts {α : Type} (size : α → Nat) (f : α → List Byte → α) : List (Nat × α) → List Byte → List (Nat × α)
  | [], _ => []
  | (k, x) :: r, bs => (k, f x (bs.take (size x))) :: fromParts size f r (bs.drop (size x))

/-- A saved block with what its frame's bytes hold (R62, R68, R69, R133, R173). -/
def Saved.fromFrame (x : Saved) (r : LaunchRec) (bs : List Byte) : Saved :=
  let part := fieldBytes bs (x.partAt r) x.block.size
  { x with
    block := { x.block with
      scratch := Tbl.putAll 0 [] 0 part
      bars := Vector.ofFn fun i => Barrier.fromBytes (fieldBytes bs (0x100 + 16 * i.val) 16) }
    warps := fromParts (x.areaSize r) (fun w a => w.fromArea (x.names r w) r.hv a) x.warps (bs.drop 512)
    pages := fromParts (fun _ => 8192) (fun (p : BPage) a =>
      { p with rows := (List.range 512).foldl (fun t i => Tbl.put 0 t i (BitVec.ofNat 128 (fieldNat a (16 * i) 16))) [] })
      x.pages (bs.drop (x.pagesAt r))
    crews := fromParts crewSize Crew.fromArea x.crews (bs.drop (x.crewsAt r)) }

/-- Restore a saved block on a core with room. The errors its storage held come back with it, and those of what stood
before in the storage it takes are gone (R61, R82). -/
def restoreBlock (x : Saved) (core : Nat) (s : State) : State :=
  match freeBlock s core with
  | none => s
  | some b =>
    let frb := (s.ctxAt x.ctx).frb
    let slots := ((List.range Config.warpSlots).map (64 * core + ·)).filter fun k => (s.warpAt k).stat == .absent
    let nums := ((List.range 64).map (64 * core + ·)).filter fun c => !(s.crewAt c).live
    let warps := renumber x.warps slots
    let crews := renumber x.crews nums
    let base := s.seq
    let here := siteOf b (warps.map (·.2)) (crews.map (·.2)) (x.pages.map (·.1))
    let s : State := { s with
      seq := s.seq + s.seq + 1
      poison := s.poison.filter (! here ·) ++ x.sites.map (moveSite b warps crews) }
    let s := s.setBlock b { x.block with born := base, lastMove := s.cycle }
    let s := x.crews.foldl (fun s e =>
      s.setCrew (rekey crews e.1) { e.2 with
        host := rekey warps e.2.host
        strokes := e.2.strokes.map fun k => { k with warp := rekey warps k.warp } }) s
    let c := s.coreAt core
    let c := x.cmds.foldl (fun c e =>
      c.setQueue e.1.toNat (c.queue e.1.toNat ++ [moveCmd e.2 b base warps])) c
    let c := { c with
      joins := c.joins ++ x.joins.map fun j => (j.1, base + j.2)
      pages := x.pages.foldl (fun t e => Tbl.set t e.1 { e.2 with owner := some b }) c.pages }
    let s := s.setCore core c
    let s := if (s.gridAt x.block.grid).record.hv then
        s.setCluster (clusterOf core) { s.clusterAt (clusterOf core) with owner := some x.ctx }
      else s
    restoreWarps x.ctx b frb crews warps x.warps s

/-- Restore the saved blocks of a gang in one cluster, each on its lowest-numbered core with room (R27). -/
def restoreIn (u : Nat) : List Saved → State → Option State
  | [], s => some s
  | x :: r, s =>
    match (clusterCores s u).find? fun c => savedRoom s c x with
    | none => none
    | some c => restoreIn u r (restoreBlock x c s)

/-- Restore the saved blocks of an HV gang, each in the cluster from which it was saved, whose vault no other context
has taken meanwhile (R70, R284). -/
def restoreBound : List Saved → State → Option State
  | [], s => some s
  | x :: r, s =>
    if vaultOk s x.cluster x.ctx then (restoreIn x.cluster [x] s).bind (restoreBound r) else none

/-- Restore saved blocks of a gang in a cluster with room for them, HV blocks each in its own (R27, R284, R299). -/
def restoreSaved (s : State) (x : Saved) (gang : List Saved) : Option State :=
  let r := (s.gridAt x.block.grid).record
  if r.hv then restoreBound gang s else (clusterOrder s x.ctx r).findSome? fun u => restoreIn u gang s

/-- The saved blocks of the gang of a saved block, by rising index. -/
def savedGang (s : State) (x : Saved) : List Saved :=
  let n := (s.gridAt x.block.grid).record.gang
  sortByKey (fun y => y.block.idx) (s.saved.filter fun y => y.block.grid == x.block.grid && y.block.idx / n == x.block.idx / n)

/-- Whether a block of the grid with a lower index is to go first (R32): a saved one of another gang, or one to start
again, where a cluster may take it. -/
def lowerFirst (s : State) (x : Saved) : Bool :=
  let gang := savedGang s x
  let gr := s.gridAt x.block.grid
  (s.saved.any fun y => y.block.grid == x.block.grid && y.eligible && !gang.contains y
      && decide (y.block.idx < x.block.idx))
    || (gr.fresh.any (fun i => decide (i < x.block.idx)) && !(clusterOrder s gr.ctx gr.record).isEmpty)

/-- Free a frame and forget its block. -/
def freeFrame (s : State) (x : Saved) : Option State :=
  match framePool s x.ctx with
  | (_, none) => none
  | (s, some p) => (markFrame s x.ctx p x.frame false).map fun s => { s with saved := s.saved.erase x }

/-- Free the frames of a gang. -/
def freeFrames : List Saved → State → Option State
  | [], s => some s
  | x :: r, s =>
    match freeFrame s x with
    | none => none
    | some s => freeFrames r s

/-- The frame of a saved block carries the context's identifier and generation (R174); none where it cannot be
read. -/
def headerAgrees (s : State) (x : Saved) : Option Bool :=
  let c := s.ctxAt x.ctx
  match framePool s x.ctx with
  | (_, none) => none
  | (s, some p) =>
    match readSpan s (whoFrame x.ctx) (frameAt c.frb p x.frame) 16 with
    | (_, .error _) => none
    | (_, .ok bs) =>
      some (fieldNat bs 0x0C 3 == c.ctxid.toNat + 65536 * (Tbl.get 0 s.gens c.ctxid.toNat).toNat)

/-- A frame of another identifier or generation: freed, its block counted as killed (R130, R174). The frame's
cause and address are none. -/
def killSaved (s : State) (x : Saved) : Option State :=
  (freeFrame s x).map fun s =>
    let g := x.block.grid
    let gr := s.gridAt g
    let s := s.log gr.ctx (.kill 0 0 x.block.idx none)
    countExit (markCounter s gr.ctx gr.addr gr.record.ctr 62 g) g x.block.idx

/-- Whether the frames of a gang all carry the context's identifier and generation. -/
def gangAgrees (s : State) (gang : List Saved) : Bool := gang.all fun y => headerAgrees s y == some true

/-- Write back the trap save areas that a frame's bytes hold. -/
def restoreAreas (s : State) (x : Saved) (bs : List Byte) : State :=
  let r := (s.gridAt x.block.grid).record
  (x.warps.foldl (fun (st : State × Nat) e =>
    (restoreArea st.1 x bs (st.2 + 0x400) e.2, st.2 + x.areaSize r e.2)) (s, 512)).1

/-- The bytes of the frames of saved blocks; none where one cannot be read. -/
def readFrames (p : Pool) : List Saved → State → State × Option (List (Saved × List Byte))
  | [], s => (s, some [])
  | x :: r, s =>
    let at_ := frameAt (s.ctxAt x.ctx).frb p x.frame
    match readSpan s (whoFrame x.ctx) at_ (x.areasEnd (s.gridAt x.block.grid).record) with
    | (s, .error _) => (s, none)
    | (s, .ok bs) =>
      match readFrames p r s with
      | (s, none) => (s, none)
      | (s, some rest) => (s, some ((x, bs) :: rest))

/-- The gang of a saved block with what its frames hold; none where a frame cannot be read. -/
def gangFrames (s : State) (x : Saved) : State × Option (List (Saved × List Byte)) :=
  match framePool s x.ctx with
  | (s, none) => (s, none)
  | (s, some p) => readFrames p (savedGang s x) s

/-- Put a gang whose frames have been read where it has room. -/
def putGang (s : State) (x : Saved) (frames : List (Saved × List Byte)) : Option State :=
  restoreSaved s x (frames.map fun (y, bs) => y.fromFrame (s.gridAt y.block.grid).record bs)

/-- Restore the gang of a saved block, where every condition holds. -/
def restoreGang (s : State) (x : Saved) : Option State :=
  match gangFrames s x with
  | (_, none) => none
  | (s, some frames) =>
    (putGang s x frames).bind fun t =>
      freeFrames (savedGang s x) (frames.foldl (fun s (y, bs) => restoreAreas s y bs) t)

/-- Whether a cluster takes blocks of a grid, as far as its class, its domain's class change and its vault go (R70,
R299). -/
def someCluster (s : State) (g : Nat) : Bool := !(clusterOrder s (s.gridAt g).ctx (s.gridAt g).record).isEmpty

/-- The same of a saved gang, whose HV blocks go each to its own (R284). -/
def savedCluster (s : State) (x : Saved) : Bool :=
  if (s.gridAt x.block.grid).record.hv then (savedGang s x).all fun y => vaultOk s y.cluster y.ctx
  else someCluster s x.block.grid

/-- Whether the pool has no room for a saved gang that could be restored otherwise (R283). -/
def noRoomFor (s : State) (x : Saved) : Bool :=
  match gangFrames s x with
  | (_, none) => false
  | (s, some frames) => savedCluster s x && (putGang s x frames).isNone

/-- A saved block of a context by its frame. -/
def savedAt (s : State) (ctx frame : Nat) : Option Saved := s.saved.find? fun x => x.ctx == ctx && x.frame == frame

/-- BLOCK_RESTORE (R32, R171, R174): a saved gang of an admitted context, none of whose blocks waits for a page, is
restored before any higher one of its grid. A frame of another identifier or generation goes by itself. -/
def execBlockRestore (ctx frame : Nat) (s : State) : Out :=
  enabledStep "BLOCK_RESTORE" <|
    match savedAt s ctx frame with
    | none => none
    | some x =>
      if !admitted s ctx || lowerFirst s x || !(savedGang s x).all Saved.eligible then none
      else
        match (savedGang s x).find? fun y => headerAgrees s y == some false with
        | some y => killSaved s y
        | none => if gangAgrees s (savedGang s x) then restoreGang s x else none

/-! ### Swap-outs -/

/-- Whether a block has stalled for 2000 cycles: a warp is parked, and none has issued or has been ready to (R171). -/
def stalled (s : State) (b : Nat) : Bool :=
  (blockWarps s b).any (fun e => e.2.stat == .running && e.2.parked.isSome)
    && decide ((s.blockAt b).lastMove + Config.stallCycles ≤ s.cycle)

/-- STALL_SWAP_OUT (R171). The room is reused by the placements and restores that follow. -/
def execStallSwapOut (g gang : Nat) (s : State) : Out :=
  enabledStep "STALL_SWAP_OUT" <|
    let bs := gangOf s g gang
    if bs.isEmpty || !bs.all (stalled s) then none else saveGang s true g gang

/-- Whether a warp's next S-word is WAITV, or CWAIT with the yield option (R32). -/
def atYieldWait (s : State) (k : Nat) : Bool :=
  match peekScalar s k with
  | some (.waitv ..) | some (.cwait _ _ true) => true
  | _ => false

/-- Whether a block is swappable: every unexited warp has waited 2000 cycles in WAITV or in CWAIT with the yield
option (R32, R283). -/
def swappable (s : State) (b : Nat) : Bool :=
  let ws := (blockWarps s b).filter fun e => e.2.stat == .running
  !ws.isEmpty && ws.all fun e =>
    e.2.parked.isNone && atYieldWait s e.1 && e.2.waitFrom.any fun t => decide (t + Config.stallCycles ≤ s.cycle)

/-- The lowest block of a grid that has not started, where none of the saved ones goes before it: its index, whether the
pool has no room for it where it may be placed otherwise, and how it is admitted. -/
def lowestNew (s : State) (g : Nat) : Option (Nat × Bool × (State → Option State)) :=
  let gr := s.gridAt g
  if savedFirst s g || !hasUnplaced gr || !predReady s g || (poolClusters s gr.record.cls).isEmpty then none
  else
    match gr.fresh with
    | idx :: rest =>
      some (idx, someCluster s g && (placeGang s g [idx]).isNone,
        fun s => (placeGang s g [idx]).map fun s => s.setGrid g { s.gridAt g with fresh := rest })
    | [] => some (gr.next, someCluster s g && (placeNext s g).isNone, fun s => (placeNext s g).map fun s => releaseQueue s g)

/-- The lowest saved block of a grid that may be restored, no lower one going before it (R32), in the same way. -/
def lowestSaved (s : State) (g : Nat) : Option (Nat × Bool × (State → Option State)) :=
  let cands := s.saved.filter fun x => x.block.grid == g && (savedGang s x).all Saved.eligible
    && !lowerFirst s x && gangAgrees s (savedGang s x)
  ((sortByKey (fun x => x.block.idx) cands).head?).map fun x =>
    (x.block.idx, noRoomFor s x, fun s => restoreGang s x)

/-- The lowest block of a grid that is ready to be admitted, of both kinds (R32, R283). -/
def lowerBlock (s : State) (g : Nat) : Option (Nat × Bool × (State → Option State)) :=
  match lowestNew s g with
  | some x => some x
  | none => lowestSaved s g

/-- The swappable resident block of a grid of highest index, above an index. -/
def swapVictim (s : State) (g low : Nat) : Option Nat :=
  let bs := s.blocks.filter fun e => e.2.live && e.2.grid == g && decide (low < e.2.idx) && swappable s e.1
  ((sortByKey (fun e => e.2.idx) bs).map (·.1)).getLast?

/-- WAITING_BLOCK_SWAP (R283): the victim's gang is saved, and the lower block placed if it now has room. -/
def execWaitingBlockSwap (g : Nat) (s : State) : Out :=
  enabledStep "WAITING_BLOCK_SWAP" <|
    if !admitted s (s.gridAt g).ctx then none
    else
      match lowerBlock s g with
      | none => none
      | some (low, full, place) =>
        if !full then none
        else
          match swapVictim s g low with
          | none => none
          | some b => (saveGang s false g (gangIx s b)).map fun s => (place s).getD s

/-! ### Pre-emption (R175) -/

/-- Whether a resident block belongs to a context. -/
def ofCtx (s : State) (ctx : Nat) (b : Nat) : Bool := (s.gridOf b).ctx == ctx

/-- PREEMPTION_REQUEST: the drain stage begins. -/
def execPreemptionRequest (ctx : Nat) (s : State) : Out :=
  enabledStep "PREEMPTION_REQUEST" <|
    let c := s.ctxAt ctx
    if c.stage = .admitted then some (s.setCtx ctx { c with stage := .drain s.cycle }) else none

/-- PREEMPTION_SAVE: from the grace time on, every resident gang of the context that can be saved is. One that waits
for its started commands runs on (DESIGN CHOICE, log entry 42). -/
def execPreemptionSave (ctx : Nat) (s : State) : Out :=
  enabledStep "PREEMPTION_SAVE" <|
    let c := s.ctxAt ctx
    match c.stage with
    | .drain t =>
      if t + c.grace ≤ s.cycle then
        let s := (saveGangs s (residentGangs s (ofCtx s ctx))).1
        some (s.setCtx ctx { s.ctxAt ctx with stage := .saved t })
      else none
    | .saved _ =>
      match saveGangs s (residentGangs s (ofCtx s ctx)) with
      | (s, true) => some s
      | (_, false) => none
    | .admitted | .reset => none

/-- The live blocks of a context. -/
def ctxBlocks (s : State) (ctx : Nat) : List Nat := (s.blocks.filter fun e => e.2.live && ofCtx s ctx e.1).map (·.1)

/-- Discard a block with its commands. -/
def discardBlock (s : State) (b : Nat) : State :=
  let core := s.coreAt (blockCore b)
  freeBlockState (s.setCore (blockCore b) (core.dropCmds fun c => c.block == b)) b

/-- Mark an uncompleted grid of a reset context: bit 62, and every block exited. -/
def resetGrid (ctx : Nat) (s : State) (g : Nat) : State :=
  let gr := s.gridAt g
  if gr.ctx == ctx && !gr.done then
    let s := markCounter s ctx gr.addr gr.record.ctr 62 g
    let gr := s.gridAt g
    releaseQueue (s.setGrid g { gr with next := gr.record.blocks, exited := gr.record.blocks, fresh := [] }) g
  else s

/-- CONTEXT_RESET: by the part at the deadline, a block being still resident; by firmware, of a context that is not
admitted and has none (R299). The grids then complete by R25, and no frame of the context is restored. The frames of
blocks saved already stay taken, and records of an overflow ring stay in it (DESIGN CHOICE, log entry 109). -/
def execContextReset (ctx : Nat) (s : State) : Out :=
  enabledStep "CONTEXT_RESET" <|
    let c := s.ctxAt ctx
    let due := match c.stage with
      | .drain t | .saved t => (ctxBlocks s ctx).isEmpty || decide (t + c.deadline ≤ s.cycle)
      | .admitted | .reset => false
    if !due then none
    else
      let s := (ctxBlocks s ctx).foldl discardBlock s
      let s := (List.range s.grids.length).foldl (resetGrid ctx) s
      let s : State := { s with saved := s.saved.filter fun x => x.ctx != ctx }
      some (s.setCtx ctx { s.ctxAt ctx with stage := .reset })

/-- CONTEXT_READMISSION (R175). -/
def execContextReadmission (ctx : Nat) (s : State) : Out :=
  enabledStep "CONTEXT_READMISSION" <|
    let c := s.ctxAt ctx
    if c.stage = .admitted then none
    else some (s.setCtx ctx { c with stage := .admitted })

/-- CONTEXT_RELEASE: the context's vaults become free with every entry invalid, its region directory empty (R70,
R128); after a reset, once every grid of the context has completed (R175). -/
def execContextRelease (ctx : Nat) (s : State) : Out :=
  enabledStep "CONTEXT_RELEASE" <|
    if (s.ctxAt ctx).stage = .reset ∧ s.grids.any fun g => g.ctx == ctx && !g.done then none
    else
      let free := fun (c : Cluster) => if c.owner == some ctx then { c with owner := none, vault := [] } else c
      let s : State := { s with clusters := s.clusters.map fun e => (e.1, free e.2) }
      some (s.setCtx ctx { s.ctxAt ctx with dir := [] })

/-! ### Class changes (R299) -/

/-- Whether a block is resident in a domain. -/
def inDomain (d b : Nat) : Bool := domainOf (blockCore b) == d

/-- The blocks of a domain that a class change saves. -/
def classSaves (s : State) (d b : Nat) : Bool := inDomain d b && !(s.gridOf b).record.hv

/-- CLASS_CHANGE: a write of DPOOL.CLASS. A second write replaces the pending value; a write of the class in force
changes nothing. -/
def execClassChange (d : Nat) (cls : BitVec 2) (s : State) : Out :=
  let x := s.domainAt d
  if x.pend.isNone && x.cls == cls then .next s
  else
    let s := s.setDomain d { x with pend := some cls }
    .next (saveGangs s (residentGangs s (classSaves s d))).1

/-- Whether a saved HV block is bound to a cluster of a domain (R284). -/
def bound (s : State) (d : Nat) : Bool :=
  s.saved.any fun x => x.cluster / 4 == d && (s.gridAt x.block.grid).record.hv

/-- CLASS_CHANGE_EFFECT: gangs that could not be saved at the write are saved as soon as they can be; the new class
takes effect once no block is resident or bound. -/
def execClassChangeEffect (d : Nat) (s : State) : Out :=
  enabledStep "CLASS_CHANGE_EFFECT" <|
    let x := s.domainAt d
    match x.pend with
    | none => none
    | some cls =>
      if s.blocks.any (fun e => e.2.live && inDomain d e.1) then
        match saveGangs s (residentGangs s (classSaves s d)) with
        | (s, true) => some s
        | (_, false) => none
      else if bound s d then none
      else some (s.setDomain d { x with cls := cls, pend := none })

end Sys2Proof.Machine
end

