-- ==== Sys2Proof/Machine/Firmware.lean ====
section
/-!
DEFINITION. Sys2Proof/Machine/Firmware.lean: the steps of a warp's lane blocks (R14, R39), asynchronous trap entry
(R162, R167), and what control-core firmware does for a warp, a command or a counter that waits: faults (R74, R78,
R169), format emulation (R170), peers that do not answer (R301), the dirty log (R81, R116), the write-back scan
(R80).
-/
namespace Sys2Proof.Machine

/-! ### Lane blocks -/

/-- LANE_BLOCK_COMPLETION: the oldest dispatched block, once all its words have issued and none of their results is
still to be written (R14). -/
def execLaneBlockCompletion (k : Nat) (s : State) : Out :=
  enabledStep "LANE_BLOCK_COMPLETION" <|
    let w := s.warpAt k
    match w.dispatch with
    | [] => none
    | d :: rest =>
      if d.issued && !w.inflight.any (fun p => p.block == d.seq) then some (s.setWarp k { w with dispatch := rest })
      else none

/-- The window slot a write goes to. -/
def LWrite.slot (x : LWrite) : Option Nat :=
  match x with
  | .vec (.slot j) _ _ => some j
  | _ => none

/-- The first due write to a window slot with none before it to the same slot: its place in the list and its slot
(R39, R52). -/
def dueSlot (now : Nat) : List Pending → List Nat → Nat → Option (Nat × Nat)
  | [], _, _ => none
  | p :: r, seen, i =>
    let slots := p.writes.filterMap LWrite.slot
    match if p.landAt ≤ now then slots.find? (! seen.contains ·) else none with
    | some j => some (i, j)
    | none => dueSlot now r (seen ++ slots) (i + 1)

/-- A due write to a window slot lands before results issued earlier that are still to come. -/
def landSlot (s : State) (k i j : Nat) : State :=
  let p := (s.warpAt k).inflight.getD i ⟨0, 0, false, [], .none, 0⟩
  let mine := p.writes.filter fun x => x.slot == some j
  let s := mine.foldl (fun s x => landWrite s k x) s
  let w := s.warpAt k
  let p := { p with writes := p.writes.filter fun x => x.slot != some j }
  s.setWarp k { w with inflight := w.inflight.set i p }

/-- WRITE_LANDS (R39, R52): the oldest result in flight is taken into the registers once its latency has passed; a
due result for a window slot sets its presence at once. -/
def execWriteLands (k : Nat) (s : State) : Out :=
  enabledStep "WRITE_LANDS" <|
    let w := s.warpAt k
    match w.inflight with
    | [] => none
    | p :: rest =>
      if p.landAt ≤ s.cycle then
        let s := landPending s k p
        some (s.setWarp k { s.warpAt k with inflight := rest })
      else (dueSlot s.cycle w.inflight [] 0).map fun x => landSlot s k x.1 x.2

/-- Whether a cause that a word of a warp has raised, and that no stroke holds any more, stands at least as high as an
asynchronous one (R162). -/
def syncFirst (s : State) (w : Warp) (c : Cause) : Bool :=
  let held := (uncommitted s w).isSome
  (w.fault.any fun x => !(x.held && held) && decide (priority x.cause ≤ priority c))
    || (!held && w.laneFault.any fun x => decide (priority x.cause ≤ priority c))

/-- Whether a warp's oldest asynchronous cause goes before its next word. -/
def asyncFirst (s : State) (w : Warp) : Bool :=
  match w.async with
  | [] => false
  | (c, _) :: _ => !w.sup && !syncFirst s w c

/-- TRAP_ENTRY: a warp takes its oldest asynchronous cause before its next word, also out of a wait (R162, R252), once
the page walks of the entry are paid for (R140). Synchronous causes are taken within the words that raise them, or
once what they wait for is there. -/
def execTrapEntry (k : Nat) (s : State) : Out :=
  enabledStep "TRAP_ENTRY" <|
    let w := s.warpAt k
    match w.async with
    | [] => none
    | (c, a) :: rest =>
      if w.stat == .running && asyncFirst s w && w.parked.isNone && !(s.blockAt w.block).stopped then
        let s := { s with asked := [] }
        match takeTrap (s.setWarp k { w with async := rest }) k ⟨.plain c, false, a, w.pc, true, [], false⟩ with
        | none => none
        | some t =>
          match paidStep s t k with
          | some t => some t
          | none => drawAhead s t k
      else none

/-! ### Serving pages (R78, R169) -/

/-- The pointers among some entries that replace a large leaf by a table, and those in the tables they point to (R73).
-/
def splinters (s s' : State) (vf : Nat) (es : List (Nat × BitVec 64)) : Nat → List (Nat × BitVec 64)
  | 0 =>
    es.filter fun e =>
      let old := readEntry s.mem e.1
      old.getLsbD 0 && old.getLsbD 1 && e.2.getLsbD 0 && !e.2.getLsbD 1
  | n + 1 =>
    let found := splinters s s' vf es n
    found ++ es.filter fun e => e.2.getLsbD 0 && !e.2.getLsbD 1 && !found.contains e && inTables s' vf found e.1
where
  /-- Whether a physical address lies in a table that one of some pointers names. -/
  inTables (s' : State) (vf : Nat) (ps : List (Nat × BitVec 64)) (pa : Nat) : Bool :=
    let s2 := ((s'.fnAt vf).s2ptb.extractLsb' 0 52 : BitVec 52).toNat
    ps.any fun p => match guestTable s'.mem s2 (pteAddr p.2) with
      | .ok t => decide (t ≤ pa) && decide (pa < t + 16384)
      | .error _ => false

/-- The charge for the entries that firmware writes to serve an address, in 16 KiB units: one page for each table that
replaces a large leaf, whose leaves map what is mapped already; besides those, a leaf that maps the address counts its
size, any other entry made valid one page. -/
def newPages (s s' : State) (ctx : Nat) (va : Word) (es : List (Nat × BitVec 64)) : Nat :=
  let vf := (s.ctxAt ctx).vf
  let tables := splinters s s' vf es 2
  let units := fun (pte : Nat) => match leafOf s' ctx va.toNat with
    | .ok (leaf, _, shift) => if leaf = pte then 2 ^ (shift - 14) else 1
    | .error _ => 1
  let fresh := es.filter fun e => e.2.getLsbD 0 && !(readEntry s.mem e.1).getLsbD 0 && !tables.contains e
    && !splinters.inTables s' vf tables e.1
  tables.length + (fresh.map fun e => units e.1).sum

/-- Firmware writes the page-table entries that serve an address, charging a virtual function's quota (log entry 23);
none where that would exceed the quota. The host charges nothing. -/
def servePage (s : State) (ctx : Nat) (host : Bool) (va : Word) (es : List (Nat × BitVec 64)) : Option State :=
  let vf := (s.ctxAt ctx).vf
  let f := s.fnAt vf
  let mem := es.foldl (fun m e => writeBytes m e.1 (leBytes 8 e.2.toNat)) s.mem
  let s' : State := { s with mem := mem }
  let n := if vf = 0 ∨ host then 0 else newPages s s' ctx va es
  if n = 0 then some s'
  else if f.quota.toNat ≠ 0 ∧ f.quota.toNat < f.qused.toNat + n then none
  else some (s'.setFn vf { f with qused := f.qused + BitVec.ofNat 40 n })

/-- Pages that a walk lacks to map an address by a 16 KiB page: the page, and a table for each level below the invalid
entry. -/
def lackingFrom (m : Tbl Byte) (at_ : Nat → Except WalkErr Nat) (va : Nat) : List (Nat × Nat) → Nat → Nat
  | [], _ => 0
  | (level, shift) :: rest, base =>
    match at_ (base + 8 * walkIndex va shift) with
    | .error _ => 0
    | .ok pa =>
      let e := readEntry m pa
      if !e.getLsbD 0 then 4 - level
      else if e.getLsbD 1 then 0
      else lackingFrom m at_ va rest (pteAddr e)

/-- Whether serving an address would exceed the quota of the context's function (R78). -/
def wouldExceed (s : State) (ctx : Nat) (va : Word) : Bool :=
  let c := s.ctxAt ctx
  let f := s.fnAt c.vf
  let at_ := guestTable s.mem (f.s2ptb.extractLsb' 0 52 : BitVec 52).toNat
  let n := lackingFrom s.mem at_ va.toNat walkLevels (c.ptb.extractLsb' 0 52 : BitVec 52).toNat
  c.vf != 0 && f.quota != 0 && decide (f.quota.toNat < f.qused.toNat + n)

/-- What an answer to a fault does: the page is served, or the cause that the fault is declined with (R74, R78, R169).
None where it is no answer: a quota that the fault does not exceed, or a second-stage fault, which the host serves. -/
def answer (s : State) (ctx : Nat) (second : Bool) (va : Word) (x : Resolution) : Option (Except Cause State) :=
  match x with
  | .served es =>
    match servePage s ctx second va es with
    | some s => some (.ok s)
    | none => some (.error cQUOTA)
  | .declined => some (.error (if second then cPROT else cPAGE))
  | .overQuota => if wouldExceed s ctx va && !second then some (.error cQUOTA) else none

/-- The resolution of a warp parked on PAGE. -/
def resolveWarp (s : State) (k : Nat) (x : Resolution) : Option State :=
  let w := s.warpAt k
  match w.parked with
  | some (.page, r) =>
    (answer s (s.gridOf w.block).ctx r.second r.addr x).map fun y =>
      match y with
      | .ok s => s.setWarp k ((s.warpAt k).resumeBy r false)
      | .error c => enterHandler (s.setWarp k (w.withCause c)) k { r with cause := c } c
  | _ => none

/-- Change a warp of a saved block. -/
def setSavedWarp (s : State) (x : Saved) (k : Nat) (w : Warp) : State :=
  let x' := { x with warps := x.warps.map fun e => if e.1 = k then (k, w) else e }
  { s with saved := s.saved.map fun y => if y = x then x' else y }

/-- The resolution of a parked warp whose block is saved: it resumes, or its handler is entered, once it is restored
(R171). -/
def resolveSaved (s : State) (ctx frame k : Nat) (x : Resolution) : Option State :=
  match savedAt s ctx frame with
  | none => none
  | some y =>
    match y.warps.find? fun e => e.1 == k with
    | none => none
    | some (_, w) =>
      match w.parked with
      | some (.page, r) =>
        (answer s ctx r.second r.addr x).map fun z =>
          match z with
          | .ok s => setSavedWarp s y k { w with parked := some (.served, r) }
          | .error c => setSavedWarp s y k { w with parked := some (.denied c, { r with cause := c }) }
      | _ => none

/-- The resolution of a page that the head of an engine queue waits for (R250). -/
def resolveCmd (s : State) (core q : Nat) (x : Resolution) : Option State :=
  match headCmd s core q with
  | none => none
  | some c =>
    match c.pageVa with
    | none => none
    | some (va, second) =>
      (answer s (s.gridOf c.block).ctx second va x).map fun y =>
        match y with
        | .ok s => setHead s core q { c with pageVa := none }
        | .error _ => failCmd s core q c cENGINE

/-- Give up an update of a counter (R25, R110, R130). -/
def dropCounter (s : State) (n : Nat) (p : PendCtr) (c : Cause) : State :=
  let s : State := { s with pend := s.pend.eraseIdx n }
  let s := s.log p.ctx (.counter p.record c)
  if p.bit.isNone then finishGrid s p.grid else s

/-- Whether two updates are of one counter. -/
def PendCtr.same (p q : PendCtr) : Bool := p.ctx == q.ctx && p.ctr == q.ctr

/-- Make the updates of a counter that wait, in their order, until one waits on (R131). -/
def settleCounter (p : PendCtr) : Nat → State → State
  | 0, s => s
  | fuel + 1, s =>
    match s.pend.findIdx? p.same with
    | none => s
    | some n =>
      let q := s.pend.getD n p
      match counterUpdate s (whoPart q.ctx) q.ctr q.bit with
      | .done s =>
        let s : State := { s with pend := s.pend.eraseIdx n }
        settleCounter p fuel (if q.bit.isNone then finishGrid s q.grid else s)
      | .page s second => { s with pend := s.pend.modify n fun x => { x with second := second } }
      | .failed s c => settleCounter p fuel (dropCounter s n q c)

/-- The resolution of a page that the first waiting update of a completion counter waits for. -/
def resolveCounter (s : State) (n : Nat) (x : Resolution) : Option State :=
  match s.pend[n]? with
  | none => none
  | some p =>
    if (s.pend.take n).any p.same then none
    else
      (answer s p.ctx p.second p.ctr x).map fun y =>
        match y with
        | .ok s => settleCounter p s.pend.length s
        | .error c => dropCounter s n p c

/-- FAULT_RESOLUTION. -/
def execFaultResolution (t : FaultTarget) (x : Resolution) (s : State) : Out :=
  enabledStep "FAULT_RESOLUTION" <|
    match t with
    | .warp k => resolveWarp s k x
    | .saved ctx frame k => resolveSaved s ctx frame k x
    | .cmd core q => resolveCmd s core q x
    | .counter n => resolveCounter s n x

/-- What a command's next step does: its start, the next piece of a copy, or its count. -/
def cmdNext (s : State) (core : Nat) (c : Cmd) : CmdDid :=
  match c.started, c.copy with
  | true, some p => if p.landed < p.shape.count then landPiece s core c p else cmdCount s core c
  | true, none => cmdCount s core c
  | false, _ => cmdStart s core (c.homed s core)

def CmdDid.failed : CmdDid → Bool
  | .fails .. => true
  | .goes .. | .page .. | .partly .. | .blocked _ => false

/-- Whether a piece of a command's work lies in a peer package. -/
def Move.atPeer (m : Move) : Bool :=
  let peer := fun (p : Place) => match p with
    | .phys pa => paRange pa == .peer
    | .part .. => false
  peer m.dst || match m.src with
    | .word p => peer p
    | .bytes _ => false

/-- Whether the head of an engine queue is at an access to a peer package: its next step fails where peers do not
answer, and only there. -/
def cmdAtPeer (s : State) (core q : Nat) (c : Cmd) : Bool :=
  let free := c.pageVa.isNone && !c.emul && (c.started || (joinsOpen s core q c.seq && !seqBusy s core c))
  free && (c.moves.any Move.atPeer ||
    ((cmdNext { s with silent := some (.cmd core q) } core c).failed && !(cmdNext { s with silent := none } core c).failed))

/-- Whether an update of a counter is one in a peer package. -/
def CtrOut.missed : CtrOut → Bool
  | .failed _ c => c == cECC_SCRATCH
  | .done _ | .page .. => false

/-- PEER_TIMEOUT: an access to a peer package has had no answer within 10 ms; it fails as an uncorrectable error of
R82: for a warp ECC_SCRATCH at its word, for a command ENGINE (R301; DEDUCED, log entry 44). -/
def execPeerTimeout (t : FaultTarget) (s : State) : Out :=
  enabledStep "PEER_TIMEOUT" <|
    match t with
    | .warp k => if (s.warpAt k).stat == .running then some { s with silent := some (.warp k) } else none
    | .cmd core q =>
      match headCmd s core q with
      | none => none
      | some c => if cmdAtPeer s core q c then some (failCmd s core q c cENGINE) else none
    | .counter n =>
      match s.pend[n]? with
      | none => none
      | some p =>
        let missed := fun (deaf : Bool) => (counterUpdate s { whoPart p.ctx with deaf := deaf } p.ctr p.bit).missed
        if missed true && !missed false then some (dropCounter s n p cECC_SCRATCH) else none
    | .saved .. => none

/-! ### Format emulation (R170) -/

/-- A warp parked on FMT_ABSENT resumes after its command's word, which has retired and closed its region. -/
def resumeAfterFormat (s : State) (k : Nat) (r : TrapRec) : State :=
  let w := (s.warpAt k).resumeBy { r with resume := r.epc + 4 } false
  let s := s.setWarp k { w.retired (r.epc + 4) with openRgn := false }
  s.setBlock w.block ((s.blockAt w.block).moved s.cycle true)

/-- FORMAT_EMULATION: firmware carries out the command in its place in the matrix queue, once its slots of the purse are
drawn (R140; an emulated MXB draws as an issued one does, DESIGN CHOICE, log entry 24); without the emulation the
warp enters its handler and the queue moves on. -/
def execFormatEmulation (k : Nat) (has : Bool) (s : State) : Out :=
  enabledStep "FORMAT_EMULATION" <|
    let core := coreOf k
    match headCmd s core 1, (s.warpAt k).parked with
    | some c, some (.format, r) =>
      if !c.emul || c.warp != k || !joinsOpen s core 1 c.seq then none
      else if !has then some (enterHandler (dropHead s core 1) k r cFMT_ABSENT)
      else
        let s := { s with asked := [] }
        gatePurses s core 1 c (cmdStart s core { c with emul := false }) fun d =>
          match d with
          | .goes s c => some (resumeAfterFormat (dropHead (orFlags s c) core 1) k r)
          | .fails s cause => some (resumeAfterFormat (failCmd s core 1 c cause) k r)
          | .page .. | .blocked _ | .partly .. => none
    | _, _ => none

/-! ### The dirty log (R81, R116) -/

/-- Send a message out. -/
def send (s : State) (m : OutMsg) : State := { s with boot := { s.boot with out := s.boot.out ++ [m] } }

/-- A write of a function's registers: a ring that its new size, its enabling or its new DLCONS makes full exits to the
host, whether or not FULL is still set (R116). A write that clears FULL alone does not. -/
def putRing (s : State) (vf : Nat) (f : Fn) : State :=
  if f.isFull && !(s.fnAt vf).isFull then send (s.setFn vf { f with full := true }) (.msix vf) else s.setFn vf f

/-- A warp of a saved block that waits for a function's dirty log resumes once it is restored. -/
def wakeSavedWriter (vf : Nat) (w : Warp) : Warp :=
  match w.parked with
  | some (.dirtyLog f, r) => if f = vf then { w with parked := some (.served, r) } else w
  | _ => w

/-- The warps of saved blocks that wait for a function's dirty log need not park again when they are restored. -/
def wakeSaved (s : State) (vf : Nat) : State :=
  { s with saved := s.saved.map fun y => { y with warps := y.warps.map fun e => (e.1, wakeSavedWriter vf e.2) } }

/-- A warp parked for a function's dirty log resumes. -/
def wakeWriter (s : State) (k : Nat) : State :=
  let w := s.warpAt k
  match w.parked with
  | some (.dirtyLog _, r) => s.setWarp k (w.resumeBy r false)
  | _ => s

/-- The warps parked for a function's dirty log need it no more: all of them resume. -/
def wakeWriters (s : State) (vf : Nat) : State :=
  let f := s.fnAt vf
  f.parked.foldl wakeWriter (wakeSaved (s.setFn vf { f with parked := [], waking := none, drains := false }) vf)

/-- The first of the warps parked for a function's dirty log resumes; the next follows once its word has issued (R116;
DEDUCED, log entry 45). -/
def wakeNext (s : State) (vf : Nat) : State :=
  let f := s.fnAt vf
  match f.parked with
  | [] => s.setFn vf { f with waking := none, drains := false }
  | k :: rest => wakeWriter (s.setFn vf { f with parked := rest, waking := some (k, (s.warpAt k).iret), drains := true }) k

/-- Whether the warp that was resumed last is still to issue its word. -/
def Fn.awaits (f : Fn) (s : State) : Bool :=
  f.waking.any fun x =>
    let w := s.warpAt x.1
    w.stat == .running && w.parked.isNone && !w.sup && w.iret == x.2 && !(s.blockAt w.block).stopped

/-- By the end of a cycle, the next of the warps that resume one after another does, while the ring has room (R116). -/
def drainLog (s : State) (vf : Nat) : State :=
  let f := s.fnAt vf
  if !f.drains || f.awaits s then s
  else if f.isFull then s.setFn vf { f with waking := none, drains := false }
  else wakeNext s vf
def drainLogs (s : State) : State := (s.fns.map (·.1)).foldl drainLog s

/-- DLCONS_WRITE: a value that would leave more than the ring's size is ignored; one that leaves less than before
resumes the parked writers, one after another (R116). -/
def execDlconsWrite (vf : Nat) (value : Word) (s : State) : Out :=
  let f := s.fnAt vf
  let v : BitVec 32 := value.setWidth 32
  let beyond := match f.ringSize with
    | some n => decide (n < (f.prod - v).toNat)
    | none => false
  if beyond || v == f.cons then .next s
  else
    let t := putRing s vf { f with cons := v }
    .next (if f.prod - v < f.prod - f.cons then
        let t := wakeSaved t vf
        if f.drains then t else wakeNext t vf
      else t)

/-! ### The write-back scanner (R80) -/

/-- A page's bytes as storage keeps them. -/
def pageImage (m : Tbl Byte) (pa n : Nat) : Tbl Byte :=
  (m.filter fun e => decide (pa ≤ e.1) && decide (e.1 < pa + n)).map fun e => (e.1 - pa, e.2)

/-- The base of the second-stage tables of a function. -/
def guestBase (s : State) (vf : Nat) : Nat := ((s.fnAt vf).s2ptb.extractLsb' 0 52 : BitVec 52).toNat

/-- The leaf entry that maps an address of the stage a scan works on. -/
def Scan.entry (x : Scan) (s : State) (a : Nat) : Except WalkErr (Nat × Nat × Nat) :=
  if x.vf = 0 then leafOf s x.ctx a else leafEntry s.mem .ok a walkLevels (guestBase s x.vf)

/-- The physical address of a part of a page that a scan holds: what its leaf maps it to, through the second stage where
there is one to come. -/
def Scan.phys (x : Scan) (s : State) (i : Nat) : Option Nat :=
  let t := x.base + 16384 * i
  let vf := (s.ctxAt x.ctx).vf
  if x.vf ≠ 0 ∨ vf = 0 then some t
  else ((walkGuest s.mem (guestBase s vf) t).map fun l => l.pa + t % 2 ^ l.bits).toOption

/-- The 16 KiB pieces of a page that a scan holds, with their physical addresses. -/
def Scan.pieces (x : Scan) (s : State) : List (Nat × Nat) :=
  (List.range (2 ^ (x.bits - 14))).filterMap fun i => (x.phys s i).map fun pa => (x.page + 16384 * i, pa)

/-- The page's write permission comes back: in its leaf, or in the leaves of the table that has replaced it (R73,
R80). A leaf that maps to somewhere else by now is left alone. -/
def Scan.reopen (x : Scan) (s : State) : State :=
  if !x.wr then s
  else
    (List.range (2 ^ (x.bits - 14))).foldl (fun s i =>
      let a := x.page + 16384 * i
      match x.entry s a with
      | .error _ => s
      | .ok (at_, _, shift) =>
        let e := readEntry s.mem at_
        if pteAddr e + a % 2 ^ shift = x.base + 16384 * i then
          { s with mem := writeBytes s.mem at_ (leBytes 8 (e ||| 0x8).toNat) }
        else s) s

/-- The I/O queue of an NVMe controller that takes a command: controller and queue (R301). -/
def nvmeQueue (f : Fabric) : Option (Nat × Nat) :=
  if f.nvme.isEmpty then none
  else (f.ctls.zipIdx.findSome? fun (qs, c) => (qs.findIdx? fun n => decide (n < 1024)).map fun q => (c, q))

/-- Change the count of commands outstanding in an I/O queue. -/
def Fabric.count (f : Fabric) (c q : Nat) (g : Nat → Nat) : Fabric :=
  { f with ctls := f.ctls.modify c fun qs => qs.modify q g }

/-- The guest physical address that the first stage gives an address of a context. -/
def guestOf (s : State) (ctx va : Nat) : Option Nat :=
  let c := s.ctxAt ctx
  if c.vf = 0 then none
  else
    ((walkFrom s.mem (guestTable s.mem (guestBase s c.vf)) va walkLevels (c.ptb.extractLsb' 0 52 : BitVec 52).toNat).map
      fun l => l.pa + va % 2 ^ l.bits).toOption

/-- Steps 1 and 2 of R80 on the leaf that maps an address `a` of a stage, if its page is dirty and file-backed: write
permission and dirty bit go, then the translations. -/
def scanLeaf (s : State) (x : Scan) (a : Nat) (drops : TlbEntry → Bool) : Option State :=
  match x.entry s a with
  | .error _ => none
  | .ok (at_, _, shift) =>
    let e := readEntry s.mem at_
    if e.getLsbD 6 && e.getLsbD 7 then
      let mem := writeBytes s.mem at_ (leBytes 8 (e &&& ~~~(0x48 : BitVec 64)).toNat)
      let x := { x with page := a / 2 ^ shift * 2 ^ shift, bits := shift, base := pteAddr e, wr := e.getLsbD 3 }
      some { dropTlb { s with mem := mem } drops with scans := s.scans ++ [x] }
    else none

/-- The translations of a page that a scan holds or is about to hold, `a` an address in it. -/
def Scan.drops (x : Scan) (s : State) (a : Nat) (e : TlbEntry) : Bool :=
  if x.vf = 0 then e.maps (s.ctxAt x.ctx).ctxid a else e.mapsGuest x.vf a

/-- The scanner takes the page of an address: that of the context's own leaf, else that of the second stage's. -/
def scanStart (s : State) (ctx : Nat) (va : Word) : Option State :=
  let x : Scan := ⟨ctx, va.toNat, 0, 0, 0, 0, false, 0⟩
  match scanLeaf s x va.toNat (x.drops s va.toNat) with
  | some s => some s
  | none =>
    match guestOf s ctx va.toNat with
    | none => none
    | some g =>
      let x := { x with vf := (s.ctxAt ctx).vf }
      scanLeaf s x g (x.drops s g)

/-- Whether an address of a context lies in a page that a scan holds. -/
def Scan.holds (x : Scan) (s : State) (ctx : Nat) (va : Word) : Bool :=
  let inside := fun (a : Nat) => a / 2 ^ x.bits * 2 ^ x.bits == x.page
  if x.vf = 0 then x.ctx == ctx && inside va.toNat
  else (s.ctxAt ctx).vf == x.vf && (guestOf s ctx va.toNat).any inside

/-- A warp that waits for a page that a scan held goes on. -/
def Scan.wakeWarp (x : Scan) (s : State) (ctx : Nat) (w : Warp) : Warp :=
  match w.parked with
  | some (.page, r) => if x.holds s ctx r.addr then w.resumeBy r false else w
  | _ => w

/-- A warp of a saved block that waits for such a page goes on once it is restored. -/
def Scan.wakeSaved (x : Scan) (s : State) (ctx : Nat) (w : Warp) : Warp :=
  match w.parked with
  | some (.page, r) => if x.holds s ctx r.addr then { w with parked := some (.served, r) } else w
  | _ => w

/-- The warps, those of saved blocks among them, the commands and the counters that wait for a page that a scan held go
on. -/
def wakeScan (s : State) (x : Scan) : State :=
  let go := fun (c : Cmd) =>
    if c.pageVa.any fun p => x.holds s (s.gridOf c.block).ctx p.1 then { c with pageVa := none } else c
  let t : State := { s with
    warps := s.warps.map fun e => (e.1, x.wakeWarp s (s.gridOf e.2.block).ctx e.2)
    saved := s.saved.map fun y => { y with warps := y.warps.map fun e => (e.1, x.wakeSaved s y.ctx e.2) }
    cores := s.cores.map fun e => (e.1, { e.2 with
      copyQ := e.2.copyQ.map go, matrixQ := e.2.matrixQ.map go, stateQ := e.2.stateQ.map go }) }
  (s.pend.filter fun p => x.holds s p.ctx p.ctr).foldl (fun t p => settleCounter p t.pend.length t) t

/-- The key of a page in storage: its context, or its virtual function beyond the contexts, with its address. -/
def Scan.owner (x : Scan) : Nat := if x.vf = 0 then x.ctx else 2 ^ 20 + x.vf

/-- Step 3 of R80, once no store translated before is still held: the page is written to storage through an I/O queue,
when the fabric purse has given its slots, and its permission comes back. A page in no memory stack draws on domain 0's
(DESIGN CHOICE, log entry 24). -/
def scanFinish (s : State) (x : Scan) : Option State :=
  let ps := x.pieces s
  let dom := match ps.head?.map fun p => paRange p.2 with
    | some (.stack n) => n
    | _ => 0
  let due := 32 * ps.length - x.drawn
  let left := purseLeft s dom fabricPurse
  match nvmeQueue s.fabric with
  | none => none
  | some (c, q) =>
    if heldThrough s (x.drops s x.page) then none
    else if purseTakes s dom fabricPurse due then
      let kept := s.storage.filter fun y => !(y.1 == x.owner && ps.any fun p => p.1 == y.2.1)
      let new := ps.map fun p => (x.owner, p.1, pageImage s.mem p.2 16384)
      let s := x.reopen (spendPurse s dom fabricPurse due)
      some (wakeScan { s with
        storage := kept ++ new, scans := s.scans.erase x, fabric := s.fabric.count c q (· + 1) } x)
    else if left = 0 then none
    else
      let s := spendPurse s dom fabricPurse left
      some { s with scans := s.scans.map fun y => if y = x then { x with drawn := x.drawn + left } else y }

/-- WRITE_BACK_SCAN: the scanner takes a dirty file-backed page, or goes on with one that it holds (R80). -/
def execWriteBackScan (ctx : Nat) (va : Word) (s : State) : Out :=
  enabledStep "WRITE_BACK_SCAN" <|
    match s.scans.find? fun x => (x.ctx == ctx && x.va == va.toNat) || x.holds s ctx va with
    | some x => scanFinish s x
    | none => scanStart s ctx va

end Sys2Proof.Machine
end

