-- ==== Sys2Proof/Machine/Platform.lean ====
section
/-!
DEFINITION. Sys2Proof/Machine/Platform.lean: clocks, thermal bands, boost and purses (R138 to R140), supply sag
(R300), storage errors, self-tests and replacement (R61, R82, R141, R305, R306), boot, management and attestation
(R302 to R304), writes of the registers (R109, R297, R298), accesses of peer packages (R301).
-/
namespace Sys2Proof.Machine

/-! ### Clocks and purses -/

/-- The nominal step of a class (R138). -/
def nominalStep (cls : BitVec 2) : Nat :=
  match cls.toNat with
  | 0 => 56
  | 1 => 52
  | 2 => 48
  | _ => 40

/-- The thermal cap of a band (R138). -/
def thermalCap (band : BitVec 3) : Nat :=
  match band.toNat with
  | 4 => 60
  | 5 => 52
  | 6 => 44
  | 7 => 32
  | _ => 68

/-- BOOST after an interval (R139). -/
def Cluster.account (u : Cluster) : Cluster :=
  let d := u.freq.toNat - u.nom
  let b := u.boost.toNat
  let b := if d = 0 then min (b + u.refill) u.limit else b - (10 * d + 11) / 12
  { u with boost := BitVec.ofNat 32 b }

/-- The step a cluster chooses for an interval (R138). -/
def Cluster.choose (u : Cluster) (cls : BitVec 2) : Cluster :=
  let nom := nominalStep cls
  let delta := if u.boost = 0 then 0 else 12
  { u with nom := nom, freq := BitVec.ofNat 16 (min (thermalCap u.tband) (min u.cap (nom + delta))) }

/-- CONTROL_INTERVAL: every 10 µs each cluster accounts the interval that ends and chooses its next step. -/
def execControlInterval (s : State) : Out :=
  enabledStep "CONTROL_INTERVAL" <|
    if s.ctlDue ≤ s.cycle then
      let s' := (List.range Config.numClusters).foldl (fun s u =>
        let x := s.clusterAt u
        let x := if s.ctlDue = 0 then x else x.account
        s.setCluster u (x.choose (s.domainAt (u / 4)).cls)) s
      some { s' with ctlDue := s.ctlDue + 10 * Config.ticksPerMicro }
    else none

/-- Whether bytes lie in the memory stacks. -/
def inStacks (pa n : Nat) : Bool := decide (pa + n ≤ 0xC0_0000_0000)

/-- The domain whose stack a transfer reaches with its first byte, whose purse gives all of its slots (DESIGN CHOICE,
log entry 24). -/
def Dma.dom (x : Dma) : Nat := x.pa / 2 ^ 36

/-- A transfer of the fabric takes place once it has drawn its slots; until then it draws those that the period has
left. One waits behind an earlier one of its domain (R140; DESIGN CHOICE, log entry 24). -/
def takeDma (s : State) (x : Dma) : State :=
  let due := bursts x.len - x.drawn
  if s.dma.any (·.dom == x.dom) then { s with dma := s.dma ++ [x] }
  else if purseTakes s x.dom fabricPurse due then
    spendPurse { s with mem := writeBytes s.mem x.pa x.bytes } x.dom fabricPurse due
  else
    let left := purseLeft s x.dom fabricPurse
    let t := spendPurse s x.dom fabricPurse left
    { t with dma := t.dma ++ [{ x with drawn := x.drawn + left }] }

/-- The transfers that wait for the fabric purses, in their order. -/
def serveDma (s : State) : State := s.dma.foldl takeDma { s with dma := [] }

/-- PURSE_PERIOD: every microsecond the purses are filled; what was left is lost (R140). A purse written meanwhile
holds from here on (DESIGN CHOICE, log entry 91). Transfers of the fabric that wait go on. -/
def execPursePeriod (s : State) : Out :=
  enabledStep "PURSE_PERIOD" <|
    if s.purseDue ≤ s.cycle then
      let s' := (List.range Config.numDomains).foldl (fun s d =>
        let x := s.domainAt d
        s.setDomain d { x with active := x.purse, spent := Vector.replicate 6 0 }) s
      some (serveDma { s' with purseDue := s.purseDue + Config.ticksPerMicro })
    else none

/-- SUPPLY_SAG: the clock period is stretched, SAGCNT counts (R300). -/
def execSupplySag (u : Nat) (s : State) : Out :=
  enabledStep "SUPPLY_SAG" <|
    let x := s.clusterAt u
    if x.sag || decide (Config.numClusters ≤ u) then none
    else
      let s := s.setCluster u { x with sag := true }
      some { s with sagcnt := if s.sagcnt = BitVec.allOnes 32 then s.sagcnt else s.sagcnt + 1 }

/-- RAIL_RECOVERS: the stretch is released. -/
def execRailRecovers (u : Nat) (s : State) : Out :=
  enabledStep "RAIL_RECOVERS" <|
    let x := s.clusterAt u
    if x.sag then some (s.setCluster u { x with sag := false }) else none

/-- THERMAL_BAND_CHANGE: TBAND reads the new band; the step follows at the next interval (R138). -/
def execThermalBandChange (u : Nat) (band : BitVec 3) (s : State) : Out :=
  .next (s.setCluster u { s.clusterAt u with tband := band })

/-! ### Storage errors and self-tests -/

/-- The number a register's row counts its errors under: DESIGN CHOICE (log entry 25). -/
def rowOf (warp : Nat) (r : LReg) : Nat :=
  warp % 64 * 4096 + match r with
    | .v i => i
    | .o i => 2048 + i
    | .l i => 2056 + i
    | .p i => 2064 + i
    | .h i => 2080 + i
    | .k i => 2088 + i

/-- The set of a slice that holds a line: DESIGN CHOICE (log entry 25). -/
def sliceSet (pa : Nat) : Nat := pa / 128 % 4096

/-- The row, bank or unit an error counts for (R82, R141; the numbers DESIGN CHOICE, log entry 25). -/
def siteUnit (e : EccSite) : MemUnit :=
  match e with
  | .sreg k r => .regRow (coreOf k) (k % 64 * 4096 + 3072 + r)
  | .lreg k r _ => .regRow (coreOf k) (rowOf k r)
  | .crewRow c j _ => .regRow (c / 64) (64 * 4096 + c % 64 * 2048 + j)
  | .slice u pa => .slice u (sliceSet pa)
  | .storeBuf core _ => .storeBuf core
  | .specBuf core _ => .specBuf core
  | .clusterTlb u => .clusterTlb u
  | .portTlb n => .portTlb n
  | .walker d => .walker d
  | .scratch b off => .scratchBank (blockCore b) (off / 4 % 32)
  | .line pa =>
    match paRange pa with
    | .stack n => .stackRow n (pa % 2 ^ 36 / 128)
    | .host | .peer | .io | .unassigned => .slice (pa / 128 % 4) (sliceSet pa)
  | .bpage core page => .bpage core page
  | .vault u n => .vaultEntry u n
  | .tlb core => .tlb core

/-- A site of a window name of a stroke is a slot of its crew (R37). -/
def canonSite (s : State) (e : EccSite) : EccSite :=
  match e with
  | .lreg k (.v i) m =>
    match (s.warpAt k).stroke with
    | some (c, n) => if 256 ≤ i then .crewRow c (slotOf (s.crewAt c).record n (i - 256)) m else e
    | none => e
  | _ => e

/-- Whether a warp has a register of the lane stream. -/
def regExists (s : State) (k : Nat) (r : LReg) : Bool :=
  let w := s.warpAt k
  w.stat != .absent && match r with
    | .v i => if i < 256 then decide (i < privNames s w)
      else w.stroke.isNone && w.hosts.isNone && (decide (i - 256 < w.win.toNat) || w.groups.contains ((i - 256) / 8))
    | .o i => decide (i < 8)
    | .l i => decide (i < 2)
    | .p i => decide (1 ≤ i) && decide (i < 12)
    | .h i => (recordOf s w).hv && decide (i < 8)
    | .k i => (recordOf s w).hv && decide (i < 2)

/-- Whether a site names storage in use or of the part. -/
def siteExists (s : State) (e : EccSite) : Bool :=
  match e with
  | .sreg k r => (s.warpAt k).stat != .absent && decide (r < 64)
  | .lreg k r _ => regExists s k r
  | .crewRow c j _ => (s.crewAt c).live && decide (j < (s.crewAt c).record.w)
  | .slice u pa => decide (u < Config.numClusters) && tableAt pa
  | .storeBuf core pa | .specBuf core pa => decide (core < Config.numCores) && tableAt pa
  | .clusterTlb u => decide (u < Config.numClusters)
  | .portTlb n => decide (n < 40)
  | .walker d => decide (d < Config.numDomains)
  | .scratch b off => (s.blockAt b).live && decide (off < (s.blockAt b).size)
  | .line pa => decide (pa < 0xC0_0000_0000)
  | .bpage core page => decide (core < Config.numCores) && decide (page < 64)
  | .vault u n => decide (u < Config.numClusters) && decide (n < Config.vaultEntries)
  | .tlb core => decide (core < Config.numCores)

/-- The counters of a row or bank (R141). -/
def errAt (s : State) (u : MemUnit) : ErrCnt := ((s.errs.find? fun e => e.1 == u).map (·.2)).getD ⟨0, 0, 0, 0⟩
def setErr (s : State) (u : MemUnit) (x : ErrCnt) : State :=
  { s with errs := (s.errs.filter fun e => e.1 != u) ++ [(u, x)] }

/-- One more, saturating. -/
def satInc {n : Nat} (x : BitVec n) : BitVec n := if x = BitVec.allOnes n then x else x + 1

/-- The error counts, and its row or bank starts a targeted self-test. -/
def countError (s : State) (u : MemUnit) (correctable : Bool) : State :=
  let x := errAt s u
  let s := setErr s u (if correctable then { x with corr := satInc x.corr } else { x with uncorr := satInc x.uncorr })
  { s with testing := s.testing ++ [u] }

/-- Poison storage. -/
def poisonSite (s : State) (e : EccSite) : State :=
  if s.poison.contains e then s else { s with poison := s.poison ++ [e] }

/-- What an uncorrectable error leaves: poisoned storage, a line of a slice or a buffer as one of the stacks; an invalid
vault entry, logged; an empty TLB (R82). s0 has no storage (R49). -/
def applyError (s : State) (e : EccSite) : State :=
  match e with
  | .vault u n =>
    let x := s.clusterAt u
    let s := s.setCluster u { x with vault := x.vault.filter fun v => v.1 != n }
    match x.owner with
    | some c => s.log c (.vault u n)
    | none => s
  | .tlb core => s.setCore core { s.coreAt core with tlb := [] }
  | .clusterTlb u => s.setCluster u { s.clusterAt u with tlb := [] }
  | .portTlb n => { s with ports := Tbl.set s.ports n [] }
  | .walker _ => s
  | .slice _ pa | .storeBuf _ pa | .specBuf _ pa => poisonSite s (.line pa)
  | .sreg _ 0 => s
  | e => poisonSite s e

/-- Whether an error is of a kind that parity alone finds: the entry is dropped (R82). -/
def isParity : EccSite → Bool
  | .tlb _ | .clusterTlb _ | .portTlb _ | .walker _ => true
  | _ => false

/-- The block whose save takes a register row or a scratchpad bank out of use for its test (R305). -/
def testBlock (s : State) (e : EccSite) : Option Nat :=
  match e with
  | .sreg k _ | .lreg k _ _ => some (s.warpAt k).block
  | .crewRow c .. => some (s.warpAt (s.crewAt c).host).block
  | .scratch b _ => some b
  | .line _ | .bpage .. | .vault .. | .tlb _ | .slice .. | .storeBuf .. | .specBuf .. | .clusterTlb _ | .portTlb _
  | .walker _ => none

/-- Save a block that a self-test waits for, with its gang, unless its scratchpad holds an uncorrectable error, whose
read kills it instead (R172, R305). -/
def saveForTest (s : State) (b : Nat) : State :=
  let dead := s.poison.any fun e => match e with
    | .scratch b' _ => b' == b
    | _ => false
  if dead then s else (saveGang s false (s.blockAt b).grid (gangIx s b)).getD s

/-- ECC_ERROR (R61, R82, R141, R305). -/
def execEccError (e : EccSite) (correctable : Bool) (s : State) : Out :=
  enabledStep "ECC_ERROR" <|
    let e := canonSite s e
    if siteExists s e then
      let s := countError s (siteUnit e) correctable
      let s := if isParity e || !correctable then applyError s e else s
      match testBlock s e with
      | some b => some (saveForTest { s with toSave := s.toSave ++ [(siteUnit e, b)] } b)
      | none => some s
    else none

/-- The replacement request (R306). -/
def RepReq.raise (r : RepReq) (unit : BitVec 4) (index : BitVec 16) : RepReq :=
  { req := true, multi := r.multi || r.req, unit := unit, index := index }

/-- Write REPREQ and raise the Redfish event. -/
def requestUnit (s : State) (unit : BitVec 4) (index : Nat) : State :=
  let ix := BitVec.ofNat 16 index
  { s with
    repreq := s.repreq.raise unit ix
    boot := { s.boot with out := s.boot.out ++ [.replacement unit ix] } }

/-- The core that a unit is part of. -/
def unitCore : MemUnit → Option Nat
  | .regRow core _ | .scratchBank core _ | .tlb core | .storeBuf core | .specBuf core | .bpage core _ => some core
  | .slice .. | .stackRow .. | .vaultEntry .. | .clusterTlb _ | .portTlb _ | .walker _ => none

/-- A spare of the die takes a core's number, with storage of its own, or the core is removed (R305). -/
def replaceCore (s : State) (core : Nat) : State :=
  let die := core / 64
  let used := Tbl.get 0 s.spares die
  let s : State := { s with fencing := s.fencing.filter (· != core) }
  if used < Config.sparesPerDie then
    let s : State := { s with
      spares := Tbl.put 0 s.spares die (used + 1)
      errs := s.errs.filter fun e => unitCore e.1 != some core
      testing := s.testing.filter fun u => unitCore u != some core
      fenced := s.fenced.filter fun u => unitCore u != some core
      poison := s.poison.filter fun e => match e with
        | .bpage c _ => c != core
        | _ => true }
    s.setCore core { s.coreAt core with tlb := [] }
  else { s with removed := if s.removed.contains core then s.removed else s.removed ++ [core] }

/-- A core that is being fenced: its blocks are saved, and it is replaced once none is left on it (R305). -/
def fenceStep (s : State) (core : Nat) : State :=
  let s := (saveGangs s (residentGangs s fun b => blockCore b == core)).1
  if (coreBlocks s core).isEmpty then replaceCore s core else s

/-- A spare row of the stack takes a row's place, with counters of its own, or the row is fenced (R141, R305; the
number of spare rows is free, log entry 86). -/
def replaceRow (s : State) (u : MemUnit) (stack : Nat) : State :=
  let used := Tbl.get 0 s.rowSpares stack
  if used < Config.spareRows then
    { s with rowSpares := Tbl.put 0 s.rowSpares stack (used + 1), errs := s.errs.filter fun e => e.1 != u }
  else { s with fenced := s.fenced ++ [u] }

/-- A core begins to be fenced. -/
def fenceCore (s : State) (core : Nat) : State :=
  if s.removed.contains core then s
  else fenceStep { s with fencing := if s.fencing.contains core then s.fencing else s.fencing ++ [core] } core

/-- What firmware takes up again at the end of a cycle: the saves that self-tests and fenced cores wait for (R305), and
the SPDM requests that waited for a change of the fencing map (R304). -/
def retryRepairs (s : State) : State :=
  let s := s.toSave.foldl (fun s x => if (s.blockAt x.2).live then saveForTest s x.2 else s) s
  let s := s.fencing.foldl fenceStep s
  if s.fencing.isEmpty then { s with inbox := s.inbox ++ s.asks.map .event, asks := [] } else s

/-- A lasting fault: the unit is fenced and its replacement requested (R305, R306). A vault is numbered by its
cluster, a B page by 64·core + page; a unit that R306 has no code for is code 0 (DESIGN CHOICE, log entry 25). -/
def fenceUnit (s : State) (u : MemUnit) : State :=
  match u with
  | .regRow core _ | .scratchBank core _ | .tlb core | .storeBuf core | .specBuf core =>
    requestUnit (fenceCore s core) 1 core
  | .slice n _ => requestUnit { s with fenced := s.fenced ++ [u] } 2 n
  | .clusterTlb n => requestUnit { s with fenced := s.fenced ++ [u] } 0 n
  | .portTlb n => requestUnit { s with fenced := s.fenced ++ [u] } 0 n
  | .walker n => requestUnit { s with fenced := s.fenced ++ [u] } 0 n
  | .stackRow n _ => requestUnit (replaceRow s u n) 3 n
  | .vaultEntry n _ => requestUnit { s with fenced := s.fenced ++ [u] } 4 n
  | .bpage core page => requestUnit { s with fenced := s.fenced ++ [u] } 5 (64 * core + page)

/-- SELF_TEST_COMPLETION, once the block that keeps the unit in use has been saved: a second failure is lasting (R141,
R305). -/
def execSelfTestCompletion (u : MemUnit) (pass : Bool) (s : State) : Out :=
  enabledStep "SELF_TEST_COMPLETION" <|
    if s.testing.contains u && !s.toSave.any (·.1 == u) then
      let x := errAt s u
      let s : State := { s with testing := s.testing.erase u }
      let x := { x with tests := satInc x.tests }
      if pass || decide (2 ≤ x.fails.toNat) then some (setErr s u x)
      else
        let s := setErr s u { x with fails := x.fails + 1 }
        some (if x.fails = 1 then fenceUnit s u else s)
    else none

/-! ### Boot, management, attestation -/

/-- Whether the ROM accepts an image (R303). -/
def imageAccepted (i : FwImage) (fuse : Nat) : Bool := i.signed && decide (fuse ≤ i.version) && i.wellFormed

def slotOk (x : Option FwImage) (fuse : Nat) : Bool :=
  match x with
  | some i => imageAccepted i fuse
  | none => false

/-- POWER_ON (R303): slot A, else slot B, else recovery. The accepted image starts the other control cores and opens
the host link. -/
def execPowerOn (s : State) : Out :=
  enabledStep "POWER_ON" <|
    let b := s.boot
    match b.power with
    | .running _ => none
    | .off | .recovery =>
      let run := fun (slotB : Bool) => some { s with boot := { b with power := .running slotB, control := 8, link := true } }
      if slotOk b.slotA b.fuse then run false
      else if slotOk b.slotB b.fuse then run true
      else some { s with boot := { b with power := .recovery, control := 1, link := false, out := b.out ++ [.bootFailure] } }

/-- The image that runs. -/
def Boot.image (b : Boot) : Option FwImage :=
  match b.power with
  | .running false => b.slotA
  | .running true => b.slotB
  | .off | .recovery => none

/-- The number a unit of memory is reported under in a measurement. -/
def unitCode (u : MemUnit) : List Byte :=
  match u with
  | .regRow a b => leBytes 1 0 ++ leBytes 4 a ++ leBytes 4 b
  | .scratchBank a b => leBytes 1 1 ++ leBytes 4 a ++ leBytes 4 b
  | .slice a b => leBytes 1 2 ++ leBytes 4 a ++ leBytes 4 b
  | .stackRow a b => leBytes 1 3 ++ leBytes 4 a ++ leBytes 4 b
  | .vaultEntry a b => leBytes 1 4 ++ leBytes 4 a ++ leBytes 4 b
  | .bpage a b => leBytes 1 5 ++ leBytes 4 a ++ leBytes 4 b
  | .tlb a => leBytes 1 6 ++ leBytes 4 a ++ leBytes 4 0
  | .storeBuf a => leBytes 1 7 ++ leBytes 4 a ++ leBytes 4 0
  | .specBuf a => leBytes 1 8 ++ leBytes 4 a ++ leBytes 4 0
  | .clusterTlb a => leBytes 1 9 ++ leBytes 4 a ++ leBytes 4 0
  | .portTlb a => leBytes 1 10 ++ leBytes 4 a ++ leBytes 4 0
  | .walker a => leBytes 1 11 ++ leBytes 4 a ++ leBytes 4 0

/-- The fencing map as it is measured: fenced units, cores removed, spare cores and rows in use. -/
def fencingMap (s : State) : List Byte :=
  (s.fenced.flatMap unitCode) ++ (s.removed.flatMap (leBytes 4))
    ++ (s.spares.flatMap fun e => leBytes 4 e.1 ++ leBytes 4 e.2) ++ s.rowSpares.flatMap fun e => leBytes 4 e.1 ++ leBytes 4 e.2

/-- The measurements: ROM, running image, fuse configuration, fencing map (R304). -/
def measurements (s : State) : List (BitVec 256) :=
  [Config.romDigest, (s.boot.image.map (·.digest)).getD 0, Config.measure (leBytes 8 s.boot.fuse),
    Config.measure (fencingMap s)]

/-- The bytes a signature covers. -/
def signedBytes (nonce : BitVec 256) (ms : List (BitVec 256)) : List Byte :=
  leBytes 32 nonce.toNat ++ ms.flatMap fun m => leBytes 32 m.toNat

/-- Processors that Redfish lists: the eight control cores and the enabled cores (R302). -/
def processors (s : State) : Nat := 8 + (Config.numCores - s.removed.length)

/-- Error counters as one number: CORR, UNCORR, TESTS, FAILS. -/
def ErrCnt.word (x : ErrCnt) : Nat := x.corr.toNat + 2 ^ 16 * x.uncorr.toNat + 2 ^ 24 * x.tests.toNat + 2 ^ 32 * x.fails.toNat

/-- REDFISH_REQUEST (R302, R303): DPOOL can only be read; recovery accepts a new image. The coding of a reply is
DESIGN CHOICE (log entry 26). -/
def execRedfishRequest (r : RedfishReq) (s : State) : Out :=
  enabledStep "REDFISH_REQUEST" <|
    if s.boot.power = .off then none
    else
      match r with
      | .chassis => some (send s (.reply r 1))
      | .processor n => some (send s (if n < processors s then .reply r n else .refusedWrite r))
      | .memory => some (send s (.reply r Config.numDomains))
      | .errorCounters u => some (send s (.reply r (errAt s u).word))
      | .poolClass d => some (send s (.reply r (s.domainAt d).cls.toNat))
      | .writePoolClass .. => some (send s (.refusedWrite r))
      | .firmwareInventory => some (send s (.reply r ((s.boot.image.map (·.version)).getD 0)))
      | .measurements =>
        let ms := measurements s
        some (send s (.measurements ms (Config.spdmSignature (signedBytes 0 ms))))
      | .installImage slotB img =>
        if s.boot.power = .recovery then
          let b := s.boot
          let b := if slotB then { b with slotB := some img } else { b with slotA := some img }
          some (send { s with boot := b } (.reply r 0))
        else some (send s (.refusedWrite r))

/-- An SPDM request reaches the part once its ROM runs; it waits for a change of the fencing map that is in progress
(R304). -/
def spdm (name : String) (ask : Instr) (s : State) (m : OutMsg) : Out :=
  enabledStep name <|
    if s.boot.power = .off then none
    else if s.fencing.isEmpty then some (send s m)
    else some { s with asks := s.asks ++ [ask] }

/-- GET_CERTIFICATE. -/
def execGetCertificate (s : State) : Out :=
  spdm "GET_CERTIFICATE" .getCertificate s (.certificate ((List.range Config.certificateLength).map Config.certificateChain))

/-- CHALLENGE. -/
def execChallenge (nonce : BitVec 256) (s : State) : Out :=
  spdm "CHALLENGE" (.challenge nonce) s (.challengeAuth nonce (Config.spdmSignature (signedBytes nonce (measurements s))))

/-- GET_MEASUREMENTS, signed. -/
def execGetMeasurements (s : State) : Out :=
  let ms := measurements s
  spdm "GET_MEASUREMENTS" .getMeasurements s (.measurements ms (Config.spdmSignature (signedBytes 0 ms)))

/-! ### Writes of the registers -/

/-- A launch queue after a write of one of its plain registers by its owner or the PF (R109, R298). -/
def LaunchQ.write (q : LaunchQ) (fn r : Nat) (x : Word) : LaunchQ :=
  match r with
  | 0x00 => { q with base := (x.setWidth 52) &&& ~~~(127 : BitVec 52) }
  | 0x08 => { q with size := x.setWidth 16 }
  | 0x20 => { q with en := x.getLsbD 0, err := q.err && !x.getLsbD 1 }
  | 0x28 => if fn = 0 then { q with own := x.setWidth 7 } else q
  | _ => q

/-- A write of a function-table register by the PF (R298). Writers parked for a ring that is disabled need no entry
any more. -/
def writeFn (s : State) (vf r : Nat) (x : Word) : State :=
  let f := s.fnAt vf
  let settle := fun (f : Fn) =>
    let s := putRing s vf f
    if f.ring.isNone then wakeWriters s vf else s
  match r with
  | 0x00 => s.setFn vf { f with s2ptb := x &&& 0x000F_FFFF_FFFF_C000 }
  | 0x08 => s.setFn vf { f with quota := x.setWidth 40 }
  | 0x18 => s.setFn vf { f with dlbase := x &&& 0x000F_FFFF_FFFF_F000 }
  | 0x20 => settle { f with dlsize := x.setWidth 17 }
  | 0x38 => settle { f with en := x.getLsbD 0, full := f.full && !x.getLsbD 1 }
  | _ => s

/-- The launch queues assigned to a virtual function, in ascending number (R297). -/
def vfQueues (s : State) (fn : Nat) : List Nat :=
  if fn ≤ 64 then (List.range 16).filter fun n => (lqAt s n).own.toNat == fn else []

/-- The register at an offset of a function's BAR0: the PF's maps the whole space; a virtual function's maps its
launch queues alone, packed from offset 0 (R297). -/
def barReg (s : State) (fn off : Nat) : Option IoReg :=
  if fn = 0 then ioReg off
  else
    match (vfQueues s fn)[off / 64]? with
    | some n => if off % 8 = 0 ∧ off % 64 ≤ 0x30 then some (.lq n (off % 64)) else none
    | none => none

/-- REGISTER_WRITE (R297, R298, R306): by the PF, or by a virtual function, at an offset of its BAR0. Writes to a
register with a step of its own act as that step; unlisted offsets ignore writes. -/
def execRegisterWrite (fn : Nat) (off : BitVec 52) (x : Word) (s : State) : Out :=
  match barReg s fn off.toNat with
  | some (.lq n 0x10) => execLaunchQueueTailWrite fn (BitVec.ofNat 4 n) x s
  | some (.lq n 0x30) => execLqstart fn (BitVec.ofNat 4 n) x s
  | some (.lq n r) =>
    let q := lqAt s n
    .next (if fn = 0 ∨ fn = q.own.toNat then setLq s n (q.write fn r x) else s)
  | some y =>
    if fn ≠ 0 then .next s
    else
      match y with
      | .dpool d => execClassChange d (x.setWidth 2) s
      | .repreq =>
        .next { s with repreq := { s.repreq with
          req := s.repreq.req && !x.getLsbD 0, multi := s.repreq.multi && !x.getLsbD 1 } }
      | .sagcnt => .next { s with sagcnt := s.sagcnt &&& ~~~(x.setWidth 32) }
      | .qreset => execQreset x s
      | .fn f 0x30 => execDlconsWrite f x s
      | .fn f r => .next (writeFn s f r x)
      | .lq .. => .next s
  | none => .next s

/-! ### Peer packages -/

/-- Whether one of the sixteen ports carries Zwida Link (R301). -/
def linked (f : Fabric) : Bool := (List.range 16).any fun p => !f.nvme.contains p

/-- PEER_PACKAGE_ACCESS: a peer's load, store, atomic or copy reaches the stacks over Zwida Link at SYSTEM scope; a copy
draws on the fabric purse of the stack's domain, and is held while that has too few slots (R140, R301). -/
def execPeerPackageAccess (a : PeerAccess) (s : State) : Out :=
  enabledStep "PEER_PACKAGE_ACCESS" <|
    let put := fun (pa : Nat) (bs : List Byte) => { s with mem := writeBytes s.mem pa bs }
    if !linked s.fabric then none
    else match a with
    | .load pa n => if inStacks pa n then some (send s (.peerData (readBytes s.mem pa n))) else none
    | .store pa bs => if inStacks pa bs.length then some (put pa bs) else none
    | .copy pa bs => if inStacks pa bs.length then some (takeDma s ⟨pa, bs, bs.length, 0⟩) else none
    | .atomic op pa x expected =>
      if inStacks pa 8 && pa % 8 == 0 then
        let old := readEntry s.mem pa
        let s := match atomNew true op old x expected with
          | some new => put pa (leBytes 8 new.toNat)
          | none => s
        some (send s (.peerData (leBytes 8 old.toNat)))
      else none

end Sys2Proof.Machine
end

