-- ==== Sys2Proof/Machine/Dispatch.lean ====
section
/-!
DEFINITION. Sys2Proof/Machine/Dispatch.lean: the meaning of every instruction and step, one arm each.
-/
namespace Sys2Proof.Machine

/-- What an instruction or a step of the part does in a state. -/
def exec (i : Instr) (s : State) : Host.Outcome State Fault Refusal :=
  match i with
  | .add d a b => Sys2Proof.Machine.execAdd d a b s
  | .sub d a b => Sys2Proof.Machine.execSub d a b s
  | .andR d a b => Sys2Proof.Machine.execAnd d a b s
  | .orR d a b => Sys2Proof.Machine.execOr d a b s
  | .xorR d a b => Sys2Proof.Machine.execXor d a b s
  | .shl d a b => Sys2Proof.Machine.execShl d a b s
  | .shr d a b => Sys2Proof.Machine.execShr d a b s
  | .sra d a b => Sys2Proof.Machine.execSra d a b s
  | .mul d a b => Sys2Proof.Machine.execMul d a b s
  | .mulh d a b => Sys2Proof.Machine.execMulh d a b s
  | .mulhu d a b => Sys2Proof.Machine.execMulhu d a b s
  | .div d a b => Sys2Proof.Machine.execDiv d a b s
  | .divu d a b => Sys2Proof.Machine.execDivu d a b s
  | .rem d a b => Sys2Proof.Machine.execRem d a b s
  | .remu d a b => Sys2Proof.Machine.execRemu d a b s
  | .min d a b => Sys2Proof.Machine.execMin d a b s
  | .max d a b => Sys2Proof.Machine.execMax d a b s
  | .minu d a b => Sys2Proof.Machine.execMinu d a b s
  | .maxu d a b => Sys2Proof.Machine.execMaxu d a b s
  | .slt d a b => Sys2Proof.Machine.execSlt d a b s
  | .sltu d a b => Sys2Proof.Machine.execSltu d a b s
  | .seq d a b => Sys2Proof.Machine.execSeq d a b s
  | .sne d a b => Sys2Proof.Machine.execSne d a b s
  | .addw d a b => Sys2Proof.Machine.execAddw d a b s
  | .clz d a => Sys2Proof.Machine.execClz d a s
  | .popc d a => Sys2Proof.Machine.execPopc d a s
  | .addi d a imm => Sys2Proof.Machine.execAddi d a imm s
  | .andi d a imm => Sys2Proof.Machine.execAndi d a imm s
  | .ori d a imm => Sys2Proof.Machine.execOri d a imm s
  | .xori d a imm => Sys2Proof.Machine.execXori d a imm s
  | .shli d a n => Sys2Proof.Machine.execShli d a n s
  | .shri d a n => Sys2Proof.Machine.execShri d a n s
  | .srai d a n => Sys2Proof.Machine.execSrai d a n s
  | .slti d a imm => Sys2Proof.Machine.execSlti d a imm s
  | .sltui d a imm => Sys2Proof.Machine.execSltui d a imm s
  | .muli d a imm => Sys2Proof.Machine.execMuli d a imm s
  | .li d imm => Sys2Proof.Machine.execLi d imm s
  | .lui d imm => Sys2Proof.Machine.execLui d imm s
  | .luh d imm => Sys2Proof.Machine.execLuh d imm s
  | .ldb d a imm => Sys2Proof.Machine.execLdb d a imm s
  | .ldbu d a imm => Sys2Proof.Machine.execLdbu d a imm s
  | .ldh d a imm => Sys2Proof.Machine.execLdh d a imm s
  | .ldhu d a imm => Sys2Proof.Machine.execLdhu d a imm s
  | .ldw d a imm => Sys2Proof.Machine.execLdw d a imm s
  | .ldwu d a imm => Sys2Proof.Machine.execLdwu d a imm s
  | .ldd d a imm => Sys2Proof.Machine.execLdd d a imm s
  | .stb d a imm => Sys2Proof.Machine.execStb d a imm s
  | .sth d a imm => Sys2Proof.Machine.execSth d a imm s
  | .stw d a imm => Sys2Proof.Machine.execStw d a imm s
  | .std d a imm => Sys2Proof.Machine.execStd d a imm s
  | .lda d a size scope rmt => Sys2Proof.Machine.execLda d a size scope rmt s
  | .stl d a size scope rmt => Sys2Proof.Machine.execStl d a size scope rmt s
  | .atom d a b op scope rmt => Sys2Proof.Machine.execAtom d a b op scope rmt s
  | .atoma d a b op scope rmt => Sys2Proof.Machine.execAtoma d a b op scope rmt s
  | .atoml d a b op scope rmt => Sys2Proof.Machine.execAtoml d a b op scope rmt s
  | .atomal d a b op scope rmt => Sys2Proof.Machine.execAtomal d a b op scope rmt s
  | .fence kind scope => Sys2Proof.Machine.execFence kind scope s
  | .bz a disp => Sys2Proof.Machine.execBz a disp s
  | .bnz a disp => Sys2Proof.Machine.execBnz a disp s
  | .bltz a disp => Sys2Proof.Machine.execBltz a disp s
  | .bgez a disp => Sys2Proof.Machine.execBgez a disp s
  | .call a disp => Sys2Proof.Machine.execCall a disp s
  | .jr d a imm => Sys2Proof.Machine.execJr d a imm s
  | .bqt disp => Sys2Proof.Machine.execBqt disp s
  | .bqf disp => Sys2Proof.Machine.execBqf disp s
  | .loop a disp => Sys2Proof.Machine.execLoop a disp s
  | .lgo imm => Sys2Proof.Machine.execLgo imm s
  | .lgor a => Sys2Proof.Machine.execLgor a s
  | .lwait => Sys2Proof.Machine.execLwait s
  | .dqpBroadcast a q => Sys2Proof.Machine.execDqpBroadcast a q s
  | .dqpIota a b q => Sys2Proof.Machine.execDqpIota a b q s
  | .dqld a b uns size q => Sys2Proof.Machine.execDqld a b uns size q s
  | .dqstrm a b k uns size q => Sys2Proof.Machine.execDqstrm a b k uns size q s
  | .xqp d => Sys2Proof.Machine.execXqp d s
  | .srd d idx => Sys2Proof.Machine.execSrd d idx s
  | .swr a idx => Sys2Proof.Machine.execSwr a idx s
  | .regn => Sys2Proof.Machine.execRegn s
  | .cwait a b yld => Sys2Proof.Machine.execCwait a b yld s
  | .waitv k a b cond scope rmt => Sys2Proof.Machine.execWaitv k a b cond scope rmt s
  | .barSync b => Sys2Proof.Machine.execBarSync b s
  | .barArrive b => Sys2Proof.Machine.execBarArrive b s
  | .barWait b => Sys2Proof.Machine.execBarWait b s
  | .barExpect a b => Sys2Proof.Machine.execBarExpect a b s
  | .barInit a b => Sys2Proof.Machine.execBarInit a b s
  | .yieldW => Sys2Proof.Machine.execYieldW s
  | .cpyImmediate a b bare barn shape => Sys2Proof.Machine.execCpyImmediate a b bare barn shape s
  | .cpyRegister a b k shape => Sys2Proof.Machine.execCpyRegister a b k shape s
  | .mxb a page fmt => Sys2Proof.Machine.execMxb a page fmt s
  | .mxa a page bslot aslot rows1 acc => Sys2Proof.Machine.execMxa a page bslot aslot rows1 acc s
  | .mxrd a b rows1 g acc => Sys2Proof.Machine.execMxrd a b rows1 g acc s
  | .mxz rows1 acc => Sys2Proof.Machine.execMxz rows1 acc s
  | .qfence mask => Sys2Proof.Machine.execQfence mask s
  | .lnch k a => Sys2Proof.Machine.execLnch k a s
  | .hintsucc => Sys2Proof.Machine.execHintsucc s
  | .waitpred => Sys2Proof.Machine.execWaitpred s
  | .crew a b => Sys2Proof.Machine.execCrew a b s
  | .creww k => Sys2Proof.Machine.execCreww k s
  | .breakCrew => Sys2Proof.Machine.execBreakCrew s
  | .goStroke => Sys2Proof.Machine.execGoStroke s
  | .srel => Sys2Proof.Machine.execSrel s
  | .regroup k a => Sys2Proof.Machine.execRegroup k a s
  | .regroupTimeout warp => Sys2Proof.Machine.execRegroupTimeout warp s
  | .qpush k a b => Sys2Proof.Machine.execQpush k a b s
  | .qpop k a b auto => Sys2Proof.Machine.execQpop k a b auto s
  | .qsteal k a b => Sys2Proof.Machine.execQsteal k a b s
  | .ssld a b k len => Sys2Proof.Machine.execSsld a b k len s
  | .ssst a b k len => Sys2Proof.Machine.execSsst a b k len s
  | .ssnap a b k => Sys2Proof.Machine.execSsnap a b k s
  | .ssroll a b k => Sys2Proof.Machine.execSsroll a b k s
  | .ssfork a b k => Sys2Proof.Machine.execSsfork a b k s
  | .ssdrop a k => Sys2Proof.Machine.execSsdrop a k s
  | .trap code => Sys2Proof.Machine.execTrap code s
  | .eretResume => Sys2Proof.Machine.execEretResume s
  | .eretReplay => Sys2Proof.Machine.execEretReplay s
  | .exitWarp => Sys2Proof.Machine.execExitWarp s
  | .tlbiVa a b => Sys2Proof.Machine.execTlbiVa a b s
  | .tlbiCtx b => Sys2Proof.Machine.execTlbiCtx b s
  | .tlbiSplit a b => Sys2Proof.Machine.execTlbiSplit a b s
  | .tlbiGpa a b => Sys2Proof.Machine.execTlbiGpa a b s
  | .nop => Sys2Proof.Machine.execNop s
  | .vadd c d a b => Sys2Proof.Machine.execVadd c d a b s
  | .vsub c d a b => Sys2Proof.Machine.execVsub c d a b s
  | .vmul c d a b => Sys2Proof.Machine.execVmul c d a b s
  | .vmulh c d a b => Sys2Proof.Machine.execVmulh c d a b s
  | .vmulhu c d a b => Sys2Proof.Machine.execVmulhu c d a b s
  | .vmad c d a b cc => Sys2Proof.Machine.execVmad c d a b cc s
  | .vand c d a b => Sys2Proof.Machine.execVand c d a b s
  | .vor c d a b => Sys2Proof.Machine.execVor c d a b s
  | .vxor c d a b => Sys2Proof.Machine.execVxor c d a b s
  | .vshl c d a b => Sys2Proof.Machine.execVshl c d a b s
  | .vshr c d a b => Sys2Proof.Machine.execVshr c d a b s
  | .vsra c d a b => Sys2Proof.Machine.execVsra c d a b s
  | .vmin c d a b => Sys2Proof.Machine.execVmin c d a b s
  | .vmax c d a b => Sys2Proof.Machine.execVmax c d a b s
  | .vabs c d a => Sys2Proof.Machine.execVabs c d a s
  | .vneg c d a => Sys2Proof.Machine.execVneg c d a s
  | .vpopc c d a => Sys2Proof.Machine.execVpopc c d a s
  | .vclz c d a => Sys2Proof.Machine.execVclz c d a s
  | .vsel c d a b p => Sys2Proof.Machine.execVsel c d a b p s
  | .vmov c d a => Sys2Proof.Machine.execVmov c d a s
  | .vli c d a hi imm => Sys2Proof.Machine.execVli c d a hi imm s
  | .vsr c d sel => Sys2Proof.Machine.execVsr c d sel s
  | .vaddsat c d a b => Sys2Proof.Machine.execVaddsat c d a b s
  | .vcmp c a b pt pf cond => Sys2Proof.Machine.execVcmp c a b pt pf cond s
  | .fcmp c a b pt pf cond => Sys2Proof.Machine.execFcmp c a b pt pf cond s
  | .pand c t p q => Sys2Proof.Machine.execPand c t p q s
  | .por c t p q => Sys2Proof.Machine.execPor c t p q s
  | .pxor c t p q => Sys2Proof.Machine.execPxor c t p q s
  | .pandn c t p q => Sys2Proof.Machine.execPandn c t p q s
  | .pfromv c t a => Sys2Proof.Machine.execPfromv c t a s
  | .vfromp c d p form => Sys2Proof.Machine.execVfromp c d p form s
  | .xmrd c d => Sys2Proof.Machine.execXmrd c d s
  | .xmwr c a p form => Sys2Proof.Machine.execXmwr c a p form s
  | .fadd c d a b => Sys2Proof.Machine.execFadd c d a b s
  | .fsub c d a b => Sys2Proof.Machine.execFsub c d a b s
  | .fmul c d a b => Sys2Proof.Machine.execFmul c d a b s
  | .ffma c d a b cc => Sys2Proof.Machine.execFfma c d a b cc s
  | .fmin c d a b => Sys2Proof.Machine.execFmin c d a b s
  | .fmax c d a b => Sys2Proof.Machine.execFmax c d a b s
  | .frnd c d a => Sys2Proof.Machine.execFrnd c d a s
  | .hadd2 c d a b => Sys2Proof.Machine.execHadd2 c d a b s
  | .hsub2 c d a b => Sys2Proof.Machine.execHsub2 c d a b s
  | .hmul2 c d a b => Sys2Proof.Machine.execHmul2 c d a b s
  | .hfma2 c d a b cc => Sys2Proof.Machine.execHfma2 c d a b cc s
  | .hmin2 c d a b => Sys2Proof.Machine.execHmin2 c d a b s
  | .hmax2 c d a b => Sys2Proof.Machine.execHmax2 c d a b s
  | .hdot2 c d a b cc => Sys2Proof.Machine.execHdot2 c d a b cc s
  | .frcp c d a => Sys2Proof.Machine.execFrcp c d a s
  | .frsq c d a => Sys2Proof.Machine.execFrsq c d a s
  | .fsqrt c d a => Sys2Proof.Machine.execFsqrt c d a s
  | .fexp2 c d a => Sys2Proof.Machine.execFexp2 c d a s
  | .flog2 c d a => Sys2Proof.Machine.execFlog2 c d a s
  | .fsin c d a => Sys2Proof.Machine.execFsin c d a s
  | .fcos c d a => Sys2Proof.Machine.execFcos c d a s
  | .ftanh c d a => Sys2Proof.Machine.execFtanh c d a s
  | .cvt c d a b cc src sel sat => Sys2Proof.Machine.execCvt c d a b cc src sel sat s
  | .qpack c d a b cc slot pos => Sys2Proof.Machine.execQpack c d a b cc slot pos s
  | .qunpk c d a b slot pos => Sys2Proof.Machine.execQunpk c d a b slot pos s
  | .shfl c d a b mode => Sys2Proof.Machine.execShfl c d a b mode s
  | .vote c d p kind toBq => Sys2Proof.Machine.execVote c d p kind toBq s
  | .vred c d a op => Sys2Proof.Machine.execVred c d a op s
  | .vscan c d a op excl => Sys2Proof.Machine.execVscan c d a op excl s
  | .vmovx c d a p expand => Sys2Proof.Machine.execVmovx c d a p expand s
  | .vld c d a m size off => Sys2Proof.Machine.execVld c d a m size off s
  | .vst c a cc m size off => Sys2Proof.Machine.execVst c a cc m size off s
  | .vatom c d a b cc m op off => Sys2Proof.Machine.execVatom c d a b cc m op off s
  | .tidx c d a shape dim => Sys2Proof.Machine.execTidx c d a shape dim s
  | .hfromv c a h => Sys2Proof.Machine.execHfromv c a h s
  | .htov c d h => Sys2Proof.Machine.execHtov c d h s
  | .hld c a base scale h off => Sys2Proof.Machine.execHld c a base scale h off s
  | .hst c a base scale h off => Sys2Proof.Machine.execHst c a base scale h off s
  | .hxor c hd ha hb => Sys2Proof.Machine.execHxor c hd ha hb s
  | .hrot c hd ha amt => Sys2Proof.Machine.execHrot c hd ha amt s
  | .hbun c ha k wt neg => Sys2Proof.Machine.execHbun c ha k wt neg s
  | .hthr c hd tie k => Sys2Proof.Machine.execHthr c hd tie k s
  | .hkclr c k => Sys2Proof.Machine.execHkclr c k s
  | .hdist c d ha hb => Sys2Proof.Machine.execHdist c d ha hb s
  | .hnear c d a b h => Sys2Proof.Machine.execHnear c d a b h s
  | .hput c b h => Sys2Proof.Machine.execHput c b h s
  | .laneBlockCompletion warp => Sys2Proof.Machine.execLaneBlockCompletion warp s
  | .affineStreamPush warp q => Sys2Proof.Machine.execAffineStreamPush warp q s
  | .launchQueueTailWrite fn q value => Sys2Proof.Machine.execLaunchQueueTailWrite fn q value s
  | .launchRecordRead src => Sys2Proof.Machine.execLaunchRecordRead src s
  | .deviceLaunchPass core => Sys2Proof.Machine.execDeviceLaunchPass core s
  | .lqstart fn q value => Sys2Proof.Machine.execLqstart fn q value s
  | .blockExit block => Sys2Proof.Machine.execBlockExit block s
  | .gridCompletion grid => Sys2Proof.Machine.execGridCompletion grid s
  | .strokeLaunch crew => Sys2Proof.Machine.execStrokeLaunch crew s
  | .templateCopyIssue crew => Sys2Proof.Machine.execTemplateCopyIssue crew s
  | .strokeRetire crew => Sys2Proof.Machine.execStrokeRetire crew s
  | .outSlotRelease crew => Sys2Proof.Machine.execOutSlotRelease crew s
  | .strokeCommit crew => Sys2Proof.Machine.execStrokeCommit crew s
  | .engineCommandStart core queue => Sys2Proof.Machine.execEngineCommandStart core queue s
  | .copyPieceLanding core => Sys2Proof.Machine.execCopyPieceLanding core s
  | .engineCommandCompletion core queue => Sys2Proof.Machine.execEngineCommandCompletion core queue s
  | .releaseWave core => Sys2Proof.Machine.execReleaseWave core s
  | .trapEntry warp => Sys2Proof.Machine.execTrapEntry warp s
  | .faultResolution target r => Sys2Proof.Machine.execFaultResolution target r s
  | .formatEmulation warp has => Sys2Proof.Machine.execFormatEmulation warp has s
  | .stallSwapOut grid gang => Sys2Proof.Machine.execStallSwapOut grid gang s
  | .waitingBlockSwap grid => Sys2Proof.Machine.execWaitingBlockSwap grid s
  | .blockRestore ctx frame => Sys2Proof.Machine.execBlockRestore ctx frame s
  | .blockRelaunch block => Sys2Proof.Machine.execBlockRelaunch block s
  | .preemptionRequest ctx => Sys2Proof.Machine.execPreemptionRequest ctx s
  | .preemptionSave ctx => Sys2Proof.Machine.execPreemptionSave ctx s
  | .contextReset ctx => Sys2Proof.Machine.execContextReset ctx s
  | .qreset value => Sys2Proof.Machine.execQreset value s
  | .dlconsWrite vf value => Sys2Proof.Machine.execDlconsWrite vf value s
  | .writeBackScan ctx va => Sys2Proof.Machine.execWriteBackScan ctx va s
  | .classChange domain cls => Sys2Proof.Machine.execClassChange domain cls s
  | .classChangeEffect domain => Sys2Proof.Machine.execClassChangeEffect domain s
  | .supplySag cluster => Sys2Proof.Machine.execSupplySag cluster s
  | .eccError site correctable => Sys2Proof.Machine.execEccError site correctable s
  | .selfTestCompletion u pass => Sys2Proof.Machine.execSelfTestCompletion u pass s
  | .peerTimeout target => Sys2Proof.Machine.execPeerTimeout target s
  | .redfishRequest r => Sys2Proof.Machine.execRedfishRequest r s
  | .challenge nonce => Sys2Proof.Machine.execChallenge nonce s
  | .registerWrite fn off value => Sys2Proof.Machine.execRegisterWrite fn off value s
  | .writeLands warp => Sys2Proof.Machine.execWriteLands warp s
  | .contextRelease ctx => Sys2Proof.Machine.execContextRelease ctx s
  | .contextReadmission ctx => Sys2Proof.Machine.execContextReadmission ctx s
  | .railRecovers cluster => Sys2Proof.Machine.execRailRecovers cluster s
  | .thermalBandChange cluster band => Sys2Proof.Machine.execThermalBandChange cluster band s
  | .peerPackageAccess a => Sys2Proof.Machine.execPeerPackageAccess a s
  | .gangPlacement => Sys2Proof.Machine.execGangPlacement s
  | .controlInterval => Sys2Proof.Machine.execControlInterval s
  | .pursePeriod => Sys2Proof.Machine.execPursePeriod s
  | .powerOn => Sys2Proof.Machine.execPowerOn s
  | .getCertificate => Sys2Proof.Machine.execGetCertificate s
  | .getMeasurements => Sys2Proof.Machine.execGetMeasurements s

end Sys2Proof.Machine
end

