-- ==== Sys2Proof/Machine/Schedule.lean ====
section
/-!
DEFINITION. Sys2Proof/Machine/Schedule.lean: how a warp's next word is fetched, decoded and run; which warp of a slot
issues (R30, R31); which steps of the part are waiting to be taken; what an input does; and the place at which a test
of one word puts it.
-/
namespace Sys2Proof.Machine

/-! ### One word of one warp -/

/-- The machine with a warp about to act. -/
def State.turnOf (s : State) (k : Nat) : State := { s with cur := k, waited := false, asked := [] }

/-- A scalar word that raises a cause at its fetch or in its decoding (R181, R182). -/
def raiseWord (r : Raise) (s s' : State) : Out := scalarWord .plain [] (fun _ => .raises s' r) s

/-- A cause that the word at the pc has raised and that waits is taken once the stroke is committed (R42) and the lane
blocks that can complete have completed (R104, R165). -/
def pendingTurn (s : State) (x : ScalarFault) : Out :=
  let w := s.me
  if (uncommitted s w).isNone && (x.atOnce || w.dispatch.isEmpty) then takeScalar s s x else waits s

/-- The next S-word of the acting warp: fetched, decoded, run. -/
def scalarTurn (s : State) : Out :=
  let w := s.me
  match w.fault with
  | some x => pendingTurn s x
  | none =>
    match fetchUnit s (whoOf s s.cur w) w.pc with
    | (s', .error r) => raiseWord r s s'
    | (s', .ok u) =>
      match decodeS u with
      | .ok i => exec i s'
      | .error _ => raiseWord (.plain cILLEGAL) s' s'

/-- The prefix of a word whose units are no instruction. -/
def illegalPrefix : Prefix := ⟨0, 0, false, .zero⟩

/-- What a lane word whose units are no instruction does. Two prefixes in a row have no guard, and raise ILLEGAL
whatever lanes are active (R190). -/
def illegalLane (d : Dispatch) (us : List (BitVec 32)) (s : State) : Out :=
  match us with
  | [a, b, c] => laneIllegal (lctl (lword a b c) none) s
  | [_, a, b, c] => laneIllegal (lctl (lword a b c) (some illegalPrefix)) s
  | _ => raiseLane s s d.addr ⟨cILLEGAL, 0, d.mask s.me, false⟩ [] []

/-- The cause of the next lane word, held by an uncommitted stroke, is taken once the stroke commits (R42). -/
def heldTurn (s : State) (d : Dispatch) (f : LaneFault) : Out :=
  if (uncommitted s s.me).isSome then waits s
  else takeLane s s d.addr ⟨f.cause, f.addr, f.lanes, f.second⟩ f.sites

/-- The next lane word of the acting warp. A fault of its fetch is raised in the lanes of EXM. The words of a lane
stream issue one after another and a word's checks end at its issue, so no later word of the region has issued when a
fault is found (R164; DESIGN CHOICE, log entry 101). -/
def laneTurn (s : State) : Out :=
  let w := s.me
  match w.laneBlock with
  | none => waits s
  | some d =>
    if w.sup || !canRun s || decide (s.cycle < w.laneAt) then waits s
    else
      match w.laneFault with
      | some f => heldTurn s d f
      | none =>
        match fetchLane s (whoOf s s.cur w) d.addr with
        | (s', .error r) => raiseLane s s' d.addr { r with lanes := d.mask w } [] []
        | (s', .ok us) =>
          match decodeLaneUnits us with
          | .ok (i, _) => exec i s'
          | .error _ => illegalLane d us s'

/-- What the next step of a warp in one of its streams does, its slots paid for: an asynchronous cause goes before its
next word (R162). Its entry takes the slot's opportunity and leaves the warp's passes and its last stream as they were
(DESIGN CHOICE, log entry 80). -/
def rawTurn (s : State) (k : Nat) (lane : Bool) : Out :=
  let s := s.turnOf k
  if !canRun s then waits s
  else if asyncFirst s s.me then exec (.trapEntry k) s
  else if lane then laneTurn s else scalarTurn s

/-- A step of a warp waits until the purses have given the slots it asks for, for its walks (R140; DESIGN CHOICE, log
entry 85). -/
def payTurn (s : State) (k : Nat) (o : Out) : Out :=
  match o with
  | .next t =>
    if t.waited then o
    else
      match paidStep s t k with
      | some t => .next t
      | none => waits (s.turnOf k)
  | .fault _ | .refused _ => o

/-- The next step of a warp in one of its streams. -/
def warpTurn (s : State) (k : Nat) (lane : Bool) : Out := payTurn s k (rawTurn s k lane)

/-- Whether a warp's word would issue now (R30). -/
def issues (o : Out) : Bool :=
  match o with
  | .next s => !s.waited
  | .fault _ | .refused _ => false

def warpReady (s : State) (k : Nat) (lane : Bool) : Bool := issues (warpTurn s k lane)

/-! ### Which warp issues (R30, R31, R212) -/

/-- The passes after which a warp is overdue (R31). -/
def overdueAt : Nat := 48

/-- A warp's age: the moment its block became resident or was last restored, then the block's own warps by WID, then
strokes by number. Of blocks of one moment the one started first is the older, of equal strokes of two crews the one
in the lower warp slot (DESIGN CHOICE, log entry 70). -/
def ageKey (s : State) (w : Warp) : Nat × Nat :=
  ((s.blockAt w.block).born, match w.stroke with
    | none => w.wid
    | some (_, k) => 64 + k)

def older (x y : Nat × Nat) : Bool := decide (x.1 < y.1) || (x.1 == y.1 && decide (x.2 < y.2))

/-- Whether a warp issues before another. -/
def before (s : State) (x y : Warp) : Bool :=
  let ox := decide (overdueAt ≤ x.pass)
  let oy := decide (overdueAt ≤ y.pass)
  if ox != oy then ox
  else if ox && x.pass != y.pass then decide (y.pass < x.pass)
  else if x.yielded != y.yielded then y.yielded
  else older (ageKey s x) (ageKey s y)

/-- The warps a slot of a core serves. -/
def slotWarps (s : State) (core slot : Nat) : List Nat :=
  (s.warps.filter fun e => e.1 / 64 == core && e.1 % 4 == slot).map (·.1)

/-- The ready warps of a list, each with its scalar and its lane stream's readiness. -/
def readyOf (s : State) (ks : List Nat) : List (Nat × Bool × Bool) :=
  (ks.map fun k => (k, warpReady s k false, warpReady s k true)).filter fun e => e.2.1 || e.2.2

/-- The warp that issues, among the ready ones, and whether its lane stream does: the streams alternate (R30). -/
def chooseFrom (s : State) (rs : List (Nat × Bool × Bool)) : Option (Nat × Bool) :=
  let best := rs.foldl (fun (acc : Option (Nat × Bool × Bool)) e =>
    match acc with
    | none => some e
    | some a => if before s (s.warpAt e.1) (s.warpAt a.1) then some e else some a) none
  best.map fun e => (e.1, e.2.2 && (!e.2.1 || !(s.warpAt e.1).lastLane))

/-- The choice of a slot. -/
def chosen (s : State) (core slot : Nat) : Option (Nat × Bool) := chooseFrom s (readyOf s (slotWarps s core slot))

/-- The other ready warps of a slot let an opportunity pass (R31). -/
def passOver (ks : List Nat) (k : Nat) (s : State) : State :=
  ks.foldl (fun s j =>
    let w := s.warpAt j
    if j = k ∨ w.stat ≠ .running then s else s.setWarp j { w with pass := w.pass + 1 }) s

/-- The barrier that a slot's word would reach, by block and number, and whether it arrives there (R134). Slots are
numbered 4·core + slot. -/
def chosenBar (s : State) (n : Nat) : Option (Nat × Nat × Bool) :=
  match chosen s (n / 4) (n % 4) with
  | some (k, false) =>
    let w := s.warpAt k
    match peekScalar s k with
    | some (.barExpect _ b) => some (w.block, b.toNat, false)
    | some (.barArrive b) => some (w.block, b.toNat, true)
    | some (.barSync b) => if w.wait = .none then some (w.block, b.toNat, true) else none
    | _ => none
  | _ => none

/-- The S-word that a slot would issue, if its choice is a scalar stream. -/
def chosenWord (s : State) (n : Nat) : Option Instr :=
  match chosen s (n / 4) (n % 4) with
  | some (k, false) => peekScalar s k
  | _ => none

/-- A word of a warp has gone from `s` to `t`: the barrier it has reached is noted for the rest of the cycle (R134). -/
def noteReached (s t : State) (k : Nat) (hit : Option (Nat × Nat × Bool)) : State :=
  let moved := (t.warpAt k).iret != (s.warpAt k).iret || (t.warpAt k).wait != (s.warpAt k).wait
  match hit with
  | some x => if moved then { t with reached := t.reached ++ [x] } else t
  | none => t

/-- An issue opportunity of a slot; none where no warp of it is ready. -/
def issueSlot (s : State) (core slot : Nat) : Option Out :=
  let rs := readyOf s (slotWarps s core slot)
  match chooseFrom s rs with
  | none => none
  | some (k, lane) =>
    some (match warpTurn s k lane with
      | .next t => .next (passOver (rs.map (·.1)) k (noteReached s t k (chosenBar s (4 * core + slot))))
      | o => o)

/-! ### The steps of the part -/

/-- The steps of the part that may be waiting, in the order in which they are tried. Nothing orders agents against
each other; `State.agenda` can name any other order (log entry 5). -/
def partSteps (s : State) : List Instr :=
  let warps := (s.warps.filter fun e => e.2.stat == .running).map (·.1)
  let cores := s.cores.map (·.1)
  let crews := (s.crews.filter fun e => e.2.live).map (·.1)
  let blocks := (s.blocks.filter fun e => e.2.live).map (·.1)
  let ctxs := s.ctxs.map (·.1)
  let grids := (List.range s.grids.length).filter fun g => !(s.gridAt g).done
  [.controlInterval, .pursePeriod]
    ++ ((ctxs.filter fun c => !(ctxBlocks s c).isEmpty).map .contextReset)
    ++ (ctxs.map .preemptionSave)
    ++ (warps.flatMap fun k => [.writeLands k, .laneBlockCompletion k, .regroupTimeout k, .trapEntry k])
    ++ (warps.flatMap fun k => (List.range 4).map fun q => .affineStreamPush k (BitVec.ofNat 2 q))
    ++ (cores.map .releaseWave)
    ++ (cores.flatMap fun c => (List.range 3).map fun q => .engineCommandCompletion c (BitVec.ofNat 2 q))
    ++ (cores.map .copyPieceLanding)
    ++ (cores.flatMap fun c => ((List.range 3).filter fun q => (headCmd s c q).any (!·.started)).map fun q =>
      .engineCommandStart c (BitVec.ofNat 2 q))
    ++ (crews.flatMap fun c => [.outSlotRelease c, .strokeCommit c, .strokeRetire c, .templateCopyIssue c, .strokeLaunch c])
    ++ (blocks.flatMap fun b => [.blockExit b, .blockRelaunch b])
    ++ ((List.range 16).map fun q => .launchRecordRead (.queue q))
    ++ (cores.map .deviceLaunchPass)
    ++ (grids.map .gridCompletion)
    ++ (s.scans.map fun x => .writeBackScan x.ctx (BitVec.ofNat 64 x.va))
    ++ (s.domains.map fun e => .classChangeEffect e.1)
    ++ (s.saved.map fun x => .blockRestore x.ctx x.frame)
    ++ (blocks.map fun b => .stallSwapOut (s.blockAt b).grid (gangIx s b))
    ++ [.gangPlacement]
    ++ (grids.map .waitingBlockSwap)

/-- The state after the first step of a list that is enabled. -/
def firstEnabled (s : State) : List Instr → Option Out
  | [] => none
  | i :: r =>
    match exec i s with
    | .refused _ => firstEnabled s r
    | o => some o

/-! ### The cycle -/

/-- The slots with warps whose issue opportunity of this cycle is not past. -/
def slotsLeft (s : State) : List Nat :=
  ((s.warps.filter fun e => e.2.stat == .running).foldl (fun acc e =>
    let n := 4 * (e.1 / 64) + e.1 % 4
    if acc.contains n || s.issued.contains n then acc else insertAsc n acc) [])

/-- Whether a slot's word is a QSTEAL and another slot is still to issue a QPOP in this cycle, which goes first
(R115). -/
def stealWaits (s : State) (n : Nat) : Bool :=
  match chosenWord s n with
  | some (.qsteal ..) => (slotsLeft s).any fun m => m != n && match chosenWord s m with
    | some (.qpop ..) => true
    | _ => false
  | _ => false

/-- Whether a slot's arrival at a barrier waits for another slot's EXPECT there, which goes first; an EXPECT that an
arrival has preceded in this cycle waits for the next (R134). -/
def barWaits (s : State) (n : Nat) : Bool :=
  match chosenBar s n with
  | some (blk, b, true) => (slotsLeft s).any fun m => m != n && chosenBar s m == some (blk, b, false)
  | some (blk, b, false) => s.reached.contains (blk, b, true)
  | none => false

/-- Whether a slot's word lets another go first in this cycle. -/
def slotHeld (s : State) (n : Nat) : Bool := stealWaits s n || barWaits s n

/-- A slot's issue opportunity of this cycle is past. -/
def State.spend (s : State) (n : Nat) : State := { s with issued := n :: s.issued }

/-- The first slot with a ready warp issues; each slot has one opportunity a cycle. -/
def issueFirst (s : State) : List Nat → Option Out
  | [] => none
  | n :: r =>
    if slotHeld s n then issueFirst s r
    else
      match issueSlot (s.spend n) (n / 4) (n % 4) with
      | some o => some o
      | none => issueFirst (s.spend n) r

/-- What the next lane word of a stroke has read of the window slots it waits on (R39, R45). -/
def noteReads (s : State) (k : Nat) : State :=
  match rawTurn s k true with
  | .next t => if t.waited then s.setWarp k { s.warpAt k with reads := (t.warpAt k).reads } else s
  | .fault _ | .refused _ => s

/-- Since when a warp has waited in WAITV, or in CWAIT with the yield option (R283). -/
def noteYield (s : State) (k : Nat) : State :=
  let w := s.warpAt k
  let idle := w.parked.isNone && atYieldWait s k && !warpReady s k false
  s.setWarp k { w with waitFrom := if idle then some (w.waitFrom.getD s.cycle) else none }

/-- A block with a ready warp does not stall (R171). -/
def noteReady (s : State) (k : Nat) : State :=
  let b := (s.warpAt k).block
  if warpReady s k false || warpReady s k true then
    s.setBlock b { s.blockAt b with lastMove := s.cycle + 1 }
  else s

/-- A warp whose next word the purses cannot pay for draws what the period has left (R140). -/
def noteDraws (s : State) (k : Nat) : State :=
  let unpaid := fun (lane : Bool) => match rawTurn s k lane with
    | .next t => if !t.waited && (paidStep s t k).isNone then some t else none
    | .fault _ | .refused _ => none
  match (unpaid false).orElse fun _ => unpaid true with
  | some t => (drawAhead s t k).getD s
  | none => s

/-- What a running warp's waits come to by the end of a cycle. -/
def noteWarp (s : State) (k : Nat) : State :=
  let s := if (s.warpAt k).stroke.isSome then noteReads s k else s
  noteReady (noteYield (noteDraws s k) k) k

def noteWaits (s : State) : State :=
  ((s.warps.filter fun e => e.2.stat == .running).map (·.1)).foldl noteWarp s

/-- The end of the cycle (R57, R137): the phases that have come to open do (R134), the next writers that a dirty log
resumes go on (R116), and firmware takes up the repairs that wait (R305). -/
def tick (s : State) : State :=
  let t := retryRepairs (drainLogs (openBarriers (noteWaits s)))
  { t with cycle := s.cycle + 1, issued := [], reached := [] }

/-- What moves next where nothing else is asked: boot, then the steps of the part, then the slots, then the end of the
cycle. -/
def ownTurn (s : State) : Out :=
  if s.boot.power = .off then exec .powerOn s
  else
    match firstEnabled s (partSteps s) with
    | some o => o
    | none => (issueFirst s (slotsLeft s)).getD (.next (tick s))

/-! ### Inputs and the agenda -/

/-- A write through a function's BAR0 (R297, R298). -/
def barWrite : Instr → Bool
  | .registerWrite .. | .launchQueueTailWrite .. | .lqstart .. | .qreset _ | .dlconsWrite .. | .classChange .. => true
  | _ => false

/-- In recovery the host link presents the PF with BAR0 reading zero (R303). -/
def barShut (s : State) : Bool := !s.boot.link && s.boot.power == .recovery

/-- A step asked for from outside is dropped where it cannot occur; the words of a program come by their fetch
only. -/
def takeStep (i : Instr) (s : State) : Out :=
  if (encode i).isSome || (barWrite i && barShut s) then .next s
  else
    match exec i s with
    | .refused _ => .next s
    | o => o

/-- The registers that firmware sets for a context when it creates or runs it; the tables the part keeps for it stay
(R57, R62, R74, R113, R126, R175). -/
def setContext (s : State) (c : Nat) (ptb tvb frb sdtb : Word) (ctxid : BitVec 16) (graph tqBase vf grace deadline : Nat) :
    State :=
  let x := s.ctxAt c
  let x := { x with
    live := true, ptb := ptb, tvb := tvb, frb := frb, sdtb := sdtb, graph := graph, tqBase := tqBase, vf := vf
    grace := grace, deadline := deadline }
  assignCtxid (s.setCtx c x) c ctxid

/-- The value that a read through a function's BAR0 finds (R297, R298, R303). -/
def barValue (s : State) (fn off : Nat) : Nat :=
  if barShut s then 0
  else
    match barReg s fn off with
    | some r => ioValue s r
    | none => 0

/-- Firmware assigns the fabric ports, and connects controllers with their I/O queues (R301). -/
def assignFabric (nvme queues : List Nat) : Fabric :=
  ⟨(List.range 16).filter nvme.contains, (queues.take 64).map fun n => List.replicate (min n 16) 0⟩

/-- Whether an I/O queue of a controller has room for a command of firmware's: a port carries NVMe, and the queue's
depth is 1024 (R301). -/
def Fabric.takes (f : Fabric) (c q : Nat) : Bool :=
  !f.nvme.isEmpty && ((f.ctls[c]?).bind (·[q]?)).any fun n => decide (n < 1024)

/-- The DMA of an NVMe command reads or writes the stacks, within the fabric purse of their domain (R140, R301). -/
def fabricDma (s : State) (pa n : Nat) (bs : List Byte) : State :=
  let len := max n bs.length
  if s.fabric.nvme.isEmpty || !inStacks pa len then s else takeDma s ⟨pa, bs, len, 0⟩

/-- The rollback counter advances by a signed command of an image that runs, never back (R303). -/
def Boot.advance (b : Boot) (version : Nat) (signed : Bool) : Boot :=
  match b.power with
  | .running _ => if signed then { b with fuse := max b.fuse version } else b
  | .off | .recovery => b

/-- What arrives from outside. -/
def takeInput (x : Input) (s : State) : Out :=
  match x with
  | .event i => takeStep i s
  | .memWrite pa bs => .next { s with mem := writeBytes s.mem pa bs }
  | .setCtx c ptb tvb frb sdtb ctxid graph tqBase vf grace deadline =>
    .next (setContext s c ptb tvb frb sdtb ctxid graph tqBase vf grace deadline)
  | .bindQueue q ctx => .next (setLq s q.toNat { lqAt s q.toNat with ctx := ctx })
  | .setCap u cap refill limit => .next (s.setCluster u { s.clusterAt u with cap := cap, refill := refill, limit := limit })
  | .setSlope u slope => .next (s.setCluster u { s.clusterAt u with slope := slope })
  | .setPurses d purse => .next (s.setDomain d { s.domainAt d with purse := purse })
  | .unmapped vf n => .next (s.setFn vf { s.fnAt vf with qused := (s.fnAt vf).qused - BitVec.ofNat 40 n })
  | .rootPortAborts k => .next { s with aborted := some k }
  | .assignPorts nvme queues => .next { s with fabric := assignFabric nvme queues }
  | .nvmeQueue c q => .next (if s.fabric.takes c q then { s with fabric := s.fabric.count c q (· + 1) } else s)
  | .nvmeDma pa n bs => .next (fabricDma s pa n bs)
  | .nvmeDone c q => .next { s with fabric := s.fabric.count c q (· - 1) }
  | .rollback version signed => .next { s with boot := s.boot.advance version signed }
  | .barRead fn off => .next (send s (.barData fn off (barValue s fn off)))

/-- What the agenda asks for next. -/
def takeTurn (t : Turn) (s : State) : Out :=
  match t with
  | .issue core slot =>
    let n := 4 * core + slot
    if s.issued.contains n || slotHeld s n then .next s else (issueSlot (s.spend n) core slot).getD (.next s)
  | .event i => takeStep i s
  | .tick => .next (tick s)

/-! ### Where a single word is put -/

/-- The virtual page at which a single word is put, and the physical bases of the tables that map it and of the page:
the firmware-reserved top of stack 0 (R65). -/
def wordVa : Word := 0x1_0000
def wordTable : Nat := 0xF_F000_0000
def wordPage : Nat := 0xF_F010_0000

/-- A pointer to a table, and a leaf with every permission, already dirty (R127). -/
def pointerEntry (pa : Nat) : Nat := pa + 1
def openLeaf (pa : Nat) : Nat := pa + 0x7F

/-- Memory with a word's bytes at `wordPage` and a walk of four levels that maps `wordVa` to it. -/
def wordMemory (m : Tbl Byte) (bs : List Byte) : Tbl Byte :=
  let t := fun (n : Nat) => wordTable + 0x4000 * n
  let m := writeBytes m (t 0) (leBytes 8 (pointerEntry (t 1)))
  let m := writeBytes m (t 1) (leBytes 8 (pointerEntry (t 2)))
  let m := writeBytes m (t 2) (leBytes 8 (pointerEntry (t 3)))
  let m := writeBytes m (t 3 + 8 * 4) (leBytes 8 (openLeaf wordPage))
  writeBytes m wordPage bs

/-- A launch record of one block of one warp whose scalar entry is `wordVa`, with the HV and CREW flags, so that every
register of a warp is there. -/
def wordRecord : LaunchRec where
  entry := wordVa
  lcb := wordVa
  args := 0
  ctr := 0
  blocks := 1
  warps := 1
  regs8 := 8
  flags := 0x14
  scratch := 0x4000
  gang := 1
  prio := 0
  cls := 0
  shapes := 0
  handle := 0
  fmts := Vector.replicate 8 0
  raw := []

/-- The grid of that block, its code as memory holds it. -/
def wordGrid (code : Tbl Byte) : Grid where
  src := .queue 0
  ctx := 0
  addr := 0
  record := wordRecord
  next := 1
  exited := 0
  hints := []
  born := 0
  fresh := []
  code := code
  done := false

/-- The block. -/
def wordBlock (g : Nat) : Block := { Block.absent with live := true, grid := g, nw := 1, size := 0x4000 }

/-- A scalar word is its warp's next S-word; a lane word is the first of a dispatched lane block. The page walks of
its fetch and of its accesses are paid for. -/
def wordWarp (lane : Bool) (id : BitVec 16) : Warp :=
  let w := { firstWarp wordRecord 0 0 id with drawn := (List.range Config.numDomains).map fun d => (purseOf d walkerPurse, 1000) }
  if lane then { w with pc := 0, dispatch := [⟨wordVa, 0, false, Vector.replicate 8 0, 0, false, none, none⟩] } else w

end Sys2Proof.Machine
end

