-- ==== Sys2Proof/Machine/Step.lean ====
section
/-!
DEFINITION. Sys2Proof/Machine/Step.lean: one step of the machine, and the machine with one word placed where the step
fetches next.
-/
namespace Sys2Proof.Machine

/-- One step: an input that has arrived, else what the agenda asks for, else what moves next by itself. -/
def step (s : State) : Host.Outcome State Fault Refusal :=
  match s.inbox with
  | x :: rest => takeInput x { s with inbox := rest }
  | [] =>
    match s.agenda with
    | t :: rest => takeTurn t { s with agenda := rest }
    | [] => ownTurn s

/-- The machine with an instruction where the next step fetches it: a resident warp 0 of core 0, in a context whose
tables map its code, and slot 0 of core 0 as the next to issue. A program otherwise comes to run by a launch
record (log entry 27). -/
def State.withFetchWord (s : State) (nbits w : Nat) : State :=
  let lane := decide (32 < nbits)
  let core := { s.coreAt 0 with tlb := [] }
  let s := s.setCtx 0 { s.ctxAt 0 with live := true, ptb := BitVec.ofNat 64 wordTable, vf := 0 }
  let mem := wordMemory s.mem (bytesOfNat (if lane then 16 else 4) w)
  let s := (s.setCore 0 core).setCluster 0 { s.clusterAt 0 with tlb := [] }
  let s := s.setBlock 0 (wordBlock s.grids.length)
  let others := s.warps.filter fun e => !(e.1 / 64 == 0 && e.1 % 4 == 0)
  { s with
    mem := mem
    warps := Tbl.set others 0 (wordWarp lane (s.ctxAt 0).ctxid)
    grids := s.grids ++ [wordGrid mem]
    inbox := []
    issued := []
    agenda := .issue 0 0 :: s.agenda }

end Sys2Proof.Machine
end

