-- ==== Sys2Proof/Safety.lean ====
section
/-!
DEFINITION. Sys2Proof/Safety.lean: what counts as a safe run, and the terms in which the statements speak of a
word that acts: when a word may act, and the state in which it has completed.
-/
namespace Sys2Proof.Machine

/-! ### Runs -/

/-- The states a run from `s` reaches. -/
inductive Reach (s : State) : State → Prop where
  | here : Reach s s
  | step {t u : State} : Reach s t → Machine.step t = .next u → Reach s u

/-- No run from `s` meets a fault. -/
def Safe (s : State) : Prop := ∀ t, Reach s t → ∀ f, step t ≠ .fault f

/-- Memory has its canonical form. -/
def State.memOk (s : State) : Prop := Memory.wf s.mem = true

/-! ### A scalar word that acts -/

/-- The acting warp may issue, and no source register of the word holds an uncorrectable error (R61). -/
def Ready (s : State) (srcs : List SReg) : Prop := canRun s = true ∧ badSources s srcs = []

/-- A word that closes a region may act: its lane blocks are done (R164) and its stroke is committed (R42). -/
def ReadyToClose (s : State) (srcs : List SReg) : Prop :=
  Ready s srcs ∧ (s.me.sup = true ∨ s.me.dispatch = []) ∧ uncommitted s s.me = none

/-- The lanes are drained: no lane block is dispatched and no result is outstanding (R205). -/
def Quiet (s : State) : Prop := s.me.dispatch = [] ∧ s.me.inflight = []

/-- The state in which a scalar word of the acting warp has completed: `w` is the warp with the word's own effect,
`pc` the address of the next word. Everything else is as in `s`. -/
def issued (s : State) (w : Warp) (pc : Word) (closes : Bool) : State :=
  let b := s.blockAt w.block
  (s.setMe { w with
    pc := pc, iret := w.iret + 1, pass := 0, lastLane := false, yielded := false, waitFrom := none, wait := .none
    fault := none, openRgn := w.openRgn && !closes }).setBlock w.block
    { b with lastMove := s.cycle, closed := b.closed || closes }

/-- A read of `n` bytes where an address lands finds no storage in error and no peer package that does not answer
(R82, R301). -/
def answers (s : State) (p : Spot) (n : Nat) : Prop := poisoned s p n = false ∧ unanswered s s.cur p = false

/-- A store where an address lands finds a peer package that answers (R301) and the entries it needs in the dirty logs
(R81). -/
def unblocked (s : State) (p : Spot) : Prop := logShort s (storeDirty [(p, [])]) = none ∧ unanswered s s.cur p = false

/-- What a scalar word of the acting warp that raises a cause does, the word to be executed again (R162, R165,
R167). -/
def raised (s : State) (r : Raise) : Out := raiseScalar s s r s.me.pc [] false

/-- A word that is no instruction: no decoding of it is one, and the turn of a warp that fetches it raises ILLEGAL
(R181). -/
def IsIllegal (u : BitVec 32) : Prop :=
  (∃ e, decodeS u = .error e) ∧ ∀ s t : State, canRun s = true → s.me.fault = none →
    fetchUnit s (whoOf s s.cur s.me) s.me.pc = (t, .ok u) → scalarTurn s = raised t (.plain cILLEGAL)

/-- The acting warp with a scalar register set; s0 keeps its zero (R49). -/
def State.withReg (s : State) (d : SReg) (x : Word) : Warp :=
  if d = 0 then s.me else { s.me with s := s.me.s.set d.toNat x }

/-- The state in which a word that writes one scalar register has completed. -/
def wrote (s : State) (d : SReg) (x : Word) : State := issued s (s.withReg d x) (s.me.pc + 4) false

end Sys2Proof.Machine
end

