-- ==== Sys2Proof/Certificates/Slice0/Obligations.lean ====
section
/-!
DEFINITION. Sys2Proof/Certificates/Slice0/Obligations.lean: the statements for the provers, from the rules of the spec.
-/
open Sys2Proof Sys2Proof.Machine

/-! ### Scalar arithmetic -/

/-- R194: every word of the integer group writes the value of its table row to s(d), which s0 discards (R49), and
changes nothing else but what issuing a word changes (pc, IRET, the pass count, its block's last move). CLZ, its
count of leading zeros `n` told by its two bounds, and POPC. A word of the group with another fn, or a unary one
whose b field is not zero, raises ILLEGAL. -/
def Obligations.IntegerGroup : Prop :=
  (∀ (s : State) (d a b : SReg), Ready s [a, b] →
    let x := s.sreg a
    let y := s.sreg b
    let n := y.toNat % 64
    exec (.add d a b) s = .next (wrote s d (x + y)) ∧
    exec (.sub d a b) s = .next (wrote s d (x - y)) ∧
    exec (.andR d a b) s = .next (wrote s d (x &&& y)) ∧
    exec (.orR d a b) s = .next (wrote s d (x ||| y)) ∧
    exec (.xorR d a b) s = .next (wrote s d (x ^^^ y)) ∧
    exec (.shl d a b) s = .next (wrote s d (x <<< n)) ∧
    exec (.shr d a b) s = .next (wrote s d (x >>> n)) ∧
    exec (.sra d a b) s = .next (wrote s d (x.sshiftRight n)) ∧
    exec (.mul d a b) s = .next (wrote s d (BitVec.ofNat 64 (x.toNat * y.toNat))) ∧
    exec (.mulh d a b) s = .next (wrote s d (BitVec.ofInt 64 (x.toInt * y.toInt / 2 ^ 64))) ∧
    exec (.mulhu d a b) s = .next (wrote s d (BitVec.ofNat 64 (x.toNat * y.toNat / 2 ^ 64))) ∧
    exec (.div d a b) s =
      .next (wrote s d (if y = 0 then BitVec.allOnes 64 else BitVec.ofInt 64 (x.toInt.tdiv y.toInt))) ∧
    exec (.divu d a b) s =
      .next (wrote s d (if y = 0 then BitVec.allOnes 64 else BitVec.ofNat 64 (x.toNat / y.toNat))) ∧
    exec (.rem d a b) s =
      .next (wrote s d (if y = 0 then BitVec.allOnes 64 else BitVec.ofInt 64 (x.toInt.tmod y.toInt))) ∧
    exec (.remu d a b) s =
      .next (wrote s d (if y = 0 then BitVec.allOnes 64 else BitVec.ofNat 64 (x.toNat % y.toNat))) ∧
    exec (.min d a b) s = .next (wrote s d (if x.toInt < y.toInt then x else y)) ∧
    exec (.max d a b) s = .next (wrote s d (if x.toInt < y.toInt then y else x)) ∧
    exec (.minu d a b) s = .next (wrote s d (if x.toNat < y.toNat then x else y)) ∧
    exec (.maxu d a b) s = .next (wrote s d (if x.toNat < y.toNat then y else x)) ∧
    exec (.slt d a b) s = .next (wrote s d (if x.toInt < y.toInt then 1 else 0)) ∧
    exec (.sltu d a b) s = .next (wrote s d (if x.toNat < y.toNat then 1 else 0)) ∧
    exec (.seq d a b) s = .next (wrote s d (if x = y then 1 else 0)) ∧
    exec (.sne d a b) s = .next (wrote s d (if x = y then 0 else 1)) ∧
    exec (.addw d a b) s = .next (wrote s d (((x + y).setWidth 32).signExtend 64))) ∧
  ((∀ (d a b : SReg) (fn : BitVec 7), 0x1A ≤ fn.toNat ∨ (0x18 ≤ fn.toNat ∧ b ≠ 0) →
    IsIllegal (1#7 ++ (d ++ (a ++ (b ++ fn))))) ∧
  ∀ (s : State) (d a : SReg), Ready s [a] →
    (∃ n : Nat, exec (.clz d a) s = .next (wrote s d (BitVec.ofNat 64 n)) ∧ n ≤ 64 ∧
      (s.sreg a).toNat < 2 ^ (64 - n) ∧ (n < 64 → 2 ^ (63 - n) ≤ (s.sreg a).toNat)) ∧
    exec (.popc d a) s =
      .next (wrote s d (BitVec.ofNat 64 ((List.range 64).filter fun i => (s.sreg a).getLsbD i).length)))

/-- R195: the immediate forms, with the sign-extended immediate; a shift form whose imm13[12:6] is not zero raises
ILLEGAL. R196, R216: the constant builders, and NOP, which has no effect; op 0x7F with another bit raises ILLEGAL. -/
def Obligations.ImmediatesAndConstants : Prop :=
  ((∀ (s : State) (d a : SReg) (imm : BitVec 13) (n : BitVec 6), Ready s [a] →
    let x := s.sreg a
    let i : Word := imm.signExtend 64
    exec (.addi d a imm) s = .next (wrote s d (x + i)) ∧
    exec (.andi d a imm) s = .next (wrote s d (x &&& i)) ∧
    exec (.ori d a imm) s = .next (wrote s d (x ||| i)) ∧
    exec (.xori d a imm) s = .next (wrote s d (x ^^^ i)) ∧
    exec (.shli d a n) s = .next (wrote s d (x <<< n.toNat)) ∧
    exec (.shri d a n) s = .next (wrote s d (x >>> n.toNat)) ∧
    exec (.srai d a n) s = .next (wrote s d (x.sshiftRight n.toNat)) ∧
    exec (.slti d a imm) s = .next (wrote s d (if x.toInt < i.toInt then 1 else 0)) ∧
    exec (.sltui d a imm) s = .next (wrote s d (if x.toNat < i.toNat then 1 else 0)) ∧
    exec (.muli d a imm) s = .next (wrote s d (BitVec.ofNat 64 (x.toNat * i.toNat)))) ∧
  ∀ (op : BitVec 7) (d a : SReg) (imm : BitVec 13), op = 6 ∨ op = 7 ∨ op = 8 →
    (imm.extractLsb' 6 7 : BitVec 7) ≠ 0 → IsIllegal (op ++ (d ++ (a ++ imm)))) ∧
  ((∀ rest : BitVec 25, rest ≠ 0 → IsIllegal (0x7F#7 ++ rest)) ∧
  ∀ (s : State) (d : SReg) (imm : BitVec 19),
    (Ready s [] → exec (.li d imm) s = .next (wrote s d (imm.signExtend 64))) ∧
    (Ready s [d] →
      exec (.lui d imm) s = .next (wrote s d ((s.sreg d <<< 19) ||| imm.setWidth 64)) ∧
      exec (.luh d imm) s = .next (wrote s d ((imm.setWidth 64 <<< 45) ||| (s.sreg d &&& 0x1FFF_FFFF_FFFF)))) ∧
    (Ready s [] → exec .nop s = .next (issued s s.me (s.me.pc + 4) false)))

/-- R49: s0 reads zero, a write to it changes no register, and a write to another register is read back and leaves
the rest alone. -/
def Obligations.RegisterZero : Prop :=
  ∀ (s : State) (d r : SReg) (x : Word),
    s.sreg 0 = 0 ∧ (wrote s 0 x).sreg r = s.sreg r ∧
    (wrote s d x).sreg r = if d = r ∧ d ≠ 0 then x else s.sreg r

/-! ### Branches (R201, R202) -/

/-- R201: the branches, CALL and LOOP. -/
def Obligations.Branches : Prop :=
  ∀ (s : State) (a : SReg) (disp : BitVec 19),
    let pc := s.me.pc
    let x := s.sreg a
    let target := pc + 4 * disp.signExtend 64
    (Ready s [a] →
      exec (.bz a disp) s = .next (issued s s.me (if x = 0 then target else pc + 4) false) ∧
      exec (.bnz a disp) s = .next (issued s s.me (if x = 0 then pc + 4 else target) false) ∧
      exec (.bltz a disp) s = .next (issued s s.me (if x.toInt < 0 then target else pc + 4) false) ∧
      exec (.bgez a disp) s = .next (issued s s.me (if x.toInt < 0 then pc + 4 else target) false) ∧
      exec (.loop a disp) s = .next (issued s (s.withReg a (x - 1)) (if x = 1 then pc + 4 else target) false)) ∧
    (Ready s [] → exec (.call a disp) s = .next (issued s (s.withReg a (pc + 4)) target false))

/-- R202: JR reads its base before it writes its link, and raises MISALIGN at a target that is not a multiple of
four. -/
def Obligations.JumpRegister : Prop :=
  ∀ (s : State) (d a : SReg) (imm : BitVec 13), Ready s [a] →
    let target := s.sreg a + imm.signExtend 64
    (target.toNat % 4 = 0 → exec (.jr d a imm) s = .next (issued s (s.withReg d (s.me.pc + 4)) target false)) ∧
    (target.toNat % 4 ≠ 0 → exec (.jr d a imm) s = raised s (.at cMISALIGN target))

/-- R203: BQT and BQF wait for an entry of bq, pop the oldest, taken or not, and branch on it; a wait that cannot
end raises ILLEGAL at once. -/
def Obligations.QueueBranches : Prop :=
  ∀ (s : State) (disp : BitVec 19), Ready s [] → s.me.sup = false →
    (∀ (v : Bool) (rest : List Bool), s.me.bq = v :: rest →
      let pc := s.me.pc
      let target := pc + 4 * disp.signExtend 64
      let w := { s.me with bq := rest }
      exec (.bqt disp) s = .next (issued s w (if v then target else pc + 4) false) ∧
      exec (.bqf disp) s = .next (issued s w (if v then pc + 4 else target) false)) ∧
    (s.me.bq = [] →
      let ends := if scalarDeadlock s .bq then raiseScalar s s (.plain cILLEGAL) s.me.pc [] true
        else .next { s with waited := true }
      exec (.bqt disp) s = ends ∧ exec (.bqf disp) s = ends)

/-! ### Scalar memory words (R197 to R200) -/

/-- R42, R43, R79, R81: the stores of a word of the acting warp, their addresses resolved in `u`, leave `t`: performed
after the dirty bits they set, or, in a stroke that is not committed, held at the end of its crew's list, where the
buffer has room for their `units`. -/
def Sys2Proof.Machine.StoresTo (s u : State) (units : Nat) (ws : List (Spot × List Byte)) (t : State) : Prop :=
  (uncommitted s s.me = none ∧ logShort u (storeDirty ws) = none ∧ t = performStores u ws) ∨
  ∃ c k, uncommitted s s.me = some (c, k) ∧ specUsed u (coreOf u.cur) + units ≤ 256 ∧
    t = u.setCrew c { u.crewAt c with
      held := (u.crewAt c).held ++ [⟨k, storeBytesOf ws, storeDirty ws, units, storeTags ws, false⟩] }

/-- R197: a load returns the bytes at s(a) + sext(imm13), zero- or sign-extended. `u` is the machine once the
address is resolved; `p` may be memory, a partition of the gang or a control register. R197: a store writes the low
bytes of s(d), least significant first, at s(a) + sext(imm13), after the dirty bits it sets (R79); in a stroke that is
not committed it is held (R42, R43), and takes one entry of the buffer, which is the model's reading (log entry
14). R198: LDA and STL, with no offset and 2^size bytes. R200: a load after a sequentially consistent fence that its
stroke holds waits for it, which is the model's reading (log entry 87). -/
def Obligations.ScalarLoadsAndStores : Prop :=
  (∀ (s u : State) (d a : SReg) (imm : BitVec 13) (p : Spot), Ready s [a] →
    let va := s.sreg a + imm.signExtend 64
    let reads := fun (n : Nat) => resolve s (whoOf s s.cur s.me) .read n va = (u, .ok p) ∧ answers u p n
    let value := fun (n : Nat) => leNat (seeBytes u u.me p n)
    let got := fun (x : Word) => Host.Outcome.next (issued u (u.withReg d x) (s.me.pc + 4) false)
    let holds := fun (i : Instr) => exec i s = .next { s with waited := true }
    (fenceHeld s s.me = true → holds (.ldb d a imm) ∧ holds (.ldbu d a imm) ∧ holds (.ldh d a imm) ∧
      holds (.ldhu d a imm) ∧ holds (.ldw d a imm) ∧ holds (.ldwu d a imm) ∧ holds (.ldd d a imm)) ∧
    (fenceHeld s s.me = false → (reads 1 → exec (.ldb d a imm) s = got ((BitVec.ofNat 8 (value 1)).signExtend 64) ∧
      exec (.ldbu d a imm) s = got (BitVec.ofNat 64 (value 1))) ∧
    (reads 2 → exec (.ldh d a imm) s = got ((BitVec.ofNat 16 (value 2)).signExtend 64) ∧
      exec (.ldhu d a imm) s = got (BitVec.ofNat 64 (value 2))) ∧
    (reads 4 → exec (.ldw d a imm) s = got ((BitVec.ofNat 32 (value 4)).signExtend 64) ∧
      exec (.ldwu d a imm) s = got (BitVec.ofNat 64 (value 4))) ∧
    (reads 8 → exec (.ldd d a imm) s = got (BitVec.ofNat 64 (value 8))))) ∧
  (∀ (s u t : State) (d a : SReg) (imm : BitVec 13) (p : Spot), Ready s [d, a] →
    let va := s.sreg a + imm.signExtend 64
    let writes := fun (n : Nat) => resolve s (whoOf s s.cur s.me) .write n va = (u, .ok p) ∧
      unanswered u u.cur p = false ∧ StoresTo s u 1 [(p, leBytes n (s.sreg d).toNat)] t
    let put := Host.Outcome.next (issued t t.me (s.me.pc + 4) false)
    (writes 1 → exec (.stb d a imm) s = put) ∧ (writes 2 → exec (.sth d a imm) s = put) ∧
    (writes 4 → exec (.stw d a imm) s = put) ∧ (writes 8 → exec (.std d a imm) s = put)) ∧
  (∀ (s u : State) (d a : SReg) (size : BitVec 2) (sc : Scope) (rmt : Bool) (p : Spot), remoteOk rmt sc = true →
    let n := 2 ^ size.toNat
    (Ready s [a] → fenceHeld s s.me = true → exec (.lda d a size sc rmt) s = .next { s with waited := true }) ∧
    (Ready s [a] → fenceHeld s s.me = false → resolve s (whoOf s s.cur s.me) .read n (s.sreg a) = (u, .ok p) →
      answers u p n → exec (.lda d a size sc rmt) s =
        .next (issued u (u.withReg d (BitVec.ofNat 64 (leNat (seeBytes u u.me p n)))) (s.me.pc + 4) false)) ∧
    (Ready s [d, a] → resolve s (whoOf s s.cur s.me) .write n (s.sreg a) = (u, .ok p) → unanswered u u.cur p = false →
      ∀ t, StoresTo s u 1 [(p, leBytes n (s.sreg d).toNat)] t →
        exec (.stl d a size sc rmt) s = .next (issued t t.me (s.me.pc + 4) false)))

/-- R199: the new value of an atomic operation. -/
def Sys2Proof.Machine.atomResult (op : AtomOp) (old x : Word) : Word :=
  match op with
  | .swap => x
  | .add => old + x
  | .and => old &&& x
  | .or => old ||| x
  | .xor => old ^^^ x
  | .min => if old.toInt < x.toInt then old else x
  | .max => if old.toInt < x.toInt then x else old
  | .cas => x

/-- R199: an atomic writes the new value and returns the old one; a compare-and-swap that fails writes nothing.
Remote atomics are of DEVICE scope or wider, and ATOM is never remote. R199, R297: PROT for a device page, for an
operation that the host link has no AtomicOp for, and for an atomic that the root port completes with an abort. The
model's choices: that abort stands in `State.aborted` (log entry 44); in a trap handler the word asks nothing of
suspended lane blocks (log entry 15). -/
def Obligations.Atomics : Prop :=
  ∀ (s u : State) (d a b : SReg) (op : AtomOp) (sc : Scope) (rmt : Bool) (p : Spot),
    ReadyToClose s (if op = .cas then [d, a, b] else [a, b]) →
    resolve s (whoOf s s.cur s.me) .rw 8 (s.sreg a) = (u, .ok p) → answers u p 8 → unblocked u p →
    let old : Word := BitVec.ofNat 64 (leNat (seeBytes u u.me p 8))
    let t := if op = .cas ∧ old ≠ s.sreg d then u
      else performStores u [(p, leBytes 8 (atomResult op old (s.sreg b)).toNat)]
    let every := fun (o : Host.Outcome State Fault Refusal) =>
      exec (.atom d a b op sc false) s = o ∧
      (remoteOk rmt sc = true →
        exec (.atoma d a b op sc rmt) s = o ∧ exec (.atoml d a b op sc rmt) s = o ∧ exec (.atomal d a b op sc rmt) s = o)
    (atomRefused u p op = false → every (.next (issued t (t.withReg d old) (s.me.pc + 4) true))) ∧
    (atomRefused u p op = true → every (raiseScalar s u (.at cPROT (s.sreg a)) s.me.pc [] false)) ∧
    ∀ (pa : Nat) (dirty : List Dirty) (attr : BitVec 2) (by_ : Option TlbEntry),
      (p = .mem pa dirty attr by_ → atomRefused u p op = decide (attr = 2 ∨ (paRange pa = .host ∧
        ((op ≠ .swap ∧ op ≠ .add ∧ op ≠ .cas) ∨ u.aborted = some u.cur)))) ∧
      ∀ off, atomRefused u (.io off dirty attr) op = decide (attr = 2)

/-- R197, R198, R199: an address that is not a multiple of the access size raises MISALIGN with that address, in every
load, every store and every atomic of every kind, scope and remote option; that a load first waits for a sequentially
consistent fence its stroke holds is the model's reading (log entry 87). R63, R64: where an address lands. A window of
the warp's own scratchpad, a window of a core of its cluster, a misplaced window bit, or neither class. -/
def Obligations.AddressChecks : Prop :=
  (∀ (s : State) (d a b : SReg) (imm : BitVec 13) (size : BitVec 2) (sc : Scope) (rmt : Bool) (op : AtomOp),
    let va := s.sreg a + imm.signExtend 64
    let x := s.sreg a
    let bad := fun (i : Instr) (at_ : Word) => exec i s = raised s (.at cMISALIGN at_)
    (Ready s [a] → fenceHeld s s.me = false →
      (va.toNat % 2 ≠ 0 → bad (.ldh d a imm) va ∧ bad (.ldhu d a imm) va) ∧
      (va.toNat % 4 ≠ 0 → bad (.ldw d a imm) va ∧ bad (.ldwu d a imm) va) ∧
      (va.toNat % 8 ≠ 0 → bad (.ldd d a imm) va) ∧
      (remoteOk rmt sc = true → x.toNat % 2 ^ size.toNat ≠ 0 → bad (.lda d a size sc rmt) x)) ∧
    (Ready s [d, a] →
      (va.toNat % 2 ≠ 0 → bad (.sth d a imm) va) ∧
      (va.toNat % 4 ≠ 0 → bad (.stw d a imm) va) ∧
      (va.toNat % 8 ≠ 0 → bad (.std d a imm) va) ∧
      (remoteOk rmt sc = true → x.toNat % 2 ^ size.toNat ≠ 0 → bad (.stl d a size sc rmt) x)) ∧
    (ReadyToClose s (if op = .cas then [d, a, b] else [a, b]) → x.toNat % 8 ≠ 0 →
      bad (.atom d a b op sc false) x ∧
      (remoteOk rmt sc = true →
        bad (.atoma d a b op sc rmt) x ∧ bad (.atoml d a b op sc rmt) x ∧ bad (.atomal d a b op sc rmt) x))) ∧
  (∀ (s : State) (w : Who) (a : Acc) (n : Nat) (va : Word), va.toNat % n = 0 →
    (∀ off : BitVec 19, va = 0xFE#8 ++ (0#37 ++ off) →
      resolve s w a n va = (s, if off.toNat < (s.blockAt w.block).size then .ok (.part w.block off.toNat)
        else .error (.at cPROT va))) ∧
    (∀ (k : BitVec 3) (off : BitVec 19), va = 0xFD#8 ++ (0#34 ++ (k ++ off)) →
      resolve s w a n va = (s, match gangBlockOn s w.block (8 * clusterOf w.core + k.toNat) with
        | none => .error (.at cPROT va)
        | some b => if off.toNat < (s.blockAt b).size then .ok (.part b off.toNat) else .error (.at cPROT va))) ∧
    (let top : BitVec 8 := va.extractLsb' 56 8;
      (top ≠ 0 ∧ top ≠ 0xFF ∧ top ≠ 0xFE ∧ top ≠ 0xFD) ∨ (top = 0 ∧ va.getLsbD 55 = true) ∨
        (top = 0xFF ∧ va.getLsbD 55 = false) ∨ (top = 0xFE ∧ (va.extractLsb' 19 37 : BitVec 37) ≠ 0) ∨
        (top = 0xFD ∧ (va.extractLsb' 22 34 : BitVec 34) ≠ 0) →
      resolve s w a n va = (s, .error (.at cPROT va))))

/-- R65, R86: what a store to memory leaves. Every byte outside the stored bytes and the page-table entries whose
dirty bits it sets reads as before, and the stored bytes read as stored. R64, R65: a store to a partition changes
the stored bytes of that partition and nothing else: no byte of memory, no other block. R79, R81, R116: a store
through a leaf with a clear dirty bit of a virtual function whose log has room appends the guest page at PROD and
moves PROD on; a page that the log has already appends nothing. R81, R116: where the log lacks room for the pages of all
of a store's clear bits, the entries that fit fill it and the writer parks, its word to be executed again. That the log
takes the pages of both stages, and that a writer which finds too little room fills it, is the model's reading (log
entry 13). An uncorrectable error of the storage stays (the model's choice, log entry 82). -/
def Obligations.StoreEffects : Prop :=
  (∀ (s : State) (pa : Nat) (dirty : List Dirty) (attr : BitVec 2) (by_ : Option TlbEntry) (bs : List Byte), s.memOk →
    (∀ d ∈ dirty, d.vf = 0) → (∀ d ∈ dirty, d.pte < pa ∨ pa + bs.length ≤ d.pte) →
    let t := performStores s [(.mem pa dirty attr by_, bs)]
    readBytes t.mem pa bs.length = bs ∧
    (∀ b, b < pa ∨ pa + bs.length ≤ b → (∀ d ∈ dirty, d.pte ≠ b) → readPhys t.mem b = readPhys s.mem b) ∧
    (∀ d ∈ dirty, readPhys t.mem d.pte = readPhys s.mem d.pte ||| 0x40) ∧
    t.warps = s.warps ∧ t.blocks = s.blocks ∧ t.crews = s.crews ∧ t.ctxs = s.ctxs ∧ t.fns = s.fns) ∧
  (∀ (s : State) (b off : Nat) (bs : List Byte), Tbl.wf 0 (s.blockAt b).scratch = true →
    let t := performStores s [(.part b off, bs)]
    t.mem = s.mem ∧ t.warps = s.warps ∧ (∀ c, c ≠ b → t.blockAt c = s.blockAt c) ∧
    Tbl.range 0 (t.blockAt b).scratch off bs.length = bs ∧
    (∀ o, o < off ∨ off + bs.length ≤ o → Tbl.get 0 (t.blockAt b).scratch o = Tbl.get 0 (s.blockAt b).scratch o)) ∧
  (∀ (s : State) (d : Dirty), s.memOk → d.vf ≠ 0 → d.gpa / 16384 ∈ (s.fnAt d.vf).ahead →
    let t := setDirty s [d]
    logShort s [d] = none ∧ (t.fnAt d.vf).prod = (s.fnAt d.vf).prod ∧ d.gpa / 16384 ∉ (t.fnAt d.vf).ahead ∧
    (readPhys t.mem d.pte).getLsbD 6 = true ∧ ∀ b, b ≠ d.pte → readPhys t.mem b = readPhys s.mem b) ∧
  (∀ (s : State) (d : Dirty) (n size : Nat), s.memOk → d.vf ≠ 0 → d.pending s = true →
    d.gpa / 16384 ∉ (s.fnAt d.vf).ahead → (s.fnAt d.vf).ring = some (n, size) → n < size →
    let f := s.fnAt d.vf
    let slot := f.dlbase.toNat + 8 * (f.prod.toNat % size)
    (d.pte < slot ∨ slot + 8 ≤ d.pte) →
    let t := setDirty s [d]
    logShort s [d] = none ∧ (t.fnAt d.vf).prod = f.prod + 1 ∧
    readBytes t.mem slot 8 = leBytes 8 (d.gpa / 16384 * 16384 + 1) ∧
    (readPhys t.mem d.pte).getLsbD 6 = true ∧
    (∀ b, b < slot ∨ slot + 8 ≤ b → b ≠ d.pte → readPhys t.mem b = readPhys s.mem b)) ∧
  (∀ (s u : State) (d a : SReg) (imm : BitVec 13) (p : Spot) (vf n size : Nat), Ready s [d, a] → uncommitted s s.me = none →
    resolve s (whoOf s s.cur s.me) .write 8 (s.sreg a + imm.signExtend 64) = (u, .ok p) → unanswered u u.cur p = false →
    logShort u (storeDirty [(p, [])]) = some vf → (u.fnAt vf).ring = some (n, size) → n ≤ size →
    ∃ t r, exec (.std d a imm) s = .next t ∧ t.mem = (fillLog u (storeDirty [(p, [])])).mem ∧
      t.me.parked = some (.dirtyLog vf, r) ∧ r.resume = s.me.pc ∧ t.me.pc = s.me.pc ∧
      (∀ i, t.me.sreg i = s.me.sreg i) ∧ s.cur ∈ (t.fnAt vf).parked ∧ (t.fnAt vf).ring = some (size, size) ∧
      (t.fnAt vf).prod = (u.fnAt vf).prod + BitVec.ofNat 32 (size - n))

/-- R200: FENCE completes once the lanes are drained. In an uncommitted stroke every kind but an acquire takes a
place among the held stores, where a sequentially consistent one is marked as such, for the loads after it to wait (the
model's reading, log entry 87). The model's choices: in a trap handler, whose lane blocks are suspended, the word asks
nothing of them (log entry 15), and accesses are performed in the order of the steps, so that the fence orders nothing
further (log entry 2). -/
def Obligations.Fences : Prop :=
  ∀ (s : State) (kind : FenceKind) (sc : Scope), Ready s [] → (s.me.sup = true ∨ s.me.dispatch = []) →
    (uncommitted s s.me = none → exec (.fence kind sc) s = .next (issued s s.me (s.me.pc + 4) false)) ∧
    (∀ c k, uncommitted s s.me = some (c, k) →
      (kind = .acquire → exec (.fence kind sc) s = .next (issued s s.me (s.me.pc + 4) false)) ∧
      (kind ≠ .acquire →
        let t := s.setCrew c { s.crewAt c with held := (s.crewAt c).held ++ [⟨k, [], [], 0, [], kind == .seqCst⟩] }
        exec (.fence kind sc) s = .next (issued t t.me (s.me.pc + 4) false)))

/-! ### Dispatch and the queues between the streams (R99 to R103, R204 to R209) -/

/-- R14 to R16, R204: LGO and LGOR append a lane block to the dispatch list with the rounding mode, CHK and the lane
bases as they stand, wherever fewer than four blocks are uncompleted. R205: LWAIT completes when no dispatched lane
block remains, and until then only waits. -/
def Obligations.LaneDispatch : Prop :=
  (∀ (s : State) (a : SReg) (imm : BitVec 19), s.me.sup = false → s.me.dispatch.length < 4 →
    let go := fun (at_ : Word) =>
      let d : Dispatch := ⟨at_, s.me.fcsr.extractLsb' 0 3, s.me.chk, s.me.ab, s.seq, false, none, none⟩
      Host.Outcome.next (issued { s with seq := s.seq + 1 } { s.me with dispatch := s.me.dispatch ++ [d] }
        (s.me.pc + 4) false)
    let l := s.me.lcb + 4 * imm.setWidth 64
    let r := s.me.lcb + s.sreg a
    (Ready s [] → l.toNat % 4 = 0 → exec (.lgo imm) s = go l) ∧
    (Ready s [] → l.toNat % 4 ≠ 0 → exec (.lgo imm) s = raised s (.at cMISALIGN l)) ∧
    (Ready s [a] → r.toNat % 4 = 0 → exec (.lgor a) s = go r) ∧
    (Ready s [a] → r.toNat % 4 ≠ 0 → exec (.lgor a) s = raised s (.at cMISALIGN r))) ∧
  (∀ s : State, Ready s [] → s.me.sup = false →
    (s.me.dispatch = [] → exec .lwait s = .next (issued s s.me (s.me.pc + 4) false)) ∧
    (s.me.dispatch ≠ [] → exec .lwait s = .next { s with waited := true }))

/-- A warp with one entry more in a dq. -/
def Sys2Proof.Machine.withEntry (w : Warp) (q : BitVec 2) (v : Lanes) : Warp :=
  { w with dq := w.dq.set q.toNat { w.dq[q.toNat] with entries := w.dq[q.toNat].entries ++ [⟨v, none⟩] } }

/-- R103, R207: the loads of an entry, lane by lane: each of `n` bytes at its own address `f l`, sign- or
zero-extended to 32 bits; the lanes of a list, their addresses resolved one after another from `s` to `u`, give the
entry `v`. -/
def Sys2Proof.Machine.entryOf (k : Nat) (w : Warp) (who : Who) (uns : Bool) (n : Nat) (f : LaneIx → Word) (v : Lanes) :
    List LaneIx → State → State → Prop
  | [], s, u => u = s
  | l :: ls, s, u => ∃ t p, resolve s who .read n (f l) = (t, .ok p) ∧ poisoned t p n = false ∧
      unanswered t k p = false ∧
      lane v l = (let x := leNat (seeBytes t w p n)
        if uns then BitVec.ofNat 32 x else (BitVec.ofNat (8 * n) x).signExtend 32) ∧
      entryOf k w who uns n f v ls t u

/-- R206, R207: DQP and DQLD push one entry of 32 lanes where the dq has room and no stream of it runs. The `v` of
DQLD holds the elements loaded at s(a) + i × s(b): lane i's is the one at its own address. R103, R208: DQSTRM with a
count of zero does nothing else; with another count it starts a stream on a dq that runs none, with its base, strides
and count. R207, R208: size 3, and the unsigned option with 4-byte elements, are no DQLD or DQSTRM. R103: a running
stream pushes its next entry, from base + next × entry stride with the lane stride between lanes, once its dq has
room, and ends after its last. A faulting entry is marked with its cause, its address and its stage and ends the
stream. R140: its
walks draw on the page-walker purse. The model's choices: a DQLD and a stream wait for a sequentially consistent fence
that their stroke holds (log entry 87), and a walk takes one slot (log entry 85). -/
def Obligations.QueuePushesAndStreams : Prop :=
  (∀ (s : State) (a b : SReg) (q : BitVec 2), s.me.sup = false →
    s.me.dq[q.toNat].entries.length < 8 → s.me.dq[q.toNat].stream = none →
    (Ready s [a] → exec (.dqpBroadcast a q) s =
      .next (issued s (withEntry s.me q (Vector.replicate 32 ((s.sreg a).setWidth 32))) (s.me.pc + 4) false)) ∧
    (Ready s [a, b] → exec (.dqpIota a b q) s =
      .next (issued s (withEntry s.me q
        (Vector.ofFn fun i => (s.sreg a + BitVec.ofNat 64 i.val * s.sreg b).setWidth 32)) (s.me.pc + 4) false)) ∧
    (∀ (uns : Bool) (size : BitVec 2), Ready s [a, b] → (Instr.dqld a b uns size q).wf = true → fenceHeld s s.me = true →
      exec (.dqld a b uns size q) s = .next { s with waited := true }) ∧
    (∀ (uns : Bool) (size : BitVec 2) (u : State) (r : Except Raise Lanes), Ready s [a, b] →
      (Instr.dqld a b uns size q).wf = true → fenceHeld s s.me = false →
      loadEntry s s.cur s.me (whoOf s s.cur s.me) uns (2 ^ size.toNat)
        (fun i => s.sreg a + BitVec.ofNat 64 i.val * s.sreg b) = (u, r) →
      exec (.dqld a b uns size q) s =
        match r with
        | .ok v => .next (issued u (withEntry u.me q v) (s.me.pc + 4) false)
        | .error e => raiseScalar s u e s.me.pc [] false)) ∧
  (∀ (s : State) (a b k : SReg) (uns : Bool) (size q : BitVec 2), Ready s [a, b, k] → s.me.sup = false →
    (Instr.dqstrm a b k uns size q).wf = true →
    let count := (s.sreg k).toNat % 2 ^ 32
    let dq := s.me.dq[q.toNat]
    (count = 0 → exec (.dqstrm a b k uns size q) s = .next (issued s s.me (s.me.pc + 4) false)) ∧
    (count ≠ 0 → dq.stream = none → exec (.dqstrm a b k uns size q) s =
      let x : Stream :=
        ⟨0, count, s.sreg a, s.sreg b, ((s.sreg k).extractLsb' 32 32 : BitVec 32).signExtend 64, uns, size⟩
      .next (issued s { s.me with dq := s.me.dq.set q.toNat ⟨dq.entries, some x⟩ } (s.me.pc + 4) false))) ∧
  (∀ (a b k : SReg) (uns : Bool) (size q : BitVec 2), size = 3 ∨ (uns = true ∧ size = 2) →
    (Instr.dqld a b uns size q).wf = false ∧ (Instr.dqstrm a b k uns size q).wf = false) ∧
  (∀ (s u : State) (k : Nat) (q : BitVec 2) (x : Stream),
    let w := s.warpAt k
    let r := loadEntry { s with asked := [] } k w { whoOf s k w with sup := false } x.uns (2 ^ x.size.toNat) fun i =>
      x.base + BitVec.ofNat 64 x.next * x.entryStride + BitVec.ofNat 64 i.val * x.laneStride
    w.dq[q.toNat].stream = some x → w.stat = .running → w.dq[q.toNat].entries.length < 8 →
    (s.blockAt w.block).stopped = false → fenceHeld s w = false →
    (∀ t, paidStep s u k = some t →
      let push := fun (e : DqEntry) (rest : Option Stream) =>
        let v := t.warpAt k
        Host.Outcome.next (t.setWarp k { v with dq := v.dq.set q.toNat ⟨v.dq[q.toNat].entries ++ [e], rest⟩ })
      (∀ v, r = (u, .ok v) → exec (.affineStreamPush k q) s =
        push ⟨v, none⟩ (if x.next + 1 < x.count then some { x with next := x.next + 1 } else none)) ∧
      (∀ e, r = (u, .error e) → exec (.affineStreamPush k q) s = push ⟨zeroLanes, some (e.cause, e.addr, e.second)⟩ none)) ∧
    (∀ y t, r = (u, y) → paidStep s u k = none → drawAhead s u k = some t → exec (.affineStreamPush k q) s = .next t)) ∧
  (∀ (s u : State) (k : Nat) (w : Warp) (who : Who) (uns : Bool) (n : Nat) (f : LaneIx → Word) (v : Lanes),
    entryOf k w who uns n f v (List.finRange 32) s u → loadEntry s k w who uns n f = (u, .ok v))

/-- R101, R209: XQP pops the oldest entry of xq into s(d). -/
def Obligations.QueuePop : Prop :=
  ∀ (s : State) (d : SReg) (x : Word) (rest : List Word), Ready s [] → s.me.sup = false → s.me.xq = x :: rest →
    let t := s.setMe { s.me with xq := rest }
    exec (.xqp d) s = .next (issued s (t.withReg d x) (s.me.pc + 4) false)

/-! ### Special registers (R57 to R60, R210) -/

/-- R57: the values of the registers that a warp in user mode may read. -/
def Sys2Proof.Machine.userRegs (s : State) : List (BitVec 13 × Word) :=
  let w := s.me
  let g := s.myGrid.record
  let core := s.cur / 64
  let u := s.clusterAt (core / 8)
  let cmds := fun (q : List Cmd) => (q.filter fun c => c.warp == s.cur && !c.emul).length % 65536
  let c := s.coreAt core
  let running := s.warps.filter fun e => e.2.block == w.block && e.2.stat == .running && e.2.stroke == none
  let crew := match w.stroke, w.hosts with
    | some (n, _), _ => BitVec.ofNat 64 (n % 64)
    | none, some n => BitVec.ofNat 64 (n % 64)
    | none, none => BitVec.allOnes 64
  let own : List (BitVec 13 × Word) := (List.finRange 8).map fun i => (BitVec.ofNat 13 (0x010 + i.val), w.ab[i])
  own ++ [(0x000, BitVec.ofNat 64 w.wid), (0x001, BitVec.ofNat 64 s.myBlock.idx), (0x002, BitVec.ofNat 64 g.blocks),
    (0x003, BitVec.ofNat 64 running.length), (0x004, BitVec.ofNat 64 core), (0x005, w.iter), (0x006, w.exm.setWidth 64), (0x007, w.ltile.setWidth 64),
    (0x008, w.rgn), (0x009, w.cause.setWidth 64), (0x00A, w.epc), (0x00B, w.fcsr.setWidth 64),
    (0x00C, if w.chk then 1 else 0), (0x00D, w.lcb), (0x00E, g.args),
    (0x00F, BitVec.ofNat 64 (cmds c.copyQ + 2 ^ 16 * cmds c.matrixQ + 2 ^ 32 * cmds c.stateQ + 2 ^ 48 * cmds c.launchQ)),
    (0x020, u.freq.setWidth 64), (0x021, u.tband.setWidth 64), (0x022, u.boost.setWidth 64),
    (0x023, u.slope.setWidth 64), (0x024, BitVec.ofNat 64 g.cls), (0x030, crew), (0x031, w.slide), (0x032, w.win), (0x033, w.depth),
    (0x034, w.trip), (0x040, BitVec.ofNat 64 s.cycle), (0x041, w.iret)]

/-- R57, R210: SRD of a register of user mode, the lanes drained for EXM, LTILE and FCSR (R17, R59). R57, R58, R210:
what an SWR of a warp's own register writes: no bit its map does not list, and nothing where the value is refused. A
write of a register that is read only changes nothing. R17: in a trap handler a write of EXM or LTILE leaves the lane
blocks dispatched before it the value from before. That the word asks nothing of those suspended blocks is the model's
choice (log entry 15). -/
def Obligations.SpecialRegisters : Prop :=
  (∀ (s : State) (d : SReg), Ready s [] → ∀ e ∈ userRegs s,
    (e.1 = 0x006 ∨ e.1 = 0x007 ∨ e.1 = 0x00B → s.me.sup = true ∨ s.me.dispatch = []) →
    exec (.srd d e.1) s = .next (wrote s d e.2)) ∧
  (∀ (s : State) (a : SReg), Ready s [a] →
    let w := s.me
    let x := s.sreg a
    let put := fun (w' : Warp) => Host.Outcome.next (issued s w' (w.pc + 4) false)
    (s.me.sup = true ∨ s.me.dispatch = [] →
      exec (.swr a 0x006) s =
        put { w with exm := x.setWidth 32, dispatch := w.dispatch.map fun d => { d with exm := some (d.exm.getD w.exm) } } ∧
      exec (.swr a 0x007) s =
        (if x.toNat % 8 < 5 then
          put { w with
            ltile := x.setWidth 3, dispatch := w.dispatch.map fun d => { d with ltile := some (d.ltile.getD w.ltile) } }
        else raised s (.plain cILLEGAL)) ∧
      exec (.swr a 0x00B) s =
        (if x.toNat % 8 < 6 then put { w with fcsr := x.setWidth 12 &&& 0xFF7 } else raised s (.plain cILLEGAL))) ∧
    (s.me.sup = false → s.me.dispatch ≠ [] → ∀ idx ∈ ([0x006, 0x007, 0x00B] : List (BitVec 13)),
      exec (.swr a idx) s = .next { s with waited := true } ∧ exec (.srd a idx) s = .next { s with waited := true }) ∧
    exec (.swr a 0x00C) s = put { w with chk := x.getLsbD 0 } ∧
    exec (.swr a 0x00D) s = put { w with lcb := x } ∧
    (∀ i : Fin 8, exec (.swr a (BitVec.ofNat 13 (0x010 + i.val))) s = put { w with ab := w.ab.set i x }) ∧
    ∀ idx ∈ ([0x000, 0x001, 0x002, 0x003, 0x004, 0x005, 0x008, 0x009, 0x00A, 0x00E, 0x00F, 0x020, 0x021, 0x022, 0x024,
      0x030, 0x031, 0x032, 0x033, 0x034, 0x040, 0x041] : List (BitVec 13)), exec (.swr a idx) s = put w)

/-- R57: the indices that its table assigns to a register. -/
def Sys2Proof.Machine.assigned (idx : BitVec 13) : Prop :=
  let n := idx.toNat
  n ≤ 0x017 ∨ (0x020 ≤ n ∧ n ≤ 0x024) ∨ (0x030 ≤ n ∧ n ≤ 0x034) ∨ (0x040 ≤ n ∧ n ≤ 0x041) ∨
    (0x100 ≤ n ∧ n ≤ 0x104) ∨ (0x110 ≤ n ∧ n ≤ 0x115)

/-- R60: the registers that user mode may neither read nor write. -/
def Sys2Proof.Machine.privileged (idx : BitVec 13) : Prop :=
  let n := idx.toNat
  (0x100 ≤ n ∧ n ≤ 0x104) ∨ (0x110 ≤ n ∧ n ≤ 0x115)

/-- R60: in user mode an SRD or SWR of the indices 0x100 to 0x104 and 0x110 to 0x115 and an SWR of SLOPE raise PRIV; of
every other assigned index an SRD completes, and an SWR completes but for the values of LTILE and FCSR that R57, R58
and R210 refuse. R57, R210: in either mode an index that the table assigns to no register raises ILLEGAL. R57, R75,
R140: supervisor mode reads and writes the context's registers, the purses and SLOPE; a write of CTXID advances the
identifier's generation. The model's choices: in a trap handler an SRD or SWR of EXM, LTILE or FCSR asks nothing of
suspended lane blocks (log entry 15), and a warp's CTXID is the one it took at its start or wrote (log entry 63). -/
def Obligations.PrivilegedRegisters : Prop :=
  (∀ (s : State) (r : SReg) (idx : BitVec 13),
    let lanes := idx = 0x006 ∨ idx = 0x007 ∨ idx = 0x00B
    (¬ assigned idx →
      (Ready s [] → exec (.srd r idx) s = raised s (.plain cILLEGAL)) ∧
      (Ready s [r] → exec (.swr r idx) s = raised s (.plain cILLEGAL))) ∧
    (s.me.sup = false → privileged idx →
      (Ready s [] → exec (.srd r idx) s = raised s (.plain cPRIV)) ∧
      (Ready s [r] → exec (.swr r idx) s = raised s (.plain cPRIV))) ∧
    (s.me.sup = false → Ready s [r] → exec (.swr r 0x023) s = raised s (.plain cPRIV)) ∧
    (assigned idx → ¬ privileged idx → (lanes → s.me.sup = true ∨ s.me.dispatch = []) →
      (Ready s [] → ∃ x, exec (.srd r idx) s = .next (wrote s r x)) ∧
      (Ready s [r] → s.me.sup = true ∨ idx ≠ 0x023 → (idx = 0x007 → (s.sreg r).toNat % 8 < 5) →
        (idx = 0x00B → (s.sreg r).toNat % 8 < 6) →
        ∃ t, exec (.swr r idx) s = .next (issued t t.me (s.me.pc + 4) false) ∧ t.mem = s.mem ∧ t.me.s = s.me.s ∧
          t.me.sup = s.me.sup))) ∧
  (∀ (s : State) (d a : SReg), s.me.sup = true →
    let c := s.ctxAt s.myCtx
    let x := s.sreg a
    let core := coreOf s.cur
    let put := fun (t : State) => Host.Outcome.next (issued t t.me (s.me.pc + 4) false)
    let putCtx := fun (c' : Ctx) => put (s.setCtx s.myCtx c')
    (Ready s [] → exec (.srd d 0x100) s = .next (wrote s d c.ptb) ∧ exec (.srd d 0x102) s = .next (wrote s d c.tvb) ∧
      exec (.srd d 0x103) s = .next (wrote s d c.frb) ∧ exec (.srd d 0x104) s = .next (wrote s d c.sdtb) ∧
      exec (.srd d 0x101) s =
        .next (wrote s d (BitVec.ofNat 64 (s.me.ctxid.toNat + 65536 * (Tbl.get 0 s.gens s.me.ctxid.toNat).toNat)))) ∧
    (Ready s [a] → exec (.swr a 0x100) s = putCtx { c with ptb := x } ∧ exec (.swr a 0x102) s = putCtx { c with tvb := x } ∧
      exec (.swr a 0x103) s = putCtx { c with frb := x } ∧ exec (.swr a 0x104) s = putCtx { c with sdtb := x }) ∧
    (Ready s [a] → ∃ t, exec (.swr a 0x101) s = put t ∧ (t.ctxAt s.myCtx).ctxid = x.setWidth 16 ∧
      t.me.ctxid = x.setWidth 16 ∧ t.mem = s.mem ∧
      (Tbl.wf 0 s.gens = true →
        Tbl.get 0 t.gens (x.toNat % 65536) = Tbl.get 0 s.gens (x.toNat % 65536) + 1)) ∧
    (∀ i : Fin 6,
      let y := s.domainAt (domainOf core)
      (Ready s [] → exec (.srd d (BitVec.ofNat 13 (0x110 + i.val))) s = .next (wrote s d (y.purse[i].setWidth 64))) ∧
      (Ready s [a] → exec (.swr a (BitVec.ofNat 13 (0x110 + i.val))) s =
        put (s.setDomain (domainOf core) { y with purse := y.purse.set i (x.setWidth 16) }))) ∧
    (Ready s [a] → exec (.swr a 0x023) s =
      put (s.setCluster (clusterOf core) { s.clusterAt (clusterOf core) with slope := x.setWidth 12 })))

/-! ### Regions, YIELD and the end of a warp (R164, R211, R212, R215) -/

/-- R164, R211, R212: REGN opens a region at its own address once the lanes are drained; YIELD makes its warp the
youngest of its slot. R30, R38, R215: EXIT of a warp that hosts no crew, its lane blocks done and its commands
complete, frees its slot; a stroke keeps its slot and is marked as exited. That REGN and EXIT ask nothing of the lane
blocks suspended in a trap handler is the model's choice (log entry 15). -/
def Obligations.RegionYieldAndExit : Prop :=
  (∀ s : State, Ready s [] →
    ((s.me.sup = true ∨ s.me.dispatch = []) →
      exec .regn s = .next (issued s { s.me with rgn := s.me.pc, openRgn := true } (s.me.pc + 4) false)) ∧
    (∃ t, exec .yieldW s = .next t ∧ t.me = { (issued s s.me (s.me.pc + 4) false).me with yielded := true } ∧
      t.mem = s.mem ∧ ∀ k, k ≠ s.cur → t.warpAt k = s.warpAt k)) ∧
  (∀ s : State, Ready s [] → s.me.hosts = none → (s.me.sup = true ∨ s.me.dispatch = []) → warpCmds s s.cur = [] →
    ∃ t, exec .exitWarp s = .next t ∧ t.mem = s.mem ∧ (∀ k, k ≠ s.cur → t.warpAt k = s.warpAt k) ∧
      (s.me.stroke = none → t.me = Warp.absent) ∧
      (∀ c n, s.me.stroke = some (c, n) → t.me.stat = .exited ∧
        (t.crewAt c).strokes = (s.crewAt c).strokes.map fun x => if x.k = n then { x with exited := true } else x))

/-! ### Taking an exception and returning from one (R162 to R170, R213, R214) -/

/-- The state in which a user-mode warp with nothing in flight, that has met a cause, writes its save area: CAUSE and
EPC are written, its wait is over. -/
def Sys2Proof.Machine.trapping (s : State) (cause : Cause) : State :=
  ((s.setMe { s.me with
    cause := 0#1 ++ cause, epc := s.me.pc, wait := .none, fault := none, laneFault := none, reads := [], pass := 0
    lastLane := false, yielded := false, waitFrom := none }).unlist s.cur).answered s.cur

/-- The resumption a synchronous cause of the scalar stream records (R166). -/
def Sys2Proof.Machine.resumption (s : State) (r : Raise) (resume : Word) : TrapRec where
  cause := r.cause
  lane := false
  epc := s.me.pc
  replay := false
  async := false
  region := s.me.openRgn
  resume := resume
  laneAt := 0
  addr := r.addr
  lanes := 0
  area := trapArea (s.ctxAt s.myCtx).frb s.cur
  second := r.second
  wait := resumedWait s.me.wait

/-- A scalar cause can be taken at once: user mode, a committed warp, its lane blocks and results done, no
asynchronous cause pending (R42, R162, R165). -/
def Sys2Proof.Machine.TakesNow (s : State) : Prop :=
  s.me.sup = false ∧ uncommitted s s.me = none ∧ s.me.dispatch = [] ∧ s.me.inflight = [] ∧ s.me.async = []

/-- R167: taking a cause that has a handler. CAUSE and EPC are written, then the save area at FRB + 0x1000 + 1024 ×
the warp's number, s1 gets its address, and the warp goes on in supervisor mode at the handler of its vector entry.
Every other register of the warp is as it was. TRAP (R213) takes its software cause so, to resume at the next word;
that it leaves IRET uncounted (log entry 40), and that the bits of the handler's address above 55 are zero (log entry
89), are the model's choices. R167: the bytes of the trap save area. -/
def Obligations.TrapEntry : Prop :=
  (∀ (s u v : State) (r : Raise) (resume : Word) (bs : List Byte), TakesNow s →
    r.cause ≠ cPAGE → r.cause ≠ cFMT_ABSENT → r.cause ≠ cECC_SCRATCH →
    let who : Who := ⟨coreOf s.cur, s.myCtx, s.me.block, true, some s.me.ctxid, false⟩
    let x := resumption s r resume
    let tvb := (s.ctxAt s.myCtx).tvb
    writeSpan (trapping s r.cause) who x.area (trapBytes s.me x false false) = (u, .ok ()) →
    tvb.toNat % 2048 = 0 → (u.ctxAt s.myCtx).tvb = tvb →
    readSpan u who (tvb + BitVec.ofNat 64 (8 * r.cause.toNat)) 8 = (v, .ok bs) →
    let e : Word := BitVec.ofNat 64 (leNat bs)
    e.getLsbD 0 = true → e.getLsbD 1 = false → (e.extractLsb' 56 8 : BitVec 8) = 0 →
    ∃ t, raiseScalar s s r resume [] false = .next t ∧
      (∀ code, Ready s [] → r = .plain (1#1 ++ code) → resume = s.me.pc + 4 → exec (.trap code) s = .next t) ∧
      t.me = { (trapping s r.cause).me with
        s := s.me.s.set 1 x.area, pc := e &&& 0x00FF_FFFF_FFFF_FFFC, sup := true, trap := some x, parked := none } ∧
      (∀ k, k ≠ s.cur → t.warpAt k = s.warpAt k) ∧ t.blocks = s.blocks) ∧
  (∀ (w : Warp) (x : TrapRec) (parked sup : Bool),
    let bs := trapBytes w x parked sup
    bs.length = 1024 ∧ (∀ i : Fin 64, fieldWord bs (8 * i.val) = w.s[i]) ∧
    fieldWord bs 0x200 = x.resume ∧ fieldWord bs 0x208 = x.laneAt ∧
    fieldWord bs 0x210 = BitVec.ofNat 64 (x.replay.toNat + 2 * x.async.toNat + 4 * x.region.toNat
      + 8 * parked.toNat + 16 * sup.toNat) ∧
    fieldWord bs 0x218 = x.addr ∧ fieldNat bs 0x220 4 = x.lanes.toNat ∧ zeroBytes bs 0x224 476 = true)

/-- R169: on PAGE the warp parks: CAUSE, EPC and the save area are written, s1 and the pc are kept, and no handler
is entered. -/
def Obligations.PageParks : Prop :=
  ∀ (s u : State) (va resume : Word) (second : Bool), TakesNow s →
    let r : Raise := ⟨cPAGE, va, 0, second⟩
    let who : Who := ⟨coreOf s.cur, s.myCtx, s.me.block, true, some s.me.ctxid, false⟩
    let x := resumption s r resume
    writeSpan (trapping s cPAGE) who x.area (trapBytes s.me x true false) = (u, .ok ()) →
    ∃ t, raiseScalar s s r resume [] false = .next t ∧
      t.me = { (trapping s cPAGE).me with parked := some (.page, x) } ∧ t.mem = u.mem

/-- R168, R214: ERET reloads s1 to s63 from the save area, leaves supervisor mode and resumes where the trap
recorded; a replay, asked for or required, discards the dispatched blocks and the queues and goes to RGN. In user
mode it raises PRIV. That the resumption goes by the part's own record of the trap, not by the flag and the address in
the area, is the model's choice (log entry 98). -/
def Obligations.ExceptionReturn : Prop :=
  ∀ s : State, Ready s [] →
    (s.me.sup = false → exec .eretResume s = raised s (.plain cPRIV) ∧ exec .eretReplay s = raised s (.plain cPRIV)) ∧
    ∀ (u : State) (x : TrapRec) (bs : List Byte), s.me.sup = true → s.me.trap = some x → x.cause ≠ cECC_SCRATCH →
      readSpan s ⟨coreOf s.cur, s.myCtx, s.me.block, true, some s.me.ctxid, s.silent == some (.warp s.cur)⟩ x.area 512 = (u, .ok bs) →
      let user := { s.me with
        s := Vector.ofFn fun (i : Fin 64) => if i.val = 0 then 0 else fieldWord bs (8 * i.val)
        sup := false, trap := none, parked := none, iret := s.me.iret + 1, pass := 0, lastLane := false
        yielded := false, waitFrom := none }
      let replayed := { user with
        pc := s.me.rgn, dispatch := [], dq := Vector.replicate 4 ⟨[], none⟩, xq := [], bq := [], held := [] }
      let resumed := if x.replay then replayed else { user with pc := x.resume, wait := x.wait }
      (∃ t, exec .eretResume s = .next t ∧ t.me = resumed ∧ t.mem = u.mem) ∧
      (∃ t, exec .eretReplay s = .next t ∧ t.me = replayed ∧ t.mem = u.mem)

/-- R162: an asynchronous cause, the oldest, is taken in user mode before the next word of its warp, whichever
stream's turn it is, and the others stay pending, in their order. A cause that the warp's own word has raised and that
stands at least as high goes before it. R140: the page walks of the entry draw on the page-walker purse, for which it
waits. With no dirty log enabled, which can hold the entry up (R81), and a purse that limits nothing, a warp of the
package's cores always takes it. That the entry takes the slot's opportunity (log entry 80), and that a walk takes one
slot (log entry 85), are the model's choices. -/
def Obligations.AsynchronousTrap : Prop :=
  ∀ (s : State) (k : Nat) (c : Cause) (epc : Word) (rest : List (BitVec 8 × Word)),
    let w := s.warpAt k
    w.async = (c, epc) :: rest → w.stat = .running → w.sup = false → w.parked = none →
    (s.blockAt w.block).stopped = false → syncFirst s w c = false →
    (∀ lane, warpTurn s k lane = exec (.trapEntry k) (s.turnOf k)) ∧
    let z := { s with asked := [] }
    (∀ t, takeTrap (z.setWarp k { w with async := rest }) k ⟨.plain c, false, epc, w.pc, true, [], false⟩ = some t →
      (∀ u, paidStep z t k = some u → exec (.trapEntry k) s = .next u ∧ (u.warpAt k).async = rest) ∧
      (∀ u, paidStep z t k = none → drawAhead z t k = some u → exec (.trapEntry k) s = .next u)) ∧
    (k < 64 * 384 → (∀ vf, (s.fnAt vf).ring = none) → (s.domainAt (domainOf (coreOf k))).active[3] = 0xFFFF →
      ∃ t, exec (.trapEntry k) s = .next t ∧ (t.warpAt k).async = rest)

/-- R140: what a command's step from `s` to `u` asks of the purses, but for what it has drawn already, is paid for: the
machine `v`. -/
def Sys2Proof.Machine.Paid (s u : State) (c : Cmd) (v : State) : Prop :=
  let bill := owed u.asked c.drawn
  billOpen s bill = true ∧ v = if u.asked = [] then u else { spendBill u bill with asked := [] }

/-- R140: a command's step that asks more than the period has left draws what is left, and keeps it with the command,
`x` as it is then found at the head of its queue; with nothing left it is as `refused`. -/
def Sys2Proof.Machine.Owing (s u : State) (core q : Nat) (c x : Cmd) (o refused : Host.Outcome State Fault Refusal) : Prop :=
  let bill := owed u.asked c.drawn
  billOpen s bill = false → o = match drawOwed s bill c.drawn with
    | some y => .next (setHead y.1 core q { x with drawn := y.2 })
    | none => refused

/-- R74, R78, R169: firmware's answer to a parked warp. A served page's entries are written and the warp resumes
without its handler, with no charge for a context that is no virtual function's and for a second-stage fault, which
the host serves; a refusal enters the handler of PAGE, of QUOTA where the quota would be exceeded, or of PROT for a
second-stage fault. What a second-stage fault is charged and when a quota would be exceeded are the model's reading (log
entry 23). R170: without the emulation of an absent format the matrix queue moves on and the warp enters the FMT_ABSENT
handler; with it the command has its effect, or fails, once the slots it asks of the B-page purse are drawn (the model's
choice, log entry 24), and the warp goes on after its word. R82, R301: a peer package
that does not answer, as other storage in error, makes a load raise ECC_SCRATCH at its address; a command fails with
ENGINE; an update of a counter is given up and logged. A command is failed so where it is at an access to a peer
package, a counter's update where the counter is in one, and nothing else is. The causes of an unanswered peer are the
model's reading (log entry 44), and so is that a load waits for a held fence (log entry 87). -/
def Obligations.FirmwareAnswers : Prop :=
  (∀ (s : State) (k : Nat) (x : TrapRec), (s.warpAt k).parked = some (.page, x) →
    let w := s.warpAt k
    let ctx := (s.gridOf w.block).ctx
    let enter := fun (c : Cause) =>
      enterHandler (s.setWarp k { w with cause := (w.cause.extractLsb' 8 1 : BitVec 1) ++ c }) k { x with cause := c } c
    (wouldExceed s ctx x.addr = true → x.second = false →
      exec (.faultResolution (.warp k) .overQuota) s = .next (enter cQUOTA)) ∧
    exec (.faultResolution (.warp k) .declined) s = .next (enter (if x.second then cPROT else cPAGE)) ∧
    ∀ es, (s.ctxAt ctx).vf = 0 ∨ x.second = true →
      ∃ t, exec (.faultResolution (.warp k) (.served es)) s = .next t ∧
        t.mem = es.foldl (fun m e => writeBytes m e.1 (leBytes 8 e.2.toNat)) s.mem ∧ t.fns = s.fns ∧
        (x.replay = false → t.warpAt k =
          { w with sup := false, trap := none, parked := none, pc := x.resume, wait := x.wait }) ∧
        (x.replay = true → t.warpAt k =
          { w with
            sup := false, trap := none, parked := none, pc := w.rgn, dispatch := []
            dq := Vector.replicate 4 ⟨[], none⟩, xq := [], bq := [], held := [] })) ∧
  (∀ (s : State) (k : Nat) (c : Cmd) (x : TrapRec), headCmd s (coreOf k) 1 = some c → c.emul = true → c.warp = k →
    (s.warpAt k).parked = some (.format, x) → joinsOpen s (coreOf k) 1 c.seq = true →
    exec (.formatEmulation k false) s = .next (enterHandler (dropHead s (coreOf k) 1) k x cFMT_ABSENT) ∧
    let s0 := { s with asked := [] }
    let refused := Host.Outcome.refused (Refusal.notEnabled "FORMAT_EMULATION")
    (∀ u d v, cmdStart s0 (coreOf k) { c with emul := false } = .goes u d → Paid s u c v →
      exec (.formatEmulation k true) s =
        .next (resumeAfterFormat (dropHead (orFlags v { d with drawn := [] }) (coreOf k) 1) k x)) ∧
    (∀ u cause v, cmdStart s0 (coreOf k) { c with emul := false } = .fails u cause → Paid s u c v →
      exec (.formatEmulation k true) s = .next (resumeAfterFormat (failCmd v (coreOf k) 1 c cause) k x)) ∧
    ∀ u, (cmdStart s0 (coreOf k) { c with emul := false }).state = some u →
      Owing s0 u (coreOf k) 1 c c (exec (.formatEmulation k true) s) refused) ∧
  (∀ (s : State),
    (∀ k, (s.warpAt k).stat = .running → exec (.peerTimeout (.warp k)) s = .next { s with silent := some (.warp k) }) ∧
    (∀ core q c, headCmd s core q = some c →
      let next := fun (x : Option FaultTarget) => (cmdNext { s with silent := x } core c).failed
      let free := c.pageVa = none ∧ c.emul = false ∧
        (c.started = true ∨ (joinsOpen s core q c.seq = true ∧ seqBusy s core c = false))
      let atPeer := (∃ m ∈ c.moves, m.atPeer = true) ∨ (next (some (.cmd core q)) = true ∧ next none = false)
      (free → atPeer → exec (.peerTimeout (.cmd core q)) s = .next (failCmd s core q c cENGINE)) ∧
      (¬ (free ∧ atPeer) → exec (.peerTimeout (.cmd core q)) s = .refused (.notEnabled "PEER_TIMEOUT"))) ∧
    (∀ n p, s.pend[n]? = some p →
      let fails := fun (deaf : Bool) =>
        ∃ v, counterUpdate s { whoPart p.ctx with deaf := deaf } p.ctr p.bit = .failed v cECC_SCRATCH
      let u := { s with pend := s.pend.eraseIdx n }.log p.ctx (.counter p.record cECC_SCRATCH)
      (fails true → ¬ fails false →
        exec (.peerTimeout (.counter n)) s = .next (if p.bit.isSome then u else finishGrid u p.grid)) ∧
      (¬ fails true ∨ fails false →
        exec (.peerTimeout (.counter n)) s = .refused (.notEnabled "PEER_TIMEOUT"))) ∧
    (∀ (u : State) (d a : SReg) (imm : BitVec 13) (p : Spot), Ready s [a] → fenceHeld s s.me = false →
      resolve s (whoOf s s.cur s.me) .read 8 (s.sreg a + imm.signExtend 64) = (u, .ok p) → ¬ answers u p 8 →
      exec (.ldd d a imm) s = raiseScalar s u (.at cECC_SCRATCH (s.sreg a + imm.signExtend 64)) s.me.pc [] false) ∧
    (∀ (t : State) (pa : Nat) (dirty : List Dirty) (attr : BitVec 2) (by_ : Option TlbEntry) (n : Nat),
      paRange pa = .peer → t.silent = some (.warp t.cur) → ¬ answers t (.mem pa dirty attr by_) n))

/-- R130, R167: a cause in supervisor mode kills the block, and so does a word of the lane dispatch or of the queues
between the streams; that the log then has CAUSE's code and the word's address is the model's choice (log entry 100).
R42, R165: a scalar cause of a warp in user mode waits for its stroke to be committed and for the dispatched lane
blocks, pending until then, and is then taken, its word not executed again (the model's reading, log entry 75). R82,
R162, R172: the storage a word reads is checked first. A scalar source in error raises ECC_REG and is repaired to zero
when the cause is taken. -/
def Obligations.CausesMet : Prop :=
  (∀ (s : State) (r : Raise), s.me.sup = true → (s.blockAt s.me.block).killed = false →
    ∃ t, raised s r = .next t ∧ (t.blockAt s.me.block).killed = true ∧ (t.blockAt s.me.block).stopped = true ∧
      ∀ k, t.warpAt k = s.warpAt k) ∧
  (∀ (s : State) (a b k : SReg) (imm : BitVec 19) (uns : Bool) (size q : BitVec 2), canRun s = true → s.me.sup = true →
    ∀ i ∈ ([.lgo imm, .lgor a, .lwait, .dqpBroadcast a q, .dqpIota a b q, .dqld a b uns size q, .dqstrm a b k uns size q,
      .xqp a, .bqt imm, .bqf imm] : List Instr),
      exec i s = .next (killBlock s s.me.block (s.me.cause.extractLsb' 0 8) s.me.pc none)) ∧
  (∀ (s : State) (r : Raise), s.me.sup = false → (uncommitted s s.me).isSome = true ∨ s.me.dispatch ≠ [] →
    let x : ScalarFault := ⟨r.cause, r.addr, r.second, s.me.pc, [], (uncommitted s s.me).isSome, false⟩
    raised s r = .next (if s.me.fault = some x then { s with waited := true }
      else s.setMe { s.me with
        fault := some x, pass := 0, lastLane := false, yielded := false, waitFrom := none })) ∧
  (∀ (s : State) (x : ScalarFault), s.me.fault = some x →
    ((uncommitted s s.me).isSome = true ∨ (x.atOnce = false ∧ s.me.dispatch ≠ []) →
      scalarTurn s = .next { s with waited := true }) ∧
    (TakesNow s → x.regs = [] →
      scalarTurn s = raiseScalar s s ⟨x.cause, x.addr, 0, x.second⟩ x.resume [] false)) ∧
  (∀ (s : State) (d a b : SReg), canRun s = true → badSources s [a, b] ≠ [] →
    exec (.add d a b) s =
      raiseScalar s s (.plain cECC_REG) s.me.pc (badSources s [a, b]) false ∧
    ∀ (k r : Nat) (h : r < 64), ((repair s (.sreg k r)).warpAt k).s[r] = 0 ∧
      EccSite.sreg k r ∉ (repair s (.sreg k r)).poison)

/-! ### The machine as a whole -/

/-- R182, R193: where the four bytes at the pc, read through the tables, are the word of an instruction, a turn of its
warp's scalar stream is that instruction; where no walk gives the fetch, or the word is none, its warp meets the
fetch's cause or ILLEGAL (R181). R192: where code was written since the launch of its grid, the fetch may find the
bytes from before it as well; which of the two is free (log entry 69). R82, R301: a unit in a line in error, or in a
peer package that does not answer, raises ECC_SCRATCH. R140: a turn whose page walks the page-walker purses of their
domains cannot pay for in full waits; that a walk takes one slot is the model's choice (log entry 85).
R14, R182, R189: the same of the lane stream: the units at the address of the dispatched lane block whose words issue
next. -/
def Obligations.WordsOfATurn : Prop :=
  (∀ (s t : State) (k : Nat),
    let w := s.turnOf k
    let who := whoOf w w.cur w.me
    let pc := w.me.pc
    canRun w = true → w.me.fault = none → asyncFirst w w.me = false → addrClass pc = .translated →
    (∀ pa l, translate w who .fetch pc = (t, .ok (pa, l)) → tableAt pa = true →
      lineBad t pa 4 = false → who.deaf = false ∨ paRange pa ≠ .peer →
      let unit := fun (m : Tbl Byte) => BitVec.ofNat 32 (leNat (readBytes m pa 4))
      let new := unit t.mem
      let old := unit (t.gridOf w.me.block).code
      let runs := fun (v : State) (u : BitVec 32) => match decodeS u with
        | .ok i => exec i v
        | .error _ => raised v (.plain cILLEGAL)
      (new = old → rawTurn s k false = runs t new) ∧
      (new ≠ old → ∃ u, (u = new ∨ u = old) ∧ rawTurn s k false = runs { t with free := t.free + 1 } u)) ∧
    (∀ pa l, translate w who .fetch pc = (t, .ok (pa, l)) → tableAt pa = true →
      lineBad t pa 4 = true ∨ (who.deaf = true ∧ paRange pa = .peer) →
      rawTurn s k false = raiseScalar w t (.at cECC_SCRATCH pc) pc [] false) ∧
    (∀ r, translate w who .fetch pc = (t, .error r) → rawTurn s k false = raiseScalar w t r pc [] false)) ∧
  (∀ (s t : State) (k n : Nat) (d : Dispatch) (us : List (BitVec 32)) (i : Instr),
    let w := s.turnOf k
    canRun w = true → w.me.sup = false → w.me.laneFault = none → asyncFirst w w.me = false →
    w.me.laneBlock = some d → w.me.laneAt ≤ s.cycle →
    fetchLane w (whoOf w w.cur w.me) d.addr = (t, .ok us) → decodeLaneUnits us = .ok (i, n) →
    rawTurn s k true = exec i t) ∧
  (∀ (s t : State) (k : Nat) (lane : Bool), rawTurn s k lane = .next t →
    let bill := t.asked.map fun e => (e.1, e.2 - Tbl.get 0 (s.warpAt k).drawn e.1)
    let paid := ∀ e ∈ bill,
      let budget := (s.domainAt e.1).active[3].toNat
      e.2 = 0 ∨ budget = 0xFFFF ∨ (s.domainAt e.1).spent[3] + e.2 ≤ max 1 budget
    (t.waited = true ∨ t.asked = [] → warpTurn s k lane = .next t) ∧
    (t.waited = false → t.asked ≠ [] →
      (paid → warpTurn s k lane =
        .next ({ spendBill t bill with asked := [] }.setWarp k { t.warpAt k with drawn := [] })) ∧
      (¬ paid → warpTurn s k lane = .next { s.turnOf k with waited := true })))

/-- R30, R115, R134: one step of the machine. An input comes first, whatever the agenda names, then the turn that it
names; the turn of an issue slot, its one opportunity of the cycle, is the turn of the ready warp it chooses, the
other ready warps of the slot letting an opportunity pass. A QSTEAL lets the QPOPs of other slots of the cycle go
first, an arrival at a barrier the EXPECTs, and an EXPECT that an arrival has preceded waits for the next cycle, which
is the model's reading (log entry 74). The
end of a cycle advances the clock and gives every slot its opportunity again; it runs no word. The inbox and the
agenda are the model's own (log entry 5). -/
def Obligations.StepRunsTheTurn : Prop :=
  (∀ (s : State) (x : Input) (rest : List Input), s.inbox = x :: rest →
    let u := { s with inbox := rest }
    step s = takeInput x u ∧ (∀ pa bs, x = .memWrite pa bs → step s = .next { u with mem := writeBytes s.mem pa bs }) ∧
    ∀ i t, x = .event i → encode i = none → barWrite i = false → exec i u = .next t → step s = .next t) ∧
  ∀ (s : State) (rest : List Turn), s.inbox = [] →
    let u := { s with agenda := rest }
    (∀ core slot k lane t, s.agenda = .issue core slot :: rest →
      let n := 4 * core + slot
      let v := u.spend n
      n ∉ s.issued → slotHeld u n = false → chosen v core slot = some (k, lane) → warpTurn v k lane = .next t →
      ∃ r, step s =
          .next (passOver ((readyOf v (slotWarps v core slot)).map (·.1)) k { t with reached := t.reached ++ r }) ∧
        (r = [] ∨ ∃ x, r = [x] ∧ chosenBar v n = some x)) ∧
    (∀ core slot, s.agenda = .issue core slot :: rest →
      let n := 4 * core + slot
      (∀ m, m ∈ slotsLeft u → m ≠ n →
        (∀ k a b k' a' b' auto, chosenWord u n = some (.qsteal k a b) → chosenWord u m = some (.qpop k' a' b' auto) →
          step s = .next u) ∧
        ∀ blk b, chosenBar u n = some (blk, b, true) → chosenBar u m = some (blk, b, false) → step s = .next u) ∧
      ∀ blk b, chosenBar u n = some (blk, b, false) → (blk, b, true) ∈ s.reached → step s = .next u) ∧
    (∀ i t, s.agenda = .event i :: rest → encode i = none → barWrite i = false → exec i u = .next t → step s = .next t) ∧
    (s.agenda = .tick :: rest → s.toSave = [] → s.fencing = [] → (∀ e ∈ s.fns, e.2.drains = false) →
      ∃ t, step s = .next t ∧ t.cycle = s.cycle + 1 ∧ t.issued = [] ∧ t.reached = [] ∧ t.mem = s.mem ∧
        ∀ k, (t.warpAt k).s = (s.warpAt k).s ∧ (t.warpAt k).v = (s.warpAt k).v ∧ (t.warpAt k).pc = (s.warpAt k).pc)

/-- R176 to R189: words written out from the encodings decode to the instructions they stand for. -/
def Obligations.WordsDecode : Prop :=
  decodeS 0b0000001_000011_000001_000010_0000000 = .ok (.add 3 1 2) ∧
  decodeS 0b0000010_000101_000110_1111111111111 = .ok (.addi 5 6 0x1FFF) ∧
  decodeS 0b0010110_000001_000010_0000000001000 = .ok (.ldd 1 2 8) ∧
  decodeS 0b0011100_000111_001000_0000000_1_101_11 = .ok (.lda 7 8 3 .system true) ∧
  decodeS 0b0011110_000001_000010_000011_0_111_100 = .ok (.atom 1 2 3 .cas .device false) ∧
  decodeS 0b0101000_000100_1111111111111111111 = .ok (.bz 4 0x7FFFF) ∧
  decodeS 0b0111101_000000_000000_000000_000_0101 = .ok (.barSync 5) ∧
  decodeS 0b1110000_00000000000000000_1_0000011 = .ok (.trap 3) ∧
  decodeUnits [0b0000000000_0001_000_1_0000_0000000001, 0b010_0000000000001_0000000000010_000,
    0b0000000000_0000000000000000000000] = .ok (.vadd ⟨1, 0, true, 0, none⟩ (.v 10) (.v 1) (.op (.v 2))) ∧
  decodeUnits [0b111111_0011_010_1_0000000000111_00000, 0b0010000011_0001_101_0_0010_0100000000,
    0b000_0000000000001_0000000000010_100, 0b0000000001_0000000000000000000000] =
    .ok (.ffma ⟨1, 5, false, 2, some ⟨3, 2, true, .v 7⟩⟩ (.o 0) (.v 1) (.v 2) (.l 1))

/-- R176 to R189, R238 to R249: no bit of an encoding is dropped. Every well-formed word of the table, with every
operand at every value its encoding admits, decodes from the units it is encoded to. -/
def Obligations.RoundTrip : Prop :=
  ∀ (i : Instr) (us : List (BitVec 32)), i.wf = true → encode i = some us → decodeUnits us = .ok i

/-- R176 to R181: a scalar word that decodes is well-formed and is the one its bits encode; every other word is
refused. R183 to R189: so is a lane word, whose encoding is the units it was read from. -/
def Obligations.DecodedWordsEncode : Prop :=
  (∀ (u : BitVec 32) (i : Instr), decodeS u = .ok i → i.wf = true ∧ encode i = some [u]) ∧
  ∀ (us : List (BitVec 32)) (i : Instr) (n : Nat), decodeLaneUnits us = .ok (i, n) →
    i.wf = true ∧ encode i = some (us.take n)

/-- R65: every step keeps memory in its canonical form, addresses strictly rising and no zero byte listed. That an
unlisted byte reads zero is the model's choice (log entry 1). -/
def Obligations.MemoryStaysCanonical : Prop :=
  ∀ s t : State, s.memOk → step s = .next t → t.memOk

/-- R48, R70, R106, R109, R119, R298: what reset leaves. Memory is in its form and reads zero everywhere (the
model's choice, log entry 1), no warp, block or grid is there, every queue is empty, every launch queue and virtual
function disabled, each slot's registers at the values a warp starts with. R57, R69, R139, R303, R305: SLOPE zero, the B
pages free, the defaults of the boost reserve, the part not booted, nothing fenced. What a slot without a warp holds is
the model's choice (log entry 3). -/
def Obligations.ResetState : Prop :=
  let s := State.reset
  s.memOk ∧ (∀ pa, readPhys s.mem pa = 0) ∧ (∀ k, s.warpAt k = Warp.absent) ∧ (∀ b, (s.blockAt b).live = false) ∧
  s.grids = [] ∧ (∀ c, (s.coreAt c).cmds = [] ∧ (s.coreAt c).pages = []) ∧
  (∀ u, (s.clusterAt u).vault = [] ∧ (s.clusterAt u).slope = 0 ∧ (s.clusterAt u).refill = 2 ∧
    (s.clusterAt u).limit = 50000) ∧
  (∀ q : Fin 16, s.lqs[q].en = false ∧ s.lqs[q].size = 0 ∧ s.lqs[q].head = 0 ∧ s.lqs[q].tail = 0) ∧
  (∀ f, (s.fnAt f).en = false ∧ (s.fnAt f).dlsize = 0) ∧ s.boot.power = .off ∧ s.fenced = []

/-- R30: an issue slot issues words of its ready warps only, so no step meets a fault: the only fault of the model is a
word asked of a warp that may not run it. The fault is the model's own name for what the machine never does. -/
def Obligations.NoStepFaults : Prop :=
  ∀ s : State, Safe s

/-! ### Waits and barriers (R132 to R135, R261 to R265) -/

/-- R26, R132, R261, R262, R265: CWAIT completes once its counter satisfies the target, WAITV once its condition
holds, with the value read; until then they only wait. That they wait as well for a sequentially consistent fence which
their stroke holds is the model's reading (log entry 87). HINTSUCC notes its block; WAITPRED waits in an EARLY grid for
the grid before it. -/
def Obligations.Waits : Prop :=
  ∀ (s u : State) (k a b : SReg) (p : Spot) (bs : List Byte),
    (Ready s [a, b] → fenceHeld s s.me = true → ∀ yld cond sc rmt, remoteOk rmt sc = true →
      exec (.cwait a b yld) s = .next { s with waited := true } ∧
      exec (.waitv k a b cond sc rmt) s = .next { s with waited := true }) ∧
    (Ready s [a, b] → fenceHeld s s.me = false → loadAt s .read (s.sreg a) 8 = (u, .ok (p, bs)) →
      let v : Word := BitVec.ofNat 64 (leNat bs)
      let x := s.sreg b
      (∀ yld, exec (.cwait a b yld) s =
        if v.getLsbD 62 = true ∨ v.getLsbD 63 = true ∨ x.toNat % 2 ^ 62 ≤ v.toNat % 2 ^ 62 then
          .next (issued u u.me (s.me.pc + 4) false) else .next { s with waited := true }) ∧
      (∀ (sc : Scope) (rmt : Bool) (cond : WaitCond), remoteOk rmt sc = true →
        let holds : Prop := match cond with
          | .eq => v = x
          | .ne => v ≠ x
          | .ltu => v.toNat < x.toNat
          | .geu => x.toNat ≤ v.toNat
          | .lt => v.toInt < x.toInt
          | .ge => x.toInt ≤ v.toInt
        (holds → exec (.waitv k a b cond sc rmt) s = .next (issued u (u.withReg k v) (s.me.pc + 4) false)) ∧
        (¬ holds → exec (.waitv k a b cond sc rmt) s = .next { s with waited := true }))) ∧
    (Ready s [] →
      (∃ t, exec .hintsucc s = .next (issued t t.me (s.me.pc + 4) false) ∧ t.mem = s.mem ∧ t.warps = s.warps ∧
        (s.myBlock.grid < s.grids.length → s.myBlock.idx ∈ t.myGrid.hints)) ∧
      exec .waitpred s =
        if s.myGrid.record.early = true ∧ predPending s s.myBlock.grid = true then .next { s with waited := true }
        else .next (issued s s.me (s.me.pc + 4) false))

/-- R133, R134, R162, R263: the kinds of BAR. ARRIVE and EXPECT count and go on, INIT sets the barrier; SYNC and WAIT
begin a wait for the current phase and complete once it has opened or its wave has released them. An uninitialised
barrier, an arrival past 255 and a transaction count above 2^47 - 1 raise ILLEGAL, and only then a broken barrier
raises ENGINE, in every kind but INIT and in the warps that wait on it; INIT of no count or above 64, or of a barrier
that warps wait on, raises ILLEGAL. R252: a SYNC that has counted its arrival, interrupted after its phase has opened,
completes, whatever the barrier has come to (the model's reading, log entry 49). That in a trap handler the words ask
nothing of suspended lane blocks (log entry 15), and that a wait counts as a performed closing word from its begin (log
entry 103), are the model's choices. -/
def Obligations.Barriers : Prop :=
  ∀ (s : State) (a : SReg) (b : BitVec 4),
    let x := s.myBlock.bar b
    let sets := fun (y : Barrier) =>
      let t := putBar s s.me.block b y
      Host.Outcome.next (issued t t.me (s.me.pc + 4) true)
    let begun := fun (sync : Bool) =>
      let w := s.me
      (s.setMe { w with
        wait := .barrier b.toNat x.phase sync, openRgn := false, pass := 0, lastLane := false, yielded := false
        waitFrom := none }).setBlock w.block { s.blockAt w.block with lastMove := s.cycle, closed := true }
    let big := 2 ^ 47 - 1 < (s.sreg a).toNat
    (ReadyToClose s [a] → 1 ≤ (s.sreg a).toNat → (s.sreg a).toNat ≤ 64 → barWaiters s s.me.block b = false →
      exec (.barInit a b) s = sets ⟨BitVec.ofNat 7 (s.sreg a).toNat, 0, 0, x.phase, false⟩) ∧
    (x.expected ≠ 0 → x.broken = false →
      (ReadyToClose s [] → x.arrived ≠ 255 → exec (.barArrive b) s = sets { x with arrived := x.arrived + 1 }) ∧
      (ReadyToClose s [a] → ¬ big →
        exec (.barExpect a b) s = sets
          (if x.bytes + (s.sreg a).toNat ≤ 2 ^ 47 - 1 ∧ -(2 ^ 47) ≤ x.bytes + (s.sreg a).toNat then
            { x with bytes := x.bytes + (s.sreg a).toNat } else { x with broken := true })) ∧
      (ReadyToClose s [] → s.me.wait = .none →
        exec (.barWait b) s = .next (begun false) ∧
        (x.arrived ≠ 255 → exec (.barSync b) s =
          .next (putBar (begun true) s.me.block b { x with arrived := x.arrived + 1 }))) ∧
      (∀ phase sync, ReadyToClose s [] → s.me.wait = .barrier b.toNat phase sync →
        let goes := if x.phase = phase then Host.Outcome.next { s with waited := true }
          else .next (issued s s.me (s.me.pc + 4) true)
        exec (.barWait b) s = goes ∧ exec (.barSync b) s = goes)) ∧
    (∀ sync, ReadyToClose s [] → s.me.wait = .passed sync →
      let goes := Host.Outcome.next (issued s s.me (s.me.pc + 4) true)
      exec (.barWait b) s = goes ∧ exec (.barSync b) s = goes) ∧
    (x.expected = 0 ∨ x.arrived = 255 → ReadyToClose s [] → exec (.barArrive b) s = raised s (.plain cILLEGAL)) ∧
    (x.expected = 0 ∨ big → ReadyToClose s [a] → exec (.barExpect a b) s = raised s (.plain cILLEGAL)) ∧
    (x.expected ≠ 0 → x.broken = true →
      (ReadyToClose s [] → x.arrived ≠ 255 → exec (.barArrive b) s = raised s (.plain cENGINE)) ∧
      (ReadyToClose s [a] → ¬ big → exec (.barExpect a b) s = raised s (.plain cENGINE)) ∧
      (ReadyToClose s [] → s.me.wait = .none →
        exec (.barWait b) s = raised s (.plain cENGINE) ∧
        (x.arrived ≠ 255 → exec (.barSync b) s = raised s (.plain cENGINE)))) ∧
    (ReadyToClose s [] → s.me.wait = .none →
      (x.expected = 0 → exec (.barWait b) s = raised s (.plain cILLEGAL)) ∧
      (x.expected = 0 ∨ x.arrived = 255 → exec (.barSync b) s = raised s (.plain cILLEGAL))) ∧
    (∀ phase sync, ReadyToClose s [] → x.broken = true → s.me.wait = .barrier b.toNat phase sync →
      exec (.barWait b) s = raised s (.plain cENGINE) ∧ exec (.barSync b) s = raised s (.plain cENGINE)) ∧
    (ReadyToClose s [a] → (s.sreg a).toNat = 0 ∨ 64 < (s.sreg a).toNat ∨ barWaiters s s.me.block b = true →
      exec (.barInit a b) s = raised s (.plain cILLEGAL))

/-- R133: a barrier meets its marks. -/
def Sys2Proof.Machine.meetsMarks (x : Barrier) : Prop :=
  1 ≤ x.expected.toNat ∧ x.expected.toNat ≤ x.arrived.toNat ∧ x.bytes = 0 ∧ x.broken = false

/-- R133, R135: what has opened from `s` to `t`. A barrier of a resident block that meets its marks opens a phase as
often as its arrivals hold EXPECTED, and every warp of the block that waits for one of those phases has joined the
release list of the core; a barrier that does not meet its marks stays as it is. -/
def Sys2Proof.Machine.phasesOpened (s t : State) : Prop :=
  ∀ (b : Nat) (i : BitVec 4),
    let x := (s.blockAt b).bar i
    let n := x.arrived.toNat / x.expected.toNat
    ((s.blockAt b).live = true → meetsMarks x →
      (t.blockAt b).bar i =
        { x with arrived := BitVec.ofNat 8 (x.arrived.toNat % x.expected.toNat), phase := x.phase + BitVec.ofNat 16 n } ∧
      ∀ k j sync, j < n → (s.warpAt k).block = b → (s.warpAt k).stat ≠ .absent →
        (s.warpAt k).wait = .barrier i.toNat (x.phase + BitVec.ofNat 16 j) sync →
        (t.warpAt k).wait = .released sync ∧ k ∈ (t.coreAt (blockCore b)).relList) ∧
    (¬ meetsMarks x → (t.blockAt b).bar i = x)

/-- R133, R134, R135: the end of a cycle, the step at an agenda that begins with it, opens the phases of the barriers
that meet their marks: ARRIVED loses EXPECTED with each, the phase advances, and every warp that waits for the phase
joins the release list of the core; where a barrier does not meet its marks it stays. R135: a release wave frees the
next warps of the list, A of them where SLOPE names waves, all where it names none, and the next wave comes GAP cycles
later. The BAR of a freed warp completes, unless an asynchronous cause has ended its wait (R252); that it waits on its
barrier no longer is the model's reading (log entry 49), and the order in which warps join the list its choice (log
entry 90). The agenda is the model's own (log entry 5). -/
def Obligations.PhasesAndWaves : Prop :=
  (∀ (s : State) (rest : List Turn), s.inbox = [] → s.agenda = .tick :: rest → s.toSave = [] → s.fencing = [] →
    (∀ e ∈ s.fns, e.2.drains = false) → ∃ t, step s = .next t ∧ phasesOpened s t ∧ t.mem = s.mem) ∧
  (∀ s : State, phasesOpened s (openBarriers s) ∧ (openBarriers s).mem = s.mem ∧
    ((∀ (b : Nat) (i : BitVec 4), ¬ meetsMarks ((s.blockAt b).bar i)) → openBarriers s = s)) ∧
  (∀ (s : State) (core : Nat),
    let c := s.coreAt core
    let slope := (s.clusterAt (clusterOf core)).slope
    let a := slope.toNat / 256
    let gap := slope.toNat % 256
    let n := if a ≠ 0 ∧ gap ≠ 0 then a else c.relList.length
    c.relList ≠ [] → c.relList.Nodup → (a ≠ 0 ∧ gap ≠ 0 → c.nextWave ≤ s.cycle) →
    ∃ t, exec (.releaseWave core) s = .next t ∧ (t.coreAt core).relList = c.relList.drop n ∧
      (t.coreAt core).nextWave = s.cycle + gap ∧ t.mem = s.mem ∧
      (∀ k ∈ c.relList.take n, (s.warpAt k).async = [] ∨ (s.warpAt k).sup = true →
        (t.warpAt k).pc = (s.warpAt k).pc + 4 ∧ (t.warpAt k).wait = .none ∧ (t.warpAt k).iret = (s.warpAt k).iret + 1) ∧
      ∀ k, k ∉ c.relList.take n ∨ ((s.warpAt k).async ≠ [] ∧ (s.warpAt k).sup = false) → t.warpAt k = s.warpAt k)

/-! ### TLBI (R73, R217) -/

/-- R76, R77, R217: in supervisor mode TLBI drops the entries its kind names, in every TLB: tlbi.va those whose first
stage maps the address under the identifier, tlbi.ctx those of the identifier, tlbi.gpa the second-stage part of those
built from the guest page of the virtual function. An entry whose other stage has changed without an invalidation of
its own may be in use until then: of it only the part named goes. A TLBI waits while an access translated with such an
entry is still to be performed, and while any state engine has still to write (the model's choice, log entry 72). An
entry that tlbi.va leaves so is marked, and a later tlbi.gpa of its page drops it. R73, R78, R140: tlbi.split replaces
a large leaf by a table of 2048 entries with the leaf's fields, each with its part of the range; it asks the
page-walker purse of the core's domain for its 33 bursts, and the table's page is charged to the virtual function (the
model's readings, log entries 23 and 96). In user mode TLBI raises PRIV. R162, R217: tlbi.gpa with a number of no
virtual function raises ILLEGAL in either mode. -/
def Obligations.TlbWords : Prop :=
  ∀ (s : State) (a b : SReg), Ready s [a, b] →
    let va := s.sreg a
    let x := s.sreg b
    let id : BitVec 16 := x.setWidth 16
    let first := fun (id : BitVec 16) (e : TlbEntry) => e.ctxid == id &&
      e.vpn * 2 ^ e.found.leaf.bits / 2 ^ e.found.first.bits == va.toNat / 2 ^ e.found.first.bits
    let guest := fun (e : TlbEntry) => e.whole && e.vf == x.toNat % 128 &&
      e.found.leaf.gpa / 2 ^ e.found.second.bits == va.toNat / 2 ^ e.found.second.bits
    let ends := fun (i : Instr) (f : TlbEntry → Bool) (t : State) =>
      exec i s = if heldThrough s f = true then .next { s with waited := true }
        else .next (issued t t.me (s.me.pc + 4) false)
    (s.me.sup = false → exec (.tlbiVa a b) s = raised s (.plain cPRIV) ∧ exec (.tlbiCtx b) s = raised s (.plain cPRIV) ∧
      exec (.tlbiSplit a b) s = raised s (.plain cPRIV) ∧
      (1 ≤ x.toNat % 128 → x.toNat % 128 ≤ 64 → exec (.tlbiGpa a b) s = raised s (.plain cPRIV))) ∧
    (x.toNat % 128 = 0 ∨ 64 < x.toNat % 128 → exec (.tlbiGpa a b) s = raised s (.plain cILLEGAL)) ∧
    (s.me.sup = true →
      ends (.tlbiVa a b) (first id) (mapTlb (dropTlb s fun e => first id e && !staleSecond s e)
        fun e => if first id e then { e with gone := true } else e) ∧
      ends (.tlbiCtx b) (fun e => e.ctxid == id) (dropTlb s fun e => e.ctxid == id) ∧
      (1 ≤ x.toNat % 128 → x.toNat % 128 ≤ 64 →
        ends (.tlbiGpa a b) guest (mapTlb (dropTlb s fun e => guest e && (e.gone || !staleFirst s e))
          fun e => if guest e then { e with whole := false } else e)) ∧
      (∀ pte level shift, x.toNat % 16384 = 0 → x.toNat < 0xC0_0000_0000 → addrClass va = .translated →
        leafOf s s.myCtx va.toNat = .ok (pte, level, shift) →
        (level = 3 → exec (.tlbiSplit a b) s = .next (issued s s.me (s.me.pc + 4) false)) ∧
        (level ≠ 3 → heldThrough s (first (s.ctxAt s.myCtx).ctxid) = true →
          exec (.tlbiSplit a b) s = .next { s with waited := true }) ∧
        (level ≠ 3 → heldThrough s (first (s.ctxAt s.myCtx).ctxid) = false → s.memOk → pte % 8 = 0 →
          (pte + 8 ≤ x.toNat ∨ x.toNat + 16384 ≤ pte) →
          let vf := (s.ctxAt s.myCtx).vf
          let dom := domainOf (coreOf s.cur)
          ∃ t, exec (.tlbiSplit a b) s = .next (issued t t.me (s.me.pc + 4) false) ∧
            t.asked = Tbl.put 0 s.asked dom (Tbl.get 0 s.asked dom + 33) ∧
            (t.fnAt vf).qused = (s.fnAt vf).qused + (if vf = 0 then 0 else 1) ∧
            readEntry t.mem pte = BitVec.ofNat 64 (x.toNat + 1) ∧
            (∀ i, i < 2048 → readEntry t.mem (x.toNat + 8 * i) = splinterEntry (readEntry s.mem pte) shift i) ∧
            (∀ pa, (pa < pte ∨ pte + 8 ≤ pa) → (pa < x.toNat ∨ x.toNat + 16384 ≤ pa) →
              readPhys t.mem pa = readPhys s.mem pa) ∧
            ∀ c, ∀ e ∈ (t.coreAt c).tlb, first (s.ctxAt s.myCtx).ctxid e = false)))

/-! ### Engine commands at issue (R94, R106, R250 to R260, R264, R270) -/

/-- The command of a word: the operands as they stand, the place and the mode of the word. -/
def Sys2Proof.Machine.commandOf (s : State) (i : Instr) (op : CmdOp) (a b k : Word) (scope : BitVec 3) (ctr : Word) : Cmd where
  op := op
  warp := s.cur
  block := s.me.block
  pc := s.me.pc
  word := (encodeS i).getD 0
  a := a
  b := b
  k := k
  scope := scope
  ctr := ctr
  seq := s.seq
  sup := s.me.sup
  started := false
  flags := 0
  status := none
  copy := none
  emul := false
  pageVa := none
  copies := []
  moves := []
  dirs := none
  drawn := []
  home := none

/-- What a command word does where its queue has room: the command is the youngest of the queue. -/
def Sys2Proof.Machine.commands (s : State) (q : Nat) (i : Instr) (op : CmdOp) (a b k : Word) (scope : BitVec 3) (ctr : Word) : Out :=
  let c := commandOf s i op a b k scope ctr
  let x := s.coreAt (coreOf s.cur)
  .next (issued { s.setCore (coreOf s.cur) (x.setQueue q (x.queue q ++ [c])) with seq := s.seq + 1 } s.me
    (s.me.pc + 4) true)

/-- R170: a matrix word at issue that names an absent format. In a trap handler it is a cause in supervisor mode; in
user mode its command keeps its place in the matrix queue, as no entry of it, and the warp parks. -/
def Sys2Proof.Machine.absents (s : State) (i : Instr) (op : CmdOp) (a : Word) : Prop :=
  (s.me.sup = true → exec i s = raised s (.plain cFMT_ABSENT)) ∧
  (TakesNow s → ∀ u : State,
    let c := { commandOf s i op a 0 0 1 0 with emul := true }
    let x := s.coreAt (coreOf s.cur)
    let v := trapping { s.setCore (coreOf s.cur) (x.setQueue 1 (x.queue 1 ++ [c])) with seq := s.seq + 1 } cFMT_ABSENT
    let r := resumption s (.plain cFMT_ABSENT) s.me.pc
    writeSpan v ⟨coreOf s.cur, s.myCtx, s.me.block, true, some s.me.ctxid, false⟩ r.area (trapBytes s.me r true false) =
      (u, .ok ()) →
    ∃ t, exec i s = .next t ∧ t.me = { (trapping s cFMT_ABSENT).me with parked := some (.format, r) } ∧
      t.mem = u.mem ∧ (t.coreAt (coreOf s.cur)).queue 1 = x.queue 1 ++ [c])

/-- R251, R253 to R260: CPY, MXB, MXA, MXRD, MXZ and QFENCE at issue. R270 to R276: the words of the state store at
issue, with the fields of their operands. R106: a word whose queue is full waits. R250: the checks at issue that fail
raise ILLEGAL, MISALIGN, FMT_ABSENT (R170) and, of CPY, ENGINE (R253). The model's readings: in a trap handler a word
asks nothing of suspended lane blocks (log entry 15), a command keeps the mode it is issued in (log entry 30), and MXA
with an INT2 or UINT8 B record enters the queue as any other (log entry 31). -/
def Obligations.CommandWords : Prop :=
  (∀ (s : State) (a b k : SReg), ReadyToClose s [a, b, k] →
    let x := s.sreg a
    let y := s.sreg b
    let cw := s.sreg k
    let sides := fun (d t : Word) => (isWindow d = true ∧ addrClass t = .translated) ∨
      (isWindow t = true ∧ addrClass d = .translated)
    (sides x y → queueRoom s (coreOf s.cur) 0 = true →
      (∀ (bare : Bool) (barn : BitVec 4) (shape : BitVec 6), exec (.cpyImmediate a b bare barn shape) s =
        commands s 0 (.cpyImmediate a b bare barn shape) (.cpy x y shape.toNat bare barn.toNat false) x y 0 1 0) ∧
      (∀ shape : BitVec 6, cwOk true cw = true → (cwMc cw = true → ∃ off, addrClass x = .own off) →
        exec (.cpyRegister a b k shape) s = commands s 0 (.cpyRegister a b k shape)
          (.cpy x y shape.toNat (cw.getLsbD 61) (cw.toNat / 2 ^ 57 % 16) (cwMc cw)) x y cw (cw.setWidth 3) (cwCtr cw))) ∧
    (queueRoom s (coreOf s.cur) 1 = true →
      (∀ (page : BitVec 6) (fmt : BitVec 3), x.toNat % 128 = 0 → fmtElem (s.myGrid.record.fmts[fmt.toNat]) ≠ 3 →
        fmtElem (s.myGrid.record.fmts[fmt.toNat]) ≠ 4 →
        exec (.mxb a page fmt) s = commands s 1 (.mxb a page fmt) (.mxb x page.toNat fmt.toNat) x 0 0 1 0) ∧
      (∀ (page : BitVec 6) (bs as_ : BitVec 3) (rows : BitVec 2) (acc : BitVec 5), acc.toNat + rows.toNat < 32 →
        x.toNat % 16 = 0 → fmtElem (s.myGrid.record.fmts[as_.toNat]) ≠ 0 →
        fmtElem (s.myGrid.record.fmts[as_.toNat]) ≠ 3 →
        exec (.mxa a page bs as_ rows acc) s = commands s 1 (.mxa a page bs as_ rows acc)
          (.mxa x page.toNat bs.toNat as_.toNat (rows.toNat + 1) acc.toNat) x 0 0 1 0) ∧
      (∀ (rows g : BitVec 3) (acc : BitVec 5), acc.toNat + rows.toNat < 32 → x.toNat % 4 = 0 → cwOk false y = true →
        exec (.mxrd a b rows g acc) s = commands s 1 (.mxrd a b rows g acc)
          (.mxrd x (rows.toNat + 1) g.toNat acc.toNat) x y 0 (y.setWidth 3) (cwCtr y)) ∧
      (∀ (rows : BitVec 3) (acc : BitVec 5), acc.toNat + rows.toNat < 32 →
        exec (.mxz rows acc) s = commands s 1 (.mxz rows acc) (.mxz (rows.toNat + 1) acc.toNat) 0 0 0 1 0)) ∧
    (∀ mask : BitVec 4, mask ≠ 0 → exec (.qfence mask) s =
      let c := s.coreAt (coreOf s.cur)
      .next (issued { s.setCore (coreOf s.cur) { c with joins := c.joins ++ [(mask, s.seq)] } with seq := s.seq + 1 }
        s.me (s.me.pc + 4) false))) ∧
  (∀ (s : State) (a b k : SReg) (len : BitVec 7), ReadyToClose s [a, b, k] → queueRoom s (coreOf s.cur) 2 = true →
    let x := s.sreg a
    let y := s.sreg b
    let cw := s.sreg k
    let seq := x.toNat % 65536
    cwOk false cw = true →
    let enters := fun (i : Instr) (op : CmdOp) => exec i s = commands s 2 i op x y cw (cw.setWidth 3) (cwCtr cw)
    (y.toNat % 16 = 0 →
      enters (.ssld a b k len) (.ssld seq (x.toNat / 65536 * 512) y ((len.toNat + 1) * 512)) ∧
      enters (.ssst a b k len) (.ssst seq (x.toNat / 65536 * 512) y ((len.toNat + 1) * 512))) ∧
    (x.toNat < 65536 → enters (.ssnap a b k) (.ssnap seq y) ∧ enters (.ssroll a b k) (.ssroll seq y) ∧
      exec (.ssdrop a k) s = commands s 2 (.ssdrop a k) (.ssdrop seq) x 0 cw (cw.setWidth 3) (cwCtr cw)) ∧
    (x.toNat < 2 ^ 32 → seq ≠ x.toNat / 65536 → y.toNat % 64 = 0 →
      enters (.ssfork a b k) (.ssfork seq (x.toNat / 65536) y))) ∧
  (∀ (cpy : Bool) (cw : Word), cwOk cpy cw = true ↔
    cw.toNat % 8 ≤ 5 ∧ cw.toNat < 2 ^ 62 ∧ (cpy = true ∨ cw.toNat < 2 ^ 56)) ∧
  (∀ (s : State) (a b k : SReg) (bare : Bool) (barn : BitVec 4) (shape : BitVec 6), ReadyToClose s [a, b, k] →
    let x := s.sreg a
    let y := s.sreg b
    let cw := s.sreg k
    let sides := (isWindow x = true ∧ addrClass y = .translated) ∨ (isWindow y = true ∧ addrClass x = .translated)
    let form0 := exec (.cpyImmediate a b bare barn shape) s
    let form1 := exec (.cpyRegister a b k shape) s
    (cwOk true cw = false → form1 = raised s (.plain cILLEGAL)) ∧
    (¬ sides → form0 = raised s (.plain cENGINE) ∧ (cwOk true cw = true → form1 = raised s (.plain cENGINE))) ∧
    (cwOk true cw = true → cwMc cw = true → (∀ off, addrClass x ≠ .own off) → form1 = raised s (.plain cENGINE)) ∧
    (sides → queueRoom s (coreOf s.cur) 0 = false → form0 = .next { s with waited := true } ∧
      (cwOk true cw = true → (cwMc cw = true → ∃ off, addrClass x = .own off) → form1 = .next { s with waited := true }))) ∧
  (∀ (s : State) (a b : SReg) (page : BitVec 6) (fmt bs as_ g rows3 : BitVec 3) (rows : BitVec 2) (acc : BitVec 5),
    ReadyToClose s [a, b] →
    let x := s.sreg a
    let y := s.sreg b
    let bad := fun (i : Instr) (r : Raise) => exec i s = raised s r
    let full := fun (i : Instr) => queueRoom s (coreOf s.cur) 1 = false → exec i s = .next { s with waited := true }
    let bElem := fmtElem (s.myGrid.record.fmts[fmt.toNat])
    let aElem := fmtElem (s.myGrid.record.fmts[as_.toNat])
    let mxa : Instr := .mxa a page bs as_ rows acc
    let mxrd : Instr := .mxrd a b rows3 g acc
    (x.toNat % 128 ≠ 0 → bad (.mxb a page fmt) (.at cMISALIGN x)) ∧
    (x.toNat % 128 = 0 → bElem = 3 ∨ bElem = 4 → absents s (.mxb a page fmt) (.mxb x page.toNat fmt.toNat) x) ∧
    (x.toNat % 128 = 0 → bElem ≠ 3 → bElem ≠ 4 → full (.mxb a page fmt)) ∧
    (32 ≤ acc.toNat + rows.toNat → bad mxa (.plain cILLEGAL)) ∧
    (acc.toNat + rows.toNat < 32 → x.toNat % 16 ≠ 0 → bad mxa (.at cMISALIGN x)) ∧
    (acc.toNat + rows.toNat < 32 → x.toNat % 16 = 0 → aElem = 0 ∨ aElem = 3 →
      absents s mxa (.mxa x page.toNat bs.toNat as_.toNat (rows.toNat + 1) acc.toNat) x) ∧
    (acc.toNat + rows.toNat < 32 → x.toNat % 16 = 0 → aElem ≠ 0 → aElem ≠ 3 → full mxa) ∧
    (32 ≤ acc.toNat + rows3.toNat → bad mxrd (.plain cILLEGAL) ∧ bad (.mxz rows3 acc) (.plain cILLEGAL)) ∧
    (cwOk false y = false → bad mxrd (.plain cILLEGAL)) ∧
    (acc.toNat + rows3.toNat < 32 → full (.mxz rows3 acc) ∧ (cwOk false y = true →
      (x.toNat % 4 ≠ 0 → bad mxrd (.at cMISALIGN x)) ∧ (x.toNat % 4 = 0 → full mxrd))) ∧
    bad (.qfence 0) (.plain cILLEGAL)) ∧
  (∀ (s : State) (a b k : SReg) (len : BitVec 7), ReadyToClose s [a, b, k] →
    let x := s.sreg a
    let y := s.sreg b
    let own := decide (x.toNat < 65536)
    let forks := decide (x.toNat < 2 ^ 32 ∧ x.toNat % 65536 ≠ x.toNat / 65536)
    ∀ e ∈ ([(.ssld a b k len, true, 16), (.ssst a b k len, true, 16), (.ssnap a b k, own, 1), (.ssroll a b k, own, 1),
      (.ssdrop a k, own, 1), (.ssfork a b k, forks, 64)] : List (Instr × Bool × Nat)),
      (cwOk false (s.sreg k) = false ∨ e.2.1 = false → exec e.1 s = raised s (.plain cILLEGAL)) ∧
      (cwOk false (s.sreg k) = true → e.2.1 = true →
        (y.toNat % e.2.2 ≠ 0 → exec e.1 s = raised s (.at cMISALIGN y)) ∧
        (y.toNat % e.2.2 = 0 → queueRoom s (coreOf s.cur) 2 = false → exec e.1 s = .next { s with waited := true })))

/-- R108, R264: LNCH puts the 128 bytes it read into its core's queue, else into the context's overflow ring, else
nowhere, with status 0, 1 and 2. The model's choices: in a trap handler the word asks nothing of suspended lane blocks
(log entry 15), and a record in the ring keeps the moment of its issue as a command of the queue does (log entry 67). -/
def Obligations.DeviceLaunch : Prop :=
  ∀ (s u : State) (k a : SReg) (p : Spot) (bs : List Byte), ReadyToClose s [a] → (s.sreg a).toNat % 128 = 0 →
    loadAt s .read (s.sreg a) 128 = (u, .ok (p, bs)) →
    let core := coreOf u.cur
    let c := u.ctxAt u.myCtx
    let own := c.ring.any (fun e => e.core == core)
    let ends := fun (t : State) (status : Word) =>
      exec (.lnch k a) s = .next (issued t (t.withReg k status) (s.me.pc + 4) true)
    (queueRoom u core 3 = true → own = false → ∃ t cmd, ends t 0 ∧ cmd.op = .lnch bs (s.sreg a) ∧
      (t.coreAt core).launchQ = (u.coreAt core).launchQ ++ [cmd] ∧ t.mem = u.mem) ∧
    (queueRoom u core 3 = false ∨ own = true →
      (c.ring.length < 4096 →
        ends { u.setCtx u.myCtx { c with ring := c.ring ++ [⟨core, s.sreg a, bs, u.seq⟩] } with seq := u.seq + 1 } 1) ∧
      (4096 ≤ c.ring.length → ends u 2))

/-! ### Crews and REGROUP at issue (R34 to R47, R266 to R268) -/

/-- R34, R36, R51, R266: CREW reads its record once (R117) and hands its crew to the cox where the core has a crew
number and the rows of the window, else waits with the record; CREWW completes once the crew has finished, with the
number of the last stroke or of the stroke that broke. R42, R44, R45, R267: BREAK, GO and SREL in a stroke of a crew.
BREAK cancels the strokes above; GO lets the stroke above commit; SREL asks for the release of the stroke's out-slots.
That in a trap handler the words ask nothing of suspended lane blocks is the model's choice (log entry 15). -/
def Obligations.CrewWords : Prop :=
  (∀ (s : State) (a b k : SReg),
    (∀ (u : State) (p : Spot) (bs : List Byte) (r : CrewRec), Ready s [a, b] →
      (s.me.sup = true ∨ s.me.dispatch = []) → (recordOf s s.me).crew = true → s.me.stroke = none → s.me.hosts = none →
      (s.sreg a).toNat % 64 = 0 → (s.sreg b).toNat ≤ 2 ^ 62 →
      (s.me.wait = .record bs ∧ u = s) ∨ (s.me.wait = .none ∧ loadAt s .read (s.sreg a) 64 = (u, .ok (p, bs))) →
      crewRecOf bs = some r → ((s.sreg b).toNat = 0 → r.breakable = true ∧ r.d = 1) →
      (∀ c, freeCrew u (coreOf u.cur) = some c → r.w ≤ freeRows u (coreOf u.cur) →
        ∃ t, exec (.crew a b) s = .next t ∧ (t.crewAt c).live = true ∧ (t.crewAt c).host = s.cur ∧
          (t.crewAt c).record = r ∧ (t.crewAt c).n = (s.sreg b).toNat ∧ (t.crewAt c).next = 0 ∧
          (t.crewAt c).strokes = [] ∧ t.me.hosts = some c ∧ t.me.slide = BitVec.ofNat 64 r.s ∧
          t.me.win = BitVec.ofNat 64 r.w ∧ t.me.depth = BitVec.ofNat 64 r.d ∧ t.me.trip = s.sreg b ∧
          t.me.pc = s.me.pc + 4 ∧ t.me.wait = .none ∧ t.mem = u.mem) ∧
      (freeCrew u (coreOf u.cur) = none ∨ freeRows u (coreOf u.cur) < r.w →
        (s.me.wait = .none → ∃ t, exec (.crew a b) s = .next t ∧ t.me.wait = .record bs ∧ t.me.pc = s.me.pc ∧
          t.mem = u.mem ∧ t.crews = u.crews) ∧
        (s.me.wait ≠ .none → exec (.crew a b) s = .next { s with waited := true }))) ∧
    (∀ c, Ready s [] → s.me.hosts = some c →
      let cr := s.crewAt c
      (cr.finished = false → exec (.creww k) s = .next { s with waited := true }) ∧
      (cr.finished = true → ∃ t, exec (.creww k) s = .next t ∧ t.me.hosts = none ∧ (t.crewAt c).live = false ∧
        t.sreg k = (if k = 0 then 0
          else match cr.broke with
            | some n => BitVec.ofNat 64 n
            | none => BitVec.ofNat 64 (cr.n + cr.record.d - 1)) ∧ t.me.pc = s.me.pc + 4 ∧ t.mem = s.mem))) ∧
  (∀ (s : State) (c k : Nat) (x : Stroke), Ready s [] → (s.me.sup = true ∨ s.me.dispatch = []) →
    s.me.stroke = some (c, k) → (s.crewAt c).strokes.find? (·.k == k) = some x →
    let cr := s.crewAt c
    let marks := fun (f : Stroke → Stroke) =>
      let t := s.setCrew c { cr with strokes := cr.strokes.map fun y => if y.k = k then f y else y }
      Host.Outcome.next (issued t t.me (s.me.pc + 4) true)
    exec .srel s = marks (fun y => { y with relReq := true }) ∧
    exec .goStroke s = (if cr.record.breakable = true ∧ x.broke = false then marks (fun y => { y with going := true })
      else .next (issued s s.me (s.me.pc + 4) true)) ∧
    (cr.record.breakable = true → x.going = false → x.broke = true →
      exec .breakCrew s = .next (issued s s.me (s.me.pc + 4) true)) ∧
    (cr.record.breakable = true → x.going = false → x.broke = false →
      (∀ y ∈ cr.strokes, k < y.k → y.warp ≠ s.cur) →
      ∃ t, exec .breakCrew s = .next t ∧ (t.crewAt c).broke = some k ∧ (∀ y ∈ (t.crewAt c).strokes, y.k ≤ k) ∧
        (∀ h ∈ (t.crewAt c).held, h.stroke ≤ k) ∧ t.mem = s.mem ∧ t.me.pc = s.me.pc + 4) ∧
    (cr.record.breakable = false ∨ x.going = true → exec .breakCrew s = raised s (.plain cILLEGAL)))

/-- R19, R20, R268: REGROUP of a warp that may not fuse completes with status 1; one that finds no partner waits; one
that finds a partner fuses with it. The warp of lower WID goes on after its REGROUP with status 0 in its destination,
and the other's slot is free. Each active lane of the donor moves into an inactive lane of the receiver, both in
ascending order: its elements of the registers below the donor's operand, its predicates and its origin; the lane's
other private registers, its window names, its operand and last-result registers become zero. The receiver's EXM is
the union, and its other lanes keep what they hold. A partner is a warp of the block at the same address, with lanes
enough, whose 256 cycles are not past and whose wait no asynchronous cause has ended (R252); where one fits, the one of
lowest WID is found. A wait of 256 cycles ends with status 1. The model's choices: that the donor's operand counts (log
entry 35), that a save does not stop the 256 cycles (log entry 92), and that in a trap handler the word asks nothing of
suspended lane blocks (log entry 15). -/
def Obligations.Regrouping : Prop :=
  ∀ (s : State) (k a : SReg), Ready s [a] → (s.me.sup = true ∨ s.me.dispatch = []) →
    (∀ since n d, s.me.wait ≠ .regroup since n d) → s.me.stroke = none → (s.sreg a).toNat ≤ privNames s s.me →
    (regroupRefused s.me = true →
      exec (.regroup k a) s = .next (issued s (s.withReg k 1) (s.me.pc + 4) true)) ∧
    (regroupRefused s.me = false →
      ∃ u, u.me.wait = .regroup s.cycle (s.sreg a).toNat k.toNat ∧ u.me.pc = s.me.pc ∧ u.mem = s.mem ∧
        regroupPartner u u.cur = regroupPartner s s.cur ∧
        (regroupPartner u u.cur = none → exec (.regroup k a) s = .next u) ∧
        (∀ j since n d, regroupPartner u u.cur = some j → (s.warpAt j).wait = .regroup since n d → j ≠ s.cur →
          let low := decide (s.me.wid < (s.warpAt j).wid)
          let r := if low then s.cur else j
          let dn := if low then j else s.cur
          let rw := s.warpAt r
          let dw := s.warpAt dn
          let names := if low then n else (s.sreg a).toNat
          let dest := if low then k.toNat else d
          let pairs := ((List.finRange 32).filter fun i => !inMask rw.exm i).zip (maskLanes dw.exm)
          ∃ t, exec (.regroup k a) s = .next t ∧ t.warpAt dn = Warp.absent ∧ t.mem = s.mem ∧
            (∀ m, m ≠ r → m ≠ dn → t.warpAt m = s.warpAt m) ∧
            (let w := t.warpAt r
             w.pc = rw.pc + 4 ∧ w.wait = .none ∧ w.sreg (BitVec.ofNat 6 dest) = 0 ∧
             (∀ i, inMask w.exm i = true ↔ inMask rw.exm i = true ∨ ∃ q, (i, q) ∈ pairs) ∧
             (Tbl.wf zeroLanes rw.v = true → Tbl.wf zeroLanes rw.host = true → ∀ e ∈ pairs,
               (∀ i, lane (Tbl.get zeroLanes w.v i) e.1 =
                 if i < names then lane (Tbl.get zeroLanes dw.v i) e.2 else 0) ∧
               (∀ i : Fin 12, i.val ≠ 0 → w.p[i].getLsbD e.1.val = dw.p[i].getLsbD e.2.val) ∧
               w.orig[e.1.val] = dw.orig[e.2.val] ∧ (∀ i : Fin 8, lane w.o[i] e.1 = 0) ∧ lane w.l0 e.1 = 0 ∧
               lane w.l1 e.1 = 0 ∧ ∀ i, lane (Tbl.get zeroLanes w.host i) e.1 = 0) ∧
             (Tbl.wf zeroLanes rw.v = true → ∀ l, (∀ q, (l, q) ∉ pairs) →
               (∀ i, lane (Tbl.get zeroLanes w.v i) l = lane (Tbl.get zeroLanes rw.v i) l) ∧
               (∀ i : Fin 12, w.p[i].getLsbD l.val = rw.p[i].getLsbD l.val) ∧ w.orig[l.val] = rw.orig[l.val] ∧
               (∀ i : Fin 8, lane w.o[i] l = lane rw.o[i] l) ∧ lane w.l0 l = lane rw.l0 l ∧
               lane w.l1 l = lane rw.l1 l)))) ∧
    (let fits := fun (j : Nat) (w : Warp) => (j, w) ∈ s.warps ∧ j ≠ s.cur ∧ w.block = s.me.block ∧ w.stat ≠ .absent ∧
        w.pc = s.me.pc ∧ (∃ since n d, w.wait = .regroup since n d ∧ s.cycle < since + 256) ∧
        (w.async = [] ∨ w.sup = true) ∧ popBits w.exm + popBits s.me.exm ≤ 32
     (∀ j, regroupPartner s s.cur = some j → ∃ w, fits j w ∧ ∀ i v, fits i v → w.wid ≤ v.wid) ∧
     ((∃ j w, fits j w) → ∃ j, regroupPartner s s.cur = some j)) ∧
    ∀ j since n d, (s.warpAt j).wait = .regroup since n d → (s.warpAt j).async = [] ∨ (s.warpAt j).sup = true →
      since + 256 ≤ s.cycle →
      ∃ t, exec (.regroupTimeout j) s = .next t ∧ (t.warpAt j).pc = (s.warpAt j).pc + 4 ∧ (t.warpAt j).wait = .none ∧
        (t.warpAt j).sreg (BitVec.ofNat 6 d) = (if BitVec.ofNat 6 d = 0#6 then 0 else 1) ∧ t.mem = s.mem

/-! ### Task queues (R111 to R114, R269) -/

/-- R111 to R114, R269: the words of the task queues under a handle that grants them. `d` is the descriptor of queue
`x`. QPUSH appends or finds the queue full; QPOP takes the oldest entry, the youngest of a DEQUE, the oldest of the
lowest key of a PRIO queue; with AUTO and an empty DEQUE it steals first, from a victim of the set, with status 2. A
steal moves the oldest half, rounded up, as far as the thief has room, in order. R81: a word whose overflow area needs
an entry of a full dirty log parks, its queue as it was (the model's reading, log entry 13); where no log is enabled
none is needed. The model's choices:
descriptors lie at physical addresses (log entry 28), the entries beyond the controller's 256 lie in the overflow area
in their order (log entry 29), the victims are drawn by a free value (log entry 9), and in a trap handler the words
ask nothing of suspended lane blocks (log entry 15). -/
def Obligations.TaskQueueWords : Prop :=
  (∀ (s u : State) (k a b : SReg) (x : Nat) (d : TqDesc), ReadyToClose s [a, b] →
    let c := u.myCtx
    let ends := fun (i : Instr) (t : State) (status : Word) =>
      exec i s = .next (issued t (t.withReg k status) (s.me.pc + 4) true)
    let parks := fun (i : Instr) (x : Nat × List Dirty) => exec i s = .next (parkLog u x.1 x.2)
    let es := tqGet u c x
    (∀ p bs, loadAt s .read (s.sreg b) 32 = (u, .ok (p, bs)) → openHandle u c (s.sreg a) 1 = some (x, d) →
      let e := BitVec.ofNat 256 (leNat bs)
      (∀ v, bringIn u c x d = .ok v →
        (es.length < 256 + d.cap → ∀ t, tqStore v c x d (es ++ [e]) = .ok t → ends (.qpush k a b) t 0) ∧
        (es.length < 256 + d.cap → ∀ y, tqStore v c x d (es ++ [e]) = .error y → parks (.qpush k a b) y) ∧
        (256 + d.cap ≤ es.length → ends (.qpush k a b) v 1)) ∧
      (∀ y, bringIn u c x d = .error y → parks (.qpush k a b) y)) ∧
    (∀ (p : Spot) (auto : Bool), storeAt s (s.sreg b) 32 = (u, .ok p) →
      openHandle u c (s.sreg a) (if auto then 3 else 2) = some (x, d) →
      (∀ y, bringIn u c x d = .error y → parks (.qpop k a b auto) y) ∧
      ∀ v, bringIn u c x d = .ok v →
      let pops := fun (w : State) (e : BitVec 256) (rest : List (BitVec 256)) (status : Word) =>
        (∀ y, tqStore w c x d rest = .error y → parks (.qpop k a b auto) y) ∧
        ∀ t, tqStore w c x d rest = .ok t → logShort t (storeDirty [(p, [])]) = none →
          ends (.qpop k a b auto) (performStores t [(p, leBytes 32 e.toNat)]) status
      (∀ e r, es = e :: r → d.kind = .fifo → pops v e r 0) ∧
      (∀ e r, es = r ++ [e] → d.kind = .deque → pops v e r 0) ∧
      (∀ e l r, es = l ++ e :: r → d.kind = .prio → (∀ y ∈ l, entryKey e < entryKey y) →
        (∀ y ∈ r, entryKey e ≤ entryKey y) → pops v e (l ++ r) 0) ∧
      (es = [] → auto = false ∨ d.kind ≠ .deque ∨ d.victims = [] → ends (.qpop k a b auto) v 1) ∧
      (∀ dv e rest, es = [] → auto = true → d.kind = .deque → d.victims ≠ [] →
        let core := v.coreAt (coreOf v.cur)
        let y := d.victims.getD (Config.victimDraw (coreOf v.cur) core.draws % d.victims.length) 0
        let w := v.setCore (coreOf v.cur) { core with draws := core.draws + 1 }
        tqDesc w c y = some dv → tqGet w c y ≠ [] →
        (∀ z, stealFrom w c y x dv d = .error z → parks (.qpop k a b auto) z) ∧
        ∀ t m, stealFrom w c y x dv d = .ok (t, m) → m ≠ 0 → tqGet t c x = rest ++ [e] → pops t e rest 2)) ∧
    (∀ y dv, u = s → openHandle s c (s.sreg a) 1 = some (x, d) → openHandle s c (s.sreg b) 4 = some (y, dv) →
      d.kind = .deque → dv.kind = .deque →
      (∀ z, bringIn s c x d = .error z → parks (.qsteal k a b) z) ∧
      ∀ v, bringIn s c x d = .ok v →
        (∀ z, stealFrom v c y x dv d = .error z → parks (.qsteal k a b) z) ∧
        ∀ t m, stealFrom v c y x dv d = .ok (t, m) → ends (.qsteal k a b) t (BitVec.ofNat 64 m)) ∧
    (∀ p bs, loadAt s .read (s.sreg b) 32 = (u, .ok (p, bs)) → openHandle u c (s.sreg a) 1 = none →
      exec (.qpush k a b) s = raiseScalar s u (.plain cQUEUE_RIGHTS) s.me.pc [] false) ∧
    (∀ p auto, storeAt s (s.sreg b) 32 = (u, .ok p) → openHandle u c (s.sreg a) (if auto then 3 else 2) = none →
      exec (.qpop k a b auto) s = raiseScalar s u (.plain cQUEUE_RIGHTS) s.me.pc [] false) ∧
    (u = s → openHandle s c (s.sreg a) 1 = none ∨ openHandle s c (s.sreg b) 4 = none →
      exec (.qsteal k a b) s = raised s (.plain cQUEUE_RIGHTS))) ∧
  (∀ (s : State) (c x y : Nat) (d dv : TqDesc) (es : List (BitVec 256)), (∀ vf, (s.fnAt vf).ring = none) →
    (∃ t, bringIn s c x d = .ok t ∧ ∀ vf, (t.fnAt vf).ring = none) ∧
    (∃ t, tqStore s c x d es = .ok t ∧ ∀ vf, (t.fnAt vf).ring = none) ∧
    ∃ t m, stealFrom s c y x dv d = .ok (t, m)) ∧
  (∀ (s v t : State) (c x : Nat) (d : TqDesc) (es : List (BitVec 256)),
    bringIn s c x d = .ok v → tqStore v c x d es = .ok t →
    tqGet t c x = es ∧ (∀ c' y, (c', y) ≠ (c, x) → tqGet t c' y = tqGet s c' y) ∧ t.warps = s.warps ∧
    t.blocks = s.blocks ∧ ((s.domainAt d.home).queues.length < 64 → es.length ≤ 256 → t.mem = s.mem)) ∧
  ∀ (s t : State) (c y x m : Nat) (dv d : TqDesc), y ≠ x → stealFrom s c y x dv d = .ok (t, m) →
    let theirs := tqGet s c y
    let mine := tqGet s c x
    m = min ((theirs.length + 1) / 2) (256 + d.cap - mine.length) ∧
    tqGet t c y = theirs.drop m ∧ tqGet t c x = mine ++ theirs.take m ∧
    (∀ c' z, (c', z) ≠ (c, y) → (c', z) ≠ (c, x) → tqGet t c' z = tqGet s c' z) ∧ t.warps = s.warps

/-! ### The lane stream (R14 to R18, R183 to R190, R218 to R249) -/

/-- A part of a lane word has the value `x`, with no cause, nothing to wait for and the host rows it is the first to
write free (R51), and leaves the word at `t`. -/
def Sys2Proof.Machine.Got {α : Type} (m : LM α) (st : LSt) (x : α) (t : LSt) : Prop :=
  m.run st = .ok (x, t) ∧ t.cand = none ∧ t.blocked = false ∧ t.short = false

/-- R17, R184, R220: the acting warp's next lane word acts in its guard's lanes of its block's EXM, `act`, of which its
prefix's mask leaves `e`. -/
def Sys2Proof.Machine.LaneActs (s : State) (c : LCtl) (d : Dispatch) (act e : Mask) : Prop :=
  let exm := d.mask s.me
  canRun s = true ∧ s.me.sup = false ∧ s.me.laneBlock = some d ∧ s.me.laneAt ≤ s.cycle ∧ act ≠ 0 ∧
  (∃ g, Got (readPred c.g) (.start s d exm) g (.start s d exm) ∧ act = exm &&& g) ∧
  match c.pfx with
  | none => e = act
  | some p =>
    let acting := { LSt.start s d exm with act := act, e := act }
    ∃ m, Got (readPred p.mask) acting m acting ∧ e = act &&& m

/-- A lane word that acts, before it reads its operands. -/
def Sys2Proof.Machine.started (s : State) (c : LCtl) (d : Dispatch) (act e : Mask) : LSt :=
  { LSt.start s d (d.mask s.me) with
    act := act, e := e
    zero := match c.pfx with
      | none => false
      | some p => p.zero }

/-- R53, R101, R218, R220: a lane word's result. It is written in the lanes of E, with zeros in the rest of active(g)
under a zeroing prefix; it shifts the last-result file; in xq it is one entry, the lowest lane's. -/
def Sys2Proof.Machine.emitted (st : LSt) (ty : BitVec 4) (dst : Dst) (val : Vals) : LSt :=
  let m := if st.zero then st.act else st.e
  let low := mkLanes fun i => if inMask st.e i then (val i).setWidth 32 else 0
  let high := mkLanes fun i => if inMask st.e i then (val i).extractLsb' 32 32 else 0
  { st with
    s := match dst with
      | .xq => st.s.setMe { st.s.me with xq := st.s.me.xq ++ [xqEntry ty (val (lowest st.act))] }
      | .vec .. | .none => st.s
    writes := st.writes ++ match dst with
      | .vec (some t) none => [.vec t m low]
      | .vec (some t) (some u) => [.vec t m low, .vec u m high]
      | .vec none _ | .xq | .none => []
    shift := if ty = 8 then .pair m low high else .one m low }

/-- The destination and the operands a and b of a word, in the order in which they are read. -/
def Sys2Proof.Machine.binOps (pair : Bool) (d a : Opnd) (b : BSrc) : LM (Dst × Vals × Vals) := do
  let dst ← prepare pair d
  let x ← readE pair a
  let y ← readB pair b
  pure (dst, x, y)

/-- The destination and operand a. -/
def Sys2Proof.Machine.unOps (pair : Bool) (d a : Opnd) : LM (Dst × Vals) := do
  let dst ← prepare pair d
  let x ← readE pair a
  pure (dst, x)

/-- The destination and operand a of a movement word, which is read in the lanes of E (R232). -/
def Sys2Proof.Machine.moveOps (pair : Bool) (d a : Opnd) : LM (Dst × Vals) := do
  let dst ← prepare pair d
  let x ← readMoved pair a
  pure (dst, x)

/-- The destination, the operands a, b and c, and the prefix's fourth operand. -/
def Sys2Proof.Machine.triOps (c : LCtl) (d a : Opnd) (b : BSrc) (cc : Opnd) : LM (Dst × Vals × Vals × Vals × Option Vals) := do
  let dst ← prepare false d
  let x ← readE false a
  let y ← readB false b
  let z ← readE false cc
  let e ← readFourth c
  pure (dst, x, y, z, e)

/-- R17, R184, R190: the words whose guard leaves no active lane use their slot, their stall count and their end bit
only, whatever their other bits; a word that is not well-formed raises ILLEGAL where it has active lanes (one that names
an i64 pair at l1 is such a word by the model's reading, log entry 11). With EXM all
zeros no lane is active whatever the guard holds. Of the guard: p0 is true, p1 to p11 read their registers, st0 to
st3 are true outside a crew, and inside one stj is true in the strokes that have it (R41, R55). -/
def Obligations.LaneGuard : Prop :=
  ∀ (s : State) (d : Dispatch) (i : Instr) (c : LCtl) (f : LFields), encodeLFields i = some (c, f) →
    canRun s = true → s.me.sup = false → s.me.laneBlock = some d → s.me.laneAt ≤ s.cycle →
    let exm := d.mask s.me
    (exm = 0 → exec i s = .next (laneSkip c s)) ∧
    ∀ g : Mask, exm ≠ 0 → Got (readPred c.g) (.start s d exm) g (.start s d exm) →
      (exm &&& g = 0 → exec i s = .next (laneSkip c s)) ∧
      (exm &&& g ≠ 0 → i.wf = false → exec i s = raiseLane s s d.addr ⟨cILLEGAL, 0, exm &&& g, false⟩ [] []) ∧
      (c.g = 0 → g = 0xFFFF_FFFF) ∧
      (s.me.inflight = [] → 1 ≤ c.g.toNat → c.g.toNat < 12 → g = s.me.preg c.g.toNat) ∧
      (12 ≤ c.g.toNat → s.me.stroke = none → g = 0xFFFF_FFFF) ∧
      ∀ cr k, 12 ≤ c.g.toNat → s.me.stroke = some (cr, k) →
        let j := c.g.toNat - 12
        let n := (s.crewAt cr).n
        g = if (n = 0 ∧ j = 0) ∨ (n ≠ 0 ∧ j ≤ k ∧ k - j < n) then 0xFFFF_FFFF else 0

/-- R222: the integer words, element by element, of every type the word has. -/
def Obligations.LaneIntegers : Prop :=
  ∀ (s : State) (c : LCtl) (disp : Dispatch) (act e : Mask) (d a : Opnd), LaneActs s c disp act e →
    let w := tyWidth c.ty
    let signed := !tyUnsigned c.ty
    (∀ (b : BSrc) (dst : Dst) (x y : Vals) (st : LSt),
      Got (binOps (isPair c.ty) d a b) (started s c disp act e) (dst, x, y) st →
      let computes := fun (i : Instr) (f : BitVec w → BitVec w → BitVec w) => i.wf = true → ∃ val,
        exec i s = .next (laneFinish (.fixed 4) c (emitted st c.ty dst val)) ∧
        ∀ l j, j < tyCount c.ty → elem w (val l) j = f (elem w (x l) j) (elem w (y l) j)
      computes (.vadd c d a b) (fun p q => p + q) ∧ computes (.vsub c d a b) (fun p q => p - q) ∧
      computes (.vmul c d a b) (fun p q => p * q) ∧
      computes (.vmulh c d a b) (fun p q => BitVec.ofInt w (p.toInt * q.toInt / 2 ^ w)) ∧
      computes (.vmulhu c d a b) (fun p q => BitVec.ofNat w (p.toNat * q.toNat / 2 ^ w)) ∧
      computes (.vand c d a b) (fun p q => p &&& q) ∧ computes (.vor c d a b) (fun p q => p ||| q) ∧
      computes (.vxor c d a b) (fun p q => p ^^^ q) ∧ computes (.vshl c d a b) (fun p q => p <<< (q.toNat % w)) ∧
      computes (.vshr c d a b) (fun p q => p >>> (q.toNat % w)) ∧
      computes (.vsra c d a b) (fun p q => p.sshiftRight (q.toNat % w)) ∧
      computes (.vmin c d a b) (fun p q => if intOf signed p < intOf signed q then p else q) ∧
      computes (.vmax c d a b) (fun p q => if intOf signed p < intOf signed q then q else p) ∧
      computes (.vaddsat c d a b) (fun p q =>
        BitVec.ofInt w (max (loOf signed w) (min (hiOf signed w) (intOf signed p + intOf signed q))))) ∧
    (∀ (dst : Dst) (x : Vals) (st : LSt), Got (unOps (isPair c.ty) d a) (started s c disp act e) (dst, x) st →
      let computes := fun (i : Instr) (f : BitVec w → BitVec w) => i.wf = true → ∃ val,
        exec i s = .next (laneFinish (.fixed 4) c (emitted st c.ty dst val)) ∧
        ∀ l j, j < tyCount c.ty → elem w (val l) j = f (elem w (x l) j)
      computes (.vabs c d a) (fun p => if p.toInt < 0 then -p else p) ∧ computes (.vneg c d a) (fun p => -p) ∧
      computes (.vpopc c d a) (fun p => BitVec.ofNat w ((List.range w).filter fun n => p.getLsbD n).length) ∧
      computes (.vclz c d a) (fun p => BitVec.ofNat w (clzBits p)))

/-- R221 to R223, R226: the words that move or choose whole registers, VMAD with its fourth term, and the readers of
the warp's own values. -/
def Obligations.LaneMoves : Prop :=
  ∀ (s : State) (c : LCtl) (disp : Dispatch) (act e : Mask) (d a : Opnd), LaneActs s c disp act e →
    let st0 := started s c disp act e
    let gives := fun (i : Instr) (st : LSt) (dst : Dst) (val : Vals) => i.wf = true →
      exec i s = .next (laneFinish (.fixed 4) c (emitted st c.ty dst val))
    (∀ dst x st, Got (unOps (isPair c.ty) d a) st0 (dst, x) st → gives (.vmov c d a) st dst x) ∧
    (∀ (b : Opnd) dst x y p q st st', Got (binOps (isPair c.ty) d a (.op b)) st0 (dst, x, y) st →
      Got (readPred p) st q st' → gives (.vsel c d a b p) st' dst (fun l => if inMask q l then x l else y l)) ∧
    (∀ (b : BSrc) (cc : Opnd) dst x y z f st, Got (triOps c d a b cc) st0 (dst, x, y, z, f) st →
      (Instr.vmad c d a b cc).wf = true → ∃ val,
        exec (.vmad c d a b cc) s = .next (laneFinish (.fixed 4) c (emitted st c.ty dst val)) ∧
        ∀ l j, j < tyCount c.ty → let w := tyWidth c.ty
          elem w (val l) j = elem w (x l) j * elem w (y l) j + elem w (z l) j +
            elem w (match f with
              | some v => v l
              | none => 0) j) ∧
    (∀ dst x st imm, Got (unOps false d a) st0 (dst, x) st →
      gives (.vli c d a true imm) st dst (fun l => (imm ++ (x l).setWidth 16 : BitVec 32).setWidth 64)) ∧
    (∀ dst st, Got (prepare false d) st0 dst st →
      (∀ imm, gives (.vli c d a false imm) st dst (fun _ => (imm.signExtend 32).setWidth 64)) ∧
      gives (.xmrd c d) st dst (fun _ => (disp.mask st.s.me).setWidth 64) ∧
      (let width := 32 / 2 ^ (disp.ltile.getD st.s.me.ltile).toNat
       gives (.vsr c d 0) st dst (fun l => BitVec.ofNat 64 l.val) ∧
       gives (.vsr c d 1) st dst (fun _ => BitVec.ofNat 64 (st.s.me.wid % 2 ^ 32)) ∧
       gives (.vsr c d 2) st dst (fun _ => (st.s.me.iter.setWidth 32).setWidth 64) ∧
       gives (.vsr c d 3) st dst (fun l => BitVec.ofNat 64 (l.val % width)) ∧
       gives (.vsr c d 4) st dst (fun l => BitVec.ofNat 64 (l.val / width)) ∧
       gives (.vsr c d 5) st dst (fun l => (st.s.me.orig[l.val].setWidth 32).setWidth 64)) ∧
      ∀ p q st', Got (do readPredIn (← needWhole) p) st q st' →
        gives (.vfromp c d p 0) st' dst (fun l => if inMask q l then 1 else 0) ∧
        gives (.vfromp c d p 1) st' dst (fun l => if inMask q l then 0xFFFF_FFFF else 0) ∧
        gives (.vfromp c d p 2) st' dst (fun _ => q.setWidth 64))

/-- R144: the fields of a floating value's bits: sign, exponent, fraction. -/
def Sys2Proof.Machine.fieldsOf (f : Fmt) (x : Nat) : Bool × Nat × Nat :=
  (decide (x / 2 ^ (f.width - 1) % 2 = 1), x / 2 ^ (f.prec - 1) % 2 ^ f.ebits, x % 2 ^ (f.prec - 1))

/-- R144: the bits are a NaN's, a signalling NaN's, an infinity's, a finite value's. -/
def Sys2Proof.Machine.isNaN (f : Fmt) (x : Nat) : Prop :=
  (fieldsOf f x).2.1 = 2 ^ f.ebits - 1 ∧ (fieldsOf f x).2.2 ≠ 0
def Sys2Proof.Machine.signals (f : Fmt) (x : Nat) : Prop :=
  isNaN f x ∧ (fieldsOf f x).2.2 / 2 ^ (f.prec - 2) % 2 = 0
def Sys2Proof.Machine.isInf (f : Fmt) (x : Nat) (neg : Bool) : Prop :=
  (fieldsOf f x).2.1 = 2 ^ f.ebits - 1 ∧ (fieldsOf f x).2.2 = 0 ∧ (fieldsOf f x).1 = neg
def Sys2Proof.Machine.isFinite (f : Fmt) (x : Nat) : Prop := (fieldsOf f x).2.1 ≠ 2 ^ f.ebits - 1

/-- R144: a finite value in units of the least subnormal of its format, and how many of those units make 1. -/
def Sys2Proof.Machine.scaled (f : Fmt) (x : Nat) : Int :=
  let (neg, ex, fr) := fieldsOf f x
  let m := (if ex = 0 then fr else fr + 2 ^ (f.prec - 1)) * 2 ^ (ex - 1)
  if neg then -(m : Int) else m
def Sys2Proof.Machine.unitsInOne (f : Fmt) : Nat := 2 ^ (f.prec - 1 + 2 ^ (f.ebits - 1) - 2)

/-- R146, R224: the order and the equality of values that are no NaN; the two zeros are equal. -/
def Sys2Proof.Machine.lessF (f : Fmt) (x y : Nat) : Prop :=
  ¬ isNaN f x ∧ ¬ isNaN f y ∧ ((isInf f x true ∧ ¬ isInf f y true) ∨ (isInf f y false ∧ ¬ isInf f x false) ∨
    (isFinite f x ∧ isFinite f y ∧ scaled f x < scaled f y))
def Sys2Proof.Machine.sameF (f : Fmt) (x y : Nat) : Prop :=
  ¬ isNaN f x ∧ ¬ isNaN f y ∧ (x = y ∨ (isFinite f x ∧ isFinite f y ∧ scaled f x = scaled f y))

/-- R17, R55, R224, R225, R227: the words that write predicates, in the lanes of E, with the complement in the
second target of a compare, and those that write EXM. -/
def Obligations.LanePredicates : Prop :=
  ∀ (s : State) (c : LCtl) (disp : Dispatch) (act e : Mask), LaneActs s c disp act e →
    let st0 := started s c disp act e
    let put := fun (t : PCode) (bits : Mask) (ws : List LWrite) =>
      if t = 0 then ws else ws ++ [.pred t.toNat (if st0.zero then act else e) (bits &&& e)]
    let ends := fun (i : Instr) (st : LSt) (ws : List LWrite) (fl : Flags) => i.wf = true →
      exec i s = .next (laneFinish (.fixed 4) c { st with writes := ws, flags := fl })
    (∀ a b x y st pt pf, Got (do let x ← readE (isPair c.ty) a; let y ← readE (isPair c.ty) b; pure (x, y)) st0 (x, y) st →
      (∀ cond : BitVec 3, cond.toNat ≤ 5 → ∃ bits : Mask, (∀ l : LaneIx, inMask bits l =
          let w := tyWidth c.ty
          let p := intOf (!tyUnsigned c.ty) (elem w (x l) 0)
          let q := intOf (!tyUnsigned c.ty) (elem w (y l) 0)
          [decide (p = q), decide (p ≠ q), decide (p < q), decide (p ≤ q), decide (q < p), decide (q ≤ p)].getD
            cond.toNat false) ∧
        ends (.vcmp c a b pt pf cond) st (put pf (~~~bits) (put pt bits st.writes)) st.flags) ∧
      (∀ cond : BitVec 3, c.ty = 2 → ∃ (bits : Mask) (fl : Flags),
        let p := fun (l : LaneIx) => (x l).toNat % 2 ^ 32
        let q := fun (l : LaneIx) => (y l).toNat % 2 ^ 32
        let un := fun (l : LaneIx) => isNaN f32 (p l) ∨ isNaN f32 (q l)
        (∀ l, inMask bits l = true ↔ match cond.toNat with
          | 0 => sameF f32 (p l) (q l)
          | 1 => ¬ sameF f32 (p l) (q l)
          | 2 => lessF f32 (p l) (q l)
          | 3 => lessF f32 (p l) (q l) ∨ sameF f32 (p l) (q l)
          | 4 => lessF f32 (q l) (p l)
          | 5 => lessF f32 (q l) (p l) ∨ sameF f32 (p l) (q l)
          | 6 => un l
          | _ => ¬ un l) ∧
        (∀ n, fl.getLsbD n = true ↔ fNV.getLsbD n = true ∧ ∃ l, inMask e l = true ∧
          (signals f32 (p l) ∨ signals f32 (q l) ∨ (2 ≤ cond.toNat ∧ cond.toNat ≤ 5 ∧ un l))) ∧
        ends (.fcmp c a b pt pf cond) st (put pf (~~~bits) (put pt bits st.writes)) (st.flags ||| fl))) ∧
    (∀ t p q x y st, Got (do let x ← readPred p; let y ← readPred q; pure (x, y)) st0 (x, y) st →
      ends (.pand c t p q) st (put t (x &&& y) st.writes) st.flags ∧
      ends (.por c t p q) st (put t (x ||| y) st.writes) st.flags ∧
      ends (.pxor c t p q) st (put t (x ^^^ y) st.writes) st.flags ∧
      ends (.pandn c t p q) st (put t (x &&& ~~~y) st.writes) st.flags) ∧
    (∀ t a x st, Got (readE false a) st0 x st → ∃ bits : Mask,
      (∀ l : LaneIx, inMask bits l = decide ((x l).toNat % 2 ^ 32 ≠ 0)) ∧
      ends (.pfromv c t a) st (put t bits st.writes) st.flags) ∧
    (let writesExm := fun (i : Instr) (st : LSt) (x : Mask) => i.wf = true → exec i s =
      .next (laneFinish (.fixed 4) c (if e = 0 then st else { st with s := st.s.setExm disp x }))
     (∀ a x st, Got (readE false a) st0 x st →
        writesExm (.xmwr c a 0 0) st ((x (lowest e)).setWidth 32)) ∧
     ∀ a p q st, Got (readPred p) st0 q st →
        let old := disp.mask st.s.me
        writesExm (.xmwr c a p 1) st (old &&& q) ∧ writesExm (.xmwr c a p 2) st (old &&& ~~~q)) ∧
    ∀ x : Mask, (disp.exm = none → (s.setExm disp x).me = { s.me with exm := x }) ∧
      (disp.exm ≠ none → (s.setExm disp x).me = { s.me with
        dispatch := s.me.dispatch.map fun y => if y.exm ≠ none then { y with exm := some x } else y })

/-- A floating word ends with values and the sticky flags of its lanes (R150). -/
def Sys2Proof.Machine.flagged (st : LSt) (ty : BitVec 4) (dst : Dst) (val : Vals) (fl : Flags) : LSt :=
  { emitted st ty dst val with flags := st.flags ||| fl }

/-- R147, R150, R228, R229: the floating words, element by element: each element is its function's, rounded in the
word's mode, and the flags are those of the elements of the lanes of E. Inside the bound of R229 the value of the
special functions is a free value (log entry 7); the flags of the corners that log entry 36 names and the overflow of
FEXP2 in every mode (log entry 97) are the model's reading. R144 to R146: of the functions themselves, an exact sum,
difference, product or product and sum that the format holds is the result, with no flag; a NaN operand gives the
canonical NaN; the minimum and the maximum are the lesser and the greater. -/
def Obligations.LaneFloats : Prop :=
  (∀ (f : Fmt) (rm : Rm) (a b c r : Nat), f = f32 ∨ f = f16 ∨ f = bf16 →
    a < 2 ^ f.width → b < 2 ^ f.width → c < 2 ^ f.width → r < 2 ^ f.width →
    (isNaN f a ∨ isNaN f b → (fAdd f rm a b).1 = f.canon ∧ (fSub f rm a b).1 = f.canon ∧ (fMul f rm a b).1 = f.canon ∧
      (fFma f rm a b c none).1 = f.canon) ∧
    (lessF f a b → (fMinMax f false a b).1 = a ∧ (fMinMax f false b a).1 = a ∧ (fMinMax f true a b).1 = b ∧
      (fMinMax f true b a).1 = b) ∧
    (isFinite f a → isFinite f b → isFinite f c → isFinite f r → scaled f r ≠ 0 →
      (scaled f a + scaled f b = scaled f r → fAdd f rm a b = (r, 0)) ∧
      (scaled f a - scaled f b = scaled f r → fSub f rm a b = (r, 0)) ∧
      (scaled f a * scaled f b = scaled f r * unitsInOne f → fMul f rm a b = (r, 0)) ∧
      (scaled f a * scaled f b + scaled f c * unitsInOne f = scaled f r * unitsInOne f →
        fFma f rm a b c none = (r, 0)))) ∧
  ∀ (s : State) (c : LCtl) (disp : Dispatch) (act e : Mask) (d a : Opnd), LaneActs s c disp act e →
    let st0 := started s c disp act e
    let rm := laneRm c disp.rm
    let fmt := tyFmt c.ty
    let ends := fun (lat : Nat) (i : Instr) (st : LSt) (dst : Dst) (f : LaneIx → Nat → Nat × Flags) => i.wf = true →
      ∃ (val : Vals) (fl : Flags), exec i s = .next (laneFinish (.fixed lat) c (flagged st c.ty dst val fl)) ∧
        (∀ l j, j < fcount c.ty → felem c.ty (val l) j = (f l j).1 % 2 ^ fmt.width) ∧
        ∀ n, fl.getLsbD n = true ↔ ∃ l j, inMask e l = true ∧ j < fcount c.ty ∧ (f l j).2.getLsbD n = true
    let el := fun (x : Vals) (l : LaneIx) (j : Nat) => felem c.ty (x l) j
    (∀ (b : Opnd) dst x y st, Got (binOps false d a (.op b)) st0 (dst, x, y) st →
      let two := fun (i : Instr) (f : Nat → Nat → Nat × Flags) => ends 6 i st dst fun l j => f (el x l j) (el y l j)
      two (.fadd c d a b) (fAdd fmt rm) ∧ two (.fsub c d a b) (fSub fmt rm) ∧ two (.fmul c d a b) (fMul fmt rm) ∧
      two (.fmin c d a b) (fMinMax fmt false) ∧ two (.fmax c d a b) (fMinMax fmt true) ∧
      two (.hadd2 c d a b) (fAdd fmt rm) ∧ two (.hsub2 c d a b) (fSub fmt rm) ∧ two (.hmul2 c d a b) (fMul fmt rm) ∧
      two (.hmin2 c d a b) (fMinMax fmt false) ∧ two (.hmax2 c d a b) (fMinMax fmt true)) ∧
    (∀ (b cc : Opnd) dst x y z f st, Got (triOps c d a (.op b) cc) st0 (dst, x, y, z, f) st →
      let fused := fun (l : LaneIx) (j : Nat) => fFma fmt rm (el x l j) (el y l j) (el z l j)
        (if (c.pfx.map (·.e)) = some .zero then none else f.map fun v => felem c.ty (v l) j)
      ends 6 (.ffma c d a b cc) st dst fused ∧ ends 6 (.hfma2 c d a b cc) st dst fused) ∧
    (∀ (b cc : Opnd) dst x y z st, Got (do
        let (dst, x, y) ← binOps false d a (.op b)
        let z ← readE false cc
        pure (dst, x, y, z)) st0 (dst, x, y, z) st → (Instr.hdot2 c d a b cc).wf = true →
      ∃ (val : Vals) (fl : Flags), exec (.hdot2 c d a b cc) s = .next (laneFinish (.fixed 6) c (flagged st c.ty dst val fl)) ∧
        let r := fun (l : LaneIx) => fDot2 fmt rm (el x l 0) (el y l 0) (el x l 1) (el y l 1) ((z l).toNat % 2 ^ 32)
        (∀ l, val l = BitVec.ofNat 64 (r l).1) ∧
        ∀ n, fl.getLsbD n = true ↔ ∃ l, inMask e l = true ∧ (r l).2.getLsbD n = true) ∧
    (∀ dst x st, Got (unOps false d a) st0 (dst, x) st →
      let one := fun (lat : Nat) (i : Instr) (f : Nat → Nat × Flags) => ends lat i st dst fun l j => f (el x l j)
      one 6 (.frnd c d a) (fRnd f32 rm) ∧ one 14 (.frcp c d a) (fRcp rm) ∧ one 14 (.frsq c d a) fRsq ∧
      one 14 (.fsqrt c d a) (fSqrt rm) ∧ one 14 (.fexp2 c d a) fExp2 ∧ one 14 (.flog2 c d a) fLog2 ∧
      one 14 (.fsin c d a) fSin ∧ one 14 (.fcos c d a) fCos ∧ one 14 (.ftanh c d a) fTanh)

/-- The destination and the sources of CVT, as many as its row has. -/
def Sys2Proof.Machine.cvtOps (c : LCtl) (d a b cc : Opnd) (src : BitVec 4) (nsrc : Nat) : LM (Dst × Vals × Vals × Vals × Option Vals) := do
  let dst ← prepare (isPair c.ty) d
  let x ← readE (isPair src) a
  let y ← if 2 ≤ nsrc then readE false b else pure fun _ => 0
  let z ← if nsrc = 4 then readE false cc else pure fun _ => 0
  let e ← if nsrc = 4 then readFourth c else pure none
  pure (dst, x, y, z, e)

/-- The destination, operand a and the scale, where the type and the format have one. -/
def Sys2Proof.Machine.scaleOps (scaled : Bool) (d a b : Opnd) : LM (Dst × Vals × Vals) := do
  let dst ← prepare false d
  let x ← readE false a
  let y ← if scaled then readE false b else pure fun _ => 0
  pure (dst, x, y)

/-- R230, R231: CVT converts each element of its result from the element its fields select; QPACK puts the quantised
elements at their position of a word and keeps its other bits; QUNPK takes them out again, scaled. R143, R148, R230:
of an element's conversion, integers wrap, or clamp where saturation is selected; a float rounds to the integer that
its mode gives, clamped to the destination's range with NV, a NaN to 0 with NV, else with NX where it is inexact; that
the range is judged after the rounding is the model's reading (log entry 36); a widening is exact, and so is an
integer of at most 24 bits. R151, R155: a fitted element is the clamped integer, or the one of the element's range
that is equal to it modulo its codes. -/
def Obligations.LaneConversions : Prop :=
  (∀ (src dst : BitVec 4) (rm : Rm) (sat : Bool) (x : BitVec 64),
    let w := tyWidth dst
    let lo := loOf (!tyUnsigned dst) w
    let hi := hiOf (!tyUnsigned dst) w
    let f := tyFmt src
    let a := x.toNat % 2 ^ f.width
    let r := cvtElem src dst rm sat x
    (isFloatTy src = false → isFloatTy dst = false → r.2 = 0 ∧
      let v := intOf (!tyUnsigned src) (elem (tyWidth src) x 0)
      r.1.setWidth w = BitVec.ofInt w (if sat then max lo (min hi v) else v)) ∧
    (isFloatTy src = true → isFloatTy dst = false →
      (isNaN f a → r = (0, fNV)) ∧
      (∀ neg, isInf f a neg → r = (BitVec.ofInt 64 (if neg then lo else hi), fNV)) ∧
      (isFinite f a → ∃ v : Int,
        let d : Int := unitsInOne f
        let off := (v * d - scaled f a).natAbs
        (match rm with
          | .rz => v = (scaled f a).tdiv d
          | .rd => v * d ≤ scaled f a ∧ scaled f a < (v + 1) * d
          | .ru => (v - 1) * d < scaled f a ∧ scaled f a ≤ v * d
          | .rne => 2 * (off : Int) ≤ d ∧ (2 * (off : Int) = d → v % 2 = 0)
          | .rna => 2 * (off : Int) ≤ d ∧ (2 * (off : Int) = d → (scaled f a).natAbs ≤ (v * d).natAbs)) ∧
        r.1 = BitVec.ofInt 64 (max lo (min hi v)) ∧
        r.2 = if v < lo ∨ hi < v then fNV else if off = 0 then 0 else fNX)) ∧
    (src = 3 ∨ src = 4 → dst = 2 → isFinite f a →
      r.2 = 0 ∧ isFinite f32 r.1.toNat ∧ scaled f32 r.1.toNat * unitsInOne f = scaled f a * unitsInOne f32) ∧
    (isFloatTy src = false → dst = 2 →
      let v := intOf (!tyUnsigned src) (elem (tyWidth src) x 0)
      v.natAbs ≤ 2 ^ 24 → r.2 = 0 ∧ isFinite f32 r.1.toNat ∧ scaled f32 r.1.toNat = v * unitsInOne f32)) ∧
  (∀ (el : Nat) (sat : Bool) (q : Int), el ≤ 4 →
    let range : Int × Int := [(-1, 1), (-8, 7), (-128, 127), (0, 255), (-2, 1)].getD el (0, 0)
    let code := fitElem el sat q
    let v := (elemValue el code).1
    code < 2 ^ elemBits el ∧ (elemValue el code).2 = false ∧ range.1 ≤ v ∧ v ≤ range.2 ∧
    (el = 0 ∨ sat = true → v = max range.1 (min range.2 q)) ∧
    (el ≠ 0 → sat = false → v % 2 ^ elemBits el = q % 2 ^ elemBits el)) ∧
  ∀ (s : State) (c : LCtl) (disp : Dispatch) (act e : Mask) (d a b cc : Opnd), LaneActs s c disp act e →
    let st0 := started s c disp act e
    let rm := laneRm c disp.rm
    (∀ (src : BitVec 4) (sel : BitVec 2) (sat : Bool) (row : CvtRow) dst x y z f st, cvtRow src c.ty = some row →
      Got (cvtOps c d a b cc src row.nsrc) st0 (dst, x, y, z, f) st → (Instr.cvt c d a b cc src sel sat).wf = true →
      ∃ (val : Vals) (fl : Flags),
        exec (.cvt c d a b cc src sel sat) s = .next (laneFinish (.fixed 6) c (flagged st c.ty dst val fl)) ∧
        let from1 := fun (l : LaneIx) (j : Nat) => if isPair src then x l
          else (elem (tyWidth src) (x l) (if elemsOf src = elemsOf c.ty then j else sel.toNat)).setWidth 64
        let fourth := fun (l : LaneIx) => match f with
          | some v => v l
          | none => 0
        let r := fun (l : LaneIx) (j : Nat) => cvtElem src c.ty rm sat
          (if row.nsrc = 1 then from1 l j else [x l, y l, z l].getD j (fourth l))
        (∀ l j, j < elemsOf c.ty → elem (tyWidth c.ty) (val l) j = (r l j).1.setWidth (tyWidth c.ty)) ∧
        ∀ n, fl.getLsbD n = true ↔ ∃ l j, inMask e l = true ∧ j < elemsOf c.ty ∧ (r l j).2.getLsbD n = true) ∧
    ∀ (slot : BitVec 3) (pos : BitVec 5) dst x y z st st',
      let r := (recordOf s s.me).fmts[slot.toNat]
      let n := elemBits (fmtElem r)
      let count := fcount c.ty
      let scaled := c.ty != 0 && fmtScale r != 3
      let scale := fun (l : LaneIx) => laneScale r (y l)
      qLegal c.ty r pos b = true → Got (scaleOps scaled d a b) st0 (dst, x, y) st →
      (scaled = true → fmtStrict r = true → ∀ l, inMask e l = true → (scale l).2.2 = false) →
      (Got (readE false cc) st z st' → (Instr.qpack c d a b cc slot pos).wf = true →
        ∃ (val : Vals) (fl : Flags),
          exec (.qpack c d a b cc slot pos) s = .next (laneFinish (.fixed 6) c (flagged st' c.ty dst val fl)) ∧
          (∀ l i, i < 32 → (i < n * pos.toNat ∨ n * (pos.toNat + count) ≤ i) → (val l).getLsbD i = (z l).getLsbD i) ∧
          ∀ l j, j < count → elem n (val l) (pos.toNat + j) = BitVec.ofNat n
            (if c.ty = 0 then fitElem (fmtElem r) (fmtSat r) ((x l).setWidth 32 : Lane).toInt
            else (quantise (fmtElem r) (fmtSat r) (quantRm (fmtQrm r) disp.rm)
              ((tyFmt c.ty).decode (felem c.ty (x l) j)) (scale l).1).1)) ∧
      ((Instr.qunpk c d a b slot pos).wf = true →
        let code := fun (l : LaneIx) (j : Nat) => elemValue (fmtElem r) (elem n (x l) (pos.toNat + j)).toNat
        (fmtStrict r = true → ∀ l j, inMask e l = true → j < count → (code l j).2 = false) →
        ∃ (val : Vals) (fl : Flags),
          exec (.qunpk c d a b slot pos) s = .next (laneFinish (.fixed 6) c (flagged st c.ty dst val fl)) ∧
          (c.ty = 0 → ∀ l, val l = (BitVec.ofInt 32 (code l 0).1).setWidth 64) ∧
          (c.ty ≠ 0 → ∀ l j, j < count → felem c.ty (val l) j =
            (dequantise (tyFmt c.ty) rm (code l j).1 (scale l).1).1 % 2 ^ (tyFmt c.ty).width))

/-- The destination and the operands of SHFL: a dq operand pops in its place, another is read last, in the lanes that
some lane of E uses (R232, R233). -/
def Sys2Proof.Machine.shflOps (c : LCtl) (d a : Opnd) (b : BSrc) (e : Mask) (src : Vals → LaneIx → LaneIx) : LM (Dst × Vals × Vals) := do
  let dst ← prepare (isPair c.ty) d
  let first ← match a with
    | .dq _ => do
      let x ← readMoved (isPair c.ty) a
      pure (some x)
    | _ => pure none
  let y ← readB false b
  sync
  let need : Need :=
    { lanes := (maskLanes e).foldl (fun acc l => acc ||| (1#32 <<< (src y l).val)) 0#32
      blame := fun m => mkMask fun l => inMask e l && inMask m (src y l) }
  let x ← match first with
    | some x => pure x
    | none => readOp (isPair c.ty) a need
  pure (dst, x, y)

/-- R143, R222, R235: two elements combined by the operation of a code, and the identity of the code. -/
def Sys2Proof.Machine.combined {w : Nat} (signed : Bool) (op : BitVec 3) (x y : BitVec w) : BitVec w :=
  match op.toNat with
  | 0 => x + y
  | 1 => if intOf signed x ≤ intOf signed y then x else y
  | 2 => if intOf signed x ≤ intOf signed y then y else x
  | 3 => x &&& y
  | 4 => x ||| y
  | _ => x ^^^ y
def Sys2Proof.Machine.neutral (w : Nat) (signed : Bool) (op : BitVec 3) : BitVec w :=
  match op.toNat with
  | 1 => BitVec.ofInt w (hiOf signed w)
  | 2 => BitVec.ofInt w (loOf signed w)
  | 3 => BitVec.allOnes w
  | _ => 0

/-- R18, R233 to R237: lane movement within tiles. SHFL's four modes; a reduction of integers is the combination of the
lanes of E of the tile, a scan that of those at or below the lane, or strictly below it; a reduction of floats is the
pairwise tree. -/
def Obligations.LaneMovement : Prop :=
  ∀ (s : State) (c : LCtl) (disp : Dispatch) (act e : Mask) (d a : Opnd), LaneActs s c disp act e →
    let st0 := started s c disp act e
    let t := 32 / 2 ^ (disp.ltile.getD s.me.ltile).toNat
    let gives := fun (i : Instr) (st : LSt) (dst : Dst) (val : Vals) => i.wf = true →
      exec i s = .next (laneFinish (.fixed 10) c (emitted st c.ty dst val))
    (∀ (b : BSrc) (mode : BitVec 2) dst x y st,
      let src := fun (y : Vals) (l : LaneIx) =>
        let first := t * (l.val / t)
        let ix := l.val - first
        let m := (y l).toNat % 2 ^ 32
        let swapped := Nat.xor ix (m % 32)
        Fin.ofNat 32 ([first + m % t, if m ≤ ix then l.val - m else l.val, if ix + m < t then l.val + m else l.val,
          if swapped < t then first + swapped else l.val].getD mode.toNat 0)
      Got (shflOps c d a b e src) st0 (dst, x, y) st → gives (.shfl c d a b mode) st dst (fun l => x (src y l))) ∧
    (∀ (p : PCode) (kind : BitVec 2) q,
      let holds := fun (l : LaneIx) => tileLanes t l |>.filter (inMask e)
      let out := fun (l : LaneIx) => (if kind = 0 then (if (holds l).any (inMask q) then 1 else 0)
        else if kind = 1 then (if (holds l).all (inMask q) then 1 else 0)
        else mkMask fun j => (holds l).contains j && inMask q j : Mask)
      (∀ dst st, Got (do let dst ← prepare false d; let q ← readPredIn (← needE) p; pure (dst, q)) st0 (dst, q) st →
        gives (.vote c d p kind false) st dst (fun l => (out l).setWidth 64)) ∧
      (∀ st, Got (do readPredIn (← needE) p) st0 q st → s.me.bq.length < 32 → (Instr.vote c d p kind true).wf = true →
        exec (.vote c d p kind true) s = .next (laneFinish (.fixed 10) c
          { st with s := st.s.setMe { st.s.me with bq := st.s.me.bq ++ [out (lowest e) == 1] } }))) ∧
    (∀ dst x st, Got (moveOps (isPair c.ty) d a) st0 (dst, x) st →
      let tile := fun (l : LaneIx) => tileLanes t l
      let folded := fun (op : BitVec 3) (js : List LaneIx) =>
        js.foldl (fun acc j => combined (!tyUnsigned c.ty) op acc (elem (tyWidth c.ty) (x j) 0))
          (neutral (tyWidth c.ty) (!tyUnsigned c.ty) op)
      (∀ op : BitVec 3, c.ty ≠ 2 → (Instr.vred c d a op).wf = true → ∃ val,
        exec (.vred c d a op) s = .next (laneFinish (.fixed 10) c (emitted st c.ty dst val)) ∧
        ∀ l, elem (tyWidth c.ty) (val l) 0 = folded op ((tile l).filter (inMask e))) ∧
      (∀ op : BitVec 3, c.ty = 2 → (Instr.vred c d a op).wf = true → ∃ (val : Vals) (fl : Flags),
        exec (.vred c d a op) s = .next (laneFinish (.fixed 10) c (flagged st c.ty dst val fl)) ∧
        let two := fun (p q : Nat × Flags) =>
          let r := [fAdd f32 (Rm.ofCode disp.rm.toNat) p.1 q.1, fMinMax f32 false p.1 q.1,
            fMinMax f32 true p.1 q.1].getD op.toNat (0, 0)
          (r.1 % 2 ^ 32, p.2 ||| q.2 ||| r.2)
        let lack := [0x8000_0000, 0x7F80_0000, 0xFF80_0000].getD op.toNat 0
        let r := fun (l : LaneIx) => (redTree two 5
          ((tile l).map fun j => (if inMask e j then (x j).toNat % 2 ^ 32 else lack, (0 : Flags)))).headD (0, 0)
        (∀ l, (val l).setWidth 32 = BitVec.ofNat 32 (r l).1) ∧
        ∀ n, fl.getLsbD n = true ↔ ∃ l, inMask e l = true ∧ (r l).2.getLsbD n = true) ∧
      (∀ (op : BitVec 3) (excl : Bool), (Instr.vscan c d a op excl).wf = true → ∃ val,
        exec (.vscan c d a op excl) s = .next (laneFinish (.fixed 10) c (emitted st c.ty dst val)) ∧
        ∀ l, elem (tyWidth c.ty) (val l) 0 = folded op ((tile l).filter fun j =>
          inMask e j && (if excl then decide (j.val < l.val) else decide (j.val ≤ l.val)))) ∧
      (∀ (p : PCode) (expand : Bool) q st', Got (do readPredIn (← needE) p) st q st' →
        gives (.vmovx c d a p expand) st' dst fun l =>
          let on := (tile l).filter (inMask e)
          let sel := on.filter (inMask q)
          match (if expand then (if sel.contains l then on[sel.idxOf l]? else none) else sel[on.idxOf l]?) with
          | some j => x j
          | none => 0))

/-- R199: the value that an atomic of a lane writes over `old`, of `n` bytes; none where a compare-and-swap fails. -/
def Sys2Proof.Machine.laneAtom (signed : Bool) (n : Nat) (op : AtomOp) (old x expected : Nat) : Option Nat :=
  let value := fun (v : Nat) => if signed then (BitVec.ofNat (8 * n) v).toInt else (v : Int)
  match op with
  | .swap => some x
  | .add => some ((old + x) % 256 ^ n)
  | .and => some (old &&& x)
  | .or => some (old ||| x)
  | .xor => some (old ^^^ x)
  | .min => some (if value old < value x then old else x)
  | .max => some (if value old < value x then x else old)
  | .cas => if old = expected then some x else none

/-- R239: the atomics of a word's lanes in the order of a list, each on what the one before it left: the machine after
them, the lanes' old values and the spots written. -/
def Sys2Proof.Machine.atomsInOrder (n : Nat) (new : LaneIx → Nat → Option Nat) :
    State → List (LaneIx × Spot) → State × List (LaneIx × Nat) × List Spot
  | s, [] => (s, [], [])
  | s, (l, p) :: rest =>
    let old := leNat (seeBytes s s.me p n)
    match new l old with
    | some v =>
      let t := atomsInOrder n new (performStores s [(p.plain, leBytes n v)]) rest
      (t.1, (l, old) :: t.2.1, p :: t.2.2)
    | none =>
      let t := atomsInOrder n new s rest
      (t.1, (l, old) :: t.2.1, t.2.2)

/-- R125: the coordinates of a linear index by the extents, multipliers and shifts of a shape; the last is what is
left of the index. -/
def Sys2Proof.Machine.coordsOf : List Nat → List Nat → List Nat → Nat → List Nat
  | [], _, _, _ => []
  | [_], _, _, x => [x]
  | ext :: exts, magics, shifts, x =>
    let t := (magics.headD 0 * x / 2 ^ 32 + x) % 2 ^ 33
    let q := t / 2 ^ shifts.headD 0 % 2 ^ 32
    (((x : Int) - q * ext) % 2 ^ 32).toNat :: coordsOf exts magics.tail shifts.tail q

/-- R238 to R241: the lane loads, stores and atomics once the addresses of their lanes are checked: every lane of E
has its spot, by rising lane. A load gives each lane its bytes; a store stores each lane's, or holds them in one or
two entries of the buffer (R240); the lanes' atomics are performed in ascending order, each on what the one before
left, after the dirty bits of the spots they write. That a load, and TIDX before it reads its record, waits for a
sequentially consistent fence which its stroke holds is the model's reading (log entry 87). R125: TIDX gives a
coordinate of its operand by the grid's shape record, and raises ENGINE where there is none or it has no such
dimension. -/
def Obligations.LaneMemory : Prop :=
  ∀ (s : State) (c : LCtl) (disp : Dispatch) (act e : Mask) (d a : Opnd) (m : LAddr), LaneActs s c disp act e →
    let st0 := started s c disp act e
    let addr := fun (ix : Vals) (off : Word) (l : LaneIx) =>
      disp.ab[m.base.toNat] + (((ix l).setWidth 32 : Lane).signExtend 64 <<< m.scale.toNat) + off
    let bytes := fun (size : BitVec 2) => if size = 1 then 1 else if size = 2 then 2 else if c.ty = 8 then 8 else 4
    let whole := fun (st : LSt) (spots : List (LaneIx × Spot)) => st.s.mem = s.mem ∧ spots.map (·.1) = maskLanes e
    (∀ (size : BitVec 2) (off : BitVec 9) dst ix spots st, Got (do
        let dst ← prepare (isPair c.ty) d
        let ix ← readE false a
        sync
        let spots ← checkLanes .read (bytes size) (addr ix (off.signExtend 64)) fun _ => false
        pure (dst, ix, spots)) st0 (dst, ix, spots) st → (Instr.vld c d a m size off).wf = true →
      fenceHeld s s.me = false → whole st spots ∧ ∃ val, exec (.vld c d a m size off) s = .next (laneFinish .memory c (emitted st c.ty dst val)) ∧
        ∀ l p, (l, p) ∈ spots → val l =
          let v := leNat (seeBytes st.s st.s.me p (bytes size))
          if bytes size < 4 ∧ c.ty = 0 then ((BitVec.ofNat (8 * bytes size) v).signExtend 32).setWidth 64
          else BitVec.ofNat 64 v) ∧
    (∀ (size : BitVec 2) (off : BitVec 9) dst ix st, Got (do
        let dst ← prepare (isPair c.ty) d
        let ix ← readE false a
        sync
        pure (dst, ix)) st0 (dst, ix) st → (Instr.vld c d a m size off).wf = true → fenceHeld s s.me = true →
      ∃ reads, exec (.vld c d a m size off) s =
        .next { s.setMe { s.me with reads := reads } with waited := true }) ∧
    (∀ (cc : Opnd) (size : BitVec 2) (off : BitVec 9) ix z spots st, Got (do
        let ix ← readE false a
        let z ← readE (isPair c.ty) cc
        sync
        let spots ← checkLanes .write (bytes size) (addr ix (off.signExtend 64)) fun _ => false
        pure (ix, z, spots)) st0 (ix, z, spots) st → (Instr.vst c a cc m size off).wf = true →
      whole st spots ∧ ∀ t, StoresTo st.s st.s (if c.ty = 8 then 2 else 1)
          (spots.map fun x => (x.2, leBytes (bytes size) (z x.1).toNat)) t →
        exec (.vst c a cc m size off) s = .next (laneFinish .memory c { st with s := t })) ∧
    (∀ (b cc : Opnd) (op : AtomOp) (off : BitVec 8) dst ix y z spots st, uncommitted s s.me = none → Got (do
        let dst ← prepare (isPair c.ty) d
        let ix ← readE false a
        let y ← if op = .cas then readE (isPair c.ty) b else pure fun _ => 0
        let z ← readE (isPair c.ty) cc
        sync
        let now ← get
        let spots ← checkLanes .rw (bytes 0) (addr ix (off.signExtend 64)) fun p => atomRefused now.s p op
        pure (dst, ix, y, z, spots)) st0 (dst, ix, y, z, spots) st → (Instr.vatom c d a b cc m op off).wf = true →
      let n := bytes 0
      let new := fun (l : LaneIx) (old : Nat) =>
        laneAtom (c.ty != 1) n op old ((z l).toNat % 256 ^ n) ((y l).toNat % 256 ^ n)
      let dirty := storeDirty ((atomsInOrder n new st.s spots).2.2.map fun p => (p, []))
      logShort st.s dirty = none →
      let t := atomsInOrder n new (setDirty st.s dirty) spots
      whole st spots ∧ ∃ val, exec (.vatom c d a b cc m op off) s =
          .next (laneFinish ⟨none, true, true⟩ c (emitted { st with s := t.1 } c.ty dst val)) ∧
        ∀ l old, (l, old) ∈ t.2.1 → val l = BitVec.ofNat 64 old) ∧
    (∀ (shape : BitVec 8) (dim : BitVec 3) dst x st,
      Got (do let dst ← prepare false d; let x ← readE false a; sync; pure (dst, x)) st0 (dst, x) st →
      (Instr.tidx c d a shape dim).wf = true →
      (e = 0 → exec (.tidx c d a shape dim) s = .next (laneFinish (.fixed 8) c (emitted st c.ty dst fun _ => 0))) ∧
      (e ≠ 0 → fenceHeld s s.me = true → ∃ reads, exec (.tidx c d a shape dim) s =
        .next { s.setMe { s.me with reads := reads } with waited := true }) ∧
      ∀ u r, e ≠ 0 → fenceHeld s s.me = false →
        seeShape st.s (recordOf st.s st.s.me).shapes shape.toNat = (u, .ok r) →
        (∀ sh, r = some sh → dim.toNat < sh.rank →
          exec (.tidx c d a shape dim) s = .next (laneFinish (.fixed 8) c (emitted { st with s := u } c.ty dst fun l =>
            BitVec.ofNat 64 ((coordsOf sh.ext sh.magic sh.shift ((x l).toNat % 2 ^ 32)).getD dim.toNat 0)))) ∧
        ((∀ sh, r = some sh → sh.rank ≤ dim.toNat) →
          exec (.tidx c d a shape dim) s = raiseLane s u disp.addr ⟨cENGINE, 0, e, false⟩ [] st.popped))

/-- R248: the entry of a list of vault entries that is nearest to a query; among equals the lowest. -/
def Sys2Proof.Machine.Nearest (q : HVec) (es : List (Nat × HVec)) (v : Nat × HVec) : Prop :=
  v ∈ es ∧ ∀ u ∈ es, popBits (q ^^^ v.2) < popBits (q ^^^ u.2) ∨ (popBits (q ^^^ v.2) = popBits (q ^^^ u.2) ∧ v.1 ≤ u.1)

/-- R242 to R249: the hypervector words in a grid with the HV flag. R249, R305: HPUT to an entry at or above 8192, or
to one that is fenced, raises ENGINE. HPUT to an entry under a self-test waits, which is the model's reading (log
entry 66), and HLD and HNEAR for a sequentially consistent fence that their stroke holds (log entry 87). -/
def Obligations.Hypervectors : Prop :=
  ∀ (s : State) (c : LCtl) (disp : Dispatch) (act e : Mask), LaneActs s c disp act e → (recordOf s s.me).hv = true →
    let st0 := started s c disp act e
    let ends := fun (lat : Nat) (i : Instr) (st : LSt) => i.wf = true → exec i s = .next (laneFinish (.fixed lat) c st)
    let writes := fun (st : LSt) (ws : List LWrite) => { st with writes := st.writes ++ ws }
    (∀ ha hb x y st, Got (do let x ← readHv ha; let y ← readHv hb; pure (x, y)) st0 (x, y) st →
      (∀ hd, ends 4 (.hxor c hd ha hb) (writes st [.hv hd.toNat (x ^^^ y)])) ∧
      (∀ d dst st1, Got (do
          let dst ← prepare false d
          let x ← readHv ha
          let y ← readHv hb
          pure (dst, x, y)) st0 (dst, x, y) st1 → ends 8 (.hdist c d ha hb) (emitted st1 c.ty dst fun _ =>
            BitVec.ofNat 64 ((List.range 4096).filter fun i => (x ^^^ y).getLsbD i).length))) ∧
    (∀ ha x st, Got (readHv ha) st0 x st →
      (∀ hd amt, ∃ r : HVec, (∀ i, i < 4096 → r.getLsbD ((i + amt.toNat) % 4096) = x.getLsbD i) ∧
        ends 4 (.hrot c hd ha amt) (writes st [.hv hd.toNat r])) ∧
      (∀ k y st1 wt neg, Got (readBun k) st y st1 → ∃ r : Bundle,
        let step := fun (i : Nat) => counter y i + (if x.getLsbD i != neg then (wt.toNat : Int) else -(wt.toNat : Int))
        (∀ i, i < 4096 → counter r i = max (-127) (min 127 (step i))) ∧
        ends 6 (.hbun c ha k wt neg) { st1 with
          writes := st1.writes ++ [.bun k.toNat r]
          flags := if ∃ i ∈ List.range 4096, 127 < step i ∨ step i < -127 then st1.flags ||| fHSAT else st1.flags }) ∧
      (∀ k y st1 hd, Got (readBun k) st y st1 → ∃ r : HVec,
        (∀ i, i < 4096 → r.getLsbD i =
          if 0 < counter y i then true else if counter y i < 0 then false else x.getLsbD i) ∧
        ends 6 (.hthr c hd ha k) (writes st1 [.hv hd.toNat r]))) ∧
    (∀ k, ends 4 (.hkclr c k) (writes st0 [.bun k.toNat 0])) ∧
    (∀ (n : BitVec 11), n.toNat + 3 < privNames s s.me → n.toNat < 256 →
      (∀ h v0 v1 v2 v3 st, Got (do
          let need ← needWhole
          let v0 ← readName n.toNat need
          let v1 ← readName (n.toNat + 1) need
          let v2 ← readName (n.toNat + 2) need
          let v3 ← readName (n.toNat + 3) need
          pure (v0, v1, v2, v3)) st0 (v0, v1, v2, v3) st → ∃ r : HVec,
        (∀ (l : LaneIx) i, i < 32 → r.getLsbD (32 * l.val + i) = (lane v0 l).getLsbD i ∧
          r.getLsbD (1024 + 32 * l.val + i) = (lane v1 l).getLsbD i ∧
          r.getLsbD (2048 + 32 * l.val + i) = (lane v2 l).getLsbD i ∧
          r.getLsbD (3072 + 32 * l.val + i) = (lane v3 l).getLsbD i) ∧
        ends 4 (.hfromv c (.v n) h) (writes st [.hv h.toNat r])) ∧
      (∀ h x st, Got (readHv h) st0 x st →
        ends 4 (.htov c (.v n) h) { st with
          writes := st.writes ++ (List.range 4).map fun r => .vec (.main (n.toNat + r)) 0xFFFF_FFFF (hvRow x r)
          shift := .one e (hvRow x 0) })) ∧
    (∀ a base scale h off ix, 
      let addr := fun (ix : Vals) => disp.ab[BitVec.toNat base] +
        (((ix (lowest e)).setWidth 32 : Lane).signExtend 64 <<< BitVec.toNat scale) + BitVec.signExtend 64 off
      (∀ spots st, Got (do
          let ix ← readE false a
          sync
          let spots ← hvSpots .read (addr ix)
          pure (ix, spots)) st0 (ix, spots) st → (Instr.hld c a base scale h off).wf = true → fenceHeld s s.me = false →
        exec (.hld c a base scale h off) s = .next (laneFinish .memory c (writes st [.hv h.toNat
          (BitVec.ofNat 4096 (leNat (spots.flatMap fun p => seeBytes st.s st.s.me p 4)))]))) ∧
      (∀ st, Got (do
          let ix ← readE false a
          sync
          pure ix) st0 ix st → (Instr.hld c a base scale h off).wf = true → fenceHeld s s.me = true →
        ∃ reads, exec (.hld c a base scale h off) s =
          .next { s.setMe { s.me with reads := reads } with waited := true }) ∧
      (∀ x spots st, Got (do
          let ix ← readE false a
          let x ← readHv h
          sync
          let spots ← hvSpots .write (addr ix)
          pure (ix, x, spots)) st0 (ix, x, spots) st → (Instr.hst c a base scale h off).wf = true →
        let ws := spots.zipIdx.map fun w => (w.1, leBytes 4 (x.extractLsb' (32 * w.2) 32 : Lane).toNat)
        ∀ t, StoresTo st.s st.s 4 ws t →
          exec (.hst c a base scale h off) s = .next (laneFinish .memory c { st with s := t }))) ∧
    (∀ d a b h dst x n q st, Got (do
        let dst ← prepare false d
        let x ← readE false a
        let n ← readB false b
        let q ← readHv h
        pure (dst, x, n, q)) st0 (dst, x, n, q) st → (Instr.hnear c d a b h).wf = true →
      (fenceHeld s s.me = true → ∃ reads, exec (.hnear c d a b h) s =
        .next { s.setMe { s.me with reads := reads } with waited := true }) ∧
      let lo := (x (lowest e)).toNat % 2 ^ 32
      let hi := lo + (n (lowest e)).toNat % 2 ^ 32
      let vault := (s.clusterAt (clusterOf (coreOf s.cur))).vault
      let es := vault.filter fun v => decide (lo ≤ v.1 ∧ v.1 < hi)
      (vault.map (·.1)).Pairwise (· < ·) → fenceHeld s s.me = false →
      ∃ val, exec (.hnear c d a b h) s = .next (laneFinish .memory c (emitted st c.ty dst val)) ∧
        (es = [] → val 0 = 0xFFFF_FFFF ∧ val 1 = 4097 ∧ val 2 = 4097 ∧ val 3 = 0xFFFF_FFFF) ∧
        (es ≠ [] → ∃ v, Nearest q es v ∧ val 0 = BitVec.ofNat 64 v.1 ∧ val 1 = BitVec.ofNat 64 (popBits (q ^^^ v.2)) ∧
          let rest := es.filter fun u => u.1 != v.1
          (rest = [] → val 2 = 4097 ∧ val 3 = 0xFFFF_FFFF) ∧
          (rest ≠ [] → ∃ u, Nearest q rest u ∧ val 2 = BitVec.ofNat 64 (popBits (q ^^^ u.2)) ∧
            val 3 = BitVec.ofNat 64 u.1)) ∧
        ∀ l : LaneIx, 4 ≤ l.val → val l = 0) ∧
    (∀ b h n x st, uncommitted s s.me = none → Got (do
        let n ← readB false b
        let x ← readHv h
        pure (n, x)) st0 (n, x) st → (Instr.hput c b h).wf = true →
      let u := clusterOf (coreOf st.s.cur)
      let i := (n (lowest e)).toNat % 2 ^ 32
      (i < 8192 → st.s.fenced.contains (.vaultEntry u i) = false → st.s.testing.contains (.vaultEntry u i) = false →
        exec (.hput c b h) s = .next (laneFinish ⟨none, false, true⟩ c { st with
          s := st.s.setCluster u { st.s.clusterAt u with vault := Tbl.set (st.s.clusterAt u).vault i x } })) ∧
      (i < 8192 → st.s.fenced.contains (.vaultEntry u i) = false → st.s.testing.contains (.vaultEntry u i) = true →
        ∃ reads, exec (.hput c b h) s = .next { s.setMe { s.me with reads := reads } with waited := true }) ∧
      (8192 ≤ i ∨ st.s.fenced.contains (.vaultEntry u i) = true →
        exec (.hput c b h) s =
          raiseLane s st.s disp.addr ⟨cENGINE, 0, 1#32 <<< (lowest e).val, false⟩ [] st.popped))

/-- R238, R239, R241, R244, R249: the lane words that access memory or the vault. -/
def Sys2Proof.Machine.reachesMemory : Instr → Bool
  | .vld .. | .vst .. | .vatom .. | .tidx .. | .hld .. | .hst .. | .hput .. => true
  | _ => false

/-- Two warps with the same registers, whatever is in flight, in the queues and in the dispatch list. -/
def Sys2Proof.Machine.sameRegs (w u : Warp) : Prop :=
  u.s = w.s ∧ u.v = w.v ∧ u.o = w.o ∧ u.l0 = w.l0 ∧ u.l1 = w.l1 ∧ u.p = w.p ∧ u.h = w.h ∧ u.k = w.k ∧
  u.host = w.host ∧ u.fcsr = w.fcsr ∧ u.pc = w.pc ∧ u.sup = w.sup ∧ u.ab = w.ab ∧ u.ltile = w.ltile

/-- R14, R16, R17, R52, R218: what the issue of a lane word leaves. Its results are in flight until they land; no
register of the warp but EXM, which XMWR alone rewrites, has changed. A word that reaches no memory changes nothing
of the machine but its warp and the time of its block's last move; a load, TIDX and HPUT leave memory, and of the blocks
all but that time, as they are. The lane stream is past the word's units and its stall count. R51: a word that names a
destination takes nothing; the groups of host rows that it is the first to write in some lane are its warp's once it
issues, after its causes and with room for them. -/
def Obligations.LaneFrame : Prop :=
  (∀ (i : Instr) (c : LCtl) (f : LFields) (s t : State), encodeLFields i = some (c, f) → exec i s = .next t →
    t.me.iret.toNat = s.me.iret.toNat + 1 →
    (reachesMemory i = false → ∃ w, t = (s.setWarp s.cur w).setBlock s.me.block
        { s.blockAt s.me.block with lastMove := s.cycle } ∧ sameRegs s.me w ∧
      (w.exm = s.me.exm ∨ ∃ a p form, i = .xmwr c a p form)) ∧
    (reachesMemory i = true → sameRegs s.me t.me ∧ t.me.exm = s.me.exm ∧ t.ctxs = s.ctxs ∧
      (uncommitted s s.me = none → ∀ j, j ≠ s.cur → t.warpAt j = s.warpAt j) ∧
      ((∀ a cc m size off, i ≠ .vst c a cc m size off) → (∀ d a b cc m op off, i ≠ .vatom c d a b cc m op off) →
        (∀ a base scale h off, i ≠ .hst c a base scale h off) → t.mem = s.mem ∧ t.crews = s.crews ∧
        ∀ j, t.blockAt j = if j = s.me.block then { s.blockAt j with lastMove := s.cycle } else s.blockAt j))) ∧
  ∀ (k : LKind) (c : LCtl) (st : LSt) (d : Dispatch) (rest : List Dispatch),
    let w := st.s.me
    w.dispatch = d :: rest → d.issued = false →
    let t := laneFinish k c st
    t.mem = st.s.mem ∧ t.crews = st.s.crews ∧ t.cores = st.s.cores ∧ t.ctxs = st.s.ctxs ∧
    (∀ j, j ≠ st.s.cur → t.warpAt j = st.s.warpAt j) ∧
    (∀ j, t.blockAt j = if j = w.block then
        { st.s.blockAt j with lastMove := st.s.cycle, closed := (st.s.blockAt j).closed || k.closes }
      else st.s.blockAt j) ∧
    t.me.s = w.s ∧ t.me.v = w.v ∧ t.me.o = w.o ∧ t.me.l0 = w.l0 ∧ t.me.l1 = w.l1 ∧ t.me.p = w.p ∧ t.me.h = w.h ∧
    t.me.k = w.k ∧ t.me.exm = w.exm ∧ t.me.fcsr = w.fcsr ∧ t.me.pc = w.pc ∧ t.me.iret = w.iret + 1 ∧
    t.me.groups = st.rows.foldl (fun gs r => insertAsc r gs) w.groups ∧
    t.me.laneAt = st.s.cycle + c.w.toNat + 1 ∧
    t.me.dispatch = { d with addr := d.addr + (if c.pfx.isSome then 16 else 12), issued := c.e } :: rest ∧
    (t.me.inflight = w.inflight ∨ ∃ p, t.me.inflight = w.inflight ++ [p] ∧ p.writes = st.writes ∧ p.shift = st.shift ∧
      p.flags = st.flags ∧ ∀ n, k.lat = some n → p.landAt = st.s.cycle + n) ∧
    (∀ i dst u, (nameTarget i).run st = .ok (dst, u) → u.s = st.s ∧ ∀ j ∈ u.rows, j ∈ st.rows ∨
      (j = (i - 256) / 8 ∧ 256 ≤ i ∧ w.win.toNat ≤ i - 256 ∧ (if st.zero then st.act else st.e) ≠ 0)) ∧
    ∀ u, settle.run st = .ok ((), u) → u = st ∧ st.cand = none ∧ st.blocked = false ∧
      (st.rows = [] ∨ 8 * st.rows.length ≤ freeRows st.s (coreOf st.s.cur))

/-- R37 to R39, R50, R51, R54, R100, R163, R186, R187: what a source operand of 32 bits reads in a warp with nothing
in flight and no storage in error, in the lanes `act`: the register `x`, and the warp `u` that is left of `w` once it
has popped. A held pop of a dq goes before its entries. A window name in a stroke reads its slot where every lane of
`act` is present, or where the slot's next stroke has launched; in a warp that hosts no crew it reads the host window.
-/
def Sys2Proof.Machine.sourceIs (s : State) (act : Mask) (w : Warp) (b : BSrc) (x : Lanes) (u : Warp) : Prop :=
  match b with
  | .imm i => x = Vector.replicate 32 (i.signExtend 32) ∧ u = w
  | .op .zero => x = zeroLanes ∧ u = w
  | .op (.o i) => x = w.o[i.toNat] ∧ u = w
  | .op (.l i) => x = (if i = 0 then w.l0 else w.l1) ∧ u = w
  | .op (.dq q) =>
    (∃ before after, w.held = before ++ (q.toNat, ⟨x, none⟩) :: after ∧ (∀ y ∈ before, y.1 ≠ q.toNat) ∧
      u = { w with held := before ++ after }) ∨
    ((∀ y ∈ w.held, y.1 ≠ q.toNat) ∧ ∃ rest, w.dq[q.toNat].entries = ⟨x, none⟩ :: rest ∧
      u = { w with dq := w.dq.set q.toNat { w.dq[q.toNat] with entries := rest } })
  | .op .xq => False
  | .op (.v n) =>
    let j := n.toNat - 256
    u = w ∧ ((n.toNat < 256 ∧ n.toNat < privNames s w ∧ x = Tbl.get zeroLanes w.v n.toNat) ∨
      (256 ≤ n.toNat ∧ (recordOf s w).crew = true ∧
        ((w.stroke = none ∧ w.hosts = none ∧ x = Tbl.get zeroLanes w.host j) ∨
        ∃ c k, w.stroke = some (c, k) ∧ j < (s.crewAt c).record.w ∧
          let cr := s.crewAt c
          let r := cr.record
          let slot := (((j : Int) - (k : Int) * r.s) % r.w).toNat
          x = Tbl.get zeroLanes cr.slots slot ∧ (act &&& ~~~(Tbl.get 0 cr.pres slot) = 0 ∨
            (r.s ≤ j ∧ cr.launched ((k : Int) - (j / r.s : Nat) + (r.w / r.s : Nat)) = true)))))

/-- R37 to R39, R50, R51, R53, R54, R100, R142, R187, R218, R222: VADD.i32 from its issue to its result, its operands
of any kind. With nothing else in flight, d, a register of the main file, takes a + b in the lanes that are active and
keeps its others; every other register keeps its value, the last-result file shifts, and the queues have lost what the
operands popped. A word that reads a name of distance 1 or more waits where an active lane of it is not present, and
one that pops an empty dq waits while a stream fills it. Which strokes count as launched after a cancellation is the
model's reading (log entry 58). -/
def Obligations.LaneAddResult : Prop :=
  ∀ (s : State) (disp : Dispatch) (c : LCtl) (d : BitVec 11) (a : Opnd) (b : BSrc), canRun s = true → s.me.sup = false →
    s.me.laneBlock = some disp → s.me.laneAt ≤ s.cycle → s.me.inflight = [] → s.me.reads = [] → s.poison = [] →
    c.g = 0 → c.ty = 0 → c.pfx = none → disp.mask s.me ≠ 0 → d.toNat < 256 → d.toNat < privNames s s.me →
    (Instr.vadd c (.v d) a b).wf = true →
    let w := s.me
    let on := disp.mask w
    (∀ (x y : Lanes) (v1 v2 : Warp), sourceIs s on w (.op a) x v1 → sourceIs s on v1 b y v2 →
      ∃ t, exec (.vadd c (.v d) a b) s = .next t ∧
        let u := (landAll t t.cur).me
        let reg := fun (x : Warp) (n : Nat) => Tbl.get zeroLanes x.v n
        (∀ l : LaneIx, lane (reg u d.toNat) l = if inMask on l then lane x l + lane y l else lane (reg w d.toNat) l) ∧
        (∀ n, n ≠ d.toNat → reg u n = reg w n) ∧
        (∀ l : LaneIx, inMask on l = true → lane u.l0 l = lane (reg u d.toNat) l ∧ lane u.l1 l = lane w.l0 l) ∧
        (∀ l : LaneIx, inMask on l = false → lane u.l0 l = lane w.l0 l ∧ lane u.l1 l = lane w.l1 l) ∧
        u.dq = v2.dq ∧ u.s = w.s ∧ u.p = w.p ∧ u.o = w.o ∧ u.h = w.h ∧ u.k = w.k ∧ u.fcsr = w.fcsr ∧ t.mem = s.mem) ∧
    (let waits := ∃ reads, exec (.vadd c (.v d) a b) s =
        .next { s.setMe { s.me with reads := reads } with waited := true }
     (∀ (n : BitVec 11) (i : BitVec 16) (cr k : Nat), a = .v n → b = .imm i → w.stroke = some (cr, k) → 256 ≤ n.toNat →
        (recordOf s w).crew = true →
        let r := (s.crewAt cr).record
        let j := n.toNat - 256
        let slot := (((j : Int) - (k : Int) * r.s) % r.w).toNat
        j < r.w → r.s ≤ j → ((s.crewAt cr).next : Int) ≤ (k : Int) - (j / r.s : Nat) + (r.w / r.s : Nat) →
        on &&& ~~~(Tbl.get 0 (s.crewAt cr).pres slot) ≠ 0 → waits) ∧
     ∀ (q : BitVec 2) (i : BitVec 16) (x : Stream), a = .dq q → b = .imm i → (∀ y ∈ w.held, y.1 ≠ q.toNat) →
        w.dq[q.toNat] = ⟨[], some x⟩ → waits)

/-! ### The part's own steps -/

/-- R14, R16, R39, R45, R52: a lane result is written once its latency has passed, and a dispatched lane block completes
once its words have issued and their results are written. A due write to a window slot makes its lanes present at
once, though an earlier word's result is still to come. The latency of an interlocked result is the model's (log
entry 6). -/
def Obligations.LaneCompletions : Prop :=
  ∀ (s : State) (k : Nat),
    (∀ p rest, (s.warpAt k).inflight = p :: rest → p.landAt ≤ s.cycle →
      let t := landPending s k p
      exec (.writeLands k) s = .next (t.setWarp k { t.warpAt k with inflight := rest })) ∧
    (∀ p q j m v c n, (s.warpAt k).inflight = [p, q] → s.cycle < p.landAt → q.landAt ≤ s.cycle →
      (∀ x ∈ p.writes, ∀ m' v', x ≠ .vec (.slot j) m' v') → q.writes = [.vec (.slot j) m v] →
      (s.warpAt k).stroke = some (c, n) → ∃ t, exec (.writeLands k) s = .next t ∧
        (t.warpAt k).inflight = [p, { q with writes := [] }] ∧
        Tbl.get 0 (t.crewAt c).pres j = Tbl.get 0 (s.crewAt c).pres j ||| m ∧
        ∀ l : LaneIx, inMask m l = true → lane (Tbl.get zeroLanes (t.crewAt c).slots j) l = lane v l) ∧
    (∀ d rest, (s.warpAt k).dispatch = d :: rest → d.issued = true → (∀ p ∈ (s.warpAt k).inflight, p.block ≠ d.seq) →
      exec (.laneBlockCompletion k) s = .next (s.setWarp k { s.warpAt k with dispatch := rest }))

/-- R21 to R24, R108 to R110, R117 to R119, R126: a write of TAIL; the record at the head of an enabled queue,
accepted or rejected with its reason; the launch engine's pass, of its core's queue and then of the oldest record of
the core in the overflow rings; a start event. An event for a node lowers its counter by one; at zero already it is
recorded as an over-decrement and launches nothing; where it brings the counter to zero the node's grid is launched,
that of a conditional node only if its predicate is not zero, else its successors get their events. The model's
choices: a graph's table lies at physical addresses (log entry 28), TAIL written while SIZE is invalid is kept as it
is (log entry 68), and records in a ring count for the joins as commands of the launch queue do (log entry 67). -/
def Obligations.LaunchSteps : Prop :=
  ∀ (s : State) (q : BitVec 4),
    let x := s.lqs[q.toNat]
    let put := fun (t : State) (y : LaunchQ) => { t with lqs := t.lqs.set q.toNat y }
    (∀ (fn : Nat) (v : Word), fn = 0 ∨ fn = x.own.toNat →
      exec (.launchQueueTailWrite fn q v) s = .next (put s { x with
        tail := BitVec.ofNat 16 (match x.ring with
          | some n => v.toNat % 65536 % n
          | none => v.toNat % 65536) }) ∧
      exec (.lqstart fn q v) s = .next (deliver s x.ctx [v.toNat % 65536])) ∧
    (∀ (fn : Nat) (v : Word), fn ≠ 0 → fn ≠ x.own.toNat →
      exec (.launchQueueTailWrite fn q v) s = .next s ∧ exec (.lqstart fn q v) s = .next s) ∧
    (∀ size, x.ring = some size → x.en = true → x.own.toNat ≤ 64 → x.head ≠ x.tail → x.grid = none →
      let pa := x.base.toNat / 128 * 128 + 128 * x.head.toNat
      let bs := readBytes s.mem pa 128
      let moved := { x with head := BitVec.ofNat 16 ((x.head.toNat + 1) % size) }
      (rejectReason s bs = none → ∃ t, exec (.launchRecordRead (.queue q.toNat)) s = .next t ∧
        t.lqs[q.toNat] = { moved with grid := some s.grids.length } ∧
        (∃ g, t.grids = s.grids ++ [g] ∧ g.record = recordFields bs ∧ g.ctx = x.ctx ∧ g.next = 0 ∧ g.exited = 0 ∧
          g.done = false) ∧ t.mem = s.mem) ∧
      (∀ why, rejectReason s bs = some why → ∃ t, exec (.launchRecordRead (.queue q.toNat)) s = .next t ∧
        t.lqs[q.toNat] = { moved with err := true, reason := BitVec.ofNat 8 why, rejix := x.head } ∧
        t.grids = s.grids)) ∧
    (∀ (core : Nat) (c : Cmd) (bs : List Byte) (addr : Word), headCmd s core 3 = some c → c.op = .lnch bs addr →
      joinsOpen s core 3 c.seq = true → rejectReason (dropHead s core 3) bs = none →
      ∃ t, exec (.deviceLaunchPass core) s = .next t ∧ (t.coreAt core).launchQ = (s.coreAt core).launchQ.drop 1 ∧
        (∃ g, t.grids = s.grids ++ [g] ∧ g.record = recordFields bs ∧ g.src = .device core) ∧ t.mem = s.mem) ∧
    (∀ (core ctx : Nat) (e : RingRec), headCmd s core 3 = none → e ∈ (s.ctxAt ctx).ring → e.core = core →
      (∀ x ∈ s.ctxs, ∀ y ∈ x.2.ring, y.core = core → e.seq < y.seq ∨ (x.1 = ctx ∧ y = e)) →
      joinsOpen s core 3 e.seq = true →
      let c := s.ctxAt ctx
      let u := s.setCtx ctx { c with ring := c.ring.erase e }
      rejectReason u e.bytes = none →
      ∃ t, exec (.deviceLaunchPass core) s = .next t ∧ t.ctxAt ctx = u.ctxAt ctx ∧
        (∃ g, t.grids = s.grids ++ [g] ∧ g.record = recordFields e.bytes ∧ g.src = .device core) ∧ t.mem = s.mem) ∧
    (∀ ctx n ns, deliver s ctx (n :: ns) =
      decrements ctx (2 ^ 27 - 1) (ns ++ (decrementNode s ctx n).2) (decrementNode s ctx n).1) ∧
    ∀ ctx n, s.memOk →
      let at_ := (s.ctxAt ctx).graph + 32 * n
      let v := leNat (readBytes s.mem (at_ + 8) 2)
      let t := (decrementNode s ctx n).1
      let events := (decrementNode s ctx n).2
      let same := fun (keep : Nat → Prop) => t.grids = s.grids ∧ events = [] ∧
        ∀ pa, keep pa → readPhys t.mem pa = readPhys s.mem pa
      (v = 0 → readPhys t.mem (at_ + 13) = readPhys s.mem (at_ + 13) ||| 2 ∧ same fun pa => pa ≠ at_ + 13) ∧
      (1 < v → readBytes t.mem (at_ + 8) 2 = leBytes 2 (v - 1) ∧ same fun pa => pa < at_ + 8 ∨ at_ + 10 ≤ pa) ∧
      ∀ w r, v = 1 →
        let u := { s with mem := writeBytes s.mem (at_ + 8) (leBytes 2 0) }
        let bs := readBytes u.mem at_ 32
        let y := nodeStatus w at_ 1
        nodeOk bs = true → at_ % 32 = 0 → readSpan u (whoPart ctx) (fieldWord bs 0) 128 = (w, .ok r) →
        rejectReason y r = none →
        let launches := events = [] ∧ ∃ g, t.grids = s.grids ++ [g] ∧ g.record = recordFields r ∧ g.src = .node ctx n
        (fieldNat bs 0x0C 1 = 1 → launches) ∧
        ∀ z p, fieldNat bs 0x0C 1 = 3 → readSpan y (whoPart ctx) (fieldWord bs 0x10) 4 = (z, .ok p) →
          (leNat p ≠ 0 → launches) ∧
          (leNat p = 0 → fieldNat bs 0x0A 2 = 0 → t = z ∧ events = []) ∧
          ∀ z' l, leNat p = 0 → fieldNat bs 0x0A 2 ≠ 0 →
            readSpan z (whoPart ctx) (fieldWord bs 0x18) (2 * fieldNat bs 0x0A 2) = (z', .ok l) →
            t = z' ∧ events = (List.range (fieldNat bs 0x0A 2)).map fun i => fieldNat l (2 * i) 2

/-- R12, R21, R25, R27, R28, R131, R172: blocks begin and end. The chosen head's next gang is placed where it has
room; a gang that does not fit keeps the choice, which only a head of higher priority displaces. A block whose warps
have exited and whose commands are complete frees its place and counts; one killed for ECC_SCRATCH starts again; a
grid completes once all its blocks have exited, counting behind an update of its counter that still waits. The order
among heads of one priority is the model's reading (log entry 20). -/
def Obligations.BlockSteps : Prop :=
  ∀ s : State,
    (∀ g t, chosenHead s = some g → savedFirst s g = false → (s.gridAt g).fresh = [] →
      (s.gridAt g).record.persist = false → placeGang s g (nextGang (s.gridAt g)) = some t →
      ∃ u, exec .gangPlacement s = .next u ∧ u.mem = t.mem ∧ u.warps = t.warps ∧ u.blocks = t.blocks ∧ u.choice = none ∧
        (g < t.grids.length → (u.gridAt g).next = (s.gridAt g).next + (nextGang (s.gridAt g)).length)) ∧
    (∀ g, chosenHead s = some g → s.choice ≠ some g → savedFirst s g = false → (s.gridAt g).fresh = [] →
      placeGang s g (nextGang (s.gridAt g)) = none → (s.gridAt g).next < (s.gridAt g).record.blocks →
      exec .gangPlacement s = .next { s with choice := some g }) ∧
    (∀ g ∈ readyHeads s, s.choice = some g →
      (∀ h ∈ readyHeads s, (s.gridAt h).record.prio ≤ (s.gridAt g).record.prio) → chosenHead s = some g) ∧
    (∀ b, (s.blockAt b).live = true → ((s.blockAt b).killed = true ∨ blockWarps s b = []) → blockCmds s b = [] →
      let g := (s.blockAt b).grid
      g < s.grids.length →
      ((s.blockAt b).relaunch = false → ∃ t, exec (.blockExit b) s = .next t ∧ t.blockAt b = Block.absent ∧
        (t.gridAt g).exited = (s.gridAt g).exited + 1 ∧ t.mem = s.mem ∧
        (∀ k ∈ (blockWarps s b).map (·.1), t.warpAt k = Warp.absent) ∧
        ∀ k, k ∉ (blockWarps s b).map (·.1) → t.warpAt k = s.warpAt k) ∧
      ((s.blockAt b).relaunch = true → ∃ t, exec (.blockRelaunch b) s = .next t ∧ t.blockAt b = Block.absent ∧
        (t.gridAt g).fresh = insertAsc (s.blockAt b).idx (s.gridAt g).fresh ∧ (t.gridAt g).exited = (s.gridAt g).exited)) ∧
    (∀ g, g < s.grids.length → (s.gridAt g).done = false → (s.gridAt g).record.blocks ≤ (s.gridAt g).exited →
      (∀ p ∈ s.pend, p.grid ≠ g) → handleKind (s.gridAt g).record.handle ≠ 1 →
      let gr := s.gridAt g
      let ctr := gr.record.ctr
      let clear := ∀ p ∈ s.pend, p.ctx ≠ gr.ctx ∨ p.ctr ≠ ctr
      (ctr = 0 → ∃ t, exec (.gridCompletion g) s = .next t ∧ (t.gridAt g).done = true ∧ t.mem = s.mem) ∧
      (ctr ≠ 0 → ¬ clear → exec (.gridCompletion g) s =
        .next { s with pend := s.pend ++ [⟨gr.ctx, gr.addr, ctr, none, g, false⟩] }) ∧
      (∀ u pa attr by_, ctr ≠ 0 → clear → resolve s (whoPart gr.ctx) .rw 8 ctr = (u, .ok (.mem pa [] attr by_)) →
        u.memOk → ∃ t, exec (.gridCompletion g) s = .next t ∧ (t.gridAt g).done = true ∧
          (let v := (readEntry u.mem pa).toNat
           (readEntry t.mem pa).toNat = v / 2 ^ 62 * 2 ^ 62 + (v + 1) % 2 ^ 62) ∧
          ∀ x, x < pa ∨ pa + 8 ≤ x → readPhys t.mem x = readPhys u.mem x))

/-- R35 to R47, R75, R79, R123, R136: the steps of the cox. A stroke is launched with its host's registers, its own
number and its context's identifier; its out-slots are then absent, and one of a crew without BREAKABLE, or of number
0, is committed. The oldest stroke retires once it has exited and is committed. A release makes every out-slot lane
present, and a stroke that waits on those lanes takes their values, keeping what it had. A commit performs the
stroke's held stores, after the dirty bits they set; it waits for room in the dirty logs, which is the model's reading
(log entry 17). -/
def Obligations.CoxSteps : Prop :=
  ∀ (s : State) (c : Nat), (s.crewAt c).live = true →
    let cr := s.crewAt c
    let host := s.warpAt cr.host
    (∀ slot, (s.blockAt host.block).stopped = false → cr.broke = none → cr.runs cr.next = true →
      cr.next < cr.oldest + cr.record.lead → 8 * cr.record.regs8 + hvRows (s.gridOf host.block).record ≤ freeRows s (c / 64) →
      1 ≤ freeWarps s (c / 64) → (cr.record.tmpl = true → cr.next < cr.tissued) →
      (cr.high ≤ cr.next ∨ specUsed s (c / 64) < 256) → freeSlot s (c / 64) = some slot →
      ∃ t, exec (.strokeLaunch c) s = .next t ∧ (t.crewAt c).next = cr.next + 1 ∧ t.mem = s.mem ∧
        (t.crewAt c).commit =
          (if cr.record.breakable = false ∨ cr.next = 0 then max cr.commit (cr.next + 1) else cr.commit) ∧
        (∀ i, i < cr.record.s → Tbl.get 0 (t.crewAt c).pres (slotOf cr.record cr.next i) = 0) ∧
        (let w := t.warpAt slot
         w.stroke = some (c, cr.next) ∧ w.stat = .running ∧ w.block = host.block ∧ w.pc = cr.record.body ∧
         w.iter = BitVec.ofNat 64 cr.next ∧ (∀ i : Fin 64, w.s[i] = if i.val = 0 then 0 else cr.seed.s[i]) ∧
         w.lcb = cr.seed.lcb ∧ w.ab = cr.seed.ab ∧ w.v = [] ∧ w.dispatch = [] ∧ w.exm = 0xFFFF_FFFF ∧
         w.ctxid = (s.ctxAt (s.gridOf host.block).ctx).ctxid) ∧
        ∀ k, k ≠ slot → t.warpAt k = s.warpAt k) ∧
    (cr.record.tmpl = true → (s.blockAt host.block).stopped = false → cr.broke = none → cr.runs cr.tissued = true →
      cr.tout.length < cr.record.f → queueRoom s (c / 64) 0 = true →
      ∃ t cmd, exec (.templateCopyIssue c) s = .next t ∧ (t.crewAt c).tissued = cr.tissued + 1 ∧
        (t.coreAt (c / 64)).copyQ = (s.coreAt (c / 64)).copyQ ++ [cmd] ∧
        cmd.a = cr.record.tbase + BitVec.ofNat 64 cr.tissued * cr.record.tstep ∧ cmd.ctr = cr.record.tctr ∧
        cmd.op = .tmpl cmd.a (cr.record.tflags.getLsbD 3) cr.record.shape (cr.tissued % cr.record.f)
          (cr.record.tflags.getLsbD 8) (cr.record.tflags.toNat / 16 % 16)) ∧
    (∀ x, cr.strokes.find? (·.k == cr.oldest) = some x → x.exited = true →
      (cr.record.breakable = false ∨ x.k < cr.commit) →
      ∃ t, exec (.strokeRetire c) s = .next t ∧ t.warpAt x.warp = Warp.absent ∧ (t.crewAt c).oldest = x.k + 1 ∧
        (∀ y ∈ (t.crewAt c).strokes, y.k ≠ x.k) ∧ x.k < (t.crewAt c).relMark) ∧
    (∀ x ∈ cr.strokes, x.k = cr.relMark → x.relReq = true → cr.broke = none →
      ∃ t, exec (.outSlotRelease c) s = .next t ∧ (t.crewAt c).relMark = cr.relMark + 1 ∧ t.mem = s.mem ∧
        (∀ k, ∃ rs, t.warpAt k = { s.warpAt k with reads := rs }) ∧
        ∀ i, i < cr.record.s → let slot := slotOf cr.record cr.relMark i
          Tbl.get 0 (t.crewAt c).pres slot = 0xFFFF_FFFF ∧
          ∀ y ∈ cr.strokes, ∀ r, (s.warpAt y.warp).reads = [r] → r.slot = slot →
            ∃ r', (t.warpAt y.warp).reads = [r'] ∧ r'.slot = slot ∧ r'.got = r.got ||| r.need ∧
              ∀ l : LaneIx, lane r'.vals l = if inMask r.got l = false ∧ inMask r.need l = true then
                lane (Tbl.get zeroLanes (t.crewAt c).slots slot) l else lane r.vals l) ∧
    (∀ m, cr.commit = m → 1 ≤ m → cr.record.breakable = true →
      ((m ≤ cr.oldest ∧ cr.broke ≠ some (m - 1)) ∨ ∃ x ∈ cr.strokes, x.k + 1 = m ∧ x.going = true) →
      let mine := cr.held.filter fun h => h.stroke == m
      logShort s (mine.flatMap (·.dirty)) = none →
      let u := mine.foldl (fun u h => setPlaces u h.bytes) (setDirty s (mine.flatMap (·.dirty)))
      exec (.strokeCommit c) s = .next (u.setCrew c { u.crewAt c with
        commit := m + 1, held := (u.crewAt c).held.filter fun h => h.stroke != m }))

/-! What the state engines read and write (R97, R128, R270): the steps of the part's accesses a command is made of. -/

/-- R71, R140: an access of some bytes of memory by the state engine that carries out a command asks its domain's purse
for the bursts of 512 bytes that they take; other commands ask nothing (log entry 24). -/
def Sys2Proof.Machine.engineAsks (s : State) (core : Nat) (c : Cmd) (n : Nat) : State :=
  let purse := 8 * c.home.getD (domainOf core) + 2
  if c.op.seqs = [] then s else { s with asked := Tbl.put 0 s.asked purse (Tbl.get 0 s.asked purse + (n + 511) / 512) }

/-- R117, R128, R270: a command that starts for the first time has read the descriptor of its sequence, which is in use,
within its limits and clear of the other sequences: the machine `u`, the command with its copy, and the
descriptor. -/
def Sys2Proof.Machine.Sequence (s : State) (core : Nat) (c : Cmd) (seq : Nat) (u : State) (c' : Cmd) (d : SeqDesc) : Prop :=
  let ctx := (s.gridOf c.block).ctx
  let at_ := (s.ctxAt ctx).sdtb + BitVec.ofNat 64 (128 * seq)
  ∃ raw v, at_.toNat % 128 = 0 ∧ isWindow at_ = false ∧ c.copies = [] ∧
    readSpan (engineAsks s core c 128) (whoCmd s core c) at_ 128 = (v, .ok raw) ∧ d = SeqDesc.of at_ raw ∧ d.used = true ∧ d.ok = true ∧
    dirClash (v.ctxAt ctx).dir seq d.regions = false ∧ u = dirSet v ctx seq (some d.regions) ∧
    c' = { c with copies := [(at_, raw)] }

/-- A command's read of memory. -/
def Sys2Proof.Machine.Fetches (s : State) (core : Nat) (c : Cmd) (va : Word) (n : Nat) (bs : List Byte) (u : State) : Prop :=
  isWindow va = false ∧ readSpan (engineAsks s core c n) (whoCmd s core c) va n = (u, .ok bs)

/-- The words of memory that a command copies from, none of them in a line in error. -/
def Sys2Proof.Machine.Sources (s : State) (core : Nat) (c : Cmd) (va : Word) (n : Nat) (words : List Place) (u : State) : Prop :=
  isWindow va = false ∧ ∃ ps, span (engineAsks s core c n) (whoCmd s core c) .read va n = (u, .ok ps) ∧
    (∀ x ∈ ps, lineBad u x.1 x.2.1 = false) ∧ words = spanWords ps

/-- A command's writes of memory, all checked and their dirty bits set, before any is performed. -/
def Sys2Proof.Machine.Targets (s : State) (core : Nat) (c : Cmd) (ws : List (Word × List MoveSrc)) (u : State) (ms : List Move) : Prop :=
  ∃ v ps, probeWrites (whoCmd s core c)
      (ws.foldl (fun t x => engineAsks t core c (x.2.map (·.size)).sum) s) ws = (v, .ok ps) ∧
    (let dirty := ps.flatMap fun x => spanDirty x.1
     logShort v dirty = none ∧ u = setDirty v dirty) ∧ ms = ps.flatMap fun x => aimed x.1 0 x.2

/-- R94, R97, R106, R107, R117, R131, R140, R250, R254, R271: the engines. The head of a queue starts once the joins
before it are met and no other core's state engine is at work on its sequence; one that waits for a purse or a dirty
log stays in its place, and draws what slots the period has left; its page walks draw on the page-walker purse, and
the accesses of a command on sequences, its status and its counter among them, on the state-engine purse; a started
copy lands its next piece, drawing on the purse, but not in a cycle in which an EXPECT or an arrival has
reached its barrier (R134; that it lands in the next is the model's reading, log entry 74); a finished command ORs its
flags into its warp's FCSR, stores its status in the word after its counter, counts and leaves the queue, and only
then has its change of the region directory (R128), which fails it where it has come to overlap another's (the model's
reading, log entry 88). R256 to R259: MXB takes its page and fills it from the partition, drawing on the B-page purse
where that is another core's; MXA adds to its accumulator elements; MXRD stores its rows; MXZ zeroes its own rows and
no other. The model's readings: pieces land in ascending order (log entry 16), which activities draw and how (log
entries 24 and 85), a command acts with the rights of the mode it was issued in (log entry 30), an INT2 or UINT8 B
record is computed with (log entry 31), and a command whose counter lies in a line in uncorrectable error fails with
ENGINE (R82, log entry 44). -/
def Obligations.EngineSteps : Prop :=
  ∀ (s : State) (core : Nat) (q : BitVec 2) (c : Cmd), headCmd s core q.toNat = some c →
    let s0 := { s with asked := [] }
    let x := c.homed s0 core
    let dom := domainOf core
    let refused := Host.Outcome.refused (Refusal.notEnabled "ENGINE_COMMAND_START")
    (c.started = false → seqBusy s core c = true → exec (.engineCommandStart core q) s = refused) ∧
    (c.started = false → c.emul = false → c.pageVa = none → joinsOpen s core q.toNat c.seq = true →
      seqBusy s core c = false →
      let starts := fun (o : Host.Outcome State Fault Refusal) => exec (.engineCommandStart core q) s = o
      let draw := fun (i due : Nat) (c' : Nat → Cmd) =>
        let left := purseLeft s dom i
        purseTakes s dom i due = false →
          starts (if left = 0 then refused else .next (setHead (spendPurse s0 dom i left) core q.toNat (c' left)))
      let rec_ := (s.gridOf c.block).record
      let k := s.coreAt core
      let did := cmdStart s0 core x
      (c.op.seqs = [] → x = c) ∧
      (∀ u d v, did = .goes u d ∨ did = .page u d ∨ did = .partly u d → Paid s u c v →
        starts (.next (setHead v core q.toNat { d with drawn := [] }))) ∧
      (∀ u cause v, did = .fails u cause → Paid s u c v → starts (.next (failCmd v core q.toNat x cause))) ∧
      (did = .blocked x → starts refused) ∧ (∀ d, d ≠ x → did = .blocked d → starts (.next (setHead s0 core q.toNat d))) ∧
      (∀ u, did.state = some u → Owing s0 u core q.toNat c x (exec (.engineCommandStart core q) s) refused) ∧
      (∀ u home i n, did.state = some u → i < 8 → u.asked = [(8 * home + i, n)] →
        let drawn := Tbl.get 0 c.drawn (8 * home + i)
        let left := purseLeft s home i
        purseTakes s home i (n - drawn) = false →
          starts (if left = 0 then refused
            else .next (setHead (spendPurse s0 home i left) core q.toNat
              { x with drawn := Tbl.put 0 c.drawn (8 * home + i) (drawn + left) }))) ∧
      (∀ a page fmt b off, c.op = .mxb a page fmt → windowOf s core c.block a = some (b, off) →
        off + 8192 ≤ (s.blockAt b).size → poisoned s (.part b off) 8192 = false →
        s.fenced.contains (.bpage core page) = false → s.testing.contains (.bpage core page) = false →
        (let owner := (Tbl.get BPage.reset k.pages page).owner
         owner = none ∨ owner = some c.block) → fmtElem (slotFmt rec_ fmt) ≠ 0 →
        let loads := fun (u : State) => ∃ t, starts (.next t) ∧ t.mem = s.mem ∧ t.warps = s.warps ∧ t.domains = u.domains ∧
          (t.coreAt core).acc = k.acc ∧
          (∀ j, j ≠ page → Tbl.get BPage.reset (t.coreAt core).pages j = Tbl.get BPage.reset k.pages j) ∧
          (let pg := Tbl.get BPage.reset (t.coreAt core).pages page
           pg.owner = some c.block ∧ ∀ i, i < 512 →
            Tbl.get 0 pg.rows i = BitVec.ofNat 128 (leNat (Tbl.range 0 (s.blockAt b).scratch (off + 16 * i) 16)))
        (blockCore b = core → loads s) ∧
        (blockCore b ≠ core →
          let drawn := Tbl.get 0 c.drawn (8 * dom + 1)
          (purseTakes s dom 1 (16 - drawn) = true → loads (spendPurse s dom 1 (16 - drawn))) ∧
          draw 1 (16 - drawn) fun left => { c with drawn := Tbl.put 0 c.drawn (8 * dom + 1) (drawn + left) })) ∧
      (∀ a page bslot aslot rows acc b image, c.op = .mxa a page bslot aslot rows acc → page < 64 →
        let fa := slotFmt rec_ aslot
        let fb := slotFmt rec_ bslot
        let pg := Tbl.get BPage.reset k.pages page
        let nb := 512 / fmtBlock fb
        let cols := bColumns (fmtElem fb)
        let x : MxaArgs := ⟨fmtElem fa, fmtElem fb, fmtScale fa, fmtScale fb, fmtBlock fb, nb, image, rows, pg.rows⟩
        pg.owner = some c.block → EccSite.bpage core page ∉ s.poison →
        (fmtScale fa = 3 ∧ fmtScale fb = 3 ∨ fmtBlock fa = fmtBlock fb) →
        readWindowBytes s core c a (rows * (512 * elemBits (fmtElem fa) / 8) + rows * nb * scaleBytes (fmtScale fa)
          + cols * nb * scaleBytes (fmtScale fb)) = .ok (b, image) →
        (fmtStrict fa = true → x.aRsv = false ∧ x.aElemRsv = false) →
        (fmtStrict fb = true → x.bRsv = false ∧ x.bElemRsv = false) →
        let ix := fun (i n : Nat) => 512 * (acc + i) + (64 * (page / 8) + n)
        ∃ t, starts (.next t) ∧ t.mem = s.mem ∧ t.warps = s.warps ∧ (t.coreAt core).pages = k.pages ∧
          (∀ i n, i < rows → n < cols → Tbl.get 0 (t.coreAt core).acc (ix i n) =
            (x.element i (x.aRow i) n (Tbl.get 0 k.acc (ix i n))).1) ∧
          ∀ j, (∀ i n, i < rows → n < cols → j ≠ ix i n) → Tbl.get 0 (t.coreAt core).acc j = Tbl.get 0 k.acc j) ∧
      (∀ a rows g acc u ps, c.op = .mxrd a rows g acc →
        runSpots s0 (whoCmd s core c) .write 4 (64 * rows) a = (u, .ok ps) →
        let ws := ps.zip ((List.range (64 * rows)).map fun i =>
          leBytes 4 (Tbl.get 0 k.acc (512 * (acc + i / 64) + (64 * g + i % 64))).toNat)
        logShort u (storeDirty ws) = none →
        ∀ v, Paid s (performStores u ws) c v →
          starts (.next (setHead v core q.toNat { c with started := true, drawn := [] }))) ∧
      ∀ rows acc, c.op = .mxz rows acc → ∃ t, starts (.next t) ∧ t.mem = s.mem ∧
        t.warps = s.warps ∧ (Tbl.wf 0 k.acc = true → ∀ i, Tbl.get 0 (t.coreAt core).acc i =
          if 512 * acc ≤ i ∧ i < 512 * (acc + rows) then 0 else Tbl.get 0 k.acc i)) ∧
    (∀ p, q = 0 → c.started = true → c.pageVa = none → c.copy = some p → p.landed < p.shape.count →
      landsLate s c p = false →
      let did := landPiece { s with asked := [(8 * dom, 1)] } core c p
      (∀ u d v, did = .goes u d → Paid s u c v →
        exec (.copyPieceLanding core) s = .next (setHead v core 0 { d with drawn := [] }) ∧
        ∃ p', d.copy = some p' ∧ p'.landed = p.landed + min (p.shape.count - p.landed) (512 / p.shape.esz)) ∧
      ∀ u, did.state = some u → Owing s0 u core 0 c c (exec (.copyPieceLanding core) s)
        (.refused (.notEnabled "COPY_PIECE_LANDING"))) ∧
    (∀ p i t, q = 0 → c.copy = some p → c.op.lowers = some i → t ∈ p.blocks → (∃ arrives, (t, i, arrives) ∈ s.reached) →
      exec (.copyPieceLanding core) s = .refused (.notEnabled "COPY_PIECE_LANDING")) ∧
    (c.started = true → c.pageVa = none → (∀ p, c.copy = some p → p.shape.count ≤ p.landed) → c.moves = [] →
      (∃ seq r, c.dirs = some (seq, some r) ∧ dirClash (s.ctxAt (s.gridOf c.block).ctx).dir seq r = true) →
      exec (.engineCommandCompletion core q) s = .next (failCmd (orFlags s0 c) core q.toNat c cENGINE)) ∧
    (c.started = true → c.pageVa = none → (∀ p, c.copy = some p → p.shape.count ≤ p.landed) → c.moves = [] →
      (∀ seq r, c.dirs = some (seq, some r) → dirClash (s.ctxAt (s.gridOf c.block).ctx).dir seq r = false) →
      let w := s.warpAt c.warp
      let ends := fun (o : Host.Outcome State Fault Refusal) => exec (.engineCommandCompletion core q) s = o
      (c.ctr = 0 → w.stat ≠ .absent →
        let u := match c.dirs with
          | some (seq, r) => dirSet s0 (s.gridOf c.block).ctx seq r
          | none => s0
        ends (.next (dropHead (u.setWarp c.warp { w with fcsr := w.fcsr ||| c.flags }) core q.toNat))) ∧
      (∀ u pa attr by_, c.ctr ≠ 0 → c.status = none →
        resolve (engineAsks s0 core c 8) (whoCmd s core c) .rw 8 c.ctr = (u, .ok (.mem pa [] attr by_)) →
        let p := Spot.mem pa [] attr by_
        billOpen s (owed u.asked c.drawn) = true →
        (poisoned u p 8 = false → cmdDeaf s core = false → ∃ t, ends (.next t) ∧
          t.mem = writeBytes u.mem pa (leBytes 8 (countUp (readEntry u.mem pa)).toNat) ∧
          (t.coreAt core).queue q.toNat = ((u.coreAt core).queue q.toNat).drop 1) ∧
        (poisoned u p 8 = true → ∀ v, Paid s u c v →
          ends (.next (failCmd (orFlags v c) core q.toNat c cENGINE)))) ∧
      (∀ u v pb pa attr by_ st, c.ctr ≠ 0 → c.status = some st → s.memOk →
        pieces (engineAsks s0 core c 8) (whoCmd s core c) .write (c.ctr + 8) 8 = (u, .ok [(pb, 8, [])]) →
        let x := moveAll u [⟨.phys pb, .bytes (leBytes 8 st.toNat)⟩]
        resolve (engineAsks x core c 8) (whoCmd s core c) .rw 8 c.ctr = (v, .ok (.mem pa [] attr by_)) → pa + 8 ≤ pb ∨ pb + 8 ≤ pa →
        poisoned v (.mem pa [] attr by_) 8 = false → cmdDeaf s core = false →
        billOpen s (owed v.asked c.drawn) = true →
        ∃ t, ends (.next t) ∧ readBytes t.mem pb 8 = leBytes 8 st.toNat ∧
          readEntry t.mem pa = countUp (readEntry s.mem pa) ∧
          (∀ b, (b < pa ∨ pa + 8 ≤ b) → (b < pb ∨ pb + 8 ≤ b) → readPhys t.mem b = readPhys s.mem b) ∧
          (t.coreAt core).queue q.toNat = ((v.coreAt core).queue q.toNat).drop 1) ∧
      ∀ u cause v, cmdCount s0 core c = .fails u cause → Paid s u c v →
        ends (.next (failCmd (orFlags v c) core q.toNat c cause)))

/-- R71, R97, R128, R140, R270 to R277, R285, R286: the commands of the state store at their start, once the
descriptor of their sequence is read. Each of their accesses to memory, the descriptors, the slot table and the fork
block among them, draws on the state-engine purse of the domain that homes the live region, whatever status the
command ends with: SSLD and SSST move bytes between the live region and another place; SSNAP copies the region to the
first slot that is not pinned, status 2 where all are; SSROLL brings back the newest slot at or below a position,
status 1 where there is none; SSFORK makes another sequence of such a slot, status 3 where the other is in use; SSDROP
ends the sequence. SSFORK and SSDROP change the region directory when they complete. Each 32-bit word and each field
is written at the start, at a later moment or at the completion, which a free value decides (log entry 76). The walks
of its accesses draw on the page-walker purse of that same domain (R71), one slot a walk (log entry 85). That the
descriptor's fields are written like the words, that each access takes its own bursts and that a live region in no
stack is homed at the issuing core's domain (log entry 24) and that a command acts with the rights of the mode it was
issued in (log entry 30) are the model's. -/
def Obligations.StateStoreCommands : Prop :=
  (∀ (ms : List Move) (s : State), ∃ now, let r := moveSome ms s
    r.2.Sublist ms ∧ now.Sublist ms ∧ (now ++ r.2).Perm ms ∧ r.1 = moveAll { s with free := s.free + ms.length } now) ∧
  ∀ (s u : State) (core : Nat) (q : BitVec 2) (c : Cmd), headCmd s core q.toNat = some c →
    (c.started = true → c.moves ≠ [] →
      exec (.engineCommandStart core q) s =
        .next (setHead (moveSome c.moves s).1 core q.toNat { c with moves := (moveSome c.moves s).2 }) ∧
      (c.finished = true → exec (.engineCommandCompletion core q) s =
        exec (.engineCommandCompletion core q) (setHead (moveAll s c.moves) core q.toNat { c with moves := [] }))) ∧
    ∀ (c' : Cmd) (seq : Nat) (d : SeqDesc),
    let s0 := { s with asked := [] }
    let c0 := c.homed s0 core
    let home := c0.home.getD (domainOf core)
    c.started = false → c.emul = false → c.pageVa = none → joinsOpen s core q.toNat c.seq = true →
    seqBusy s core c = false → Sequence s0 core c0 seq u c' d →
    (∀ rest raw pa l v, c.op.seqs = seq :: rest →
      let who : Who := ⟨walkerHolder (domainOf core), (s.gridOf c.block).ctx, c.block, c.sup, none, cmdDeaf s core⟩
      readSpan s0 who d.at_ 128 = (v, .ok raw) → (translate s0 who .read (fieldWord raw 0)).2 = .ok (pa, l) →
      (∀ n, paRange pa = .stack n → c0.home = some n) ∧
      (paRange pa = .host ∨ paRange pa = .peer → c0.home = some (domainOf core))) ∧
    (c.op.seqs ≠ [] → whoCmd s core c0 =
      ⟨walkerHolder home, (s.gridOf c.block).ctx, c.block, c.sup, none, cmdDeaf s core⟩) ∧
    let leaves := fun (t : State) (x : Cmd) => ∀ v, Paid s t c v →
      exec (.engineCommandStart core q) s = .next (setHead v core q.toNat { x with drawn := [] })
    let moves := fun (x : Cmd) (t : State) (ms : List Move) =>
      let r := moveSome ms t
      leaves r.1 { x.ends 0 with moves := r.2 }
    let after := fun (x : Cmd) (status : Word) (t : State) => leaves t (x.ends status)
    let field := fun (off n v : Nat) => ((d.at_ + BitVec.ofNat 64 off, [.bytes (leBytes n v)]) : Word × List MoveSrc)
    let slot := fun (i : Nat) => d.ring + BitVec.ofNat 64 (i * d.size)
    let ctx := (s.gridOf c.block).ctx
    (∀ off other len ws v t ms, c.op = .ssld seq off other len → off + len ≤ d.size →
      Sources u core c' (d.live + BitVec.ofNat 64 off) len ws v → isWindow other = false →
      Targets v core c' [(other, ws.map .word)] t ms → moves c' t ms) ∧
    (∀ off other len ws v b o, c.op = .ssld seq off other len → off + len ≤ d.size →
      Sources u core c' (d.live + BitVec.ofNat 64 off) len ws v → windowOf v core c.block other = some (b, o) →
      o + len ≤ (v.blockAt b).size →
      moves c' v ((partWords b o len).zipWith (fun p x => ⟨p, .word x⟩) ws)) ∧
    (∀ off other len ws v t ms, c.op = .ssst seq off other len → off + len ≤ d.size → Sources u core c' other len ws v →
      Targets v core c' [(d.live + BitVec.ofNat 64 off, ws.map .word)] t ms → moves c' t ms) ∧
    (∀ off other len bs b o t ms, c.op = .ssst seq off other len → off + len ≤ d.size →
      windowOf u core c.block other = some (b, o) → partBytes u b o len = .ok bs →
      Targets u core c' [(d.live + BitVec.ofNat 64 off, (partWords b o len).map .word)] t ms → moves c' t ms) ∧
    (∀ p, c.op = .ssnap seq p →
      (snapSlot d d.depth d.head = none → after c' 2 u) ∧
      ∀ i ws v t ms, snapSlot d d.depth d.head = some i → Sources u core c' d.live d.size ws v →
        Targets v core c' [(slot i, ws.map .word),
          (d.slots + BitVec.ofNat 64 (16 * i), [.bytes (leBytes 8 p.toNat ++ leBytes 8 d.count.toNat)]),
          field 0x40 8 (d.count + 1).toNat, field 0x30 8 (d.valid ||| 1 <<< i).toNat,
          field 0x29 1 ((i + 1) % d.depth), field 0x10 8 p.toNat] t ms →
        moves c' t ms) ∧
    (∀ p tab v, c.op = .ssroll seq p → Fetches u core c' d.slots (16 * d.depth) tab v →
      (bestSlot d tab p.toNat = none → after c' 1 v) ∧
      ∀ i ws w t ms, bestSlot d tab p.toNat = some i → Sources v core c' (slot i) d.size ws w →
        Targets w core c' [(d.live, ws.map .word), field 0x10 8 (slotPos tab i),
          field 0x30 8 (dropAbove d tab (slotPos tab i)).toNat] t ms →
        moves c' t ms) ∧
    (c.op = .ssdrop seq → ∀ t ms, Targets u core c' [field 0x2A 1 0, field 0x30 8 0] t ms →
      moves { c' with dirs := some (seq, none) } t ms) ∧
    ∀ dst blk raw2 v, c.op = .ssfork seq dst blk →
      let at2 := (u.ctxAt ctx).sdtb + BitVec.ofNat 64 (128 * dst)
      at2.toNat % 128 = 0 → at2 ≠ d.at_ → Fetches u core c' at2 128 raw2 v →
      let other := SeqDesc.of at2 raw2
      let c2 := { c' with copies := c'.copies ++ [(at2, raw2)] }
      (other.used = true → after c2 3 v) ∧
      ∀ tab w fb x, other.used = false → reservedOk raw2 = true →
        Fetches (dirSet v ctx dst none) core c2 d.slots (16 * d.depth) tab w → Fetches w core c2 blk 64 fb x →
        (bestSlot d tab (fieldNat fb 0 8) = none → after c2 1 x) ∧
        ∀ i ws y t ms, bestSlot d tab (fieldNat fb 0 8) = some i →
          let live := fieldWord fb 0x08
          let ring := fieldWord fb 0x10
          let slots := fieldWord fb 0x18
          let depth := fieldNat fb 0x20 1
          let regions := regionsOf live d.size ring slots depth
          zeroBytes fb 0x21 31 = true → layoutOk live d.size ring slots depth other.pins = true →
          dirClash (x.ctxAt ctx).dir dst regions = false → Sources x core c2 (slot i) d.size ws y →
          let put := fun (off n v : Nat) => ((at2 + BitVec.ofNat 64 off, [.bytes (leBytes n v)]) : Word × List MoveSrc)
          Targets y core c2 [(live, ws.map .word), put 0x00 8 live.toNat, put 0x08 8 d.size, put 0x10 8 (slotPos tab i),
            put 0x18 8 ring.toNat, put 0x20 8 slots.toNat, put 0x28 1 depth, put 0x29 1 0,
            put 0x2A 1 (fieldNat raw2 0x2A 1 ||| 1), put 0x30 8 0, put 0x40 8 0, put 0x48 4 seq,
            put 0x50 8 (slotPos tab i)] t ms →
          moves { c2 with dirs := some (dst, some regions) } t ms

/-- R32, R70, R128, R130, R171, R174, R175, R283, R299: saving and restoring. A stalled gang is saved; a block makes
room for a lower one of its grid, one that starts again or a saved one; a saved gang of an admitted context comes back
where every frame of it agrees, and a block whose frame is another identifier's is counted as killed; a context
drains, is saved, is reset at its deadline or once no block of it is resident, is released only when every grid of it
has then completed, and is admitted again; a domain changes class once no block is resident or bound. What a restore
takes from State.saved (log entry 21), how stall time is counted (log entry 43) and the order between a saved block
and one that starts again (log entry 102) are the model's. -/
def Obligations.SaveSteps : Prop :=
  ∀ s : State,
    (∀ g gang t, gangOf s g gang ≠ [] →
      (∀ b ∈ gangOf s g gang, (s.blockAt b).lastMove + 2000 ≤ s.cycle ∧
        ∃ e ∈ blockWarps s b, e.2.stat = .running ∧ e.2.parked.isSome = true) →
      saveGang s true g gang = some t → exec (.stallSwapOut g gang) s = .next t) ∧
    (∀ g low place b t, admitted s (s.gridAt g).ctx = true → lowerBlock s g = some (low, true, place) →
      swapVictim s g low = some b → saveGang s false g (gangIx s b) = some t →
      exec (.waitingBlockSwap g) s = .next ((place t).getD t)) ∧
    (∀ g low place, lowerBlock s g = some (low, false, place) →
      exec (.waitingBlockSwap g) s = .refused (.notEnabled "WAITING_BLOCK_SWAP")) ∧
    (∀ g i rest, (s.gridAt g).fresh = i :: rest → (s.gridAt g).done = false → predReady s g = true →
      poolClusters s (s.gridAt g).record.cls ≠ [] →
      (∀ x ∈ s.saved, x.block.grid = g → x.eligible = true → i ≤ x.block.idx) →
      let full := decide (clusterOrder s (s.gridAt g).ctx (s.gridAt g).record ≠ []) && (placeGang s g [i]).isNone
      ∃ place, lowerBlock s g = some (i, full, place) ∧
        ∀ t u, placeGang t g [i] = some u → place t = some (u.setGrid g { u.gridAt g with fresh := rest })) ∧
    (∀ g x, x ∈ s.saved → x.block.grid = g → x.eligible = true → x.block.idx < (s.gridAt g).lowest →
      lowerFirst s x = false → (∀ y ∈ savedGang s x, y.eligible = true ∧ headerAgrees s y = some true) →
      ∃ y full place, lowerBlock s g = some (y, full, place) ∧ y ≤ x.block.idx) ∧
    (∀ g i full place, savedFirst s g = true → lowerBlock s g = some (i, full, place) →
      ∃ x ∈ s.saved, x.block.grid = g ∧ x.block.idx = i ∧ lowerFirst s x = false) ∧
    (∀ ctx frame x, savedAt s ctx frame = some x → admitted s ctx = true → lowerFirst s x = false →
      (∀ y ∈ savedGang s x, y.eligible = true) →
      (∀ t, (∀ y ∈ savedGang s x, headerAgrees s y = some true) → restoreGang s x = some t →
        exec (.blockRestore ctx frame) s = .next t) ∧
      (∀ before y after t, savedGang s x = before ++ y :: after → (∀ z ∈ before, headerAgrees s z ≠ some false) →
        headerAgrees s y = some false → killSaved s y = some t → exec (.blockRestore ctx frame) s = .next t)) ∧
    (∀ ctx, let c := s.ctxAt ctx
      let at_ := fun (st : PreStage) => s.setCtx ctx { c with stage := st }
      (c.stage = .admitted → exec (.preemptionRequest ctx) s = .next (at_ (.drain s.cycle))) ∧
      (c.stage ≠ .admitted → exec (.contextReadmission ctx) s = .next (at_ .admitted)) ∧
      (∀ from_, c.stage = .drain from_ → from_ + c.grace ≤ s.cycle →
        ∃ t, exec (.preemptionSave ctx) s = .next t ∧ (t.ctxAt ctx).stage = .saved from_) ∧
      (∀ from_, (c.stage = .drain from_ ∨ c.stage = .saved from_) →
        (from_ + c.deadline ≤ s.cycle ∨ ctxBlocks s ctx = []) →
        ∃ t, exec (.contextReset ctx) s = .next t ∧ (t.ctxAt ctx).stage = .reset ∧ (∀ x ∈ t.saved, x.ctx ≠ ctx) ∧
          ∀ g, g < s.grids.length → (s.gridAt g).ctx = ctx → (s.gridAt g).done = false →
            (t.gridAt g).exited = (s.gridAt g).record.blocks) ∧
      (c.stage = .reset → (∃ g ∈ s.grids, g.ctx = ctx ∧ g.done = false) →
        exec (.contextRelease ctx) s = .refused (.notEnabled "CONTEXT_RELEASE")) ∧
      ((c.stage ≠ .reset ∨ ∀ g ∈ s.grids, g.ctx = ctx → g.done = true) →
        ∃ t, exec (.contextRelease ctx) s = .next t ∧ (t.ctxAt ctx).dir = [] ∧ t.mem = s.mem ∧
          ∀ u, (s.clusterAt u).owner = some ctx → (t.clusterAt u).owner = none ∧ (t.clusterAt u).vault = [])) ∧
    (∀ (d : Nat) (cls : BitVec 2),
      let x := s.domainAt d
      (x.pend = none → x.cls = cls → exec (.classChange d cls) s = .next s) ∧
      (x.pend ≠ none ∨ x.cls ≠ cls → ∃ t, exec (.classChange d cls) s = .next t ∧ (t.domainAt d).pend = some cls ∧
        (t.domainAt d).cls = x.cls) ∧
      (x.pend = some cls → (∀ e ∈ s.blocks, e.2.live = true → domainOf (blockCore e.1) ≠ d) → bound s d = false →
        exec (.classChangeEffect d) s = .next (s.setDomain d { x with cls := cls, pend := none })))

/-- R116: the first of the warps parked for a function's ring resumes, and nothing of another warp has changed. -/
def Sys2Proof.Machine.resumes (s t : State) (vf k : Nat) (rest : List Nat) : Prop :=
  (t.fnAt vf).parked = rest ∧ (t.fnAt vf).drains = true ∧ (t.fnAt vf).waking = some (k, (s.warpAt k).iret) ∧
  (∀ n r, (s.warpAt k).parked = some (.dirtyLog n, r) → (t.warpAt k).parked = none ∧ (t.warpAt k).sup = false) ∧
  ∀ j, j ≠ k → t.warpAt j = s.warpAt j

/-- R6, R80, R113, R116, R297, R298: writes of the registers by offset of BAR0, a virtual function's own queues
packed, and what they set off, an offset within a register being none that is listed; a supervisor's store to part of
a register clears only the bits it writes 1 to; and the write-back scan in its two steps, on a leaf of either stage,
the page kept from being written between them. QRESET discards the entries of the queue it names, and of no other.
R81, R116: a DLCONS that leaves less in the ring resumes the writer that parked first, and no saved one need park
again; the end of a cycle resumes the next once the word of the last has issued, while the ring has room. A DLCONS
that leaves as much as the ring holds sets FULL and sends MSI-X, whether or not FULL is set. That the next writer
waits for the last one's word (log entry 45), what a store to part of a register leaves of its other bytes (log entry
60) and when a scan ends (log entry 47) are the model's reading. -/
def Obligations.RegisterSteps : Prop :=
  ∀ (s : State) (value : Word),
    (∃ t, exec (.qreset value) s = .next t ∧ t.mem = s.mem ∧ t.warps = s.warps ∧
      let x := value.toNat % 65536
      let named := fun (e : Nat × Ctx) => e.2.live = true ∧ e.2.ctxid = value.extractLsb' 16 16
      (∀ e ∈ s.ctxs, named e → tqGet t e.1 x = []) ∧
      ∀ c z, (z ≠ x ∨ ∀ e ∈ s.ctxs, e.1 = c → ¬ named e) → tqGet t c z = tqGet s c z) ∧
    (∀ vf, let f := s.fnAt vf
      let v : BitVec 32 := value.setWidth 32
      ((v = f.cons ∨ ∃ n, f.ringSize = some n ∧ n < (f.prod - v).toNat) → exec (.dlconsWrite vf value) s = .next s) ∧
      (v ≠ f.cons → (∀ n, f.ringSize = some n → (f.prod - v).toNat ≤ n) →
        ∃ t, exec (.dlconsWrite vf value) s = .next t ∧ (t.fnAt vf).cons = v ∧
          (f.prod - v < f.prod - f.cons →
            (∀ k rest, f.drains = false → f.parked = k :: rest → resumes s t vf k rest) ∧
            (f.drains = true → (t.fnAt vf).parked = f.parked ∧ t.warps = s.warps) ∧
            ∀ x ∈ t.saved, ∀ e ∈ x.warps, ∀ r, e.2.parked ≠ some (.dirtyLog vf, r)) ∧
          (f.prod - f.cons < f.prod - v → (t.fnAt vf).parked = f.parked ∧ t.warps = s.warps ∧
            ∀ n, ({ f with cons := v } : Fn).ring = some (n, n) →
              (t.fnAt vf).full = true ∧ t.boot.out = s.boot.out ++ [.msix vf])) ∧
      (f.drains = false ∨ f.awaits s = true → drainLog s vf = s) ∧
      (f.drains = true → f.awaits s = false →
        (f.isFull = true → drainLog s vf = s.setFn vf { f with waking := none, drains := false }) ∧
        ∀ k rest, f.isFull = false → f.parked = k :: rest → resumes s (drainLog s vf) vf k rest)) ∧
    (∀ (n : Fin 16) (fn base : Nat), (fn = 0 ∧ base = 0x100000 + 64 * n.val) ∨ (1 ≤ fn ∧ fn ≤ 64 ∧ ∃ i, base = 64 * i ∧
        ((List.finRange 16).filter fun m => s.lqs[m].own.toNat == fn)[i]? = some n) →
      let at_ := fun (r : Nat) => BitVec.ofNat 52 (base + r)
      let q := s.lqs[n]
      let put := fun (q' : LaunchQ) => Host.Outcome.next { s with lqs := s.lqs.set n.val q' }
      exec (.registerWrite fn (at_ 0x08) value) s = put { q with size := value.setWidth 16 } ∧
      exec (.registerWrite fn (at_ 0x20) value) s =
        put { q with en := value.getLsbD 0, err := q.err && !value.getLsbD 1 } ∧
      exec (.registerWrite fn (at_ 0x18) value) s = put q) ∧
    (∀ vf, 1 ≤ vf → vf ≤ 64 → exec (.registerWrite 0 (BitVec.ofNat 52 (0x400000 + 64 * vf + 0x08)) value) s =
      .next (s.setFn vf { s.fnAt vf with quota := value.setWidth 40 }) ∧
      ∀ fn, fn ≠ 0 → exec (.registerWrite fn (BitVec.ofNat 52 (0x400000 + 64 * vf + 0x08)) value) s = .next s) ∧
    (exec (.registerWrite 0 0x300008 value) s = .next { s with sagcnt := s.sagcnt &&& ~~~(value.setWidth 32) }) ∧
    (∀ (off : BitVec 52) (x : Byte) attr, off = 0x300000 ∨ off = 0x300008 ∨ off.toNat % 8 ≠ 0 →
      performStores s [(.io off.toNat [] attr, [x])] =
        { s with inbox := s.inbox ++ [.event (.registerWrite 0 off (BitVec.ofNat 64 x.toNat))] }) ∧
    (∀ (fn : Nat) (off : BitVec 52), off.toNat % 8 ≠ 0 → exec (.registerWrite fn off value) s = .next s ∧
      barValue s fn off.toNat = 0 ∧ ∀ n, n ≤ 8 → ioBytes s off.toNat n = List.replicate n 0) ∧
    (∀ ctx pte level shift, leafOf s ctx value.toNat = .ok (pte, level, shift) → s.scans = [] →
      let e := readEntry s.mem pte
      e.getLsbD 6 = true → e.getLsbD 7 = true → s.memOk →
      ∃ t, exec (.writeBackScan ctx value) s = .next t ∧ readEntry t.mem pte = e &&& ~~~(0x48 : BitVec 64) ∧
        (∀ x, x < pte ∨ pte + 8 ≤ x → readPhys t.mem x = readPhys s.mem x) ∧ t.warps = s.warps ∧
        t.scans = [⟨ctx, value.toNat, 0, value.toNat / 2 ^ shift * 2 ^ shift, shift, pteAddr e, e.getLsbD 3, 0⟩]) ∧
    (∀ ctx gpa pte level shift, s.scans = [] →
      (∀ p l k, leafOf s ctx value.toNat = .ok (p, l, k) →
        ((readEntry s.mem p).getLsbD 6 && (readEntry s.mem p).getLsbD 7) = false) →
      let vf := (s.ctxAt ctx).vf
      guestOf s ctx value.toNat = some gpa → leafEntry s.mem .ok gpa walkLevels (guestBase s vf) = .ok (pte, level, shift) →
      let e := readEntry s.mem pte
      vf ≠ 0 → e.getLsbD 6 = true → e.getLsbD 7 = true → s.memOk →
      ∃ t, exec (.writeBackScan ctx value) s = .next t ∧ readEntry t.mem pte = e &&& ~~~(0x48 : BitVec 64) ∧
        (∀ x, x < pte ∨ pte + 8 ≤ x → readPhys t.mem x = readPhys s.mem x) ∧ t.warps = s.warps ∧
        t.scans = [⟨ctx, value.toNat, vf, gpa / 2 ^ shift * 2 ^ shift, shift, pteAddr e, e.getLsbD 3, 0⟩]) ∧
    (∀ (x : Scan) (va : Word) p rest n c q, s.scans = [x] → x.vf = 0 → x.va = va.toNat → s.pend = [] →
      x.pieces s = p :: rest → paRange p.2 = .stack n → nvmeQueue s.fabric = some (c, q) →
      let held := heldThrough s fun y => y.maps (s.ctxAt x.ctx).ctxid x.page
      purseTakes s n fabricPurse (32 * (x.pieces s).length - x.drawn) = true → s.memOk →
      (held = true → exec (.writeBackScan x.ctx va) s = .refused (.notEnabled "WRITE_BACK_SCAN")) ∧
      (held = false → ∃ t, exec (.writeBackScan x.ctx va) s = .next t ∧ t.scans = [] ∧
        (x.wr = false → t.mem = s.mem) ∧
        (∀ pte level shift, x.wr = true → x.bits = 14 → leafOf s x.ctx x.page = .ok (pte, level, shift) →
          let e := readEntry s.mem pte
          pteAddr e + x.page % 2 ^ shift = x.base → readEntry t.mem pte = e ||| 0x8 ∧
            ∀ y, y < pte ∨ pte + 8 ≤ y → readPhys t.mem y = readPhys s.mem y) ∧
        ∀ y ∈ x.pieces s, ∃ img, (x.ctx, y.1, img) ∈ t.storage ∧
          ∀ i, i < 16384 → Tbl.get 0 img i = readPhys s.mem (y.2 + i)))

/-- R138 to R140, R300: clocks, boost, purses, supply and temperature. R82, R141, R301 to R306: storage errors and
self-tests, spare cores and spare rows, boot, management, attestation, peers. A copy of a peer package takes place once
it has drawn its slots of the fabric purse, those of later periods among them. In what order copies wait (log entry 24),
how errors are counted by row and the
numbers of units (log entry 25), how many spare rows a stack has (log entry 86), from which period a purse register
counts (log entry 91), the coding of replies (log entry 26), the SPDM values (log entry 10) and power-on from recovery
(log entry 46) are the model's. -/
def Obligations.PlatformSteps : Prop :=
  (∀ s : State,
    (s.ctlDue ≤ s.cycle → s.ctlDue ≠ 0 → ∃ t, exec .controlInterval s = .next t ∧ t.ctlDue = s.ctlDue + 14000 ∧ t.mem = s.mem ∧
      ∀ u, u < 48 →
        let x := s.clusterAt u
        let y := t.clusterAt u
        let nom := [56, 52, 48, 40].getD (s.domainAt (u / 4)).cls.toNat 0
        let cap := [68, 68, 68, 68, 60, 52, 44, 32].getD x.tband.toNat 0
        let excess := x.freq.toNat - x.nom
        let b := if excess = 0 then min (x.boost.toNat + x.refill) x.limit else x.boost.toNat - (10 * excess + 11) / 12
        y.boost = BitVec.ofNat 32 b ∧
        y.freq = BitVec.ofNat 16 (min cap (min x.cap (nom + if BitVec.ofNat 32 b = 0#32 then 0 else 12)))) ∧
    (s.purseDue ≤ s.cycle → ∃ t, exec .pursePeriod s = .next t ∧ t.purseDue = s.purseDue + 1400 ∧
      (∀ d, d < 12 → (t.domainAt d).active = (s.domainAt d).purse) ∧
      (s.dma = [] → t.mem = s.mem ∧ t.dma = [] ∧ ∀ d, d < 12 → (t.domainAt d).spent = Vector.replicate 6 0) ∧
      ∀ x, s.dma = [x] → x.pa < 0xC0_0000_0000 →
        let budget := (s.domainAt (x.pa / 2 ^ 36)).purse[5].toNat
        let due := bursts x.len - x.drawn
        (due = 0 ∨ budget = 0xFFFF ∨ due ≤ max 1 budget → t.mem = writeBytes s.mem x.pa x.bytes ∧ t.dma = []) ∧
        (due ≠ 0 → budget ≠ 0xFFFF → max 1 budget < due →
          t.mem = s.mem ∧ t.dma = [{ x with drawn := x.drawn + max 1 budget }])) ∧
    ∀ (u : Nat) (band : BitVec 3), let x := s.clusterAt u
      (exec (.thermalBandChange u band) s = .next (s.setCluster u { x with tband := band })) ∧
      (x.sag = true → exec (.railRecovers u) s = .next (s.setCluster u { x with sag := false })) ∧
      (x.sag = false → u < 48 → exec (.supplySag u) s = .next { s.setCluster u { x with sag := true } with
        sagcnt := if s.sagcnt = 0xFFFF_FFFF then s.sagcnt else s.sagcnt + 1 })) ∧
  (∀ s : State,
    (∀ pa, pa < 0xC0_0000_0000 → exec (.eccError (.line pa) true) s =
      let u := MemUnit.stackRow (pa / 2 ^ 36) (pa % 2 ^ 36 / 128)
      let x := errAt s u
      .next { setErr s u { x with corr := if x.corr = 0xFFFF then x.corr else x.corr + 1 } with testing := s.testing ++ [u] }) ∧
    (∀ pa, pa < 0xC0_0000_0000 → ∃ t, exec (.eccError (.line pa) false) s = .next t ∧ EccSite.line pa ∈ t.poison ∧
      t.mem = s.mem) ∧
    (∀ core, core < 384 → ∃ t, exec (.eccError (.tlb core) true) s = .next t ∧ (t.coreAt core).tlb = [] ∧
      t.poison = s.poison) ∧
    (∀ u, u ∈ s.testing → (∀ x ∈ s.toSave, x.1 ≠ u) →
      let x := errAt s u
      let tests := if x.tests = 0xFF then x.tests else x.tests + 1
      let t := { s with testing := s.testing.erase u }
      (exec (.selfTestCompletion u true) s = .next (setErr t u { x with tests := tests })) ∧
      (x.fails = 0 → exec (.selfTestCompletion u false) s = .next (setErr t u { x with tests := tests, fails := 1 })) ∧
      (∀ n row, u = .stackRow n row → x.fails = 1 → ∃ v, exec (.selfTestCompletion u false) s = .next v ∧
        v.repreq.req = true ∧ v.repreq.unit = 3 ∧ v.repreq.index = BitVec.ofNat 16 n ∧
        (s.repreq.req = true → v.repreq.multi = true) ∧
        let used := Tbl.get 0 s.rowSpares n
        (used < Config.spareRows → v.fenced = s.fenced ∧ Tbl.get 0 v.rowSpares n = used + 1 ∧ errAt v u = ⟨0, 0, 0, 0⟩) ∧
        (Config.spareRows ≤ used → u ∈ v.fenced ∧ v.rowSpares = s.rowSpares)) ∧
      (∀ core bank, u = .scratchBank core bank → x.fails = 1 → core ∉ s.removed →
        (∀ e ∈ s.blocks, e.2.live = true → blockCore e.1 ≠ core) →
        let used := Tbl.get 0 s.spares (core / 64)
        ∃ v, exec (.selfTestCompletion u false) s = .next v ∧ v.repreq.req = true ∧ v.repreq.unit = 1 ∧
          v.repreq.index = BitVec.ofNat 16 core ∧
          (used < 4 → v.removed = s.removed ∧ Tbl.get 0 v.spares (core / 64) = used + 1 ∧ errAt v u = ⟨0, 0, 0, 0⟩) ∧
          (4 ≤ used → v.removed = s.removed ++ [core]))) ∧
    (let b := s.boot
     let ok := fun (x : Option FwImage) => ∃ i, x = some i ∧ i.signed = true ∧ b.fuse ≤ i.version ∧ i.wellFormed = true
     b.power = .off ∨ b.power = .recovery →
      (ok b.slotA → exec .powerOn s = .next { s with boot := { b with power := .running false, control := 8, link := true } }) ∧
      (¬ ok b.slotA → ok b.slotB →
        exec .powerOn s = .next { s with boot := { b with power := .running true, control := 8, link := true } }) ∧
      (¬ ok b.slotA → ¬ ok b.slotB → exec .powerOn s = .next { s with
        boot := { b with power := .recovery, control := 1, link := false, out := b.out ++ [.bootFailure] } })) ∧
    (s.boot.power ≠ .off →
      (∀ d c, exec (.redfishRequest (.writePoolClass d c)) s = .next (send s (.refusedWrite (.writePoolClass d c)))) ∧
      (∀ d, exec (.redfishRequest (.poolClass d)) s = .next (send s (.reply (.poolClass d) (s.domainAt d).cls.toNat))) ∧
      (∀ n, n < 8 + (384 - s.removed.length) →
        exec (.redfishRequest (.processor n)) s = .next (send s (.reply (.processor n) n))) ∧
      (s.fencing = [] → (∃ cert, exec .getCertificate s = .next (send s (.certificate cert))) ∧
        (∀ nonce, ∃ sig, exec (.challenge nonce) s = .next (send s (.challengeAuth nonce sig))) ∧
        (∃ ms sig, exec .getMeasurements s = .next (send s (.measurements ms sig)) ∧
          ∀ i, s.boot.image = some i → ms[1]? = some i.digest)) ∧
      (s.fencing ≠ [] →
        exec .getCertificate s = .next { s with asks := s.asks ++ [.getCertificate] } ∧
        (∀ nonce, exec (.challenge nonce) s = .next { s with asks := s.asks ++ [.challenge nonce] }) ∧
        exec .getMeasurements s = .next { s with asks := s.asks ++ [.getMeasurements] })) ∧
    (∀ pa bs, linked s.fabric = true → pa + bs.length ≤ 0xC0_0000_0000 →
      let put := { s with mem := writeBytes s.mem pa bs }
      let dom := pa / 2 ^ 36
      exec (.peerPackageAccess (.store pa bs)) s = .next put ∧
      exec (.peerPackageAccess (.load pa bs.length)) s = .next (send s (.peerData (readBytes s.mem pa bs.length))) ∧
      (s.dma = [] → purseTakes s dom fabricPurse (bursts bs.length) = true → exec (.peerPackageAccess (.copy pa bs)) s =
        .next (spendPurse put dom fabricPurse (bursts bs.length))) ∧
      (s.dma = [] → purseTakes s dom fabricPurse (bursts bs.length) = false →
        let left := purseLeft s dom fabricPurse
        exec (.peerPackageAccess (.copy pa bs)) s =
          .next { spendPurse s dom fabricPurse left with dma := [⟨pa, bs, bs.length, left⟩] })))
end

