-- ==== Sys2Proof/Laws/Fields.lean ====
section
/-!
SUPPORT. Sys2Proof/Laws/Fields.lean: the fields of the encoders read back: the positions of R176 and R183, operand
codes, prefixes, immediates; and, from them, that a word decodes to the instruction its fields give.
-/
namespace Sys2Proof.Laws
set_option linter.unusedSimpArgs false
/-- Two fields side by side, the first above. -/
def cat {w v : Nat} (x : BitVec w) (y : BitVec v) : BitVec (w + v) := x ++ y
@[simp] theorem fld_high {w v : Nat} (x : BitVec w) (y : BitVec v) (lo n : Nat) (h : v ≤ lo) :
    fld (cat x y) lo n = fld x (lo - v) n := by
  simp only [fld, cat]
  exact BitVec.extractLsb'_append_eq_of_le h
@[simp] theorem fld_low {w v : Nat} (x : BitVec w) (y : BitVec v) (lo n : Nat) (h : lo + n ≤ v) :
    fld (cat x y) lo n = fld y lo n := by
  simp only [fld, cat]
  exact BitVec.extractLsb'_append_eq_of_add_le h
@[simp] theorem fld_all {w : Nat} (x : BitVec w) : fld x 0 w = x := BitVec.extractLsb'_eq_self
@[simp] theorem fld_zero (w lo n : Nat) : fld (0#w) lo n = 0#n := by simp [fld]
theorem fld_fld {w : Nat} (x : BitVec w) (l n lo m : Nat) (h : lo + m ≤ n) :
    fld (fld x l n) lo m = fld x (l + lo) m := by
  apply BitVec.eq_of_getLsbD_eq
  intro i hi
  simp [fld, Nat.add_assoc, hi, show lo + i < n by omega]
theorem bit_fld {w : Nat} (x : BitVec w) (l n i : Nat) (h : i < n) : bit (fld x l n) i = bit x (l + i) := by
  simp [bit, fld, h]
@[simp] theorem bit_one : bit (1#1) 0 = true := rfl
@[simp] theorem bit_high {w v : Nat} (x : BitVec w) (y : BitVec v) (i : Nat) (h : v ≤ i) :
    bit (cat x y) i = bit x (i - v) := by
  simp only [bit, cat, BitVec.getLsbD_append, if_neg (Nat.not_lt.mpr h)]
@[simp] theorem bit_low {w v : Nat} (x : BitVec w) (y : BitVec v) (i : Nat) (h : i < v) :
    bit (cat x y) i = bit y i := by
  simp only [bit, cat, BitVec.getLsbD_append, if_pos h]
@[simp] theorem bit_zero (w i : Nat) : bit (0#w) i = false := by simp [bit]
@[simp] theorem bit_b1 (b : Bool) : bit (b1 b) 0 = b := by cases b <;> rfl
@[simp] theorem scope_code (s : Scope) : Scope.ofCode s.code = some s := by cases s <;> rfl
@[simp] theorem atom_code (o : AtomOp) : AtomOp.ofCode o.code = o := by cases o <;> rfl
@[simp] theorem fence_code (o : FenceKind) : FenceKind.ofCode o.code = o := by cases o <;> rfl
@[simp] theorem wait_code (o : WaitCond) : WaitCond.ofCode o.code = some o := by cases o <;> rfl

section
variable (op : BitVec 7) (d a b : SReg) (fn : BitVec 7) (i13 : BitVec 13) (i19 : BitVec 19)
@[simp] theorem encR_op : fld (encR op d a b fn) 25 7 = op :=
  (fld_high op (cat d (cat a (cat b fn))) 25 7 (by decide)).trans (fld_all op)
@[simp] theorem encR_d : fld (encR op d a b fn) 19 6 = d := by
  show fld (cat op (cat d (cat a (cat b fn))) : BitVec 32) 19 6 = d
  simp (disch := decide) only [fld_high, fld_low]
  exact fld_all d
@[simp] theorem encR_a : fld (encR op d a b fn) 13 6 = a := by
  show fld (cat op (cat d (cat a (cat b fn))) : BitVec 32) 13 6 = a
  simp (disch := decide) only [fld_high, fld_low]
  exact fld_all a
@[simp] theorem encR_b : fld (encR op d a b fn) 7 6 = b := by
  show fld (cat op (cat d (cat a (cat b fn))) : BitVec 32) 7 6 = b
  simp (disch := decide) only [fld_high, fld_low]
  exact fld_all b
@[simp] theorem encR_fn : fld (encR op d a b fn) 0 7 = fn := by
  show fld (cat op (cat d (cat a (cat b fn))) : BitVec 32) 0 7 = fn
  simp (disch := decide) only [fld_high, fld_low]
  exact fld_all fn
@[simp] theorem encI_op : fld (encI op d a i13) 25 7 = op :=
  (fld_high op (cat d (cat a i13)) 25 7 (by decide)).trans (fld_all op)
@[simp] theorem encI_d : fld (encI op d a i13) 19 6 = d := by
  show fld (cat op (cat d (cat a i13)) : BitVec 32) 19 6 = d
  simp (disch := decide) only [fld_high, fld_low]
  exact fld_all d
@[simp] theorem encI_a : fld (encI op d a i13) 13 6 = a := by
  show fld (cat op (cat d (cat a i13)) : BitVec 32) 13 6 = a
  simp (disch := decide) only [fld_high, fld_low]
  exact fld_all a
@[simp] theorem encI_i13 : fld (encI op d a i13) 0 13 = i13 := by
  show fld (cat op (cat d (cat a i13)) : BitVec 32) 0 13 = i13
  simp (disch := decide) only [fld_high, fld_low]
  exact fld_all i13
@[simp] theorem encU_op : fld (encU op d i19) 25 7 = op :=
  (fld_high op (cat d i19) 25 7 (by decide)).trans (fld_all op)
@[simp] theorem encU_d : fld (encU op d i19) 19 6 = d := by
  show fld (cat op (cat d i19) : BitVec 32) 19 6 = d
  simp (disch := decide) only [fld_high, fld_low]
  exact fld_all d
@[simp] theorem encU_i19 : fld (encU op d i19) 0 19 = i19 := by
  show fld (cat op (cat d i19) : BitVec 32) 0 19 = i19
  simp (disch := decide) only [fld_high, fld_low]
  exact fld_all i19
@[simp] theorem encR_low (lo n : Nat) (h : lo + n ≤ 7) : fld (encR op d a b fn) lo n = fld fn lo n := by
  have := fld_fld (encR op d a b fn) 0 7 lo n h
  rw [encR_fn, Nat.zero_add] at this
  exact this.symm
@[simp] theorem encR_bit (i : Nat) (h : i < 7) : bit (encR op d a b fn) i = bit fn i := by
  have := bit_fld (encR op d a b fn) 0 7 i h
  rw [encR_fn, Nat.zero_add] at this
  exact this.symm
@[simp] theorem encI_low (lo n : Nat) (h : lo + n ≤ 13) : fld (encI op d a i13) lo n = fld i13 lo n := by
  have := fld_fld (encI op d a i13) 0 13 lo n h
  rw [encI_i13, Nat.zero_add] at this
  exact this.symm
@[simp] theorem encI_bit (i : Nat) (h : i < 13) : bit (encI op d a i13) i = bit i13 i := by
  have := bit_fld (encI op d a i13) 0 13 i h
  rw [encI_i13, Nat.zero_add] at this
  exact this.symm
@[simp] theorem encU_low (lo n : Nat) (h : lo + n ≤ 19) : fld (encU op d i19) lo n = fld i19 lo n := by
  have := fld_fld (encU op d i19) 0 19 lo n h
  rw [encU_i19, Nat.zero_add] at this
  exact this.symm
@[simp] theorem encU_bit (i : Nat) (h : i < 19) : bit (encU op d i19) i = bit i19 i := by
  have := bit_fld (encU op d i19) 0 19 i h
  rw [encU_i19, Nat.zero_add] at this
  exact this.symm
@[simp] theorem encR_mid (lo n : Nat) (h : 7 ≤ lo ∧ lo + n ≤ 13) : fld (encR op d a b fn) lo n = fld b (lo - 7) n := by
  have := fld_fld (encR op d a b fn) 7 6 (lo - 7) n (by omega)
  rw [encR_b, show 7 + (lo - 7) = lo by omega] at this
  exact this.symm
@[simp] theorem encR_mbit (i : Nat) (h : 7 ≤ i ∧ i < 13) : bit (encR op d a b fn) i = bit b (i - 7) := by
  have := bit_fld (encR op d a b fn) 7 6 (i - 7) (by omega)
  rw [encR_b, show 7 + (i - 7) = i by omega] at this
  exact this.symm
/-- A field is zero when its two parts are. -/
theorem fld_split {w : Nat} (x : BitVec w) (lo m n : Nat) (h1 : fld x lo m = 0) (h2 : fld x (lo + m) n = 0) :
    fld x lo (m + n) = 0 := by
  apply BitVec.eq_of_getLsbD_eq
  intro i hi
  by_cases hm : i < m
  · have := congrArg (·.getLsbD i) h1
    simp [fld, hm] at this
    simp [fld, this]
  · have := congrArg (·.getLsbD (i - m)) h2
    simp [fld, show i - m < n by omega, show lo + m + (i - m) = lo + i by omega] at this
    simp [fld, this]
@[simp] theorem encR_7_12 : fld (encR op d 0#6 0#6 fn) 7 12 = 0 :=
  fld_split _ 7 6 6 (encR_b ..) (encR_a ..)
@[simp] theorem encR_7_18 : fld (encR op 0#6 0#6 0#6 fn) 7 18 = 0 :=
  fld_split _ 7 12 6 (encR_7_12 ..) (encR_d ..)
@[simp] theorem encR_6_7 (x : BitVec 6) : fld (encR op d a 0#6 (cat 0#1 x)) 6 7 = 0 :=
  fld_split _ 6 1 6 (by simp (disch := decide)) (encR_b ..)
@[simp] theorem encR_5_5 (x : BitVec 3) (y : BitVec 5) : fld (encR op d a (cat x 0#3) (cat 0#2 y)) 5 5 = 0 :=
  fld_split _ 5 2 3 (by simp (disch := decide)) (by simp (disch := decide))
@[simp] theorem encR_4_21 (x : BitVec 4) : fld (encR op 0#6 0#6 0#6 (cat 0#3 x)) 4 21 = 0 :=
  fld_split _ 4 3 18 (by simp (disch := decide)) (encR_7_18 ..)
@[simp] theorem encR_0_13 : fld (encR op d a 0#6 0#7) 0 13 = 0 :=
  fld_split _ 0 7 6 (encR_fn ..) (encR_b ..)
@[simp] theorem encU_8_17 (x : BitVec 7) : fld (encU op 0#6 (cat 0#11 (cat 1#1 x))) 8 17 = 0 :=
  fld_split _ 8 11 6 (by simp (disch := decide)) (encU_d ..)
@[simp] theorem encU_0_25 : fld (encU op 0#6 0#19) 0 25 = 0 :=
  fld_split _ 0 19 6 (encU_i19 ..) (encU_d ..)
@[simp] theorem encU_1_24 (x : BitVec 1) : fld (encU op 0#6 (cat 0#18 x)) 1 24 = 0 :=
  fld_split _ 1 18 6 (by simp (disch := decide)) (encU_d ..)
end

section
variable (c : LCtl) (f : LFields)
theorem packL_cat : packL c f = cat f.op (cat c.g (cat c.w (cat (b1 c.e) (cat c.ty (cat f.d (cat f.a
    (cat f.b (cat f.c f.x)))))))) := rfl
theorem lfields_packL : lfields (packL c f) = f := by
  obtain ⟨op, d, a, b, e, x⟩ := f
  simp only [lfields, packL_cat, LFields.mk.injEq]
  refine ⟨?_, ?_, ?_, ?_, ?_, ?_⟩ <;> simp (disch := decide) only [fld_high, fld_low]
  exacts [fld_all op, fld_all d, fld_all a, fld_all b, fld_all e, fld_all x]
theorem lctl_packL : lctl (packL c f) c.pfx = c := by
  obtain ⟨g, w, e, ty, p⟩ := c
  simp only [lctl, packL_cat, LCtl.mk.injEq, and_true]
  refine ⟨?_, ?_, ?_, ?_⟩ <;> simp (disch := decide) only [fld_high, fld_low, bit_high, bit_low]
  exacts [fld_all g, fld_all w, bit_b1 e, fld_all ty]
theorem lword_flds (w : BitVec 96) : lword (fld w 64 32) (fld w 32 32) (fld w 0 32) = w := by
  apply BitVec.eq_of_getLsbD_eq
  intro i hi
  simp only [lword, BitVec.getLsbD_append, fld, BitVec.getLsbD_extractLsb']
  by_cases h1 : i < 32
  · simp [h1, show i < 64 by omega]
  · by_cases h2 : i < 64
    · simp [h1, h2, show i - 32 < 32 by omega, show 32 + (i - 32) = i by omega]
    · simp [h2, show i - 64 < 32 by omega, show 64 + (i - 64) = i by omega]
theorem isPrefix_packL (h : fld f.op 4 6 ≠ 0x3f#6) : isPrefix (fld (packL c f) 64 32) = false := by
  have e : fld (fld (packL c f) 64 32) 26 6 = fld f.op 4 6 := by
    rw [fld_fld _ _ _ _ _ (by decide), packL_cat, fld_high _ _ _ _ (by decide)]
  simp only [isPrefix, e]
  simpa using h
end
@[simp] theorem opnd_code (o : Opnd) : Opnd.ofCode o.code = some o := by
  cases o with
  | v i =>
    have h1 : fld (Opnd.v i).code 11 2 = 0#2 := fld_high 0#2 i 11 2 (by decide)
    have h2 : fld (Opnd.v i).code 0 11 = i := (fld_low 0#2 i 0 11 (by decide)).trans (fld_all i)
    simp [Opnd.ofCode, h1, h2]
  | o i => revert i; decide
  | l i => revert i; decide
  | dq i => revert i; decide
  | xq => rfl
  | zero => rfl
theorem encPrefix_cat (p : Prefix) : encPrefix p =
    cat 0x3f#6 (cat p.mask (cat p.rnd (cat (b1 p.zero) (cat p.e.code 0#5)))) := rfl
theorem isPrefix_encPrefix (p : Prefix) : isPrefix (encPrefix p) = true := by
  rw [isPrefix, encPrefix_cat, fld_high _ _ _ _ (by decide)]
  rfl
theorem decodePrefix_encPrefix (p : Prefix) : decodePrefix (encPrefix p) = .ok p := by
  have h0 : fld (encPrefix p) 0 5 = 0#5 := by
    rw [encPrefix_cat]
    simp (disch := decide) only [fld_high, fld_low]
    exact fld_all _
  have h1 : fld (encPrefix p) 5 13 = p.e.code := by
    rw [encPrefix_cat]
    simp (disch := decide) only [fld_high, fld_low]
    exact fld_all _
  have h2 : fld (encPrefix p) 22 4 = p.mask := by
    rw [encPrefix_cat]
    simp (disch := decide) only [fld_high, fld_low]
    exact fld_all _
  have h3 : fld (encPrefix p) 19 3 = p.rnd := by
    rw [encPrefix_cat]
    simp (disch := decide) only [fld_high, fld_low]
    exact fld_all _
  have h4 : bit (encPrefix p) 18 = p.zero := by
    rw [encPrefix_cat]
    simp (disch := decide) only [bit_high, bit_low]
    exact bit_b1 _
  simp [decodePrefix, h0, h1, h2, h3, h4]
/-- A lane word whose fields give an instruction decodes to it, prefix and all. -/
theorem lane_round {c : LCtl} {f : LFields} {i : Instr} (h : rawL c f = .ok i)
    (hp : fld f.op 4 6 ≠ 0x3f#6) (hw : i.wf = true) : decodeUnits (encodeL c f) = .ok i := by
  have hd : decodeL c.pfx (packL c f) = .ok i := by
    simp [decodeL, lctl_packL, lfields_packL, h, hw]
  have h0 := isPrefix_packL c f hp
  cases hc : c.pfx with
  | none =>
    rw [hc] at hd
    simp [encodeL, hc, decodeUnits, decodeLaneUnits, h0, lword_flds, hd, Except.map]
  | some p =>
    rw [hc] at hd
    simp [encodeL, hc, decodeUnits, decodeLaneUnits, h0, lword_flds, hd, isPrefix_encPrefix,
      decodePrefix_encPrefix, Except.map]
theorem scalar_round {u : BitVec 32} {i : Instr} (h : rawS u = .ok i) (hw : i.wf = true) :
    decodeUnits [u] = .ok i := by
  simp [decodeUnits, decodeS, h, hw]
/-- Two fields that avoid a mask's bits avoid it together. -/
theorem cat_and_zero {w v : Nat} {x : BitVec w} {y : BitVec v} {m : BitVec (w + v)}
    (h1 : x &&& fld m v w = 0#w) (h2 : y &&& fld m 0 v = 0#v) : cat x y &&& m = 0#(w + v) := by
  have e : cat x y &&& m = cat (x &&& fld m v w) (y &&& fld m 0 v) := by
    apply BitVec.eq_of_getLsbD_eq
    intro i hi
    by_cases h : i < v
    · simp [cat, BitVec.getLsbD_append, h, fld]
    · simp [cat, BitVec.getLsbD_append, h, fld, show i - v < w by omega, show v + (i - v) = i by omega]
  rw [e, h1, h2]
  simp [cat]
/-- The immediate form's x: the mark at bit 21, and whatever of the entry's own bits lies above the immediate. -/
theorem imm_x (y : BitVec 5) (i : BitVec 16) :
    (0x200000#22 ||| (cat 0#6 i : BitVec 22)) ||| (cat 0#1 (cat y 0#16) : BitVec 22) = cat 1#1 (cat y i) := by
  apply BitVec.eq_of_getLsbD_eq
  intro j hj
  simp only [BitVec.getLsbD_or, cat, BitVec.getLsbD_append]
  by_cases h : j < 16
  · have : (0x200000#22).getLsbD j = false := by interval_cases j <;> rfl
    simp [h, this, show j < 21 by omega]
  · by_cases h2 : j < 21
    · have : (0x200000#22).getLsbD j = false := by interval_cases j <;> rfl
      simp [h, h2, this]
    · have : j = 21 := by omega
      subst this
      simp
theorem or_zero_x (y : BitVec 22) : (0#22 ||| y) = y := by simp
/-- Operand b or the immediate reads back, under an entry that assigns the bits `free` of x besides. -/
theorem useB_back (op : BitVec 10) (d a c : BitVec 13) (b : BSrc) (y : BitVec 5) (free : BitVec 22)
    (k : BSrc → Except DecodeError Instr)
    (hy : (cat 0#1 (cat y 0#16) : BitVec 22) &&& ~~~free = 0)
    (h1 : fld (~~~(0x20FFFF#22 ||| free)) 21 1 = 0#1)
    (h2 : y &&& fld (fld (~~~(0x20FFFF#22 ||| free)) 0 21) 16 5 = 0#5)
    (h3 : fld (fld (~~~(0x20FFFF#22 ||| free)) 0 21) 0 16 = 0#16) :
    useB ⟨op, d, a, b.fields.1, c, b.fields.2 ||| (cat 0#1 (cat y 0#16) : BitVec 22)⟩ free k = k b := by
  cases b with
  | op o =>
    have h1 : bit (cat 0#1 (cat y 0#16) : BitVec 22) 21 = false := by simp (disch := decide)
    simp [useB, BSrc.fields, or_zero_x, h1, hy, useOp]
  | imm i =>
    have e : (BSrc.imm i).fields.2 ||| (cat 0#1 (cat y 0#16) : BitVec 22) = cat 1#1 (cat y i) := imm_x y i
    have g1 : bit (cat 1#1 (cat y i) : BitVec 22) 21 = true := by simp (disch := decide)
    have g2 : fld (cat 1#1 (cat y i) : BitVec 22) 0 16 = i := by
      simp (disch := decide) only [fld_low]; exact fld_all i
    have g3 : (cat 1#1 (cat y i) : BitVec 22) &&& ~~~(0x20FFFF#22 ||| free) = 0#22 :=
      cat_and_zero (by rw [h1]; rfl) (cat_and_zero h2 (by rw [h3]; exact BitVec.and_zero))
    simp [useB, e, g1, g2, g3]
    simp [BSrc.fields]
@[simp] theorem useB_none (op : BitVec 10) (d a c : BitVec 13) (b : BSrc) (k : BSrc → Except DecodeError Instr) :
    useB ⟨op, d, a, b.fields.1, c, b.fields.2⟩ 0#22 k = k b := by
  have e : b.fields.2 ||| cat 0#1 (cat 0#5 0#16) = b.fields.2 := by
    rw [show (cat 0#1 (cat 0#5 0#16) : BitVec 22) = 0#22 from rfl]; simp
  have := useB_back op d a c b 0 0#22 k (by decide) (by decide) (by decide) (by decide)
  rwa [show (0 : BitVec 5) = 0#5 from rfl, e] at this
@[simp] theorem useB_shfl (op : BitVec 10) (d a c : BitVec 13) (b : BSrc) (m : BitVec 2)
    (k : BSrc → Except DecodeError Instr) :
    useB ⟨op, d, a, b.fields.1, c, b.fields.2 ||| (cat 0#1 (cat m 0#19) : BitVec 22)⟩ 0x180000#22 k = k b := by
  have e : (cat 0#1 (cat m 0#19) : BitVec 22) = cat 0#1 (cat (cat m 0#3) 0#16) := by revert m; decide
  rw [e]
  refine useB_back op d a c b (cat m 0#3) 0x180000#22 k ?_ (by decide) ?_ (by decide)
  · clear e; revert m; decide
  · clear e; revert m; decide
@[simp] theorem useB_hv (op : BitVec 10) (d a c : BitVec 13) (b : BSrc) (h : BitVec 3)
    (k : BSrc → Except DecodeError Instr) :
    useB ⟨op, d, a, b.fields.1, c, b.fields.2 ||| (cat 0#3 (cat h 0#16) : BitVec 22)⟩ 0x070000#22 k = k b := by
  have e : (cat 0#3 (cat h 0#16) : BitVec 22) = cat 0#1 (cat (cat 0#2 h) 0#16) := by revert h; decide
  rw [e]
  refine useB_back op d a c b (cat 0#2 h) 0x070000#22 k ?_ (by decide) ?_ (by decide)
  · clear e; revert h; decide
  · clear e; revert h; decide
theorem fields_or (b : BSrc) (y : BitVec 22) (lo n : Nat) (hl : 16 ≤ lo) (hh : lo + n ≤ 21) :
    fld (b.fields.2 ||| y) lo n = fld y lo n := by
  apply BitVec.eq_of_getLsbD_eq
  intro i hi
  cases b with
  | op o => simp [BSrc.fields]
  | imm j =>
    have h1 : (0x200000#22).getLsbD (lo + i) = false := by
      have : lo + i < 21 := by omega
      generalize lo + i = k at *
      interval_cases k <;> rfl
    show (fld ((0x200000#22 ||| (cat 0#6 j : BitVec 22)) ||| y) lo n).getLsbD i = (fld y lo n).getLsbD i
    have h2 : (cat 0#6 j).getLsbD (lo + i) = false := by
      simp only [cat, BitVec.getLsbD_append]
      simp [show ¬lo + i < 16 by omega]
    simp only [fld, BitVec.getLsbD_extractLsb', BitVec.getLsbD_or, h1]
    simp [h2]
@[simp] theorem fields_shfl (b : BSrc) (m : BitVec 2) :
    fld (b.fields.2 ||| (cat 0#1 (cat m 0#19) : BitVec 22)) 19 2 = m := by
  rw [fields_or _ _ _ _ (by decide) (by decide), fld_low _ _ _ _ (by decide), fld_high _ _ _ _ (by decide)]
  exact fld_all m
@[simp] theorem fields_hv (b : BSrc) (h : BitVec 3) :
    fld (b.fields.2 ||| (cat 0#3 (cat h 0#16) : BitVec 22)) 16 3 = h := by
  rw [fields_or _ _ _ _ (by decide) (by decide), fld_low _ _ _ _ (by decide), fld_high _ _ _ _ (by decide)]
  exact fld_all h
@[simp] theorem laddr_x (m : LAddr) (z : BitVec 2) (o : BitVec 9) : m.x z o =
    (cat 0#1 (cat m.base (cat m.scale (cat m.scope.code (cat m.order (cat z o))))) : BitVec 22) := rfl
@[simp] theorem laddr_xAtom (m : LAddr) (p : AtomOp) (o : BitVec 8) : m.xAtom p o =
    (cat 0#1 (cat m.base (cat m.scale (cat m.scope.code (cat m.order (cat p.code o))))) : BitVec 22) := rfl

end Sys2Proof.Laws
end

