-- ==== Sys2Proof/Laws/Table.lean ====
section
/-!
SUPPORT. Sys2Proof/Laws/Table.lean: reading a sparse table after a write, and the canonical form that `put` keeps.
-/
namespace Sys2Proof.Tbl

variable {α : Type}

@[simp] theorem get_nil (d : α) (k : Nat) : get d [] k = d := rfl

@[simp] theorem get_set_same (d : α) (t : Tbl α) (k : Nat) (x : α) : get d (set t k x) k = x := by
  induction t with
  | nil => simp [set, get]
  | cons e r ih =>
    obtain ⟨j, y⟩ := e
    simp only [set]
    split
    · simp [get, *]
    · split <;> simp [get]

@[simp] theorem get_set_other (d : α) (t : Tbl α) {j k : Nat} (x : α) (h : j ≠ k) :
    get d (set t k x) j = get d t j := by
  induction t with
  | nil =>
    simp only [set, get]
    split
    · rfl
    · rw [if_neg (Ne.symm h)]
  | cons e r ih =>
    obtain ⟨i, y⟩ := e
    simp only [set]
    split
    · simp [get, ih]
    · split
      · subst_vars
        simp only [get]
        split
        · rfl
        · simp [Ne.symm h]
      · simp only [get]
        split
        · rfl
        · have : ¬ i < j := by omega
          have : ¬ i = j := by omega
          simp [*, Ne.symm h]

@[simp] theorem set_set (t : Tbl α) (k : Nat) (x y : α) : set (set t k x) k y = set t k y := by
  induction t with
  | nil => simp [set]
  | cons e r ih =>
    obtain ⟨j, z⟩ := e
    simp only [set]
    split
    · rw [set, if_pos ‹_›, ih]
    · split <;> simp [set]

variable [DecidableEq α]

/-- `lo` bounds the first key. -/
def above (lo : Option Nat) (k : Nat) : Prop := ∀ l, lo = some l → l < k

theorem wfFrom_cons (d : α) (lo : Option Nat) (k : Nat) (x : α) (r : Tbl α) :
    wfFrom d lo ((k, x) :: r) = true ↔ above lo k ∧ x ≠ d ∧ wfFrom d (some k) r = true := by
  cases lo <;> simp [wfFrom, above, and_assoc]

theorem wfFrom_weaken (d : α) {lo lo' : Option Nat} {t : Tbl α} (h : ∀ k, above lo k → above lo' k)
    (ht : wfFrom d lo t = true) : wfFrom d lo' t = true := by
  cases t with
  | nil => rfl
  | cons e r =>
    rw [wfFrom_cons] at ht ⊢
    exact ⟨h _ ht.1, ht.2⟩

theorem dropWhile_of_wfFrom (d : α) {k : Nat} {r : Tbl α} (h : wfFrom d (some k) r = true) :
    r.dropWhile (fun e => decide (e.1 ≤ k)) = r := by
  cases r with
  | nil => rfl
  | cons e r =>
    obtain ⟨j, y⟩ := e
    have := ((wfFrom_cons ..).1 h).1 k rfl
    simp [List.dropWhile, Nat.not_le.2 this]

/-- A write keeps the canonical form. -/
theorem wfFrom_put (d : α) {lo : Option Nat} {t : Tbl α} {k : Nat} (x : α) (ht : wfFrom d lo t = true)
    (hk : above lo k) : wfFrom d lo (put d t k x) = true := by
  induction t generalizing lo with
  | nil =>
    simp only [put]
    split
    · rfl
    · exact (wfFrom_cons ..).2 ⟨hk, ‹_›, rfl⟩
  | cons e r ih =>
    obtain ⟨j, y⟩ := e
    have ⟨h1, h2, h3⟩ := (wfFrom_cons ..).1 ht
    simp only [put]
    split
    · exact (wfFrom_cons ..).2 ⟨h1, h2, ih h3 fun l e => by cases e; assumption⟩
    · split
      · rename_i hjk
        subst hjk
        split
        · rw [dropWhile_of_wfFrom d h3]
          exact wfFrom_weaken d (fun k hk l e => by have := hk j rfl; have := h1 l e; omega) h3
        · exact (wfFrom_cons ..).2 ⟨h1, ‹_›, h3⟩
      · split
        · exact ht
        · exact (wfFrom_cons ..).2 ⟨hk, ‹_›, (wfFrom_cons ..).2 ⟨fun l e => by cases e; omega, h2, h3⟩⟩

theorem wf_put (d : α) {t : Tbl α} (k : Nat) (x : α) (ht : wf d t = true) : wf d (put d t k x) = true :=
  wfFrom_put d x ht fun _ e => by cases e

theorem wf_putAll (d : α) (xs : List α) : ∀ {t : Tbl α} (k : Nat), wf d t = true → wf d (putAll d t k xs) = true := by
  induction xs with
  | nil => intro t k h; exact h
  | cons x xs ih => intro t k h; exact ih _ (wf_put d k x h)

omit [DecidableEq α] in
/-- Past the keys up to `k`, a table reads as before above `k` and as the default up to it. -/
theorem get_dropWhile (d : α) (r : Tbl α) (j k : Nat) :
    get d (r.dropWhile fun e => decide (e.1 ≤ k)) j = if k < j then get d r j else d := by
  induction r with
  | nil => split <;> rfl
  | cons e r ih =>
    obtain ⟨i, y⟩ := e
    by_cases h : i ≤ k
    · simp only [List.dropWhile, h, decide_true, ih, get]
      by_cases hj : k < j
      · rw [if_pos hj, if_pos hj, if_pos (by omega)]
      · rw [if_neg hj, if_neg hj]
    · simp only [List.dropWhile, h, decide_false, get]
      by_cases hj : k < j
      · rw [if_pos hj]
      · rw [if_neg hj, if_neg (by omega), if_neg (by omega)]

/-- Reading back what was written. -/
@[simp] theorem get_put_same (d : α) (t : Tbl α) (k : Nat) (x : α) : get d (put d t k x) k = x := by
  induction t with
  | nil =>
    simp only [put]
    split
    · simp [get, *]
    · simp [get]
  | cons e r ih =>
    obtain ⟨j, y⟩ := e
    simp only [put]
    split
    · simp [get, *]
    · split
      · split
        · rw [get_dropWhile, if_neg (Nat.lt_irrefl k)]
          exact Eq.symm ‹_›
        · simp [get]
      · split
        · simp [get, *]
        · simp [get]

/-- A write leaves every other key alone. -/
@[simp] theorem get_put_other (d : α) (t : Tbl α) {j k : Nat} (x : α) (h : j ≠ k) :
    get d (put d t k x) j = get d t j := by
  induction t with
  | nil =>
    simp only [put]
    split
    · rfl
    · simp only [get]
      split
      · rfl
      · rw [if_neg (Ne.symm h)]
  | cons e r ih =>
    obtain ⟨i, y⟩ := e
    simp only [put]
    split
    · simp [get, ih]
    · split
      · rename_i hik
        subst hik
        split
        · simp only [get_dropWhile, get, if_neg (Ne.symm h)]
        · simp only [get]
          split
          · rfl
          · rw [if_neg (Ne.symm h), if_neg (Ne.symm h)]
      · split
        · rfl
        · simp only [get]
          split
          · rfl
          · have : ¬ i < j := by omega
            have : ¬ i = j := by omega
            simp [*, Ne.symm h]

theorem get_putAll_outside (d : α) (xs : List α) : ∀ (t : Tbl α) (j k : Nat),
    (j < k ∨ k + xs.length ≤ j) → get d (putAll d t k xs) j = get d t j := by
  induction xs with
  | nil => intros; rfl
  | cons x xs ih =>
    intro t j k h
    simp only [List.length_cons] at h
    rw [putAll, ih _ _ _ (by omega), get_put_other d t x (by omega)]

theorem range_putAll_same (d : α) (xs : List α) : ∀ (t : Tbl α) (k : Nat),
    range d (putAll d t k xs) k xs.length = xs := by
  induction xs with
  | nil => intros; rfl
  | cons x xs ih =>
    intro t k
    simp only [putAll, List.length_cons, range]
    rw [get_putAll_outside d xs _ _ _ (by omega), get_put_same, ih]

/-- A range that a write does not reach reads as before. -/
theorem range_putAll_outside (d : α) (xs : List α) (t : Tbl α) (k n : Nat) : ∀ j,
    (j + n ≤ k ∨ k + xs.length ≤ j) → range d (putAll d t k xs) j n = range d t j n := by
  induction n with
  | zero => intros; rfl
  | succ n ih =>
    intro j h
    simp only [range]
    rw [get_putAll_outside d xs t j k (by omega), ih (j + 1) (by omega)]

end Sys2Proof.Tbl
end

