-- ==== Sys2Proof/Laws/Memory.lean ====
section
/-!
SUPPORT. Sys2Proof/Laws/Memory.lean: reading memory after a write, and that every operation which writes memory
keeps its canonical form.
-/
namespace Sys2Proof.Machine

@[simp] theorem readPhys_write_same (m : Tbl Byte) (pa : Nat) (x : Byte) : readPhys (writePhys m pa x) pa = x :=
  Tbl.get_put_same ..

@[simp] theorem readPhys_write_other (m : Tbl Byte) {pa at_ : Nat} (x : Byte) (h : pa ≠ at_) :
    readPhys (writePhys m at_ x) pa = readPhys m pa := Tbl.get_put_other _ _ _ h

theorem readPhys_writeBytes_outside (m : Tbl Byte) (pa at_ : Nat) (bs : List Byte)
    (h : pa < at_ ∨ at_ + bs.length ≤ pa) : readPhys (writeBytes m at_ bs) pa = readPhys m pa :=
  Tbl.get_putAll_outside _ _ _ _ _ h

@[simp] theorem readBytes_writeBytes_same (m : Tbl Byte) (pa : Nat) (bs : List Byte) :
    readBytes (writeBytes m pa bs) pa bs.length = bs := Tbl.range_putAll_same ..

theorem readBytes_writeBytes_outside (m : Tbl Byte) (pa n at_ : Nat) (bs : List Byte)
    (h : pa + n ≤ at_ ∨ at_ + bs.length ≤ pa) : readBytes (writeBytes m at_ bs) pa n = readBytes m pa n :=
  Tbl.range_putAll_outside _ _ _ _ _ _ h

theorem wf_writePhys {m : Tbl Byte} (pa : Nat) (x : Byte) (h : Memory.wf m = true) :
    Memory.wf (writePhys m pa x) = true := Tbl.wf_put _ _ _ h

theorem wf_writeBytes {m : Tbl Byte} (pa : Nat) (bs : List Byte) (h : Memory.wf m = true) :
    Memory.wf (writeBytes m pa bs) = true := Tbl.wf_putAll _ _ _ h

theorem reset_memOk : State.reset.memOk := rfl

/-- An update of a state that does not touch memory keeps its form. -/
theorem memOk_of_mem {s t : State} (e : t.mem = s.mem) (h : s.memOk) : t.memOk := by
  rw [State.memOk, e]
  exact h

theorem memOk_foldl {α : Type} (f : State → α → State) (hf : ∀ s a, s.memOk → (f s a).memOk) :
    ∀ (l : List α) (s : State), s.memOk → (l.foldl f s).memOk
  | [], _, h => h
  | a :: l, s, h => memOk_foldl f hf l (f s a) (hf s a h)

theorem memOk_dirtyLog {s : State} (vf gpa : Nat) (h : s.memOk) : (dirtyLog s vf gpa).memOk := by
  simp only [dirtyLog]
  split
  · exact h
  · split <;> exact wf_writeBytes _ _ h

theorem memOk_dirtySet (s : State) (d : Dirty) (h : s.memOk) : (d.set s).memOk := by
  simp only [Dirty.set]
  split <;> exact wf_writePhys _ _ h

theorem memOk_setDirty (s : State) (ds : List Dirty) (h : s.memOk) : (setDirty s ds).memOk :=
  memOk_foldl Dirty.set memOk_dirtySet _ _
    (memOk_foldl (fun s (x : Nat × Nat) => dirtyLog s x.1 (16384 * x.2)) (fun _ _ hs => memOk_dirtyLog _ _ hs) _ _ h)

/-- Filling a dirty log keeps memory's form. -/
theorem memOk_logAhead (s : State) (vf page : Nat) (h : s.memOk) : (logAhead s vf page).memOk :=
  memOk_dirtyLog vf (16384 * page) h

theorem memOk_fillLog (s : State) (ds : List Dirty) (h : s.memOk) : (fillLog s ds).memOk := by
  refine memOk_foldl Dirty.set memOk_dirtySet _ _ (memOk_foldl _ ?_ _ _ h)
  intro s x hs
  split
  · exact memOk_logAhead _ _ _ hs
  · exact hs

theorem memOk_setPlace (s : State) (p : Place) (x : Byte) (h : s.memOk) : (setPlace s p x).memOk := by
  cases p with
  | phys pa => exact wf_writePhys _ _ h
  | part b off => exact h

theorem memOk_setPlaces : ∀ (l : List (Place × Byte)) (s : State), s.memOk → (setPlaces s l).memOk
  | [], _, h => h
  | (p, x) :: l, s, h => memOk_setPlaces l _ (memOk_setPlace s p x h)

theorem memOk_performStores (s : State) (ws : List (Spot × List Byte)) (h : s.memOk) :
    (performStores s ws).memOk := by
  unfold performStores
  refine memOk_foldl _ ?_ _ _ (memOk_setDirty _ _ h)
  rintro s ⟨p, bs⟩ hs
  cases p with
  | io off => exact hs
  | mem pa d a e => exact memOk_setPlaces _ _ hs
  | part b off => exact memOk_setPlaces _ _ hs

theorem memOk_cancelFrom (s : State) (c j : Nat) (h : s.memOk) : (cancelFrom s c j).memOk := by
  unfold cancelFrom
  exact memOk_foldl (fun s (x : Stroke) => s.setWarp x.warp Warp.absent) (fun _ _ h => h) _ _ h

theorem memOk_holdStore (core c : Nat) (x : Held) : ∀ (fuel : Nat) (freed : Bool) (s t : State), s.memOk →
    holdStore core c x fuel freed s = .done t → t.memOk := by
  intro fuel
  induction fuel with
  | zero => intro freed s t _ e; cases e
  | succ n ih =>
    intro freed s t h e
    simp only [holdStore] at e
    split at e
    · cases e
      exact h
    · split at e
      · exact ih _ _ _ (memOk_cancelFrom _ _ _ h) e
      · split at e <;> cases e

/-- A store that completes keeps memory's form. -/
theorem memOk_storeWord {s t : State} {core : Nat} {w : Warp} {units : Nat} {ws : List (Spot × List Byte)}
    (h : s.memOk) (e : storeWord s core w units ws = .done t) : t.memOk := by
  unfold storeWord at e
  split at e
  · exact memOk_holdStore _ _ _ _ _ _ _ h e
  · split at e
    · cases e
    · cases e
      exact memOk_performStores s ws h

/-- What a state engine writes keeps memory's form, now or later. -/
theorem memOk_perform (s : State) (m : Move) (h : s.memOk) : (m.perform s).memOk := memOk_setPlaces _ _ h

theorem memOk_moveAll (s : State) (ms : List Move) (h : s.memOk) : (moveAll s ms).memOk :=
  memOk_foldl Move.perform memOk_perform ms s h

theorem memOk_moveSome : ∀ (ms : List Move) (s : State), s.memOk → (moveSome ms s).1.memOk
  | [], _, h => h
  | m :: r, s, h => by
    simp only [moveSome]
    split
    · exact memOk_moveSome r _ (memOk_perform _ m h)
    · exact memOk_moveSome r _ h

theorem memOk_writePieces : ∀ (l : List (Nat × Nat × List Dirty)) (bs : List Byte) (s : State), s.memOk →
    (writePieces s l bs).memOk
  | [], _, _, h => h
  | (pa, _, _) :: r, _, _, h => memOk_writePieces r _ _ (wf_writeBytes pa _ h)

end Sys2Proof.Machine
end

