-- ==== Sys2Proof/Laws/State.lean ====
section
/-!
SUPPORT. Sys2Proof/Laws/State.lean: what each update of a table of State leaves and changes: one lemma per field per
update, and the reads of one entry after the write of another.
-/
namespace Sys2Proof.Machine.State

section setWarp
variable (s : State) (k : Nat) (w : Warp)
@[simp] theorem setWarp_mem : (s.setWarp k w).mem = s.mem := rfl
@[simp] theorem setWarp_cycle : (s.setWarp k w).cycle = s.cycle := rfl
@[simp] theorem setWarp_warps : (s.setWarp k w).warps = Tbl.set s.warps k w := rfl
@[simp] theorem setWarp_blocks : (s.setWarp k w).blocks = s.blocks := rfl
@[simp] theorem setWarp_crews : (s.setWarp k w).crews = s.crews := rfl
@[simp] theorem setWarp_cores : (s.setWarp k w).cores = s.cores := rfl
@[simp] theorem setWarp_clusters : (s.setWarp k w).clusters = s.clusters := rfl
@[simp] theorem setWarp_domains : (s.setWarp k w).domains = s.domains := rfl
@[simp] theorem setWarp_ctxs : (s.setWarp k w).ctxs = s.ctxs := rfl
@[simp] theorem setWarp_grids : (s.setWarp k w).grids = s.grids := rfl
@[simp] theorem setWarp_choice : (s.setWarp k w).choice = s.choice := rfl
@[simp] theorem setWarp_saved : (s.setWarp k w).saved = s.saved := rfl
@[simp] theorem setWarp_pend : (s.setWarp k w).pend = s.pend := rfl
@[simp] theorem setWarp_lqs : (s.setWarp k w).lqs = s.lqs := rfl
@[simp] theorem setWarp_fns : (s.setWarp k w).fns = s.fns := rfl
@[simp] theorem setWarp_gens : (s.setWarp k w).gens = s.gens := rfl
@[simp] theorem setWarp_repreq : (s.setWarp k w).repreq = s.repreq := rfl
@[simp] theorem setWarp_sagcnt : (s.setWarp k w).sagcnt = s.sagcnt := rfl
@[simp] theorem setWarp_errs : (s.setWarp k w).errs = s.errs := rfl
@[simp] theorem setWarp_poison : (s.setWarp k w).poison = s.poison := rfl
@[simp] theorem setWarp_fenced : (s.setWarp k w).fenced = s.fenced := rfl
@[simp] theorem setWarp_testing : (s.setWarp k w).testing = s.testing := rfl
@[simp] theorem setWarp_toSave : (s.setWarp k w).toSave = s.toSave := rfl
@[simp] theorem setWarp_fencing : (s.setWarp k w).fencing = s.fencing := rfl
@[simp] theorem setWarp_scans : (s.setWarp k w).scans = s.scans := rfl
@[simp] theorem setWarp_ports : (s.setWarp k w).ports = s.ports := rfl
@[simp] theorem setWarp_spares : (s.setWarp k w).spares = s.spares := rfl
@[simp] theorem setWarp_rowSpares : (s.setWarp k w).rowSpares = s.rowSpares := rfl
@[simp] theorem setWarp_removed : (s.setWarp k w).removed = s.removed := rfl
@[simp] theorem setWarp_storage : (s.setWarp k w).storage = s.storage := rfl
@[simp] theorem setWarp_fabric : (s.setWarp k w).fabric = s.fabric := rfl
@[simp] theorem setWarp_dma : (s.setWarp k w).dma = s.dma := rfl
@[simp] theorem setWarp_boot : (s.setWarp k w).boot = s.boot := rfl
@[simp] theorem setWarp_asks : (s.setWarp k w).asks = s.asks := rfl
@[simp] theorem setWarp_ctlDue : (s.setWarp k w).ctlDue = s.ctlDue := rfl
@[simp] theorem setWarp_purseDue : (s.setWarp k w).purseDue = s.purseDue := rfl
@[simp] theorem setWarp_silent : (s.setWarp k w).silent = s.silent := rfl
@[simp] theorem setWarp_aborted : (s.setWarp k w).aborted = s.aborted := rfl
@[simp] theorem setWarp_cur : (s.setWarp k w).cur = s.cur := rfl
@[simp] theorem setWarp_waited : (s.setWarp k w).waited = s.waited := rfl
@[simp] theorem setWarp_inbox : (s.setWarp k w).inbox = s.inbox := rfl
@[simp] theorem setWarp_agenda : (s.setWarp k w).agenda = s.agenda := rfl
@[simp] theorem setWarp_issued : (s.setWarp k w).issued = s.issued := rfl
@[simp] theorem setWarp_reached : (s.setWarp k w).reached = s.reached := rfl
@[simp] theorem setWarp_asked : (s.setWarp k w).asked = s.asked := rfl
@[simp] theorem setWarp_free : (s.setWarp k w).free = s.free := rfl
@[simp] theorem setWarp_seq : (s.setWarp k w).seq = s.seq := rfl
end setWarp

section setBlock
variable (s : State) (k : Nat) (b : Block)
@[simp] theorem setBlock_mem : (s.setBlock k b).mem = s.mem := rfl
@[simp] theorem setBlock_cycle : (s.setBlock k b).cycle = s.cycle := rfl
@[simp] theorem setBlock_warps : (s.setBlock k b).warps = s.warps := rfl
@[simp] theorem setBlock_blocks : (s.setBlock k b).blocks = Tbl.set s.blocks k b := rfl
@[simp] theorem setBlock_crews : (s.setBlock k b).crews = s.crews := rfl
@[simp] theorem setBlock_cores : (s.setBlock k b).cores = s.cores := rfl
@[simp] theorem setBlock_clusters : (s.setBlock k b).clusters = s.clusters := rfl
@[simp] theorem setBlock_domains : (s.setBlock k b).domains = s.domains := rfl
@[simp] theorem setBlock_ctxs : (s.setBlock k b).ctxs = s.ctxs := rfl
@[simp] theorem setBlock_grids : (s.setBlock k b).grids = s.grids := rfl
@[simp] theorem setBlock_choice : (s.setBlock k b).choice = s.choice := rfl
@[simp] theorem setBlock_saved : (s.setBlock k b).saved = s.saved := rfl
@[simp] theorem setBlock_pend : (s.setBlock k b).pend = s.pend := rfl
@[simp] theorem setBlock_lqs : (s.setBlock k b).lqs = s.lqs := rfl
@[simp] theorem setBlock_fns : (s.setBlock k b).fns = s.fns := rfl
@[simp] theorem setBlock_gens : (s.setBlock k b).gens = s.gens := rfl
@[simp] theorem setBlock_repreq : (s.setBlock k b).repreq = s.repreq := rfl
@[simp] theorem setBlock_sagcnt : (s.setBlock k b).sagcnt = s.sagcnt := rfl
@[simp] theorem setBlock_errs : (s.setBlock k b).errs = s.errs := rfl
@[simp] theorem setBlock_poison : (s.setBlock k b).poison = s.poison := rfl
@[simp] theorem setBlock_fenced : (s.setBlock k b).fenced = s.fenced := rfl
@[simp] theorem setBlock_testing : (s.setBlock k b).testing = s.testing := rfl
@[simp] theorem setBlock_toSave : (s.setBlock k b).toSave = s.toSave := rfl
@[simp] theorem setBlock_fencing : (s.setBlock k b).fencing = s.fencing := rfl
@[simp] theorem setBlock_scans : (s.setBlock k b).scans = s.scans := rfl
@[simp] theorem setBlock_ports : (s.setBlock k b).ports = s.ports := rfl
@[simp] theorem setBlock_spares : (s.setBlock k b).spares = s.spares := rfl
@[simp] theorem setBlock_rowSpares : (s.setBlock k b).rowSpares = s.rowSpares := rfl
@[simp] theorem setBlock_removed : (s.setBlock k b).removed = s.removed := rfl
@[simp] theorem setBlock_storage : (s.setBlock k b).storage = s.storage := rfl
@[simp] theorem setBlock_fabric : (s.setBlock k b).fabric = s.fabric := rfl
@[simp] theorem setBlock_dma : (s.setBlock k b).dma = s.dma := rfl
@[simp] theorem setBlock_boot : (s.setBlock k b).boot = s.boot := rfl
@[simp] theorem setBlock_asks : (s.setBlock k b).asks = s.asks := rfl
@[simp] theorem setBlock_ctlDue : (s.setBlock k b).ctlDue = s.ctlDue := rfl
@[simp] theorem setBlock_purseDue : (s.setBlock k b).purseDue = s.purseDue := rfl
@[simp] theorem setBlock_silent : (s.setBlock k b).silent = s.silent := rfl
@[simp] theorem setBlock_aborted : (s.setBlock k b).aborted = s.aborted := rfl
@[simp] theorem setBlock_cur : (s.setBlock k b).cur = s.cur := rfl
@[simp] theorem setBlock_waited : (s.setBlock k b).waited = s.waited := rfl
@[simp] theorem setBlock_inbox : (s.setBlock k b).inbox = s.inbox := rfl
@[simp] theorem setBlock_agenda : (s.setBlock k b).agenda = s.agenda := rfl
@[simp] theorem setBlock_issued : (s.setBlock k b).issued = s.issued := rfl
@[simp] theorem setBlock_reached : (s.setBlock k b).reached = s.reached := rfl
@[simp] theorem setBlock_asked : (s.setBlock k b).asked = s.asked := rfl
@[simp] theorem setBlock_free : (s.setBlock k b).free = s.free := rfl
@[simp] theorem setBlock_seq : (s.setBlock k b).seq = s.seq := rfl
end setBlock

section setCrew
variable (s : State) (k : Nat) (c : Crew)
@[simp] theorem setCrew_mem : (s.setCrew k c).mem = s.mem := rfl
@[simp] theorem setCrew_cycle : (s.setCrew k c).cycle = s.cycle := rfl
@[simp] theorem setCrew_warps : (s.setCrew k c).warps = s.warps := rfl
@[simp] theorem setCrew_blocks : (s.setCrew k c).blocks = s.blocks := rfl
@[simp] theorem setCrew_crews : (s.setCrew k c).crews = Tbl.set s.crews k c := rfl
@[simp] theorem setCrew_cores : (s.setCrew k c).cores = s.cores := rfl
@[simp] theorem setCrew_clusters : (s.setCrew k c).clusters = s.clusters := rfl
@[simp] theorem setCrew_domains : (s.setCrew k c).domains = s.domains := rfl
@[simp] theorem setCrew_ctxs : (s.setCrew k c).ctxs = s.ctxs := rfl
@[simp] theorem setCrew_grids : (s.setCrew k c).grids = s.grids := rfl
@[simp] theorem setCrew_choice : (s.setCrew k c).choice = s.choice := rfl
@[simp] theorem setCrew_saved : (s.setCrew k c).saved = s.saved := rfl
@[simp] theorem setCrew_pend : (s.setCrew k c).pend = s.pend := rfl
@[simp] theorem setCrew_lqs : (s.setCrew k c).lqs = s.lqs := rfl
@[simp] theorem setCrew_fns : (s.setCrew k c).fns = s.fns := rfl
@[simp] theorem setCrew_gens : (s.setCrew k c).gens = s.gens := rfl
@[simp] theorem setCrew_repreq : (s.setCrew k c).repreq = s.repreq := rfl
@[simp] theorem setCrew_sagcnt : (s.setCrew k c).sagcnt = s.sagcnt := rfl
@[simp] theorem setCrew_errs : (s.setCrew k c).errs = s.errs := rfl
@[simp] theorem setCrew_poison : (s.setCrew k c).poison = s.poison := rfl
@[simp] theorem setCrew_fenced : (s.setCrew k c).fenced = s.fenced := rfl
@[simp] theorem setCrew_testing : (s.setCrew k c).testing = s.testing := rfl
@[simp] theorem setCrew_toSave : (s.setCrew k c).toSave = s.toSave := rfl
@[simp] theorem setCrew_fencing : (s.setCrew k c).fencing = s.fencing := rfl
@[simp] theorem setCrew_scans : (s.setCrew k c).scans = s.scans := rfl
@[simp] theorem setCrew_ports : (s.setCrew k c).ports = s.ports := rfl
@[simp] theorem setCrew_spares : (s.setCrew k c).spares = s.spares := rfl
@[simp] theorem setCrew_rowSpares : (s.setCrew k c).rowSpares = s.rowSpares := rfl
@[simp] theorem setCrew_removed : (s.setCrew k c).removed = s.removed := rfl
@[simp] theorem setCrew_storage : (s.setCrew k c).storage = s.storage := rfl
@[simp] theorem setCrew_fabric : (s.setCrew k c).fabric = s.fabric := rfl
@[simp] theorem setCrew_dma : (s.setCrew k c).dma = s.dma := rfl
@[simp] theorem setCrew_boot : (s.setCrew k c).boot = s.boot := rfl
@[simp] theorem setCrew_asks : (s.setCrew k c).asks = s.asks := rfl
@[simp] theorem setCrew_ctlDue : (s.setCrew k c).ctlDue = s.ctlDue := rfl
@[simp] theorem setCrew_purseDue : (s.setCrew k c).purseDue = s.purseDue := rfl
@[simp] theorem setCrew_silent : (s.setCrew k c).silent = s.silent := rfl
@[simp] theorem setCrew_aborted : (s.setCrew k c).aborted = s.aborted := rfl
@[simp] theorem setCrew_cur : (s.setCrew k c).cur = s.cur := rfl
@[simp] theorem setCrew_waited : (s.setCrew k c).waited = s.waited := rfl
@[simp] theorem setCrew_inbox : (s.setCrew k c).inbox = s.inbox := rfl
@[simp] theorem setCrew_agenda : (s.setCrew k c).agenda = s.agenda := rfl
@[simp] theorem setCrew_issued : (s.setCrew k c).issued = s.issued := rfl
@[simp] theorem setCrew_reached : (s.setCrew k c).reached = s.reached := rfl
@[simp] theorem setCrew_asked : (s.setCrew k c).asked = s.asked := rfl
@[simp] theorem setCrew_free : (s.setCrew k c).free = s.free := rfl
@[simp] theorem setCrew_seq : (s.setCrew k c).seq = s.seq := rfl
end setCrew

section setCore
variable (s : State) (k : Nat) (c : Core)
@[simp] theorem setCore_mem : (s.setCore k c).mem = s.mem := rfl
@[simp] theorem setCore_cycle : (s.setCore k c).cycle = s.cycle := rfl
@[simp] theorem setCore_warps : (s.setCore k c).warps = s.warps := rfl
@[simp] theorem setCore_blocks : (s.setCore k c).blocks = s.blocks := rfl
@[simp] theorem setCore_crews : (s.setCore k c).crews = s.crews := rfl
@[simp] theorem setCore_cores : (s.setCore k c).cores = Tbl.set s.cores k c := rfl
@[simp] theorem setCore_clusters : (s.setCore k c).clusters = s.clusters := rfl
@[simp] theorem setCore_domains : (s.setCore k c).domains = s.domains := rfl
@[simp] theorem setCore_ctxs : (s.setCore k c).ctxs = s.ctxs := rfl
@[simp] theorem setCore_grids : (s.setCore k c).grids = s.grids := rfl
@[simp] theorem setCore_choice : (s.setCore k c).choice = s.choice := rfl
@[simp] theorem setCore_saved : (s.setCore k c).saved = s.saved := rfl
@[simp] theorem setCore_pend : (s.setCore k c).pend = s.pend := rfl
@[simp] theorem setCore_lqs : (s.setCore k c).lqs = s.lqs := rfl
@[simp] theorem setCore_fns : (s.setCore k c).fns = s.fns := rfl
@[simp] theorem setCore_gens : (s.setCore k c).gens = s.gens := rfl
@[simp] theorem setCore_repreq : (s.setCore k c).repreq = s.repreq := rfl
@[simp] theorem setCore_sagcnt : (s.setCore k c).sagcnt = s.sagcnt := rfl
@[simp] theorem setCore_errs : (s.setCore k c).errs = s.errs := rfl
@[simp] theorem setCore_poison : (s.setCore k c).poison = s.poison := rfl
@[simp] theorem setCore_fenced : (s.setCore k c).fenced = s.fenced := rfl
@[simp] theorem setCore_testing : (s.setCore k c).testing = s.testing := rfl
@[simp] theorem setCore_toSave : (s.setCore k c).toSave = s.toSave := rfl
@[simp] theorem setCore_fencing : (s.setCore k c).fencing = s.fencing := rfl
@[simp] theorem setCore_scans : (s.setCore k c).scans = s.scans := rfl
@[simp] theorem setCore_ports : (s.setCore k c).ports = s.ports := rfl
@[simp] theorem setCore_spares : (s.setCore k c).spares = s.spares := rfl
@[simp] theorem setCore_rowSpares : (s.setCore k c).rowSpares = s.rowSpares := rfl
@[simp] theorem setCore_removed : (s.setCore k c).removed = s.removed := rfl
@[simp] theorem setCore_storage : (s.setCore k c).storage = s.storage := rfl
@[simp] theorem setCore_fabric : (s.setCore k c).fabric = s.fabric := rfl
@[simp] theorem setCore_dma : (s.setCore k c).dma = s.dma := rfl
@[simp] theorem setCore_boot : (s.setCore k c).boot = s.boot := rfl
@[simp] theorem setCore_asks : (s.setCore k c).asks = s.asks := rfl
@[simp] theorem setCore_ctlDue : (s.setCore k c).ctlDue = s.ctlDue := rfl
@[simp] theorem setCore_purseDue : (s.setCore k c).purseDue = s.purseDue := rfl
@[simp] theorem setCore_silent : (s.setCore k c).silent = s.silent := rfl
@[simp] theorem setCore_aborted : (s.setCore k c).aborted = s.aborted := rfl
@[simp] theorem setCore_cur : (s.setCore k c).cur = s.cur := rfl
@[simp] theorem setCore_waited : (s.setCore k c).waited = s.waited := rfl
@[simp] theorem setCore_inbox : (s.setCore k c).inbox = s.inbox := rfl
@[simp] theorem setCore_agenda : (s.setCore k c).agenda = s.agenda := rfl
@[simp] theorem setCore_issued : (s.setCore k c).issued = s.issued := rfl
@[simp] theorem setCore_reached : (s.setCore k c).reached = s.reached := rfl
@[simp] theorem setCore_asked : (s.setCore k c).asked = s.asked := rfl
@[simp] theorem setCore_free : (s.setCore k c).free = s.free := rfl
@[simp] theorem setCore_seq : (s.setCore k c).seq = s.seq := rfl
end setCore

section setCluster
variable (s : State) (k : Nat) (c : Cluster)
@[simp] theorem setCluster_mem : (s.setCluster k c).mem = s.mem := rfl
@[simp] theorem setCluster_cycle : (s.setCluster k c).cycle = s.cycle := rfl
@[simp] theorem setCluster_warps : (s.setCluster k c).warps = s.warps := rfl
@[simp] theorem setCluster_blocks : (s.setCluster k c).blocks = s.blocks := rfl
@[simp] theorem setCluster_crews : (s.setCluster k c).crews = s.crews := rfl
@[simp] theorem setCluster_cores : (s.setCluster k c).cores = s.cores := rfl
@[simp] theorem setCluster_clusters : (s.setCluster k c).clusters = Tbl.set s.clusters k c := rfl
@[simp] theorem setCluster_domains : (s.setCluster k c).domains = s.domains := rfl
@[simp] theorem setCluster_ctxs : (s.setCluster k c).ctxs = s.ctxs := rfl
@[simp] theorem setCluster_grids : (s.setCluster k c).grids = s.grids := rfl
@[simp] theorem setCluster_choice : (s.setCluster k c).choice = s.choice := rfl
@[simp] theorem setCluster_saved : (s.setCluster k c).saved = s.saved := rfl
@[simp] theorem setCluster_pend : (s.setCluster k c).pend = s.pend := rfl
@[simp] theorem setCluster_lqs : (s.setCluster k c).lqs = s.lqs := rfl
@[simp] theorem setCluster_fns : (s.setCluster k c).fns = s.fns := rfl
@[simp] theorem setCluster_gens : (s.setCluster k c).gens = s.gens := rfl
@[simp] theorem setCluster_repreq : (s.setCluster k c).repreq = s.repreq := rfl
@[simp] theorem setCluster_sagcnt : (s.setCluster k c).sagcnt = s.sagcnt := rfl
@[simp] theorem setCluster_errs : (s.setCluster k c).errs = s.errs := rfl
@[simp] theorem setCluster_poison : (s.setCluster k c).poison = s.poison := rfl
@[simp] theorem setCluster_fenced : (s.setCluster k c).fenced = s.fenced := rfl
@[simp] theorem setCluster_testing : (s.setCluster k c).testing = s.testing := rfl
@[simp] theorem setCluster_toSave : (s.setCluster k c).toSave = s.toSave := rfl
@[simp] theorem setCluster_fencing : (s.setCluster k c).fencing = s.fencing := rfl
@[simp] theorem setCluster_scans : (s.setCluster k c).scans = s.scans := rfl
@[simp] theorem setCluster_ports : (s.setCluster k c).ports = s.ports := rfl
@[simp] theorem setCluster_spares : (s.setCluster k c).spares = s.spares := rfl
@[simp] theorem setCluster_rowSpares : (s.setCluster k c).rowSpares = s.rowSpares := rfl
@[simp] theorem setCluster_removed : (s.setCluster k c).removed = s.removed := rfl
@[simp] theorem setCluster_storage : (s.setCluster k c).storage = s.storage := rfl
@[simp] theorem setCluster_fabric : (s.setCluster k c).fabric = s.fabric := rfl
@[simp] theorem setCluster_dma : (s.setCluster k c).dma = s.dma := rfl
@[simp] theorem setCluster_boot : (s.setCluster k c).boot = s.boot := rfl
@[simp] theorem setCluster_asks : (s.setCluster k c).asks = s.asks := rfl
@[simp] theorem setCluster_ctlDue : (s.setCluster k c).ctlDue = s.ctlDue := rfl
@[simp] theorem setCluster_purseDue : (s.setCluster k c).purseDue = s.purseDue := rfl
@[simp] theorem setCluster_silent : (s.setCluster k c).silent = s.silent := rfl
@[simp] theorem setCluster_aborted : (s.setCluster k c).aborted = s.aborted := rfl
@[simp] theorem setCluster_cur : (s.setCluster k c).cur = s.cur := rfl
@[simp] theorem setCluster_waited : (s.setCluster k c).waited = s.waited := rfl
@[simp] theorem setCluster_inbox : (s.setCluster k c).inbox = s.inbox := rfl
@[simp] theorem setCluster_agenda : (s.setCluster k c).agenda = s.agenda := rfl
@[simp] theorem setCluster_issued : (s.setCluster k c).issued = s.issued := rfl
@[simp] theorem setCluster_reached : (s.setCluster k c).reached = s.reached := rfl
@[simp] theorem setCluster_asked : (s.setCluster k c).asked = s.asked := rfl
@[simp] theorem setCluster_free : (s.setCluster k c).free = s.free := rfl
@[simp] theorem setCluster_seq : (s.setCluster k c).seq = s.seq := rfl
end setCluster

section setDomain
variable (s : State) (k : Nat) (d : Domain)
@[simp] theorem setDomain_mem : (s.setDomain k d).mem = s.mem := rfl
@[simp] theorem setDomain_cycle : (s.setDomain k d).cycle = s.cycle := rfl
@[simp] theorem setDomain_warps : (s.setDomain k d).warps = s.warps := rfl
@[simp] theorem setDomain_blocks : (s.setDomain k d).blocks = s.blocks := rfl
@[simp] theorem setDomain_crews : (s.setDomain k d).crews = s.crews := rfl
@[simp] theorem setDomain_cores : (s.setDomain k d).cores = s.cores := rfl
@[simp] theorem setDomain_clusters : (s.setDomain k d).clusters = s.clusters := rfl
@[simp] theorem setDomain_domains : (s.setDomain k d).domains = Tbl.set s.domains k d := rfl
@[simp] theorem setDomain_ctxs : (s.setDomain k d).ctxs = s.ctxs := rfl
@[simp] theorem setDomain_grids : (s.setDomain k d).grids = s.grids := rfl
@[simp] theorem setDomain_choice : (s.setDomain k d).choice = s.choice := rfl
@[simp] theorem setDomain_saved : (s.setDomain k d).saved = s.saved := rfl
@[simp] theorem setDomain_pend : (s.setDomain k d).pend = s.pend := rfl
@[simp] theorem setDomain_lqs : (s.setDomain k d).lqs = s.lqs := rfl
@[simp] theorem setDomain_fns : (s.setDomain k d).fns = s.fns := rfl
@[simp] theorem setDomain_gens : (s.setDomain k d).gens = s.gens := rfl
@[simp] theorem setDomain_repreq : (s.setDomain k d).repreq = s.repreq := rfl
@[simp] theorem setDomain_sagcnt : (s.setDomain k d).sagcnt = s.sagcnt := rfl
@[simp] theorem setDomain_errs : (s.setDomain k d).errs = s.errs := rfl
@[simp] theorem setDomain_poison : (s.setDomain k d).poison = s.poison := rfl
@[simp] theorem setDomain_fenced : (s.setDomain k d).fenced = s.fenced := rfl
@[simp] theorem setDomain_testing : (s.setDomain k d).testing = s.testing := rfl
@[simp] theorem setDomain_toSave : (s.setDomain k d).toSave = s.toSave := rfl
@[simp] theorem setDomain_fencing : (s.setDomain k d).fencing = s.fencing := rfl
@[simp] theorem setDomain_scans : (s.setDomain k d).scans = s.scans := rfl
@[simp] theorem setDomain_ports : (s.setDomain k d).ports = s.ports := rfl
@[simp] theorem setDomain_spares : (s.setDomain k d).spares = s.spares := rfl
@[simp] theorem setDomain_rowSpares : (s.setDomain k d).rowSpares = s.rowSpares := rfl
@[simp] theorem setDomain_removed : (s.setDomain k d).removed = s.removed := rfl
@[simp] theorem setDomain_storage : (s.setDomain k d).storage = s.storage := rfl
@[simp] theorem setDomain_fabric : (s.setDomain k d).fabric = s.fabric := rfl
@[simp] theorem setDomain_dma : (s.setDomain k d).dma = s.dma := rfl
@[simp] theorem setDomain_boot : (s.setDomain k d).boot = s.boot := rfl
@[simp] theorem setDomain_asks : (s.setDomain k d).asks = s.asks := rfl
@[simp] theorem setDomain_ctlDue : (s.setDomain k d).ctlDue = s.ctlDue := rfl
@[simp] theorem setDomain_purseDue : (s.setDomain k d).purseDue = s.purseDue := rfl
@[simp] theorem setDomain_silent : (s.setDomain k d).silent = s.silent := rfl
@[simp] theorem setDomain_aborted : (s.setDomain k d).aborted = s.aborted := rfl
@[simp] theorem setDomain_cur : (s.setDomain k d).cur = s.cur := rfl
@[simp] theorem setDomain_waited : (s.setDomain k d).waited = s.waited := rfl
@[simp] theorem setDomain_inbox : (s.setDomain k d).inbox = s.inbox := rfl
@[simp] theorem setDomain_agenda : (s.setDomain k d).agenda = s.agenda := rfl
@[simp] theorem setDomain_issued : (s.setDomain k d).issued = s.issued := rfl
@[simp] theorem setDomain_reached : (s.setDomain k d).reached = s.reached := rfl
@[simp] theorem setDomain_asked : (s.setDomain k d).asked = s.asked := rfl
@[simp] theorem setDomain_free : (s.setDomain k d).free = s.free := rfl
@[simp] theorem setDomain_seq : (s.setDomain k d).seq = s.seq := rfl
end setDomain

section setCtx
variable (s : State) (k : Nat) (c : Ctx)
@[simp] theorem setCtx_mem : (s.setCtx k c).mem = s.mem := rfl
@[simp] theorem setCtx_cycle : (s.setCtx k c).cycle = s.cycle := rfl
@[simp] theorem setCtx_warps : (s.setCtx k c).warps = s.warps := rfl
@[simp] theorem setCtx_blocks : (s.setCtx k c).blocks = s.blocks := rfl
@[simp] theorem setCtx_crews : (s.setCtx k c).crews = s.crews := rfl
@[simp] theorem setCtx_cores : (s.setCtx k c).cores = s.cores := rfl
@[simp] theorem setCtx_clusters : (s.setCtx k c).clusters = s.clusters := rfl
@[simp] theorem setCtx_domains : (s.setCtx k c).domains = s.domains := rfl
@[simp] theorem setCtx_ctxs : (s.setCtx k c).ctxs = Tbl.set s.ctxs k c := rfl
@[simp] theorem setCtx_grids : (s.setCtx k c).grids = s.grids := rfl
@[simp] theorem setCtx_choice : (s.setCtx k c).choice = s.choice := rfl
@[simp] theorem setCtx_saved : (s.setCtx k c).saved = s.saved := rfl
@[simp] theorem setCtx_pend : (s.setCtx k c).pend = s.pend := rfl
@[simp] theorem setCtx_lqs : (s.setCtx k c).lqs = s.lqs := rfl
@[simp] theorem setCtx_fns : (s.setCtx k c).fns = s.fns := rfl
@[simp] theorem setCtx_gens : (s.setCtx k c).gens = s.gens := rfl
@[simp] theorem setCtx_repreq : (s.setCtx k c).repreq = s.repreq := rfl
@[simp] theorem setCtx_sagcnt : (s.setCtx k c).sagcnt = s.sagcnt := rfl
@[simp] theorem setCtx_errs : (s.setCtx k c).errs = s.errs := rfl
@[simp] theorem setCtx_poison : (s.setCtx k c).poison = s.poison := rfl
@[simp] theorem setCtx_fenced : (s.setCtx k c).fenced = s.fenced := rfl
@[simp] theorem setCtx_testing : (s.setCtx k c).testing = s.testing := rfl
@[simp] theorem setCtx_toSave : (s.setCtx k c).toSave = s.toSave := rfl
@[simp] theorem setCtx_fencing : (s.setCtx k c).fencing = s.fencing := rfl
@[simp] theorem setCtx_scans : (s.setCtx k c).scans = s.scans := rfl
@[simp] theorem setCtx_ports : (s.setCtx k c).ports = s.ports := rfl
@[simp] theorem setCtx_spares : (s.setCtx k c).spares = s.spares := rfl
@[simp] theorem setCtx_rowSpares : (s.setCtx k c).rowSpares = s.rowSpares := rfl
@[simp] theorem setCtx_removed : (s.setCtx k c).removed = s.removed := rfl
@[simp] theorem setCtx_storage : (s.setCtx k c).storage = s.storage := rfl
@[simp] theorem setCtx_fabric : (s.setCtx k c).fabric = s.fabric := rfl
@[simp] theorem setCtx_dma : (s.setCtx k c).dma = s.dma := rfl
@[simp] theorem setCtx_boot : (s.setCtx k c).boot = s.boot := rfl
@[simp] theorem setCtx_asks : (s.setCtx k c).asks = s.asks := rfl
@[simp] theorem setCtx_ctlDue : (s.setCtx k c).ctlDue = s.ctlDue := rfl
@[simp] theorem setCtx_purseDue : (s.setCtx k c).purseDue = s.purseDue := rfl
@[simp] theorem setCtx_silent : (s.setCtx k c).silent = s.silent := rfl
@[simp] theorem setCtx_aborted : (s.setCtx k c).aborted = s.aborted := rfl
@[simp] theorem setCtx_cur : (s.setCtx k c).cur = s.cur := rfl
@[simp] theorem setCtx_waited : (s.setCtx k c).waited = s.waited := rfl
@[simp] theorem setCtx_inbox : (s.setCtx k c).inbox = s.inbox := rfl
@[simp] theorem setCtx_agenda : (s.setCtx k c).agenda = s.agenda := rfl
@[simp] theorem setCtx_issued : (s.setCtx k c).issued = s.issued := rfl
@[simp] theorem setCtx_reached : (s.setCtx k c).reached = s.reached := rfl
@[simp] theorem setCtx_asked : (s.setCtx k c).asked = s.asked := rfl
@[simp] theorem setCtx_free : (s.setCtx k c).free = s.free := rfl
@[simp] theorem setCtx_seq : (s.setCtx k c).seq = s.seq := rfl
end setCtx

section setFn
variable (s : State) (k : Nat) (f : Fn)
@[simp] theorem setFn_mem : (s.setFn k f).mem = s.mem := rfl
@[simp] theorem setFn_cycle : (s.setFn k f).cycle = s.cycle := rfl
@[simp] theorem setFn_warps : (s.setFn k f).warps = s.warps := rfl
@[simp] theorem setFn_blocks : (s.setFn k f).blocks = s.blocks := rfl
@[simp] theorem setFn_crews : (s.setFn k f).crews = s.crews := rfl
@[simp] theorem setFn_cores : (s.setFn k f).cores = s.cores := rfl
@[simp] theorem setFn_clusters : (s.setFn k f).clusters = s.clusters := rfl
@[simp] theorem setFn_domains : (s.setFn k f).domains = s.domains := rfl
@[simp] theorem setFn_ctxs : (s.setFn k f).ctxs = s.ctxs := rfl
@[simp] theorem setFn_grids : (s.setFn k f).grids = s.grids := rfl
@[simp] theorem setFn_choice : (s.setFn k f).choice = s.choice := rfl
@[simp] theorem setFn_saved : (s.setFn k f).saved = s.saved := rfl
@[simp] theorem setFn_pend : (s.setFn k f).pend = s.pend := rfl
@[simp] theorem setFn_lqs : (s.setFn k f).lqs = s.lqs := rfl
@[simp] theorem setFn_fns : (s.setFn k f).fns = Tbl.set s.fns k f := rfl
@[simp] theorem setFn_gens : (s.setFn k f).gens = s.gens := rfl
@[simp] theorem setFn_repreq : (s.setFn k f).repreq = s.repreq := rfl
@[simp] theorem setFn_sagcnt : (s.setFn k f).sagcnt = s.sagcnt := rfl
@[simp] theorem setFn_errs : (s.setFn k f).errs = s.errs := rfl
@[simp] theorem setFn_poison : (s.setFn k f).poison = s.poison := rfl
@[simp] theorem setFn_fenced : (s.setFn k f).fenced = s.fenced := rfl
@[simp] theorem setFn_testing : (s.setFn k f).testing = s.testing := rfl
@[simp] theorem setFn_toSave : (s.setFn k f).toSave = s.toSave := rfl
@[simp] theorem setFn_fencing : (s.setFn k f).fencing = s.fencing := rfl
@[simp] theorem setFn_scans : (s.setFn k f).scans = s.scans := rfl
@[simp] theorem setFn_ports : (s.setFn k f).ports = s.ports := rfl
@[simp] theorem setFn_spares : (s.setFn k f).spares = s.spares := rfl
@[simp] theorem setFn_rowSpares : (s.setFn k f).rowSpares = s.rowSpares := rfl
@[simp] theorem setFn_removed : (s.setFn k f).removed = s.removed := rfl
@[simp] theorem setFn_storage : (s.setFn k f).storage = s.storage := rfl
@[simp] theorem setFn_fabric : (s.setFn k f).fabric = s.fabric := rfl
@[simp] theorem setFn_dma : (s.setFn k f).dma = s.dma := rfl
@[simp] theorem setFn_boot : (s.setFn k f).boot = s.boot := rfl
@[simp] theorem setFn_asks : (s.setFn k f).asks = s.asks := rfl
@[simp] theorem setFn_ctlDue : (s.setFn k f).ctlDue = s.ctlDue := rfl
@[simp] theorem setFn_purseDue : (s.setFn k f).purseDue = s.purseDue := rfl
@[simp] theorem setFn_silent : (s.setFn k f).silent = s.silent := rfl
@[simp] theorem setFn_aborted : (s.setFn k f).aborted = s.aborted := rfl
@[simp] theorem setFn_cur : (s.setFn k f).cur = s.cur := rfl
@[simp] theorem setFn_waited : (s.setFn k f).waited = s.waited := rfl
@[simp] theorem setFn_inbox : (s.setFn k f).inbox = s.inbox := rfl
@[simp] theorem setFn_agenda : (s.setFn k f).agenda = s.agenda := rfl
@[simp] theorem setFn_issued : (s.setFn k f).issued = s.issued := rfl
@[simp] theorem setFn_reached : (s.setFn k f).reached = s.reached := rfl
@[simp] theorem setFn_asked : (s.setFn k f).asked = s.asked := rfl
@[simp] theorem setFn_free : (s.setFn k f).free = s.free := rfl
@[simp] theorem setFn_seq : (s.setFn k f).seq = s.seq := rfl
end setFn

section setGrid
variable (s : State) (k : Nat) (g : Grid)
@[simp] theorem setGrid_mem : (s.setGrid k g).mem = s.mem := rfl
@[simp] theorem setGrid_cycle : (s.setGrid k g).cycle = s.cycle := rfl
@[simp] theorem setGrid_warps : (s.setGrid k g).warps = s.warps := rfl
@[simp] theorem setGrid_blocks : (s.setGrid k g).blocks = s.blocks := rfl
@[simp] theorem setGrid_crews : (s.setGrid k g).crews = s.crews := rfl
@[simp] theorem setGrid_cores : (s.setGrid k g).cores = s.cores := rfl
@[simp] theorem setGrid_clusters : (s.setGrid k g).clusters = s.clusters := rfl
@[simp] theorem setGrid_domains : (s.setGrid k g).domains = s.domains := rfl
@[simp] theorem setGrid_ctxs : (s.setGrid k g).ctxs = s.ctxs := rfl
@[simp] theorem setGrid_grids : (s.setGrid k g).grids = s.grids.set k g := rfl
@[simp] theorem setGrid_choice : (s.setGrid k g).choice = s.choice := rfl
@[simp] theorem setGrid_saved : (s.setGrid k g).saved = s.saved := rfl
@[simp] theorem setGrid_pend : (s.setGrid k g).pend = s.pend := rfl
@[simp] theorem setGrid_lqs : (s.setGrid k g).lqs = s.lqs := rfl
@[simp] theorem setGrid_fns : (s.setGrid k g).fns = s.fns := rfl
@[simp] theorem setGrid_gens : (s.setGrid k g).gens = s.gens := rfl
@[simp] theorem setGrid_repreq : (s.setGrid k g).repreq = s.repreq := rfl
@[simp] theorem setGrid_sagcnt : (s.setGrid k g).sagcnt = s.sagcnt := rfl
@[simp] theorem setGrid_errs : (s.setGrid k g).errs = s.errs := rfl
@[simp] theorem setGrid_poison : (s.setGrid k g).poison = s.poison := rfl
@[simp] theorem setGrid_fenced : (s.setGrid k g).fenced = s.fenced := rfl
@[simp] theorem setGrid_testing : (s.setGrid k g).testing = s.testing := rfl
@[simp] theorem setGrid_toSave : (s.setGrid k g).toSave = s.toSave := rfl
@[simp] theorem setGrid_fencing : (s.setGrid k g).fencing = s.fencing := rfl
@[simp] theorem setGrid_scans : (s.setGrid k g).scans = s.scans := rfl
@[simp] theorem setGrid_ports : (s.setGrid k g).ports = s.ports := rfl
@[simp] theorem setGrid_spares : (s.setGrid k g).spares = s.spares := rfl
@[simp] theorem setGrid_rowSpares : (s.setGrid k g).rowSpares = s.rowSpares := rfl
@[simp] theorem setGrid_removed : (s.setGrid k g).removed = s.removed := rfl
@[simp] theorem setGrid_storage : (s.setGrid k g).storage = s.storage := rfl
@[simp] theorem setGrid_fabric : (s.setGrid k g).fabric = s.fabric := rfl
@[simp] theorem setGrid_dma : (s.setGrid k g).dma = s.dma := rfl
@[simp] theorem setGrid_boot : (s.setGrid k g).boot = s.boot := rfl
@[simp] theorem setGrid_asks : (s.setGrid k g).asks = s.asks := rfl
@[simp] theorem setGrid_ctlDue : (s.setGrid k g).ctlDue = s.ctlDue := rfl
@[simp] theorem setGrid_purseDue : (s.setGrid k g).purseDue = s.purseDue := rfl
@[simp] theorem setGrid_silent : (s.setGrid k g).silent = s.silent := rfl
@[simp] theorem setGrid_aborted : (s.setGrid k g).aborted = s.aborted := rfl
@[simp] theorem setGrid_cur : (s.setGrid k g).cur = s.cur := rfl
@[simp] theorem setGrid_waited : (s.setGrid k g).waited = s.waited := rfl
@[simp] theorem setGrid_inbox : (s.setGrid k g).inbox = s.inbox := rfl
@[simp] theorem setGrid_agenda : (s.setGrid k g).agenda = s.agenda := rfl
@[simp] theorem setGrid_issued : (s.setGrid k g).issued = s.issued := rfl
@[simp] theorem setGrid_reached : (s.setGrid k g).reached = s.reached := rfl
@[simp] theorem setGrid_asked : (s.setGrid k g).asked = s.asked := rfl
@[simp] theorem setGrid_free : (s.setGrid k g).free = s.free := rfl
@[simp] theorem setGrid_seq : (s.setGrid k g).seq = s.seq := rfl
end setGrid

/-! ### Entries -/

@[simp] theorem warpAt_setWarp_same (s : State) (k : Nat) (x : Warp) : (s.setWarp k x).warpAt k = x :=
  Tbl.get_set_same ..
@[simp] theorem warpAt_setWarp_other (s : State) {j k : Nat} (x : Warp) (h : j ≠ k) : (s.setWarp k x).warpAt j = s.warpAt j :=
  Tbl.get_set_other _ _ _ h
@[simp] theorem setWarp_setWarp (s : State) (k : Nat) (x y : Warp) : (s.setWarp k x).setWarp k y = s.setWarp k y := by
  simp [setWarp]
@[simp] theorem warpAt_setBlock (s : State) (j k : Nat) (x : Block) : (s.setBlock k x).warpAt j = s.warpAt j := rfl
@[simp] theorem warpAt_setCrew (s : State) (j k : Nat) (x : Crew) : (s.setCrew k x).warpAt j = s.warpAt j := rfl
@[simp] theorem warpAt_setCore (s : State) (j k : Nat) (x : Core) : (s.setCore k x).warpAt j = s.warpAt j := rfl
@[simp] theorem warpAt_setCluster (s : State) (j k : Nat) (x : Cluster) : (s.setCluster k x).warpAt j = s.warpAt j := rfl
@[simp] theorem warpAt_setDomain (s : State) (j k : Nat) (x : Domain) : (s.setDomain k x).warpAt j = s.warpAt j := rfl
@[simp] theorem warpAt_setCtx (s : State) (j k : Nat) (x : Ctx) : (s.setCtx k x).warpAt j = s.warpAt j := rfl
@[simp] theorem warpAt_setFn (s : State) (j k : Nat) (x : Fn) : (s.setFn k x).warpAt j = s.warpAt j := rfl
@[simp] theorem warpAt_setGrid (s : State) (j k : Nat) (x : Grid) : (s.setGrid k x).warpAt j = s.warpAt j := rfl
@[simp] theorem blockAt_setWarp (s : State) (j k : Nat) (x : Warp) : (s.setWarp k x).blockAt j = s.blockAt j := rfl
@[simp] theorem blockAt_setBlock_same (s : State) (k : Nat) (x : Block) : (s.setBlock k x).blockAt k = x :=
  Tbl.get_set_same ..
@[simp] theorem blockAt_setBlock_other (s : State) {j k : Nat} (x : Block) (h : j ≠ k) : (s.setBlock k x).blockAt j = s.blockAt j :=
  Tbl.get_set_other _ _ _ h
@[simp] theorem setBlock_setBlock (s : State) (k : Nat) (x y : Block) : (s.setBlock k x).setBlock k y = s.setBlock k y := by
  simp [setBlock]
@[simp] theorem blockAt_setCrew (s : State) (j k : Nat) (x : Crew) : (s.setCrew k x).blockAt j = s.blockAt j := rfl
@[simp] theorem blockAt_setCore (s : State) (j k : Nat) (x : Core) : (s.setCore k x).blockAt j = s.blockAt j := rfl
@[simp] theorem blockAt_setCluster (s : State) (j k : Nat) (x : Cluster) : (s.setCluster k x).blockAt j = s.blockAt j := rfl
@[simp] theorem blockAt_setDomain (s : State) (j k : Nat) (x : Domain) : (s.setDomain k x).blockAt j = s.blockAt j := rfl
@[simp] theorem blockAt_setCtx (s : State) (j k : Nat) (x : Ctx) : (s.setCtx k x).blockAt j = s.blockAt j := rfl
@[simp] theorem blockAt_setFn (s : State) (j k : Nat) (x : Fn) : (s.setFn k x).blockAt j = s.blockAt j := rfl
@[simp] theorem blockAt_setGrid (s : State) (j k : Nat) (x : Grid) : (s.setGrid k x).blockAt j = s.blockAt j := rfl
@[simp] theorem crewAt_setWarp (s : State) (j k : Nat) (x : Warp) : (s.setWarp k x).crewAt j = s.crewAt j := rfl
@[simp] theorem crewAt_setBlock (s : State) (j k : Nat) (x : Block) : (s.setBlock k x).crewAt j = s.crewAt j := rfl
@[simp] theorem crewAt_setCrew_same (s : State) (k : Nat) (x : Crew) : (s.setCrew k x).crewAt k = x :=
  Tbl.get_set_same ..
@[simp] theorem crewAt_setCrew_other (s : State) {j k : Nat} (x : Crew) (h : j ≠ k) : (s.setCrew k x).crewAt j = s.crewAt j :=
  Tbl.get_set_other _ _ _ h
@[simp] theorem setCrew_setCrew (s : State) (k : Nat) (x y : Crew) : (s.setCrew k x).setCrew k y = s.setCrew k y := by
  simp [setCrew]
@[simp] theorem crewAt_setCore (s : State) (j k : Nat) (x : Core) : (s.setCore k x).crewAt j = s.crewAt j := rfl
@[simp] theorem crewAt_setCluster (s : State) (j k : Nat) (x : Cluster) : (s.setCluster k x).crewAt j = s.crewAt j := rfl
@[simp] theorem crewAt_setDomain (s : State) (j k : Nat) (x : Domain) : (s.setDomain k x).crewAt j = s.crewAt j := rfl
@[simp] theorem crewAt_setCtx (s : State) (j k : Nat) (x : Ctx) : (s.setCtx k x).crewAt j = s.crewAt j := rfl
@[simp] theorem crewAt_setFn (s : State) (j k : Nat) (x : Fn) : (s.setFn k x).crewAt j = s.crewAt j := rfl
@[simp] theorem crewAt_setGrid (s : State) (j k : Nat) (x : Grid) : (s.setGrid k x).crewAt j = s.crewAt j := rfl
@[simp] theorem coreAt_setWarp (s : State) (j k : Nat) (x : Warp) : (s.setWarp k x).coreAt j = s.coreAt j := rfl
@[simp] theorem coreAt_setBlock (s : State) (j k : Nat) (x : Block) : (s.setBlock k x).coreAt j = s.coreAt j := rfl
@[simp] theorem coreAt_setCrew (s : State) (j k : Nat) (x : Crew) : (s.setCrew k x).coreAt j = s.coreAt j := rfl
@[simp] theorem coreAt_setCore_same (s : State) (k : Nat) (x : Core) : (s.setCore k x).coreAt k = x :=
  Tbl.get_set_same ..
@[simp] theorem coreAt_setCore_other (s : State) {j k : Nat} (x : Core) (h : j ≠ k) : (s.setCore k x).coreAt j = s.coreAt j :=
  Tbl.get_set_other _ _ _ h
@[simp] theorem setCore_setCore (s : State) (k : Nat) (x y : Core) : (s.setCore k x).setCore k y = s.setCore k y := by
  simp [setCore]
@[simp] theorem coreAt_setCluster (s : State) (j k : Nat) (x : Cluster) : (s.setCluster k x).coreAt j = s.coreAt j := rfl
@[simp] theorem coreAt_setDomain (s : State) (j k : Nat) (x : Domain) : (s.setDomain k x).coreAt j = s.coreAt j := rfl
@[simp] theorem coreAt_setCtx (s : State) (j k : Nat) (x : Ctx) : (s.setCtx k x).coreAt j = s.coreAt j := rfl
@[simp] theorem coreAt_setFn (s : State) (j k : Nat) (x : Fn) : (s.setFn k x).coreAt j = s.coreAt j := rfl
@[simp] theorem coreAt_setGrid (s : State) (j k : Nat) (x : Grid) : (s.setGrid k x).coreAt j = s.coreAt j := rfl
@[simp] theorem clusterAt_setWarp (s : State) (j k : Nat) (x : Warp) : (s.setWarp k x).clusterAt j = s.clusterAt j := rfl
@[simp] theorem clusterAt_setBlock (s : State) (j k : Nat) (x : Block) : (s.setBlock k x).clusterAt j = s.clusterAt j := rfl
@[simp] theorem clusterAt_setCrew (s : State) (j k : Nat) (x : Crew) : (s.setCrew k x).clusterAt j = s.clusterAt j := rfl
@[simp] theorem clusterAt_setCore (s : State) (j k : Nat) (x : Core) : (s.setCore k x).clusterAt j = s.clusterAt j := rfl
@[simp] theorem clusterAt_setCluster_same (s : State) (k : Nat) (x : Cluster) : (s.setCluster k x).clusterAt k = x :=
  Tbl.get_set_same ..
@[simp] theorem clusterAt_setCluster_other (s : State) {j k : Nat} (x : Cluster) (h : j ≠ k) : (s.setCluster k x).clusterAt j = s.clusterAt j :=
  Tbl.get_set_other _ _ _ h
@[simp] theorem setCluster_setCluster (s : State) (k : Nat) (x y : Cluster) : (s.setCluster k x).setCluster k y = s.setCluster k y := by
  simp [setCluster]
@[simp] theorem clusterAt_setDomain (s : State) (j k : Nat) (x : Domain) : (s.setDomain k x).clusterAt j = s.clusterAt j := rfl
@[simp] theorem clusterAt_setCtx (s : State) (j k : Nat) (x : Ctx) : (s.setCtx k x).clusterAt j = s.clusterAt j := rfl
@[simp] theorem clusterAt_setFn (s : State) (j k : Nat) (x : Fn) : (s.setFn k x).clusterAt j = s.clusterAt j := rfl
@[simp] theorem clusterAt_setGrid (s : State) (j k : Nat) (x : Grid) : (s.setGrid k x).clusterAt j = s.clusterAt j := rfl
@[simp] theorem domainAt_setWarp (s : State) (j k : Nat) (x : Warp) : (s.setWarp k x).domainAt j = s.domainAt j := rfl
@[simp] theorem domainAt_setBlock (s : State) (j k : Nat) (x : Block) : (s.setBlock k x).domainAt j = s.domainAt j := rfl
@[simp] theorem domainAt_setCrew (s : State) (j k : Nat) (x : Crew) : (s.setCrew k x).domainAt j = s.domainAt j := rfl
@[simp] theorem domainAt_setCore (s : State) (j k : Nat) (x : Core) : (s.setCore k x).domainAt j = s.domainAt j := rfl
@[simp] theorem domainAt_setCluster (s : State) (j k : Nat) (x : Cluster) : (s.setCluster k x).domainAt j = s.domainAt j := rfl
@[simp] theorem domainAt_setDomain_same (s : State) (k : Nat) (x : Domain) : (s.setDomain k x).domainAt k = x :=
  Tbl.get_set_same ..
@[simp] theorem domainAt_setDomain_other (s : State) {j k : Nat} (x : Domain) (h : j ≠ k) : (s.setDomain k x).domainAt j = s.domainAt j :=
  Tbl.get_set_other _ _ _ h
@[simp] theorem setDomain_setDomain (s : State) (k : Nat) (x y : Domain) : (s.setDomain k x).setDomain k y = s.setDomain k y := by
  simp [setDomain]
@[simp] theorem domainAt_setCtx (s : State) (j k : Nat) (x : Ctx) : (s.setCtx k x).domainAt j = s.domainAt j := rfl
@[simp] theorem domainAt_setFn (s : State) (j k : Nat) (x : Fn) : (s.setFn k x).domainAt j = s.domainAt j := rfl
@[simp] theorem domainAt_setGrid (s : State) (j k : Nat) (x : Grid) : (s.setGrid k x).domainAt j = s.domainAt j := rfl
@[simp] theorem ctxAt_setWarp (s : State) (j k : Nat) (x : Warp) : (s.setWarp k x).ctxAt j = s.ctxAt j := rfl
@[simp] theorem ctxAt_setBlock (s : State) (j k : Nat) (x : Block) : (s.setBlock k x).ctxAt j = s.ctxAt j := rfl
@[simp] theorem ctxAt_setCrew (s : State) (j k : Nat) (x : Crew) : (s.setCrew k x).ctxAt j = s.ctxAt j := rfl
@[simp] theorem ctxAt_setCore (s : State) (j k : Nat) (x : Core) : (s.setCore k x).ctxAt j = s.ctxAt j := rfl
@[simp] theorem ctxAt_setCluster (s : State) (j k : Nat) (x : Cluster) : (s.setCluster k x).ctxAt j = s.ctxAt j := rfl
@[simp] theorem ctxAt_setDomain (s : State) (j k : Nat) (x : Domain) : (s.setDomain k x).ctxAt j = s.ctxAt j := rfl
@[simp] theorem ctxAt_setCtx_same (s : State) (k : Nat) (x : Ctx) : (s.setCtx k x).ctxAt k = x :=
  Tbl.get_set_same ..
@[simp] theorem ctxAt_setCtx_other (s : State) {j k : Nat} (x : Ctx) (h : j ≠ k) : (s.setCtx k x).ctxAt j = s.ctxAt j :=
  Tbl.get_set_other _ _ _ h
@[simp] theorem setCtx_setCtx (s : State) (k : Nat) (x y : Ctx) : (s.setCtx k x).setCtx k y = s.setCtx k y := by
  simp [setCtx]
@[simp] theorem ctxAt_setFn (s : State) (j k : Nat) (x : Fn) : (s.setFn k x).ctxAt j = s.ctxAt j := rfl
@[simp] theorem ctxAt_setGrid (s : State) (j k : Nat) (x : Grid) : (s.setGrid k x).ctxAt j = s.ctxAt j := rfl
@[simp] theorem fnAt_setWarp (s : State) (j k : Nat) (x : Warp) : (s.setWarp k x).fnAt j = s.fnAt j := rfl
@[simp] theorem fnAt_setBlock (s : State) (j k : Nat) (x : Block) : (s.setBlock k x).fnAt j = s.fnAt j := rfl
@[simp] theorem fnAt_setCrew (s : State) (j k : Nat) (x : Crew) : (s.setCrew k x).fnAt j = s.fnAt j := rfl
@[simp] theorem fnAt_setCore (s : State) (j k : Nat) (x : Core) : (s.setCore k x).fnAt j = s.fnAt j := rfl
@[simp] theorem fnAt_setCluster (s : State) (j k : Nat) (x : Cluster) : (s.setCluster k x).fnAt j = s.fnAt j := rfl
@[simp] theorem fnAt_setDomain (s : State) (j k : Nat) (x : Domain) : (s.setDomain k x).fnAt j = s.fnAt j := rfl
@[simp] theorem fnAt_setCtx (s : State) (j k : Nat) (x : Ctx) : (s.setCtx k x).fnAt j = s.fnAt j := rfl
@[simp] theorem fnAt_setFn_same (s : State) (k : Nat) (x : Fn) : (s.setFn k x).fnAt k = x :=
  Tbl.get_set_same ..
@[simp] theorem fnAt_setFn_other (s : State) {j k : Nat} (x : Fn) (h : j ≠ k) : (s.setFn k x).fnAt j = s.fnAt j :=
  Tbl.get_set_other _ _ _ h
@[simp] theorem setFn_setFn (s : State) (k : Nat) (x y : Fn) : (s.setFn k x).setFn k y = s.setFn k y := by
  simp [setFn]
@[simp] theorem fnAt_setGrid (s : State) (j k : Nat) (x : Grid) : (s.setGrid k x).fnAt j = s.fnAt j := rfl
@[simp] theorem gridAt_setWarp (s : State) (g k : Nat) (x : Warp) : (s.setWarp k x).gridAt g = s.gridAt g := rfl
@[simp] theorem gridAt_setBlock (s : State) (g k : Nat) (x : Block) : (s.setBlock k x).gridAt g = s.gridAt g := rfl
@[simp] theorem gridAt_setCrew (s : State) (g k : Nat) (x : Crew) : (s.setCrew k x).gridAt g = s.gridAt g := rfl
@[simp] theorem gridAt_setCore (s : State) (g k : Nat) (x : Core) : (s.setCore k x).gridAt g = s.gridAt g := rfl
@[simp] theorem gridAt_setCluster (s : State) (g k : Nat) (x : Cluster) : (s.setCluster k x).gridAt g = s.gridAt g := rfl
@[simp] theorem gridAt_setDomain (s : State) (g k : Nat) (x : Domain) : (s.setDomain k x).gridAt g = s.gridAt g := rfl
@[simp] theorem gridAt_setCtx (s : State) (g k : Nat) (x : Ctx) : (s.setCtx k x).gridAt g = s.gridAt g := rfl
@[simp] theorem gridAt_setFn (s : State) (g k : Nat) (x : Fn) : (s.setFn k x).gridAt g = s.gridAt g := rfl

/-! ### The acting warp -/

@[simp] theorem setMe_eq (s : State) (w : Warp) : s.setMe w = s.setWarp s.cur w := rfl
@[simp] theorem me_setWarp_cur (s : State) (w : Warp) : (s.setWarp s.cur w).me = w := Tbl.get_set_same ..

@[simp] theorem me_setBlock (s : State) (k : Nat) (x : Block) : (s.setBlock k x).me = s.me := rfl
@[simp] theorem me_setCrew (s : State) (k : Nat) (x : Crew) : (s.setCrew k x).me = s.me := rfl
@[simp] theorem me_setCore (s : State) (k : Nat) (x : Core) : (s.setCore k x).me = s.me := rfl
@[simp] theorem me_setCluster (s : State) (k : Nat) (x : Cluster) : (s.setCluster k x).me = s.me := rfl
@[simp] theorem me_setDomain (s : State) (k : Nat) (x : Domain) : (s.setDomain k x).me = s.me := rfl
@[simp] theorem me_setCtx (s : State) (k : Nat) (x : Ctx) : (s.setCtx k x).me = s.me := rfl
@[simp] theorem me_setFn (s : State) (k : Nat) (x : Fn) : (s.setFn k x).me = s.me := rfl
@[simp] theorem me_setGrid (s : State) (k : Nat) (x : Grid) : (s.setGrid k x).me = s.me := rfl

end Sys2Proof.Machine.State
end

