-- ==== Sys2Proof/Laws/Ops.lean ====
section
/-!
SUPPORT. Sys2Proof/Laws/Ops.lean: one lemma for each shared operation of the scalar stream.
-/
namespace Sys2Proof.Machine

/-- What completes a scalar word, in the terms of the statements. -/
theorem retire_eq (s : State) (pc : Word) (next : Option Word) (closes : Bool) :
    retire s pc next closes = issued s s.me (next.getD (pc + 4)) closes := by
  cases closes <;> simp [retire, issued, Warp.retired, Warp.counted, Block.moved]

/-- A scalar word that may act and completes. -/
theorem scalarWord_done {kind : Kind} {srcs : List SReg} {body : State → Did} {s t : State} {next : Option Word}
    (hr : Ready s srcs) (hh : s.me.sup = true → kind.handler = true)
    (hc : kind.commits = true → uncommitted s s.me = none)
    (hd : kind.closes = true → s.me.sup = true ∨ s.me.dispatch = []) (hb : body s = .done t next) :
    scalarWord kind srcs body s = .next (issued t t.me (next.getD (s.me.pc + 4)) kind.closes) := by
  obtain ⟨h1, h2⟩ := hr
  unfold scalarWord
  simp only [h1, h2, hb, retire_eq, Bool.not_true, List.isEmpty_nil]
  rw [if_neg (by decide), if_neg (by cases h : s.me.sup <;> simp_all), if_neg (by decide),
    if_neg (by cases h : kind.commits <;> simp_all), if_neg (by cases h : kind.closes <;> simp_all; rcases hd <;> simp_all)]

/-- A scalar word that trap handlers may not run and that completes. -/
theorem scalarWord_user {srcs : List SReg} {body : State → Did} {s t : State} {next : Option Word}
    (hr : Ready s srcs) (hu : s.me.sup = false) (hb : body s = .done t next) :
    scalarWord .userOnly srcs body s = .next (issued t t.me (next.getD (s.me.pc + 4)) false) :=
  scalarWord_done hr (by simp [hu]) (by simp) (by simp) hb

/-- A plain scalar word that may act and completes. -/
theorem scalarWord_plain {srcs : List SReg} {body : State → Did} {s t : State} {next : Option Word}
    (hr : Ready s srcs) (hb : body s = .done t next) :
    scalarWord .plain srcs body s = .next (issued t t.me (next.getD (s.me.pc + 4)) false) :=
  scalarWord_done hr (fun _ => rfl) (by simp) (by simp) hb

@[simp] theorem setS_eq (s : State) (d : SReg) (x : Word) : s.setS d x = s.setMe (s.withReg d x) := by
  simp only [State.setS, Warp.setS, State.withReg]

@[simp] theorem issued_setWarp (s : State) (w v : Warp) (pc : Word) (c : Bool) :
    issued (s.setWarp s.cur w) v pc c = issued s v pc c := by
  simp [issued]

/-- A plain scalar word that may act and raises a cause. -/
theorem scalarWord_raises {srcs : List SReg} {body : State → Did} {s t : State} {r : Raise}
    (hr : Ready s srcs) (hb : body s = .raises t r) :
    scalarWord .plain srcs body s = raiseScalar s t r s.me.pc [] false := by
  obtain ⟨h1, h2⟩ := hr
  simp [scalarWord, h1, h2, hb]

theorem alu_ready {s : State} {d a b : SReg} (f : Word → Word → Word) (h : Ready s [a, b]) :
    alu d a b f s = .next (wrote s d (f (s.sreg a) (s.sreg b))) := by
  unfold alu
  rw [scalarWord_plain h rfl]
  simp [wrote]

theorem aluI_ready {s : State} {d a : SReg} (f : Word → Word) (h : Ready s [a]) :
    aluI d a f s = .next (wrote s d (f (s.sreg a))) := by
  unfold aluI
  rw [scalarWord_plain h rfl]
  simp [wrote]

end Sys2Proof.Machine
end

