-- ==== Sys2Proof/Laws/PerInstr.lean ====
section
/-!
SUPPORT. Sys2Proof/Laws/PerInstr.lean: the family RoundTrip: what the encoder writes for a well-formed instruction,
the decoder reads as that instruction. One lemma per constructor.
-/
namespace Sys2Proof.Laws
set_option Elab.async false
set_option linter.unusedSimpArgs false

/-- The units of a well-formed instruction decode to it (R176 to R190). -/
def RoundTrip.Statement (i : Instr) : Prop :=
  ∀ us : List (BitVec 32), i.wf = true → encode i = some us → decodeUnits us = .ok i

theorem scalar_back {i : Instr} (u : BitVec 32) (he : encodeS i = some u) (h : rawS u = .ok i) :
    RoundTrip.Statement i := by
  intro us hw hu
  rw [encode, he] at hu
  cases hu
  exact scalar_round h hw

theorem lane_back {i : Instr} (c : LCtl) (f : LFields) (hs : encodeS i = none) (he : encodeLFields i = some (c, f))
    (op : BitVec 10)
    (ho : f.op = op) (hp : fld op 4 6 ≠ 0x3f#6) (h : rawL c f = .ok i) : RoundTrip.Statement i := by
  intro us hw hu
  rw [encode, hs] at hu
  simp only [he, Option.map_some] at hu
  cases hu
  exact lane_round h (ho ▸ hp) hw

theorem step_back {i : Instr} (he : encode i = none) : RoundTrip.Statement i := by
  intro us _ hu
  rw [he] at hu
  cases hu


theorem RoundTrip.add (d a b) : RoundTrip.Statement (.add d a b) :=
  scalar_back (encR 1 d a b 0x00) rfl
    (by simp (disch := decide) [rawS, rawInt, need, orReserved])

theorem RoundTrip.sub (d a b) : RoundTrip.Statement (.sub d a b) :=
  scalar_back (encR 1 d a b 0x01) rfl
    (by simp (disch := decide) [rawS, rawInt, need, orReserved])

theorem RoundTrip.andR (d a b) : RoundTrip.Statement (.andR d a b) :=
  scalar_back (encR 1 d a b 0x02) rfl
    (by simp (disch := decide) [rawS, rawInt, need, orReserved])

theorem RoundTrip.orR (d a b) : RoundTrip.Statement (.orR d a b) :=
  scalar_back (encR 1 d a b 0x03) rfl
    (by simp (disch := decide) [rawS, rawInt, need, orReserved])

theorem RoundTrip.xorR (d a b) : RoundTrip.Statement (.xorR d a b) :=
  scalar_back (encR 1 d a b 0x04) rfl
    (by simp (disch := decide) [rawS, rawInt, need, orReserved])

theorem RoundTrip.shl (d a b) : RoundTrip.Statement (.shl d a b) :=
  scalar_back (encR 1 d a b 0x05) rfl
    (by simp (disch := decide) [rawS, rawInt, need, orReserved])

theorem RoundTrip.shr (d a b) : RoundTrip.Statement (.shr d a b) :=
  scalar_back (encR 1 d a b 0x06) rfl
    (by simp (disch := decide) [rawS, rawInt, need, orReserved])

theorem RoundTrip.sra (d a b) : RoundTrip.Statement (.sra d a b) :=
  scalar_back (encR 1 d a b 0x07) rfl
    (by simp (disch := decide) [rawS, rawInt, need, orReserved])

theorem RoundTrip.mul (d a b) : RoundTrip.Statement (.mul d a b) :=
  scalar_back (encR 1 d a b 0x08) rfl
    (by simp (disch := decide) [rawS, rawInt, need, orReserved])

theorem RoundTrip.mulh (d a b) : RoundTrip.Statement (.mulh d a b) :=
  scalar_back (encR 1 d a b 0x09) rfl
    (by simp (disch := decide) [rawS, rawInt, need, orReserved])

theorem RoundTrip.mulhu (d a b) : RoundTrip.Statement (.mulhu d a b) :=
  scalar_back (encR 1 d a b 0x0a) rfl
    (by simp (disch := decide) [rawS, rawInt, need, orReserved])

theorem RoundTrip.div (d a b) : RoundTrip.Statement (.div d a b) :=
  scalar_back (encR 1 d a b 0x0b) rfl
    (by simp (disch := decide) [rawS, rawInt, need, orReserved])

theorem RoundTrip.divu (d a b) : RoundTrip.Statement (.divu d a b) :=
  scalar_back (encR 1 d a b 0x0c) rfl
    (by simp (disch := decide) [rawS, rawInt, need, orReserved])

theorem RoundTrip.rem (d a b) : RoundTrip.Statement (.rem d a b) :=
  scalar_back (encR 1 d a b 0x0d) rfl
    (by simp (disch := decide) [rawS, rawInt, need, orReserved])

theorem RoundTrip.remu (d a b) : RoundTrip.Statement (.remu d a b) :=
  scalar_back (encR 1 d a b 0x0e) rfl
    (by simp (disch := decide) [rawS, rawInt, need, orReserved])

theorem RoundTrip.min (d a b) : RoundTrip.Statement (.min d a b) :=
  scalar_back (encR 1 d a b 0x0f) rfl
    (by simp (disch := decide) [rawS, rawInt, need, orReserved])

theorem RoundTrip.max (d a b) : RoundTrip.Statement (.max d a b) :=
  scalar_back (encR 1 d a b 0x10) rfl
    (by simp (disch := decide) [rawS, rawInt, need, orReserved])

theorem RoundTrip.minu (d a b) : RoundTrip.Statement (.minu d a b) :=
  scalar_back (encR 1 d a b 0x11) rfl
    (by simp (disch := decide) [rawS, rawInt, need, orReserved])

theorem RoundTrip.maxu (d a b) : RoundTrip.Statement (.maxu d a b) :=
  scalar_back (encR 1 d a b 0x12) rfl
    (by simp (disch := decide) [rawS, rawInt, need, orReserved])

theorem RoundTrip.slt (d a b) : RoundTrip.Statement (.slt d a b) :=
  scalar_back (encR 1 d a b 0x13) rfl
    (by simp (disch := decide) [rawS, rawInt, need, orReserved])

theorem RoundTrip.sltu (d a b) : RoundTrip.Statement (.sltu d a b) :=
  scalar_back (encR 1 d a b 0x14) rfl
    (by simp (disch := decide) [rawS, rawInt, need, orReserved])

theorem RoundTrip.seq (d a b) : RoundTrip.Statement (.seq d a b) :=
  scalar_back (encR 1 d a b 0x15) rfl
    (by simp (disch := decide) [rawS, rawInt, need, orReserved])

theorem RoundTrip.sne (d a b) : RoundTrip.Statement (.sne d a b) :=
  scalar_back (encR 1 d a b 0x16) rfl
    (by simp (disch := decide) [rawS, rawInt, need, orReserved])

theorem RoundTrip.addw (d a b) : RoundTrip.Statement (.addw d a b) :=
  scalar_back (encR 1 d a b 0x17) rfl
    (by simp (disch := decide) [rawS, rawInt, need, orReserved])

theorem RoundTrip.clz (d a) : RoundTrip.Statement (.clz d a) :=
  scalar_back (encR 1 d a 0 0x18) rfl
    (by simp (disch := decide) [rawS, rawInt, need, orReserved])

theorem RoundTrip.popc (d a) : RoundTrip.Statement (.popc d a) :=
  scalar_back (encR 1 d a 0 0x19) rfl
    (by simp (disch := decide) [rawS, rawInt, need, orReserved])

theorem RoundTrip.addi (d a i) : RoundTrip.Statement (.addi d a i) :=
  scalar_back (encI 0x02 d a i) rfl
    (by simp (disch := decide) [rawS, rawInt, need, orReserved])

theorem RoundTrip.andi (d a i) : RoundTrip.Statement (.andi d a i) :=
  scalar_back (encI 0x03 d a i) rfl
    (by simp (disch := decide) [rawS, rawInt, need, orReserved])

theorem RoundTrip.ori (d a i) : RoundTrip.Statement (.ori d a i) :=
  scalar_back (encI 0x04 d a i) rfl
    (by simp (disch := decide) [rawS, rawInt, need, orReserved])

theorem RoundTrip.xori (d a i) : RoundTrip.Statement (.xori d a i) :=
  scalar_back (encI 0x05 d a i) rfl
    (by simp (disch := decide) [rawS, rawInt, need, orReserved])

theorem RoundTrip.shli (d a n) : RoundTrip.Statement (.shli d a n) :=
  scalar_back (encI 0x06 d a (cat 0#7 n)) rfl
    (by simp (disch := decide) [rawS, rawInt, need, orReserved])

theorem RoundTrip.shri (d a n) : RoundTrip.Statement (.shri d a n) :=
  scalar_back (encI 0x07 d a (cat 0#7 n)) rfl
    (by simp (disch := decide) [rawS, rawInt, need, orReserved])

theorem RoundTrip.srai (d a n) : RoundTrip.Statement (.srai d a n) :=
  scalar_back (encI 0x08 d a (cat 0#7 n)) rfl
    (by simp (disch := decide) [rawS, rawInt, need, orReserved])

theorem RoundTrip.slti (d a i) : RoundTrip.Statement (.slti d a i) :=
  scalar_back (encI 0x09 d a i) rfl
    (by simp (disch := decide) [rawS, rawInt, need, orReserved])

theorem RoundTrip.sltui (d a i) : RoundTrip.Statement (.sltui d a i) :=
  scalar_back (encI 0x0a d a i) rfl
    (by simp (disch := decide) [rawS, rawInt, need, orReserved])

theorem RoundTrip.muli (d a i) : RoundTrip.Statement (.muli d a i) :=
  scalar_back (encI 0x0b d a i) rfl
    (by simp (disch := decide) [rawS, rawInt, need, orReserved])

theorem RoundTrip.li (d i) : RoundTrip.Statement (.li d i) :=
  scalar_back (encU 0x0c d i) rfl
    (by simp (disch := decide) [rawS, rawInt, need, orReserved])

theorem RoundTrip.lui (d i) : RoundTrip.Statement (.lui d i) :=
  scalar_back (encU 0x0d d i) rfl
    (by simp (disch := decide) [rawS, rawInt, need, orReserved])

theorem RoundTrip.luh (d i) : RoundTrip.Statement (.luh d i) :=
  scalar_back (encU 0x0e d i) rfl
    (by simp (disch := decide) [rawS, rawInt, need, orReserved])

theorem RoundTrip.ldb (d a i) : RoundTrip.Statement (.ldb d a i) :=
  scalar_back (encI 0x10 d a i) rfl
    (by simp (disch := decide) [rawS, rawInt, need, orReserved])

theorem RoundTrip.ldbu (d a i) : RoundTrip.Statement (.ldbu d a i) :=
  scalar_back (encI 0x11 d a i) rfl
    (by simp (disch := decide) [rawS, rawInt, need, orReserved])

theorem RoundTrip.ldh (d a i) : RoundTrip.Statement (.ldh d a i) :=
  scalar_back (encI 0x12 d a i) rfl
    (by simp (disch := decide) [rawS, rawInt, need, orReserved])

theorem RoundTrip.ldhu (d a i) : RoundTrip.Statement (.ldhu d a i) :=
  scalar_back (encI 0x13 d a i) rfl
    (by simp (disch := decide) [rawS, rawInt, need, orReserved])

theorem RoundTrip.ldw (d a i) : RoundTrip.Statement (.ldw d a i) :=
  scalar_back (encI 0x14 d a i) rfl
    (by simp (disch := decide) [rawS, rawInt, need, orReserved])

theorem RoundTrip.ldwu (d a i) : RoundTrip.Statement (.ldwu d a i) :=
  scalar_back (encI 0x15 d a i) rfl
    (by simp (disch := decide) [rawS, rawInt, need, orReserved])

theorem RoundTrip.ldd (d a i) : RoundTrip.Statement (.ldd d a i) :=
  scalar_back (encI 0x16 d a i) rfl
    (by simp (disch := decide) [rawS, rawInt, need, orReserved])

theorem RoundTrip.stb (d a i) : RoundTrip.Statement (.stb d a i) :=
  scalar_back (encI 0x18 d a i) rfl
    (by simp (disch := decide) [rawS, rawInt, need, orReserved])

theorem RoundTrip.sth (d a i) : RoundTrip.Statement (.sth d a i) :=
  scalar_back (encI 0x19 d a i) rfl
    (by simp (disch := decide) [rawS, rawInt, need, orReserved])

theorem RoundTrip.stw (d a i) : RoundTrip.Statement (.stw d a i) :=
  scalar_back (encI 0x1a d a i) rfl
    (by simp (disch := decide) [rawS, rawInt, need, orReserved])

theorem RoundTrip.std (d a i) : RoundTrip.Statement (.std d a i) :=
  scalar_back (encI 0x1b d a i) rfl
    (by simp (disch := decide) [rawS, rawInt, need, orReserved])

theorem RoundTrip.lda (d a z s r) : RoundTrip.Statement (.lda d a z s r) :=
  scalar_back (encR 0x1c d a 0 (cat 0#1 (cat (b1 r) (cat s.code z)))) rfl
    (by simp (disch := decide) [rawS, rawInt, need, orReserved])

theorem RoundTrip.stl (d a z s r) : RoundTrip.Statement (.stl d a z s r) :=
  scalar_back (encR 0x1d d a 0 (cat 0#1 (cat (b1 r) (cat s.code z)))) rfl
    (by simp (disch := decide) [rawS, rawInt, need, orReserved])

theorem RoundTrip.atom (d a b o s r) : RoundTrip.Statement (.atom d a b o s r) :=
  scalar_back (encR 0x1e d a b (cat (b1 r) (cat o.code s.code))) rfl
    (by simp (disch := decide) [rawS, rawInt, need, orReserved])

theorem RoundTrip.atoma (d a b o s r) : RoundTrip.Statement (.atoma d a b o s r) :=
  scalar_back (encR 0x1f d a b (cat (b1 r) (cat o.code s.code))) rfl
    (by simp (disch := decide) [rawS, rawInt, need, orReserved])

theorem RoundTrip.atoml (d a b o s r) : RoundTrip.Statement (.atoml d a b o s r) :=
  scalar_back (encR 0x20 d a b (cat (b1 r) (cat o.code s.code))) rfl
    (by simp (disch := decide) [rawS, rawInt, need, orReserved])

theorem RoundTrip.atomal (d a b o s r) : RoundTrip.Statement (.atomal d a b o s r) :=
  scalar_back (encR 0x21 d a b (cat (b1 r) (cat o.code s.code))) rfl
    (by simp (disch := decide) [rawS, rawInt, need, orReserved])

theorem RoundTrip.fence (k s) : RoundTrip.Statement (.fence k s) :=
  scalar_back (encR 0x22 0 0 0 (cat 0#2 (cat k.code s.code))) rfl
    (by simp (disch := decide) [rawS, rawInt, need, orReserved])

theorem RoundTrip.bz (a i) : RoundTrip.Statement (.bz a i) :=
  scalar_back (encU 0x28 a i) rfl
    (by simp (disch := decide) [rawS, rawInt, need, orReserved])

theorem RoundTrip.bnz (a i) : RoundTrip.Statement (.bnz a i) :=
  scalar_back (encU 0x29 a i) rfl
    (by simp (disch := decide) [rawS, rawInt, need, orReserved])

theorem RoundTrip.bltz (a i) : RoundTrip.Statement (.bltz a i) :=
  scalar_back (encU 0x2a a i) rfl
    (by simp (disch := decide) [rawS, rawInt, need, orReserved])

theorem RoundTrip.bgez (a i) : RoundTrip.Statement (.bgez a i) :=
  scalar_back (encU 0x2b a i) rfl
    (by simp (disch := decide) [rawS, rawInt, need, orReserved])

theorem RoundTrip.call (a i) : RoundTrip.Statement (.call a i) :=
  scalar_back (encU 0x2c a i) rfl
    (by simp (disch := decide) [rawS, rawInt, need, orReserved])

theorem RoundTrip.jr (d a i) : RoundTrip.Statement (.jr d a i) :=
  scalar_back (encI 0x2d d a i) rfl
    (by simp (disch := decide) [rawS, rawInt, need, orReserved])

theorem RoundTrip.bqt (i) : RoundTrip.Statement (.bqt i) :=
  scalar_back (encU 0x2e 0 i) rfl
    (by simp (disch := decide) [rawS, rawInt, need, orReserved])

theorem RoundTrip.bqf (i) : RoundTrip.Statement (.bqf i) :=
  scalar_back (encU 0x2f 0 i) rfl
    (by simp (disch := decide) [rawS, rawInt, need, orReserved])

theorem RoundTrip.loop (a i) : RoundTrip.Statement (.loop a i) :=
  scalar_back (encU 0x30 a i) rfl
    (by simp (disch := decide) [rawS, rawInt, need, orReserved])

theorem RoundTrip.lgo (i) : RoundTrip.Statement (.lgo i) :=
  scalar_back (encU 0x31 0 i) rfl
    (by simp (disch := decide) [rawS, rawInt, need, orReserved])

theorem RoundTrip.lgor (a) : RoundTrip.Statement (.lgor a) :=
  scalar_back (encI 0x32 0 a 0) rfl
    (by simp (disch := decide) [rawS, rawInt, need, orReserved])

theorem RoundTrip.lwait : RoundTrip.Statement (.lwait) :=
  scalar_back (encU 0x33 0 0) rfl
    (by simp (disch := decide) [rawS, rawInt, need, orReserved])

theorem RoundTrip.dqpBroadcast (a q) : RoundTrip.Statement (.dqpBroadcast a q) :=
  scalar_back (encR 0x34 a 0 0 (cat 0#5 q)) rfl
    (by simp (disch := decide) [rawS, rawInt, need, orReserved])

theorem RoundTrip.dqpIota (a b q) : RoundTrip.Statement (.dqpIota a b q) :=
  scalar_back (encR 0x34 a b 0 (cat 1#5 q)) rfl
    (by simp (disch := decide) [rawS, rawInt, need, orReserved, show fld 1#5 1 4 = 0#4 from rfl, show bit 1#5 0 = true from rfl])

theorem RoundTrip.dqld (a b u z q) : RoundTrip.Statement (.dqld a b u z q) :=
  scalar_back (encR 0x35 a b 0 (cat 0#2 (cat (b1 u) (cat z q)))) rfl
    (by simp (disch := decide) [rawS, rawInt, need, orReserved])

theorem RoundTrip.dqstrm (a b k u z q) : RoundTrip.Statement (.dqstrm a b k u z q) :=
  scalar_back (encR 0x36 a b k (cat 0#2 (cat (b1 u) (cat z q)))) rfl
    (by simp (disch := decide) [rawS, rawInt, need, orReserved])

theorem RoundTrip.xqp (d) : RoundTrip.Statement (.xqp d) :=
  scalar_back (encU 0x37 d 0) rfl
    (by simp (disch := decide) [rawS, rawInt, need, orReserved])

theorem RoundTrip.srd (d i) : RoundTrip.Statement (.srd d i) :=
  scalar_back (encI 0x38 d 0 i) rfl
    (by simp (disch := decide) [rawS, rawInt, need, orReserved])

theorem RoundTrip.swr (a i) : RoundTrip.Statement (.swr a i) :=
  scalar_back (encI 0x39 0 a i) rfl
    (by simp (disch := decide) [rawS, rawInt, need, orReserved])

theorem RoundTrip.regn : RoundTrip.Statement (.regn) :=
  scalar_back (encU 0x3a 0 0) rfl
    (by simp (disch := decide) [rawS, rawInt, need, orReserved])

theorem RoundTrip.cwait (a b y) : RoundTrip.Statement (.cwait a b y) :=
  scalar_back (encR 0x3b a b 0 (cat 0#6 (b1 y))) rfl
    (by simp (disch := decide) [rawS, rawInt, need, orReserved])

theorem RoundTrip.waitv (k a b c s r) : RoundTrip.Statement (.waitv k a b c s r) :=
  scalar_back (encR 0x3c a b k (cat (b1 r) (cat c.code s.code))) rfl
    (by simp (disch := decide) [rawS, rawInt, need, orReserved])

theorem RoundTrip.barSync (b) : RoundTrip.Statement (.barSync b) :=
  scalar_back (encR 0x3d 0 0 0 (cat 0#3 b)) rfl
    (by simp (disch := decide) [rawS, rawInt, need, orReserved])

theorem RoundTrip.barArrive (b) : RoundTrip.Statement (.barArrive b) :=
  scalar_back (encR 0x3d 0 0 0 (cat 1#3 b)) rfl
    (by simp (disch := decide) [rawS, rawInt, need, orReserved])

theorem RoundTrip.barWait (b) : RoundTrip.Statement (.barWait b) :=
  scalar_back (encR 0x3d 0 0 0 (cat 2#3 b)) rfl
    (by simp (disch := decide) [rawS, rawInt, need, orReserved])

theorem RoundTrip.barExpect (a b) : RoundTrip.Statement (.barExpect a b) :=
  scalar_back (encR 0x3d a 0 0 (cat 3#3 b)) rfl
    (by simp (disch := decide) [rawS, rawInt, need, orReserved])

theorem RoundTrip.barInit (a b) : RoundTrip.Statement (.barInit a b) :=
  scalar_back (encR 0x3d a 0 0 (cat 4#3 b)) rfl
    (by simp (disch := decide) [rawS, rawInt, need, orReserved])

theorem RoundTrip.yieldW : RoundTrip.Statement (.yieldW) :=
  scalar_back (encU 0x3e 0 0) rfl
    (by simp (disch := decide) [rawS, rawInt, need, orReserved])

theorem RoundTrip.cpyImmediate (a b e n s) : RoundTrip.Statement (.cpyImmediate a b e n s) :=
  scalar_back (encR 0x40 a b (cat 0#1 (cat (b1 e) n)) (cat 0#1 s)) rfl
    (by simp (disch := decide) [rawS, rawInt, need, orReserved])

theorem RoundTrip.cpyRegister (a b k s) : RoundTrip.Statement (.cpyRegister a b k s) :=
  scalar_back (encR 0x40 a b k (cat 1#1 s)) rfl
    (by simp (disch := decide) [rawS, rawInt, need, orReserved])

theorem RoundTrip.mxb (a p f) : RoundTrip.Statement (.mxb a p f) :=
  scalar_back (encR 0x41 a p (cat 0#3 f) 0) rfl
    (by simp (disch := decide) [rawS, rawInt, need, orReserved])

theorem RoundTrip.mxa (a p bs as r0 c) : RoundTrip.Statement (.mxa a p bs as r0 c) :=
  scalar_back (encR 0x42 a p (cat bs as) (cat r0 c)) rfl
    (by simp (disch := decide) [rawS, rawInt, need, orReserved])

theorem RoundTrip.mxrd (a b r0 g c) : RoundTrip.Statement (.mxrd a b r0 g c) :=
  scalar_back (encR 0x43 a b (cat r0 g) (cat 0#2 c)) rfl
    (by simp (disch := decide) [rawS, rawInt, need, orReserved])

theorem RoundTrip.mxz (r0 c) : RoundTrip.Statement (.mxz r0 c) :=
  scalar_back (encR 0x44 0 0 (cat r0 0#3) (cat 0#2 c)) rfl
    (by simp (disch := decide) [rawS, rawInt, need, orReserved])

theorem RoundTrip.qfence (m) : RoundTrip.Statement (.qfence m) :=
  scalar_back (encR 0x45 0 0 0 (cat 0#3 m)) rfl
    (by simp (disch := decide) [rawS, rawInt, need, orReserved])

theorem RoundTrip.lnch (k a) : RoundTrip.Statement (.lnch k a) :=
  scalar_back (encR 0x46 a 0 k 0) rfl
    (by simp (disch := decide) [rawS, rawInt, need, orReserved])

theorem RoundTrip.hintsucc : RoundTrip.Statement (.hintsucc) :=
  scalar_back (encU 0x47 0 0) rfl
    (by simp (disch := decide) [rawS, rawInt, need, orReserved])

theorem RoundTrip.waitpred : RoundTrip.Statement (.waitpred) :=
  scalar_back (encU 0x48 0 0) rfl
    (by simp (disch := decide) [rawS, rawInt, need, orReserved])

theorem RoundTrip.crew (a b) : RoundTrip.Statement (.crew a b) :=
  scalar_back (encR 0x50 a b 0 0) rfl
    (by simp (disch := decide) [rawS, rawInt, need, orReserved])

theorem RoundTrip.creww (k) : RoundTrip.Statement (.creww k) :=
  scalar_back (encR 0x51 0 0 k 0) rfl
    (by simp (disch := decide) [rawS, rawInt, need, orReserved])

theorem RoundTrip.breakCrew : RoundTrip.Statement (.breakCrew) :=
  scalar_back (encU 0x52 0 0) rfl
    (by simp (disch := decide) [rawS, rawInt, need, orReserved])

theorem RoundTrip.goStroke : RoundTrip.Statement (.goStroke) :=
  scalar_back (encU 0x53 0 0) rfl
    (by simp (disch := decide) [rawS, rawInt, need, orReserved])

theorem RoundTrip.srel : RoundTrip.Statement (.srel) :=
  scalar_back (encU 0x54 0 0) rfl
    (by simp (disch := decide) [rawS, rawInt, need, orReserved])

theorem RoundTrip.regroup (k a) : RoundTrip.Statement (.regroup k a) :=
  scalar_back (encR 0x55 a 0 k 0) rfl
    (by simp (disch := decide) [rawS, rawInt, need, orReserved])

theorem RoundTrip.regroupTimeout (warp) : RoundTrip.Statement (.regroupTimeout warp) := step_back rfl

theorem RoundTrip.qpush (k a b) : RoundTrip.Statement (.qpush k a b) :=
  scalar_back (encR 0x58 a b k 0) rfl
    (by simp (disch := decide) [rawS, rawInt, need, orReserved])

theorem RoundTrip.qpop (k a b u) : RoundTrip.Statement (.qpop k a b u) :=
  scalar_back (encR 0x59 a b k (cat 0#6 (b1 u))) rfl
    (by simp (disch := decide) [rawS, rawInt, need, orReserved])

theorem RoundTrip.qsteal (k a b) : RoundTrip.Statement (.qsteal k a b) :=
  scalar_back (encR 0x5a a b k 0) rfl
    (by simp (disch := decide) [rawS, rawInt, need, orReserved])

theorem RoundTrip.ssld (a b k n) : RoundTrip.Statement (.ssld a b k n) :=
  scalar_back (encR 0x60 a b k n) rfl
    (by simp (disch := decide) [rawS, rawInt, need, orReserved])

theorem RoundTrip.ssst (a b k n) : RoundTrip.Statement (.ssst a b k n) :=
  scalar_back (encR 0x61 a b k n) rfl
    (by simp (disch := decide) [rawS, rawInt, need, orReserved])

theorem RoundTrip.ssnap (a b k) : RoundTrip.Statement (.ssnap a b k) :=
  scalar_back (encR 0x62 a b k 0) rfl
    (by simp (disch := decide) [rawS, rawInt, need, orReserved])

theorem RoundTrip.ssroll (a b k) : RoundTrip.Statement (.ssroll a b k) :=
  scalar_back (encR 0x63 a b k 0) rfl
    (by simp (disch := decide) [rawS, rawInt, need, orReserved])

theorem RoundTrip.ssfork (a b k) : RoundTrip.Statement (.ssfork a b k) :=
  scalar_back (encR 0x64 a b k 0) rfl
    (by simp (disch := decide) [rawS, rawInt, need, orReserved])

theorem RoundTrip.ssdrop (a k) : RoundTrip.Statement (.ssdrop a k) :=
  scalar_back (encR 0x65 a 0 k 0) rfl
    (by simp (disch := decide) [rawS, rawInt, need, orReserved])

theorem RoundTrip.trap (n) : RoundTrip.Statement (.trap n) :=
  scalar_back (encU 0x70 0 (cat 0#11 (cat 1#1 n))) rfl
    (by simp (disch := decide) [rawS, rawInt, need, orReserved])

theorem RoundTrip.eretResume : RoundTrip.Statement (.eretResume) :=
  scalar_back (encU 0x71 0 0) rfl
    rfl

theorem RoundTrip.eretReplay : RoundTrip.Statement (.eretReplay) :=
  scalar_back (encU 0x71 0 1) rfl
    rfl

theorem RoundTrip.exitWarp : RoundTrip.Statement (.exitWarp) :=
  scalar_back (encU 0x72 0 0) rfl
    (by simp (disch := decide) [rawS, rawInt, need, orReserved])

theorem RoundTrip.tlbiVa (a b) : RoundTrip.Statement (.tlbiVa a b) :=
  scalar_back (encR 0x73 a b 0 0) rfl
    (by simp (disch := decide) [rawS, rawInt, need, orReserved])

theorem RoundTrip.tlbiCtx (b) : RoundTrip.Statement (.tlbiCtx b) :=
  scalar_back (encR 0x73 0 b 0 1) rfl
    (by simp (disch := decide) [rawS, rawInt, need, orReserved])

theorem RoundTrip.tlbiSplit (a b) : RoundTrip.Statement (.tlbiSplit a b) :=
  scalar_back (encR 0x73 a b 0 2) rfl
    (by simp (disch := decide) [rawS, rawInt, need, orReserved])

theorem RoundTrip.tlbiGpa (a b) : RoundTrip.Statement (.tlbiGpa a b) :=
  scalar_back (encR 0x73 a b 0 3) rfl
    (by simp (disch := decide) [rawS, rawInt, need, orReserved])

theorem RoundTrip.nop : RoundTrip.Statement (.nop) :=
  scalar_back (encU 0x7f 0 0) rfl
    (by simp (disch := decide) [rawS, rawInt, need, orReserved])

theorem RoundTrip.vadd (c d a b) : RoundTrip.Statement (.vadd c d a b) :=
  lane_back c (encBin 0x000 d a b 0 0) rfl rfl 0x000 rfl (by decide) (by
    simp (disch := decide) [rawL, rawBin, rawUn, rawBin', rawTri, rawPred, rawCmp, onlyX, useOp, unusedZero, useAddr,
      need, encBin])

theorem RoundTrip.vsub (c d a b) : RoundTrip.Statement (.vsub c d a b) :=
  lane_back c (encBin 0x001 d a b 0 0) rfl rfl 0x001 rfl (by decide) (by
    simp (disch := decide) [rawL, rawBin, rawUn, rawBin', rawTri, rawPred, rawCmp, onlyX, useOp, unusedZero, useAddr,
      need, encBin])

theorem RoundTrip.vmul (c d a b) : RoundTrip.Statement (.vmul c d a b) :=
  lane_back c (encBin 0x002 d a b 0 0) rfl rfl 0x002 rfl (by decide) (by
    simp (disch := decide) [rawL, rawBin, rawUn, rawBin', rawTri, rawPred, rawCmp, onlyX, useOp, unusedZero, useAddr,
      need, encBin])

theorem RoundTrip.vmulh (c d a b) : RoundTrip.Statement (.vmulh c d a b) :=
  lane_back c (encBin 0x003 d a b 0 0) rfl rfl 0x003 rfl (by decide) (by
    simp (disch := decide) [rawL, rawBin, rawUn, rawBin', rawTri, rawPred, rawCmp, onlyX, useOp, unusedZero, useAddr,
      need, encBin])

theorem RoundTrip.vmulhu (c d a b) : RoundTrip.Statement (.vmulhu c d a b) :=
  lane_back c (encBin 0x004 d a b 0 0) rfl rfl 0x004 rfl (by decide) (by
    simp (disch := decide) [rawL, rawBin, rawUn, rawBin', rawTri, rawPred, rawCmp, onlyX, useOp, unusedZero, useAddr,
      need, encBin])

theorem RoundTrip.vmad (c d a b e) : RoundTrip.Statement (.vmad c d a b e) :=
  lane_back c (encBin 0x005 d a b e.code 0) rfl rfl 0x005 rfl (by decide) (by
    simp (disch := decide) [rawL, rawBin, rawUn, rawBin', rawTri, rawPred, rawCmp, onlyX, useOp, unusedZero, useAddr,
      need, encBin])

theorem RoundTrip.vand (c d a b) : RoundTrip.Statement (.vand c d a b) :=
  lane_back c (encBin 0x006 d a b 0 0) rfl rfl 0x006 rfl (by decide) (by
    simp (disch := decide) [rawL, rawBin, rawUn, rawBin', rawTri, rawPred, rawCmp, onlyX, useOp, unusedZero, useAddr,
      need, encBin])

theorem RoundTrip.vor (c d a b) : RoundTrip.Statement (.vor c d a b) :=
  lane_back c (encBin 0x007 d a b 0 0) rfl rfl 0x007 rfl (by decide) (by
    simp (disch := decide) [rawL, rawBin, rawUn, rawBin', rawTri, rawPred, rawCmp, onlyX, useOp, unusedZero, useAddr,
      need, encBin])

theorem RoundTrip.vxor (c d a b) : RoundTrip.Statement (.vxor c d a b) :=
  lane_back c (encBin 0x008 d a b 0 0) rfl rfl 0x008 rfl (by decide) (by
    simp (disch := decide) [rawL, rawBin, rawUn, rawBin', rawTri, rawPred, rawCmp, onlyX, useOp, unusedZero, useAddr,
      need, encBin])

theorem RoundTrip.vshl (c d a b) : RoundTrip.Statement (.vshl c d a b) :=
  lane_back c (encBin 0x009 d a b 0 0) rfl rfl 0x009 rfl (by decide) (by
    simp (disch := decide) [rawL, rawBin, rawUn, rawBin', rawTri, rawPred, rawCmp, onlyX, useOp, unusedZero, useAddr,
      need, encBin])

theorem RoundTrip.vshr (c d a b) : RoundTrip.Statement (.vshr c d a b) :=
  lane_back c (encBin 0x00a d a b 0 0) rfl rfl 0x00a rfl (by decide) (by
    simp (disch := decide) [rawL, rawBin, rawUn, rawBin', rawTri, rawPred, rawCmp, onlyX, useOp, unusedZero, useAddr,
      need, encBin])

theorem RoundTrip.vsra (c d a b) : RoundTrip.Statement (.vsra c d a b) :=
  lane_back c (encBin 0x00b d a b 0 0) rfl rfl 0x00b rfl (by decide) (by
    simp (disch := decide) [rawL, rawBin, rawUn, rawBin', rawTri, rawPred, rawCmp, onlyX, useOp, unusedZero, useAddr,
      need, encBin])

theorem RoundTrip.vmin (c d a b) : RoundTrip.Statement (.vmin c d a b) :=
  lane_back c (encBin 0x00c d a b 0 0) rfl rfl 0x00c rfl (by decide) (by
    simp (disch := decide) [rawL, rawBin, rawUn, rawBin', rawTri, rawPred, rawCmp, onlyX, useOp, unusedZero, useAddr,
      need, encBin])

theorem RoundTrip.vmax (c d a b) : RoundTrip.Statement (.vmax c d a b) :=
  lane_back c (encBin 0x00d d a b 0 0) rfl rfl 0x00d rfl (by decide) (by
    simp (disch := decide) [rawL, rawBin, rawUn, rawBin', rawTri, rawPred, rawCmp, onlyX, useOp, unusedZero, useAddr,
      need, encBin])

theorem RoundTrip.vabs (c d a) : RoundTrip.Statement (.vabs c d a) :=
  lane_back c ⟨0x00e, d.code, a.code, 0, 0, 0⟩ rfl rfl 0x00e rfl (by decide) (by
    simp (disch := decide) [rawL, rawBin, rawUn, rawBin', rawTri, rawPred, rawCmp, onlyX, useOp, unusedZero, useAddr,
      need, encBin])

theorem RoundTrip.vneg (c d a) : RoundTrip.Statement (.vneg c d a) :=
  lane_back c ⟨0x00f, d.code, a.code, 0, 0, 0⟩ rfl rfl 0x00f rfl (by decide) (by
    simp (disch := decide) [rawL, rawBin, rawUn, rawBin', rawTri, rawPred, rawCmp, onlyX, useOp, unusedZero, useAddr,
      need, encBin])

theorem RoundTrip.vpopc (c d a) : RoundTrip.Statement (.vpopc c d a) :=
  lane_back c ⟨0x010, d.code, a.code, 0, 0, 0⟩ rfl rfl 0x010 rfl (by decide) (by
    simp (disch := decide) [rawL, rawBin, rawUn, rawBin', rawTri, rawPred, rawCmp, onlyX, useOp, unusedZero, useAddr,
      need, encBin])

theorem RoundTrip.vclz (c d a) : RoundTrip.Statement (.vclz c d a) :=
  lane_back c ⟨0x011, d.code, a.code, 0, 0, 0⟩ rfl rfl 0x011 rfl (by decide) (by
    simp (disch := decide) [rawL, rawBin, rawUn, rawBin', rawTri, rawPred, rawCmp, onlyX, useOp, unusedZero, useAddr,
      need, encBin])

theorem RoundTrip.vsel (c d a b p) : RoundTrip.Statement (.vsel c d a b p) :=
  lane_back c ⟨0x012, d.code, a.code, b.code, 0, cat 0#18 p⟩ rfl rfl 0x012 rfl (by decide) (by
    have m : ((cat 0#18 p) : BitVec 22) &&& 4194288#22 = 0#22 :=
      (cat_and_zero BitVec.zero_and BitVec.and_zero)
    simp (disch := decide) [rawL, rawBin, rawUn, rawBin', rawTri, rawPred, rawCmp, onlyX, useOp, unusedZero, useAddr,
      need, encBin, m])

theorem RoundTrip.vmov (c d a) : RoundTrip.Statement (.vmov c d a) :=
  lane_back c ⟨0x013, d.code, a.code, 0, 0, 0⟩ rfl rfl 0x013 rfl (by decide) (by
    simp (disch := decide) [rawL, rawBin, rawUn, rawBin', rawTri, rawPred, rawCmp, onlyX, useOp, unusedZero, useAddr,
      need, encBin])

theorem RoundTrip.vli (c d a hi i) : RoundTrip.Statement (.vli c d a hi i) :=
  lane_back c ⟨0x014, d.code, a.code, 0, 0, cat 0x10#5 (cat (b1 hi) i)⟩ rfl rfl 0x014 rfl (by decide) (by
    simp (disch := decide) [rawL, rawBin, rawUn, rawBin', rawTri, rawPred, rawCmp, onlyX, useOp, unusedZero, useAddr,
      need, encBin, show bit 16#5 4 = true from rfl, show fld 16#5 0 4 = 0#4 from rfl])

theorem RoundTrip.vsr (c d s) : RoundTrip.Statement (.vsr c d s) :=
  lane_back c ⟨0x015, d.code, 0, 0, 0, cat 0#19 s⟩ rfl rfl 0x015 rfl (by decide) (by
    simp (disch := decide) [rawL, rawBin, rawUn, rawBin', rawTri, rawPred, rawCmp, onlyX, useOp, unusedZero, useAddr,
      need, encBin])

theorem RoundTrip.vaddsat (c d a b) : RoundTrip.Statement (.vaddsat c d a b) :=
  lane_back c (encBin 0x016 d a b 0 0) rfl rfl 0x016 rfl (by decide) (by
    simp (disch := decide) [rawL, rawBin, rawUn, rawBin', rawTri, rawPred, rawCmp, onlyX, useOp, unusedZero, useAddr,
      need, encBin])

theorem RoundTrip.vcmp (c a b t u k) : RoundTrip.Statement (.vcmp c a b t u k) :=
  lane_back c ⟨0x040, 0, a.code, b.code, 0, cat 0#11 (cat k (cat u t))⟩ rfl rfl 0x040 rfl (by decide) (by
    simp (disch := decide) [rawL, rawBin, rawUn, rawBin', rawTri, rawPred, rawCmp, onlyX, useOp, unusedZero, useAddr,
      need, encBin])

theorem RoundTrip.fcmp (c a b t u k) : RoundTrip.Statement (.fcmp c a b t u k) :=
  lane_back c ⟨0x041, 0, a.code, b.code, 0, cat 0#11 (cat k (cat u t))⟩ rfl rfl 0x041 rfl (by decide) (by
    simp (disch := decide) [rawL, rawBin, rawUn, rawBin', rawTri, rawPred, rawCmp, onlyX, useOp, unusedZero, useAddr,
      need, encBin])

theorem RoundTrip.pand (c t p q) : RoundTrip.Statement (.pand c t p q) :=
  lane_back c ⟨0x042, 0, 0, 0, 0, cat 0#10 (cat q (cat p t))⟩ rfl rfl 0x042 rfl (by decide) (by
    simp (disch := decide) [rawL, rawBin, rawUn, rawBin', rawTri, rawPred, rawCmp, onlyX, useOp, unusedZero, useAddr,
      need, encBin])

theorem RoundTrip.por (c t p q) : RoundTrip.Statement (.por c t p q) :=
  lane_back c ⟨0x043, 0, 0, 0, 0, cat 0#10 (cat q (cat p t))⟩ rfl rfl 0x043 rfl (by decide) (by
    simp (disch := decide) [rawL, rawBin, rawUn, rawBin', rawTri, rawPred, rawCmp, onlyX, useOp, unusedZero, useAddr,
      need, encBin])

theorem RoundTrip.pxor (c t p q) : RoundTrip.Statement (.pxor c t p q) :=
  lane_back c ⟨0x044, 0, 0, 0, 0, cat 0#10 (cat q (cat p t))⟩ rfl rfl 0x044 rfl (by decide) (by
    simp (disch := decide) [rawL, rawBin, rawUn, rawBin', rawTri, rawPred, rawCmp, onlyX, useOp, unusedZero, useAddr,
      need, encBin])

theorem RoundTrip.pandn (c t p q) : RoundTrip.Statement (.pandn c t p q) :=
  lane_back c ⟨0x045, 0, 0, 0, 0, cat 0#10 (cat q (cat p t))⟩ rfl rfl 0x045 rfl (by decide) (by
    simp (disch := decide) [rawL, rawBin, rawUn, rawBin', rawTri, rawPred, rawCmp, onlyX, useOp, unusedZero, useAddr,
      need, encBin])

theorem RoundTrip.pfromv (c t a) : RoundTrip.Statement (.pfromv c t a) :=
  lane_back c ⟨0x046, 0, a.code, 0, 0, cat 0#18 t⟩ rfl rfl 0x046 rfl (by decide) (by
    simp (disch := decide) [rawL, rawBin, rawUn, rawBin', rawTri, rawPred, rawCmp, onlyX, useOp, unusedZero, useAddr,
      need, encBin])

theorem RoundTrip.vfromp (c d p f) : RoundTrip.Statement (.vfromp c d p f) :=
  lane_back c ⟨0x047, d.code, 0, 0, 0, cat 0#16 (cat f p)⟩ rfl rfl 0x047 rfl (by decide) (by
    simp (disch := decide) [rawL, rawBin, rawUn, rawBin', rawTri, rawPred, rawCmp, onlyX, useOp, unusedZero, useAddr,
      need, encBin])

theorem RoundTrip.xmrd (c d) : RoundTrip.Statement (.xmrd c d) :=
  lane_back c ⟨0x048, d.code, 0, 0, 0, 0⟩ rfl rfl 0x048 rfl (by decide) (by
    simp (disch := decide) [rawL, rawBin, rawUn, rawBin', rawTri, rawPred, rawCmp, onlyX, useOp, unusedZero, useAddr,
      need, encBin])

theorem RoundTrip.xmwr (c a p f) : RoundTrip.Statement (.xmwr c a p f) :=
  lane_back c ⟨0x049, 0, a.code, 0, 0, cat 0#16 (cat f p)⟩ rfl rfl 0x049 rfl (by decide) (by
    simp (disch := decide) [rawL, rawBin, rawUn, rawBin', rawTri, rawPred, rawCmp, onlyX, useOp, unusedZero, useAddr,
      need, encBin])

theorem RoundTrip.fadd (c d a b) : RoundTrip.Statement (.fadd c d a b) :=
  lane_back c ⟨0x080, d.code, a.code, b.code, 0, 0⟩ rfl rfl 0x080 rfl (by decide) (by
    simp (disch := decide) [rawL, rawBin, rawUn, rawBin', rawTri, rawPred, rawCmp, onlyX, useOp, unusedZero, useAddr,
      need, encBin])

theorem RoundTrip.fsub (c d a b) : RoundTrip.Statement (.fsub c d a b) :=
  lane_back c ⟨0x081, d.code, a.code, b.code, 0, 0⟩ rfl rfl 0x081 rfl (by decide) (by
    simp (disch := decide) [rawL, rawBin, rawUn, rawBin', rawTri, rawPred, rawCmp, onlyX, useOp, unusedZero, useAddr,
      need, encBin])

theorem RoundTrip.fmul (c d a b) : RoundTrip.Statement (.fmul c d a b) :=
  lane_back c ⟨0x082, d.code, a.code, b.code, 0, 0⟩ rfl rfl 0x082 rfl (by decide) (by
    simp (disch := decide) [rawL, rawBin, rawUn, rawBin', rawTri, rawPred, rawCmp, onlyX, useOp, unusedZero, useAddr,
      need, encBin])

theorem RoundTrip.ffma (c d a b e) : RoundTrip.Statement (.ffma c d a b e) :=
  lane_back c ⟨0x083, d.code, a.code, b.code, e.code, 0⟩ rfl rfl 0x083 rfl (by decide) (by
    simp (disch := decide) [rawL, rawBin, rawUn, rawBin', rawTri, rawPred, rawCmp, onlyX, useOp, unusedZero, useAddr,
      need, encBin])

theorem RoundTrip.fmin (c d a b) : RoundTrip.Statement (.fmin c d a b) :=
  lane_back c ⟨0x084, d.code, a.code, b.code, 0, 0⟩ rfl rfl 0x084 rfl (by decide) (by
    simp (disch := decide) [rawL, rawBin, rawUn, rawBin', rawTri, rawPred, rawCmp, onlyX, useOp, unusedZero, useAddr,
      need, encBin])

theorem RoundTrip.fmax (c d a b) : RoundTrip.Statement (.fmax c d a b) :=
  lane_back c ⟨0x085, d.code, a.code, b.code, 0, 0⟩ rfl rfl 0x085 rfl (by decide) (by
    simp (disch := decide) [rawL, rawBin, rawUn, rawBin', rawTri, rawPred, rawCmp, onlyX, useOp, unusedZero, useAddr,
      need, encBin])

theorem RoundTrip.frnd (c d a) : RoundTrip.Statement (.frnd c d a) :=
  lane_back c ⟨0x086, d.code, a.code, 0, 0, 0⟩ rfl rfl 0x086 rfl (by decide) (by
    simp (disch := decide) [rawL, rawBin, rawUn, rawBin', rawTri, rawPred, rawCmp, onlyX, useOp, unusedZero, useAddr,
      need, encBin])

theorem RoundTrip.hadd2 (c d a b) : RoundTrip.Statement (.hadd2 c d a b) :=
  lane_back c ⟨0x0c0, d.code, a.code, b.code, 0, 0⟩ rfl rfl 0x0c0 rfl (by decide) (by
    simp (disch := decide) [rawL, rawBin, rawUn, rawBin', rawTri, rawPred, rawCmp, onlyX, useOp, unusedZero, useAddr,
      need, encBin])

theorem RoundTrip.hsub2 (c d a b) : RoundTrip.Statement (.hsub2 c d a b) :=
  lane_back c ⟨0x0c1, d.code, a.code, b.code, 0, 0⟩ rfl rfl 0x0c1 rfl (by decide) (by
    simp (disch := decide) [rawL, rawBin, rawUn, rawBin', rawTri, rawPred, rawCmp, onlyX, useOp, unusedZero, useAddr,
      need, encBin])

theorem RoundTrip.hmul2 (c d a b) : RoundTrip.Statement (.hmul2 c d a b) :=
  lane_back c ⟨0x0c2, d.code, a.code, b.code, 0, 0⟩ rfl rfl 0x0c2 rfl (by decide) (by
    simp (disch := decide) [rawL, rawBin, rawUn, rawBin', rawTri, rawPred, rawCmp, onlyX, useOp, unusedZero, useAddr,
      need, encBin])

theorem RoundTrip.hfma2 (c d a b e) : RoundTrip.Statement (.hfma2 c d a b e) :=
  lane_back c ⟨0x0c3, d.code, a.code, b.code, e.code, 0⟩ rfl rfl 0x0c3 rfl (by decide) (by
    simp (disch := decide) [rawL, rawBin, rawUn, rawBin', rawTri, rawPred, rawCmp, onlyX, useOp, unusedZero, useAddr,
      need, encBin])

theorem RoundTrip.hmin2 (c d a b) : RoundTrip.Statement (.hmin2 c d a b) :=
  lane_back c ⟨0x0c4, d.code, a.code, b.code, 0, 0⟩ rfl rfl 0x0c4 rfl (by decide) (by
    simp (disch := decide) [rawL, rawBin, rawUn, rawBin', rawTri, rawPred, rawCmp, onlyX, useOp, unusedZero, useAddr,
      need, encBin])

theorem RoundTrip.hmax2 (c d a b) : RoundTrip.Statement (.hmax2 c d a b) :=
  lane_back c ⟨0x0c5, d.code, a.code, b.code, 0, 0⟩ rfl rfl 0x0c5 rfl (by decide) (by
    simp (disch := decide) [rawL, rawBin, rawUn, rawBin', rawTri, rawPred, rawCmp, onlyX, useOp, unusedZero, useAddr,
      need, encBin])

theorem RoundTrip.hdot2 (c d a b e) : RoundTrip.Statement (.hdot2 c d a b e) :=
  lane_back c ⟨0x0c6, d.code, a.code, b.code, e.code, 0⟩ rfl rfl 0x0c6 rfl (by decide) (by
    simp (disch := decide) [rawL, rawBin, rawUn, rawBin', rawTri, rawPred, rawCmp, onlyX, useOp, unusedZero, useAddr,
      need, encBin])

theorem RoundTrip.frcp (c d a) : RoundTrip.Statement (.frcp c d a) :=
  lane_back c ⟨0x100, d.code, a.code, 0, 0, 0⟩ rfl rfl 0x100 rfl (by decide) (by
    simp (disch := decide) [rawL, rawBin, rawUn, rawBin', rawTri, rawPred, rawCmp, onlyX, useOp, unusedZero, useAddr,
      need, encBin])

theorem RoundTrip.frsq (c d a) : RoundTrip.Statement (.frsq c d a) :=
  lane_back c ⟨0x101, d.code, a.code, 0, 0, 0⟩ rfl rfl 0x101 rfl (by decide) (by
    simp (disch := decide) [rawL, rawBin, rawUn, rawBin', rawTri, rawPred, rawCmp, onlyX, useOp, unusedZero, useAddr,
      need, encBin])

theorem RoundTrip.fsqrt (c d a) : RoundTrip.Statement (.fsqrt c d a) :=
  lane_back c ⟨0x102, d.code, a.code, 0, 0, 0⟩ rfl rfl 0x102 rfl (by decide) (by
    simp (disch := decide) [rawL, rawBin, rawUn, rawBin', rawTri, rawPred, rawCmp, onlyX, useOp, unusedZero, useAddr,
      need, encBin])

theorem RoundTrip.fexp2 (c d a) : RoundTrip.Statement (.fexp2 c d a) :=
  lane_back c ⟨0x103, d.code, a.code, 0, 0, 0⟩ rfl rfl 0x103 rfl (by decide) (by
    simp (disch := decide) [rawL, rawBin, rawUn, rawBin', rawTri, rawPred, rawCmp, onlyX, useOp, unusedZero, useAddr,
      need, encBin])

theorem RoundTrip.flog2 (c d a) : RoundTrip.Statement (.flog2 c d a) :=
  lane_back c ⟨0x104, d.code, a.code, 0, 0, 0⟩ rfl rfl 0x104 rfl (by decide) (by
    simp (disch := decide) [rawL, rawBin, rawUn, rawBin', rawTri, rawPred, rawCmp, onlyX, useOp, unusedZero, useAddr,
      need, encBin])

theorem RoundTrip.fsin (c d a) : RoundTrip.Statement (.fsin c d a) :=
  lane_back c ⟨0x105, d.code, a.code, 0, 0, 0⟩ rfl rfl 0x105 rfl (by decide) (by
    simp (disch := decide) [rawL, rawBin, rawUn, rawBin', rawTri, rawPred, rawCmp, onlyX, useOp, unusedZero, useAddr,
      need, encBin])

theorem RoundTrip.fcos (c d a) : RoundTrip.Statement (.fcos c d a) :=
  lane_back c ⟨0x106, d.code, a.code, 0, 0, 0⟩ rfl rfl 0x106 rfl (by decide) (by
    simp (disch := decide) [rawL, rawBin, rawUn, rawBin', rawTri, rawPred, rawCmp, onlyX, useOp, unusedZero, useAddr,
      need, encBin])

theorem RoundTrip.ftanh (c d a) : RoundTrip.Statement (.ftanh c d a) :=
  lane_back c ⟨0x107, d.code, a.code, 0, 0, 0⟩ rfl rfl 0x107 rfl (by decide) (by
    simp (disch := decide) [rawL, rawBin, rawUn, rawBin', rawTri, rawPred, rawCmp, onlyX, useOp, unusedZero, useAddr,
      need, encBin])

theorem RoundTrip.cvt (c d a b e t s z) : RoundTrip.Statement (.cvt c d a b e t s z) :=
  lane_back c ⟨0x140, d.code, a.code, b.code, e.code, cat 0#15 (cat (b1 z) (cat s t))⟩ rfl rfl 0x140 rfl (by decide) (by
    have m : ((cat 0#15 (cat (b1 z) (cat s t))) : BitVec 22) &&& 4194176#22 = 0#22 :=
      (cat_and_zero BitVec.zero_and (cat_and_zero BitVec.and_zero (cat_and_zero BitVec.and_zero BitVec.and_zero)))
    simp (disch := decide) [rawL, rawBin, rawUn, rawBin', rawTri, rawPred, rawCmp, onlyX, useOp, unusedZero, useAddr,
      need, encBin, m])

theorem RoundTrip.qpack (c d a b e s p) : RoundTrip.Statement (.qpack c d a b e s p) :=
  lane_back c ⟨0x141, d.code, a.code, b.code, e.code, cat 0#14 (cat s p)⟩ rfl rfl 0x141 rfl (by decide) (by
    have m : ((cat 0#14 (cat s p)) : BitVec 22) &&& 4194048#22 = 0#22 :=
      (cat_and_zero BitVec.zero_and (cat_and_zero BitVec.and_zero BitVec.and_zero))
    simp (disch := decide) [rawL, rawBin, rawUn, rawBin', rawTri, rawPred, rawCmp, onlyX, useOp, unusedZero, useAddr,
      need, encBin, m])

theorem RoundTrip.qunpk (c d a b s p) : RoundTrip.Statement (.qunpk c d a b s p) :=
  lane_back c ⟨0x142, d.code, a.code, b.code, 0, cat 0#14 (cat s p)⟩ rfl rfl 0x142 rfl (by decide) (by
    have m : ((cat 0#14 (cat s p)) : BitVec 22) &&& 4194048#22 = 0#22 :=
      (cat_and_zero BitVec.zero_and (cat_and_zero BitVec.and_zero BitVec.and_zero))
    simp (disch := decide) [rawL, rawBin, rawUn, rawBin', rawTri, rawPred, rawCmp, onlyX, useOp, unusedZero, useAddr,
      need, encBin, m])

theorem RoundTrip.shfl (c d a b m) : RoundTrip.Statement (.shfl c d a b m) :=
  lane_back c (encBin 0x180 d a b 0 (cat 0#1 (cat m 0#19))) rfl rfl 0x180 rfl (by decide) (by
    simp (disch := decide) [rawL, rawBin, rawUn, rawBin', rawTri, rawPred, rawCmp, onlyX, useOp, unusedZero, useAddr,
      need, encBin]
    rw [useB_shfl, fields_shfl])

theorem RoundTrip.vote (c d p k q) : RoundTrip.Statement (.vote c d p k q) :=
  lane_back c ⟨0x181, d.code, 0, 0, 0, cat 0#15 (cat (b1 q) (cat k p))⟩ rfl rfl 0x181 rfl (by decide) (by
    have m : ((cat 0#15 (cat (b1 q) (cat k p))) : BitVec 22) &&& 4194176#22 = 0#22 :=
      (cat_and_zero BitVec.zero_and (cat_and_zero BitVec.and_zero (cat_and_zero BitVec.and_zero BitVec.and_zero)))
    simp (disch := decide) [rawL, rawBin, rawUn, rawBin', rawTri, rawPred, rawCmp, onlyX, useOp, unusedZero, useAddr,
      need, encBin, m])

theorem RoundTrip.vred (c d a o) : RoundTrip.Statement (.vred c d a o) :=
  lane_back c ⟨0x182, d.code, a.code, 0, 0, cat 0#19 o⟩ rfl rfl 0x182 rfl (by decide) (by
    have m : ((cat 0#19 o) : BitVec 22) &&& 4194296#22 = 0#22 :=
      (cat_and_zero BitVec.zero_and BitVec.and_zero)
    simp (disch := decide) [rawL, rawBin, rawUn, rawBin', rawTri, rawPred, rawCmp, onlyX, useOp, unusedZero, useAddr,
      need, encBin, m])

theorem RoundTrip.vscan (c d a o x) : RoundTrip.Statement (.vscan c d a o x) :=
  lane_back c ⟨0x183, d.code, a.code, 0, 0, cat 0#18 (cat (b1 x) o)⟩ rfl rfl 0x183 rfl (by decide) (by
    have m : ((cat 0#18 (cat (b1 x) o)) : BitVec 22) &&& 4194288#22 = 0#22 :=
      (cat_and_zero BitVec.zero_and (cat_and_zero BitVec.and_zero BitVec.and_zero))
    simp (disch := decide) [rawL, rawBin, rawUn, rawBin', rawTri, rawPred, rawCmp, onlyX, useOp, unusedZero, useAddr,
      need, encBin, m])

theorem RoundTrip.vmovx (c d a p x) : RoundTrip.Statement (.vmovx c d a p x) :=
  lane_back c ⟨0x184, d.code, a.code, 0, 0, cat 0#17 (cat (b1 x) p)⟩ rfl rfl 0x184 rfl (by decide) (by
    have m : ((cat 0#17 (cat (b1 x) p)) : BitVec 22) &&& 4194272#22 = 0#22 :=
      (cat_and_zero BitVec.zero_and (cat_and_zero BitVec.and_zero BitVec.and_zero))
    simp (disch := decide) [rawL, rawBin, rawUn, rawBin', rawTri, rawPred, rawCmp, onlyX, useOp, unusedZero, useAddr,
      need, encBin, m])

theorem RoundTrip.vld (c d a m z o) : RoundTrip.Statement (.vld c d a m z o) :=
  lane_back c ⟨0x1c0, d.code, a.code, 0, 0, m.x z o⟩ rfl rfl 0x1c0 rfl (by decide) (by
    simp (disch := decide) [rawL, rawBin, rawUn, rawBin', rawTri, rawPred, rawCmp, onlyX, useOp, unusedZero, useAddr,
      need, encBin])

theorem RoundTrip.vst (c a e m z o) : RoundTrip.Statement (.vst c a e m z o) :=
  lane_back c ⟨0x1c1, 0, a.code, 0, e.code, m.x z o⟩ rfl rfl 0x1c1 rfl (by decide) (by
    simp (disch := decide) [rawL, rawBin, rawUn, rawBin', rawTri, rawPred, rawCmp, onlyX, useOp, unusedZero, useAddr,
      need, encBin])

theorem RoundTrip.vatom (c d a b e m p o) : RoundTrip.Statement (.vatom c d a b e m p o) :=
  lane_back c ⟨0x1c2, d.code, a.code, b.code, e.code, m.xAtom p o⟩ rfl rfl 0x1c2 rfl (by decide) (by
    simp (disch := decide) [rawL, rawBin, rawUn, rawBin', rawTri, rawPred, rawCmp, onlyX, useOp, unusedZero, useAddr,
      need, encBin])

theorem RoundTrip.tidx (c d a s n) : RoundTrip.Statement (.tidx c d a s n) :=
  lane_back c ⟨0x200, d.code, a.code, 0, 0, cat 0#11 (cat n s)⟩ rfl rfl 0x200 rfl (by decide) (by
    have m : ((cat 0#11 (cat n s)) : BitVec 22) &&& 4192256#22 = 0#22 :=
      (cat_and_zero BitVec.zero_and (cat_and_zero BitVec.and_zero BitVec.and_zero))
    simp (disch := decide) [rawL, rawBin, rawUn, rawBin', rawTri, rawPred, rawCmp, onlyX, useOp, unusedZero, useAddr,
      need, encBin, m])

theorem RoundTrip.hfromv (c a h) : RoundTrip.Statement (.hfromv c a h) :=
  lane_back c ⟨0x240, 0, a.code, 0, 0, cat 0#19 h⟩ rfl rfl 0x240 rfl (by decide) (by
    have m : ((cat 0#19 h) : BitVec 22) &&& 4194296#22 = 0#22 :=
      (cat_and_zero BitVec.zero_and BitVec.and_zero)
    simp (disch := decide) [rawL, rawBin, rawUn, rawBin', rawTri, rawPred, rawCmp, onlyX, useOp, unusedZero, useAddr,
      need, encBin, m])

theorem RoundTrip.htov (c d h) : RoundTrip.Statement (.htov c d h) :=
  lane_back c ⟨0x241, d.code, 0, 0, 0, cat 0#16 (cat h 0#3)⟩ rfl rfl 0x241 rfl (by decide) (by
    have m : ((cat 0#16 (cat h 0#3)) : BitVec 22) &&& 4194247#22 = 0#22 :=
      (cat_and_zero BitVec.zero_and (cat_and_zero BitVec.and_zero BitVec.zero_and))
    simp (disch := decide) [rawL, rawBin, rawUn, rawBin', rawTri, rawPred, rawCmp, onlyX, useOp, unusedZero, useAddr,
      need, encBin, m])

theorem RoundTrip.hld (c a n s h o) : RoundTrip.Statement (.hld c a n s h o) :=
  lane_back c ⟨0x242, 0, a.code, 0, 0, cat 0#1 (cat n (cat s (cat h o)))⟩ rfl rfl 0x242 rfl (by decide) (by
    simp (disch := decide) [rawL, rawBin, rawUn, rawBin', rawTri, rawPred, rawCmp, onlyX, useOp, unusedZero, useAddr,
      need, encBin])

theorem RoundTrip.hst (c a n s h o) : RoundTrip.Statement (.hst c a n s h o) :=
  lane_back c ⟨0x243, 0, a.code, 0, 0, cat 0#1 (cat n (cat s (cat h o)))⟩ rfl rfl 0x243 rfl (by decide) (by
    simp (disch := decide) [rawL, rawBin, rawUn, rawBin', rawTri, rawPred, rawCmp, onlyX, useOp, unusedZero, useAddr,
      need, encBin])

theorem RoundTrip.hxor (c d a b) : RoundTrip.Statement (.hxor c d a b) :=
  lane_back c ⟨0x244, 0, 0, 0, 0, cat 0#13 (cat b (cat a d))⟩ rfl rfl 0x244 rfl (by decide) (by
    have m : ((cat 0#13 (cat b (cat a d))) : BitVec 22) &&& 4193792#22 = 0#22 :=
      (cat_and_zero BitVec.zero_and (cat_and_zero BitVec.and_zero (cat_and_zero BitVec.and_zero BitVec.and_zero)))
    simp (disch := decide) [rawL, rawBin, rawUn, rawBin', rawTri, rawPred, rawCmp, onlyX, useOp, unusedZero, useAddr,
      need, encBin, m])

theorem RoundTrip.hrot (c d a n) : RoundTrip.Statement (.hrot c d a n) :=
  lane_back c ⟨0x245, 0, 0, 0, 0, cat 0#1 (cat n (cat 0#3 (cat a d)))⟩ rfl rfl 0x245 rfl (by decide) (by
    have m : ((cat 0#1 (cat n (cat 0#3 (cat a d)))) : BitVec 22) &&& 2097600#22 = 0#22 :=
      (cat_and_zero BitVec.zero_and (cat_and_zero BitVec.and_zero (cat_and_zero BitVec.zero_and (cat_and_zero BitVec.and_zero BitVec.and_zero))))
    simp (disch := decide) [rawL, rawBin, rawUn, rawBin', rawTri, rawPred, rawCmp, onlyX, useOp, unusedZero, useAddr,
      need, encBin, m])

theorem RoundTrip.hbun (c a k w n) : RoundTrip.Statement (.hbun c a k w n) :=
  lane_back c ⟨0x246, 0, 0, 0, 0, cat 0#8 (cat (b1 n) (cat w (cat k (cat 0#3 (cat a 0#3)))))⟩ rfl rfl 0x246 rfl (by decide) (by
    have m : ((cat 0#8 (cat (b1 n) (cat w (cat k (cat 0#3 (cat a 0#3)))))) : BitVec 22) &&& 4178375#22 = 0#22 :=
      (cat_and_zero BitVec.zero_and (cat_and_zero BitVec.and_zero (cat_and_zero BitVec.and_zero (cat_and_zero BitVec.and_zero (cat_and_zero BitVec.zero_and (cat_and_zero BitVec.and_zero BitVec.zero_and))))))
    simp (disch := decide) [rawL, rawBin, rawUn, rawBin', rawTri, rawPred, rawCmp, onlyX, useOp, unusedZero, useAddr,
      need, encBin, m])

theorem RoundTrip.hthr (c d t k) : RoundTrip.Statement (.hthr c d t k) :=
  lane_back c ⟨0x247, 0, 0, 0, 0, cat 0#12 (cat k (cat t (cat 0#3 d)))⟩ rfl rfl 0x247 rfl (by decide) (by
    have m : ((cat 0#12 (cat k (cat t (cat 0#3 d)))) : BitVec 22) &&& 4193336#22 = 0#22 :=
      (cat_and_zero BitVec.zero_and (cat_and_zero BitVec.and_zero (cat_and_zero BitVec.and_zero (cat_and_zero BitVec.zero_and BitVec.and_zero))))
    simp (disch := decide) [rawL, rawBin, rawUn, rawBin', rawTri, rawPred, rawCmp, onlyX, useOp, unusedZero, useAddr,
      need, encBin, m])

theorem RoundTrip.hkclr (c k) : RoundTrip.Statement (.hkclr c k) :=
  lane_back c ⟨0x248, 0, 0, 0, 0, cat 0#12 (cat k 0#9)⟩ rfl rfl 0x248 rfl (by decide) (by
    have m : ((cat 0#12 (cat k 0#9)) : BitVec 22) &&& 4193791#22 = 0#22 :=
      (cat_and_zero BitVec.zero_and (cat_and_zero BitVec.and_zero BitVec.zero_and))
    simp (disch := decide) [rawL, rawBin, rawUn, rawBin', rawTri, rawPred, rawCmp, onlyX, useOp, unusedZero, useAddr,
      need, encBin, m])

theorem RoundTrip.hdist (c d a b) : RoundTrip.Statement (.hdist c d a b) :=
  lane_back c ⟨0x249, d.code, 0, 0, 0, cat 0#13 (cat b (cat a 0#3))⟩ rfl rfl 0x249 rfl (by decide) (by
    have m : ((cat 0#13 (cat b (cat a 0#3))) : BitVec 22) &&& 4193799#22 = 0#22 :=
      (cat_and_zero BitVec.zero_and (cat_and_zero BitVec.and_zero (cat_and_zero BitVec.and_zero BitVec.zero_and)))
    simp (disch := decide) [rawL, rawBin, rawUn, rawBin', rawTri, rawPred, rawCmp, onlyX, useOp, unusedZero, useAddr,
      need, encBin, m])

theorem RoundTrip.hnear (c d a b h) : RoundTrip.Statement (.hnear c d a b h) :=
  lane_back c (encBin 0x24a d a b 0 (cat 0#3 (cat h 0#16))) rfl rfl 0x24a rfl (by decide) (by
    simp (disch := decide) [rawL, rawBin, rawUn, rawBin', rawTri, rawPred, rawCmp, onlyX, useOp, unusedZero, useAddr,
      need, encBin]
    rw [useB_hv, fields_hv])

theorem RoundTrip.hput (c b h) : RoundTrip.Statement (.hput c b h) :=
  lane_back c ⟨0x24b, 0, 0, b.fields.1, 0, b.fields.2 ||| (cat 0#3 (cat h 0#16))⟩ rfl rfl 0x24b rfl (by decide) (by
    simp (disch := decide) [rawL, rawBin, rawUn, rawBin', rawTri, rawPred, rawCmp, onlyX, useOp, unusedZero, useAddr,
      need, encBin]
    rw [useB_hv, fields_hv])

theorem RoundTrip.laneBlockCompletion (warp) : RoundTrip.Statement (.laneBlockCompletion warp) := step_back rfl

theorem RoundTrip.affineStreamPush (warp q) : RoundTrip.Statement (.affineStreamPush warp q) := step_back rfl

theorem RoundTrip.launchQueueTailWrite (fn q value) : RoundTrip.Statement (.launchQueueTailWrite fn q value) := step_back rfl

theorem RoundTrip.launchRecordRead (src) : RoundTrip.Statement (.launchRecordRead src) := step_back rfl

theorem RoundTrip.deviceLaunchPass (core) : RoundTrip.Statement (.deviceLaunchPass core) := step_back rfl

theorem RoundTrip.lqstart (fn q value) : RoundTrip.Statement (.lqstart fn q value) := step_back rfl

theorem RoundTrip.blockExit (block) : RoundTrip.Statement (.blockExit block) := step_back rfl

theorem RoundTrip.gridCompletion (grid) : RoundTrip.Statement (.gridCompletion grid) := step_back rfl

theorem RoundTrip.strokeLaunch (crew) : RoundTrip.Statement (.strokeLaunch crew) := step_back rfl

theorem RoundTrip.templateCopyIssue (crew) : RoundTrip.Statement (.templateCopyIssue crew) := step_back rfl

theorem RoundTrip.strokeRetire (crew) : RoundTrip.Statement (.strokeRetire crew) := step_back rfl

theorem RoundTrip.outSlotRelease (crew) : RoundTrip.Statement (.outSlotRelease crew) := step_back rfl

theorem RoundTrip.strokeCommit (crew) : RoundTrip.Statement (.strokeCommit crew) := step_back rfl

theorem RoundTrip.engineCommandStart (core queue) : RoundTrip.Statement (.engineCommandStart core queue) := step_back rfl

theorem RoundTrip.copyPieceLanding (core) : RoundTrip.Statement (.copyPieceLanding core) := step_back rfl

theorem RoundTrip.engineCommandCompletion (core queue) : RoundTrip.Statement (.engineCommandCompletion core queue) := step_back rfl

theorem RoundTrip.releaseWave (core) : RoundTrip.Statement (.releaseWave core) := step_back rfl

theorem RoundTrip.trapEntry (warp) : RoundTrip.Statement (.trapEntry warp) := step_back rfl

theorem RoundTrip.faultResolution (target r) : RoundTrip.Statement (.faultResolution target r) := step_back rfl

theorem RoundTrip.formatEmulation (warp has) : RoundTrip.Statement (.formatEmulation warp has) := step_back rfl

theorem RoundTrip.stallSwapOut (grid gang) : RoundTrip.Statement (.stallSwapOut grid gang) := step_back rfl

theorem RoundTrip.waitingBlockSwap (grid) : RoundTrip.Statement (.waitingBlockSwap grid) := step_back rfl

theorem RoundTrip.blockRestore (ctx frame) : RoundTrip.Statement (.blockRestore ctx frame) := step_back rfl

theorem RoundTrip.blockRelaunch (block) : RoundTrip.Statement (.blockRelaunch block) := step_back rfl

theorem RoundTrip.preemptionRequest (ctx) : RoundTrip.Statement (.preemptionRequest ctx) := step_back rfl

theorem RoundTrip.preemptionSave (ctx) : RoundTrip.Statement (.preemptionSave ctx) := step_back rfl

theorem RoundTrip.contextReset (ctx) : RoundTrip.Statement (.contextReset ctx) := step_back rfl

theorem RoundTrip.qreset (value) : RoundTrip.Statement (.qreset value) := step_back rfl

theorem RoundTrip.dlconsWrite (vf value) : RoundTrip.Statement (.dlconsWrite vf value) := step_back rfl

theorem RoundTrip.writeBackScan (ctx va) : RoundTrip.Statement (.writeBackScan ctx va) := step_back rfl

theorem RoundTrip.classChange (domain cls) : RoundTrip.Statement (.classChange domain cls) := step_back rfl

theorem RoundTrip.classChangeEffect (domain) : RoundTrip.Statement (.classChangeEffect domain) := step_back rfl

theorem RoundTrip.supplySag (cluster) : RoundTrip.Statement (.supplySag cluster) := step_back rfl

theorem RoundTrip.eccError (site correctable) : RoundTrip.Statement (.eccError site correctable) := step_back rfl

theorem RoundTrip.selfTestCompletion (u pass) : RoundTrip.Statement (.selfTestCompletion u pass) := step_back rfl

theorem RoundTrip.peerTimeout (target) : RoundTrip.Statement (.peerTimeout target) := step_back rfl

theorem RoundTrip.redfishRequest (r) : RoundTrip.Statement (.redfishRequest r) := step_back rfl

theorem RoundTrip.challenge (nonce) : RoundTrip.Statement (.challenge nonce) := step_back rfl

theorem RoundTrip.registerWrite (fn off value) : RoundTrip.Statement (.registerWrite fn off value) := step_back rfl

theorem RoundTrip.writeLands (warp) : RoundTrip.Statement (.writeLands warp) := step_back rfl

theorem RoundTrip.contextRelease (ctx) : RoundTrip.Statement (.contextRelease ctx) := step_back rfl

theorem RoundTrip.contextReadmission (ctx) : RoundTrip.Statement (.contextReadmission ctx) := step_back rfl

theorem RoundTrip.railRecovers (cluster) : RoundTrip.Statement (.railRecovers cluster) := step_back rfl

theorem RoundTrip.thermalBandChange (cluster band) : RoundTrip.Statement (.thermalBandChange cluster band) := step_back rfl

theorem RoundTrip.peerPackageAccess (a) : RoundTrip.Statement (.peerPackageAccess a) := step_back rfl

theorem RoundTrip.gangPlacement : RoundTrip.Statement (.gangPlacement) := step_back rfl

theorem RoundTrip.controlInterval : RoundTrip.Statement (.controlInterval) := step_back rfl

theorem RoundTrip.pursePeriod : RoundTrip.Statement (.pursePeriod) := step_back rfl

theorem RoundTrip.powerOn : RoundTrip.Statement (.powerOn) := step_back rfl

theorem RoundTrip.getCertificate : RoundTrip.Statement (.getCertificate) := step_back rfl

theorem RoundTrip.getMeasurements : RoundTrip.Statement (.getMeasurements) := step_back rfl

end Sys2Proof.Laws
end

