-- ==== Sys2Proof/Laws/Purses.lean ====
section
/-!
SUPPORT. Sys2Proof/Laws/Purses.lean: what the payment of the slots a step asks for and the transfers of the fabric can do.
-/
namespace Sys2Proof.Machine

/-- A purse is a matter of its domain alone. -/
@[simp] theorem spendPurse_mem (s : State) (dom i n : Nat) : (spendPurse s dom i n).mem = s.mem := rfl
@[simp] theorem spendPurse_warps (s : State) (dom i n : Nat) : (spendPurse s dom i n).warps = s.warps := rfl
@[simp] theorem spendPurse_blocks (s : State) (dom i n : Nat) : (spendPurse s dom i n).blocks = s.blocks := rfl

/-- A bill is paid out of the domains alone. -/
theorem spendBill_frame (s : State) (bill : Tbl Nat) :
    (spendBill s bill).mem = s.mem ∧ (spendBill s bill).warps = s.warps ∧ (spendBill s bill).blocks = s.blocks := by
  unfold spendBill
  induction bill generalizing s with
  | nil => exact ⟨rfl, rfl, rfl⟩
  | cons e r ih => simpa using ih (spendPurse s (e.1 / 8) (e.1 % 8) e.2)

/-- A step that is paid for has its own effect, but for the slots it has drawn. -/
theorem paidStep_some {s t u : State} {k : Nat} (h : paidStep s t k = some u) :
    u = t ∨ (billOpen s (stepBill s t k) = true ∧
      u = (payBill t (stepBill s t k)).setWarp k { t.warpAt k with drawn := [] }) := by
  unfold paidStep at h
  split at h
  · exact .inl (Option.some.inj h).symm
  · split at h
    · exact .inr ⟨‹_›, (Option.some.inj h).symm⟩
    · cases h

/-- The payment of a step leaves memory as the step left it. -/
theorem payBill_mem (s : State) (bill : Tbl Nat) : (payBill s bill).mem = s.mem := by
  unfold payBill
  split
  · rfl
  · exact (spendBill_frame s bill).1
theorem paidStep_mem {s t u : State} {k : Nat} (h : paidStep s t k = some u) : u.mem = t.mem := by
  obtain rfl | ⟨-, rfl⟩ := paidStep_some h
  · rfl
  · exact payBill_mem t _

/-- A warp that draws slots ahead waits otherwise. -/
theorem drawAhead_some {s t u : State} {k : Nat} (h : drawAhead s t k = some u) :
    ∃ bill drawn, u = (spendBill s bill).setWarp k { (spendBill s bill).warpAt k with drawn := drawn } := by
  unfold drawAhead drawOwed at h
  obtain ⟨x, hx, rfl⟩ := Option.map_eq_some_iff.mp h
  dsimp only at hx
  split at hx
  · cases hx
  · exact ⟨_, _, by rw [← Option.some.inj hx]⟩
theorem drawAhead_mem {s t u : State} {k : Nat} (h : drawAhead s t k = some u) : u.mem = s.mem := by
  obtain ⟨bill, drawn, rfl⟩ := drawAhead_some h
  exact (spendBill_frame s bill).1

/-- A transfer of the fabric waits, behind another or for its purse, or writes its bytes; memory keeps its form. -/
theorem memOk_takeDma (s : State) (x : Dma) (h : s.memOk) : (takeDma s x).memOk := by
  unfold takeDma
  dsimp only
  split
  · exact h
  · split
    · exact wf_writeBytes x.pa x.bytes h
    · exact h
theorem memOk_serveDma (s : State) (h : s.memOk) : (serveDma s).memOk :=
  memOk_foldl takeDma memOk_takeDma s.dma { s with dma := [] } h

end Sys2Proof.Machine
end

