-- ==== Sys2Proof/Tests/Slice0.lean ====
section
/-!
SUPPORT. Sys2Proof/Tests/Slice0.lean: terms that WellFormed refuses, words written out from the spec's encodings, one
step each of small states, and a witness for the hypotheses of every statement that has some. Expected values are the
spec's or worked by hand from its rules.
-/
namespace Sys2Proof.Tests
open Sys2Proof Sys2Proof.Machine
set_option maxRecDepth 100000
set_option Elab.async false

/-- The decoder answers this instruction. -/
def reads (r : Except DecodeError Instr) (i : Instr) : Bool :=
  match r with
  | .ok j => decide (j = i)
  | .error _ => false

/-- One resident warp of one block, about to issue a scalar word, with fields of its own. -/
def scalar (f : Warp → Warp) : State :=
  let s := State.reset.withFetchWord 32 0xFE000000
  { s with agenda := [], warps := [(0, f (wordWarp false 0))] }

/-- The same warp about to issue a lane word. -/
def lanes (f : Warp → Warp) : State :=
  let s := State.reset.withFetchWord 96 0
  { s with agenda := [], warps := [(0, f (wordWarp true 0))] }

/-- Scalar registers from s1 on. -/
def regs (xs : List Word) (w : Warp) : Warp :=
  { w with s := Vector.ofFn fun i => if i.val = 0 then 0 else xs.getD (i.val - 1) 0 }

/-- An address of the warp's own scratchpad (R63). -/
def own (off : Nat) : Word := BitVec.ofNat 64 (0xFE00_0000_0000_0000 + off)

/-- What a word leaves; reset where it does not complete. -/
def after (o : Out) : State :=
  match o with
  | .next t => t
  | .fault _ | .refused _ => State.reset

/-! ### WellFormed: an ill-formed term for each check -/

/-- A lane control with a type, nothing else. -/
def ty (t : BitVec 4) : LCtl := ⟨0, 0, false, t, none⟩
/-- The same under a prefix. -/
def pf (t : BitVec 4) (rnd : BitVec 3) (e : Opnd) : LCtl := ⟨0, 0, false, t, some ⟨0, rnd, false, e⟩⟩

/-- R91: a remote option needs DEVICE or SYSTEM scope; ATOM has none (R199). -/
theorem test_wf_remote : (Instr.lda 1 2 3 .cluster true).wf = false ∧ (Instr.stl 1 2 3 .domain true).wf = false ∧
    (Instr.atom 1 2 3 .add .device true).wf = false ∧ (Instr.atoma 1 2 3 .add .warp true).wf = false ∧
    (Instr.waitv 1 2 3 .eq .block true).wf = false ∧ (Instr.lda 1 2 3 .device true).wf = true := by decide
/-- R207, R208: sizes are byte, half and word, and a word has no unsigned form. -/
theorem test_wf_dq_size : (Instr.dqld 1 2 false 3 0).wf = false ∧ (Instr.dqld 1 2 true 2 0).wf = false ∧
    (Instr.dqstrm 1 2 3 false 3 0).wf = false ∧ (Instr.dqstrm 1 2 3 true 2 0).wf = false ∧
    (Instr.dqld 1 2 true 1 0).wf = true := by decide
/-- R256 to R258: accumulator rows past 31. -/
theorem test_wf_rows : (Instr.mxa 1 0 0 0 3 29).wf = false ∧ (Instr.mxrd 1 2 7 0 25).wf = false ∧
    (Instr.mxz 7 25).wf = false ∧ (Instr.mxz 7 24).wf = true := by decide
/-- R185, R222: a type that the entry does not list. -/
theorem test_wf_type : (Instr.vadd (ty 2) (.v 1) (.v 2) (.op (.v 3))).wf = false ∧
    (Instr.vadd (ty 9) (.v 1) (.v 2) (.op (.v 3))).wf = false ∧ (Instr.vmulh (ty 1) (.v 1) (.v 2) (.op (.v 3))).wf = false ∧
    (Instr.fadd (ty 3) (.v 1) (.v 2) (.v 3)).wf = false ∧ (Instr.hadd2 (ty 2) (.v 1) (.v 2) (.v 3)).wf = false ∧
    (Instr.vred (ty 5) (.v 1) (.v 2) 0).wf = false ∧ (Instr.xmrd (ty 1) (.v 1)).wf = false := by decide
/-- R54, R186: no dq and no l1 as a destination, no xq as a source. -/
theorem test_wf_operands : (Instr.vmov (ty 0) (.dq 0) (.v 1)).wf = false ∧ (Instr.vmov (ty 0) (.l 1) (.v 1)).wf = false ∧
    (Instr.vmov (ty 0) (.v 1) .xq).wf = false ∧ (Instr.vmov (ty 0) (.l 0) (.l 1)).wf = true := by decide
/-- R142: an i64 pair needs a register above the one named. -/
theorem test_wf_pair : (Instr.vmov (ty 8) (.o 7) (.v 1)).wf = false ∧ (Instr.vmov (ty 8) (.v 1) (.v 2047)).wf = false ∧
    (Instr.vmov (ty 8) (.v 1) (.l 1)).wf = false ∧ (Instr.vmov (ty 8) (.o 6) (.v 2046)).wf = true := by decide
/-- R189, R220: rounding only where the word rounds, no prefix on lane movement, memory and hypervector words, a fourth
operand only where the entry names one, no prefix with xq. -/
theorem test_wf_prefix : (Instr.vadd (pf 0 1 (.v 0)) (.v 1) (.v 2) (.op (.v 3))).wf = false ∧
    (Instr.fadd (pf 2 6 (.v 0)) (.v 1) (.v 2) (.v 3)).wf = false ∧ (Instr.vred (pf 0 0 (.v 0)) (.v 1) (.v 2) 0).wf = false ∧
    (Instr.fadd (pf 2 1 (.v 1)) (.v 1) (.v 2) (.v 3)).wf = false ∧ (Instr.vmov (pf 0 0 (.v 0)) .xq (.v 2)).wf = false ∧
    (Instr.hxor (pf 0 0 (.v 0)) 0 1 2).wf = false ∧ (Instr.ffma (pf 2 5 (.o 3)) (.v 1) (.v 2) (.v 3) (.v 4)).wf = true := by
  decide
/-- R55, R224: targets below 12, a pair of one predicate only for p0, conditions 0 to 5 of VCMP. -/
theorem test_wf_targets : (Instr.vcmp (ty 0) (.v 1) (.v 2) 12 0 0).wf = false ∧
    (Instr.vcmp (ty 0) (.v 1) (.v 2) 3 3 0).wf = false ∧ (Instr.vcmp (ty 0) (.v 1) (.v 2) 1 2 6).wf = false ∧
    (Instr.pand (ty 0) 13 0 0).wf = false ∧ (Instr.fcmp (ty 2) (.v 1) (.v 2) 0 0 7).wf = true := by decide
/-- R222, R223, R226, R227: VLI without .hi takes no operand; VSR 0 to 5; forms 0 to 2. -/
theorem test_wf_forms : (Instr.vli (ty 0) (.v 1) (.v 2) false 5).wf = false ∧ (Instr.vsr (ty 0) (.v 1) 6).wf = false ∧
    (Instr.vfromp (ty 0) (.v 1) 3 3).wf = false ∧ (Instr.xmwr (ty 0) (.v 1) 3 0).wf = false ∧
    (Instr.xmwr (ty 0) (.v 1) 3 1).wf = false ∧ (Instr.xmwr (ty 0) (.v 0) 3 3).wf = false := by decide
/-- R230: a pair of types outside the table, a select outside the source, saturation outside the narrowing rows. -/
theorem test_wf_cvt : (Instr.cvt (ty 2) (.v 1) (.v 2) (.v 0) (.v 0) 2 0 false).wf = false ∧
    (Instr.cvt (ty 2) (.v 1) (.v 2) (.v 0) (.v 0) 3 2 false).wf = false ∧
    (Instr.cvt (ty 2) (.v 1) (.v 2) (.v 0) (.v 0) 0 0 true).wf = false ∧
    (Instr.cvt (ty 2) (.v 1) (.v 2) (.v 3) (.v 0) 0 0 false).wf = false ∧
    (Instr.cvt (ty 8) (.v 1) (.v 2) (.v 0) (.v 0) 0 0 false).wf = true := by decide
/-- R234, R235, R238, R241: kinds, operations, orders, sizes and dimensions. -/
theorem test_wf_fields : (Instr.vote (ty 0) (.v 1) 0 3 false).wf = false ∧ (Instr.vote (ty 0) (.v 0) 0 2 true).wf = false ∧
    (Instr.vote (ty 0) (.v 1) 0 0 true).wf = false ∧ (Instr.vred (ty 0) (.v 1) (.v 2) 6).wf = false ∧
    (Instr.vred (ty 2) (.v 1) (.v 2) 3).wf = false ∧ (Instr.vld (ty 0) (.v 1) (.v 2) ⟨0, 0, .warp, 2⟩ 0 0).wf = false ∧
    (Instr.vld (ty 0) (.v 1) (.v 2) ⟨0, 0, .device, 0⟩ 0 0).wf = false ∧
    (Instr.vld (ty 2) (.v 1) (.v 2) ⟨0, 0, .warp, 0⟩ 1 0).wf = false ∧
    (Instr.vst (ty 0) (.v 1) (.v 2) ⟨0, 0, .warp, 1⟩ 0 0).wf = false ∧
    (Instr.vatom (ty 0) (.v 1) (.v 2) (.v 3) (.v 4) ⟨0, 0, .warp, 0⟩ .add 0).wf = false ∧
    (Instr.tidx (ty 0) (.v 1) (.v 2) 0 5).wf = false := by decide
/-- R242, R246: hypervector words move main-file registers, and a weight is not zero. -/
theorem test_wf_hv : (Instr.hfromv (ty 0) (.o 1) 0).wf = false ∧ (Instr.htov (ty 0) .zero 0).wf = false ∧
    (Instr.hbun (ty 0) 1 0 0 false).wf = false ∧ (Instr.hput (ty 1) (.op (.v 1)) 0).wf = false := by decide

/-- R179, R194: words with their fields at the positions of the spec. -/
theorem test_decode_integer_group_1 : ∀ e ∈ ([
    (0b0000001_000001_111110_100001_0000000, .add 1 62 33),
    (0b0000001_000001_111110_100001_0000001, .sub 1 62 33),
    (0b0000001_000001_111110_100001_0000010, .andR 1 62 33),
    (0b0000001_000001_111110_100001_0000011, .orR 1 62 33),
    (0b0000001_000001_111110_100001_0000100, .xorR 1 62 33),
    (0b0000001_000001_111110_100001_0000101, .shl 1 62 33),
    (0b0000001_000001_111110_100001_0000110, .shr 1 62 33),
    (0b0000001_000001_111110_100001_0000111, .sra 1 62 33),
    (0b0000001_000001_111110_100001_0001000, .mul 1 62 33),
    (0b0000001_000001_111110_100001_0001001, .mulh 1 62 33),
    (0b0000001_000001_111110_100001_0001010, .mulhu 1 62 33),
    (0b0000001_000001_111110_100001_0001011, .div 1 62 33),
    (0b0000001_000001_111110_100001_0001100, .divu 1 62 33),
    (0b0000001_000001_111110_100001_0001101, .rem 1 62 33)] : List (BitVec 32 × Instr)),
    reads (decodeS e.1) e.2 = true := by decide

/-- R179, R194: words with their fields at the positions of the spec. -/
theorem test_decode_integer_group_2 : ∀ e ∈ ([
    (0b0000001_000001_111110_100001_0001110, .remu 1 62 33),
    (0b0000001_000001_111110_100001_0001111, .min 1 62 33),
    (0b0000001_000001_111110_100001_0010000, .max 1 62 33),
    (0b0000001_000001_111110_100001_0010001, .minu 1 62 33),
    (0b0000001_000001_111110_100001_0010010, .maxu 1 62 33),
    (0b0000001_000001_111110_100001_0010011, .slt 1 62 33),
    (0b0000001_000001_111110_100001_0010100, .sltu 1 62 33),
    (0b0000001_000001_111110_100001_0010101, .seq 1 62 33),
    (0b0000001_000001_111110_100001_0010110, .sne 1 62 33),
    (0b0000001_000001_111110_100001_0010111, .addw 1 62 33),
    (0b0000001_100000_011111_000000_0011000, .clz 32 31),
    (0b0000001_111111_000001_000000_0011001, .popc 63 1)] : List (BitVec 32 × Instr)),
    reads (decodeS e.1) e.2 = true := by decide

/-- R178, R195, R196: words with their fields at the positions of the spec. -/
theorem test_decode_immediates : ∀ e ∈ ([
    (0b0000010_000010_101000_100000_0000001, .addi 2 40 0x1001),
    (0b0000011_000010_101000_100000_0000001, .andi 2 40 0x1001),
    (0b0000100_000010_101000_100000_0000001, .ori 2 40 0x1001),
    (0b0000101_000010_101000_100000_0000001, .xori 2 40 0x1001),
    (0b0001001_000010_101000_100000_0000001, .slti 2 40 0x1001),
    (0b0001010_000010_101000_100000_0000001, .sltui 2 40 0x1001),
    (0b0001011_000010_101000_100000_0000001, .muli 2 40 0x1001),
    (0b0000110_000010_101000_000000_0100001, .shli 2 40 0x21),
    (0b0000111_000010_101000_000000_0100001, .shri 2 40 0x21),
    (0b0001000_000010_101000_000000_0100001, .srai 2 40 0x21),
    (0b0001100_100001_100000_000000_0000001, .li 33 0x40001),
    (0b0001101_100001_100000_000000_0000001, .lui 33 0x40001),
    (0b0001110_100001_100000_000000_0000001, .luh 33 0x40001),
    (0b1111111_000000_000000_000000_0000000, .nop)] : List (BitVec 32 × Instr)),
    reads (decodeS e.1) e.2 = true := by decide

/-- R180, R197 to R200: words with their fields at the positions of the spec. -/
theorem test_decode_scalar_memory_1 : ∀ e ∈ ([
    (0b0010000_000011_100100_111111_1111000, .ldb 3 36 0x1FF8),
    (0b0010001_000011_100100_111111_1111000, .ldbu 3 36 0x1FF8),
    (0b0010010_000011_100100_111111_1111000, .ldh 3 36 0x1FF8),
    (0b0010011_000011_100100_111111_1111000, .ldhu 3 36 0x1FF8),
    (0b0010100_000011_100100_111111_1111000, .ldw 3 36 0x1FF8),
    (0b0010101_000011_100100_111111_1111000, .ldwu 3 36 0x1FF8),
    (0b0010110_000011_100100_111111_1111000, .ldd 3 36 0x1FF8),
    (0b0011000_000011_100100_111111_1111000, .stb 3 36 0x1FF8),
    (0b0011001_000011_100100_111111_1111000, .sth 3 36 0x1FF8),
    (0b0011010_000011_100100_111111_1111000, .stw 3 36 0x1FF8),
    (0b0011011_000011_100100_111111_1111000, .std 3 36 0x1FF8),
    (0b0011100_000101_000110_000000_0110110, .lda 5 6 2 .system true),
    (0b0011101_000101_000110_000000_0110110, .stl 5 6 2 .system true),
    (0b0011110_000001_000010_000011_0111010, .atom 1 2 3 .cas .cluster false)] : List (BitVec 32 × Instr)),
    reads (decodeS e.1) e.2 = true := by decide

/-- R180, R197 to R200: words with their fields at the positions of the spec. -/
theorem test_decode_scalar_memory_2 : ∀ e ∈ ([
    (0b0011111_000001_000010_000011_1110100, .atoma 1 2 3 .max .device true),
    (0b0100000_000001_000010_000011_1000101, .atoml 1 2 3 .swap .system true),
    (0b0100001_000001_000010_000011_0001000, .atomal 1 2 3 .add .warp false),
    (0b0100010_000000_000000_000000_0010011, .fence .acqRel .domain)] : List (BitVec 32 × Instr)),
    reads (decodeS e.1) e.2 = true := by decide

/-- R178, R180, R201 to R209: words with their fields at the positions of the spec. -/
theorem test_decode_branches_and_dispatch_1 : ∀ e ∈ ([
    (0b0101000_100010_100000_000000_0000011, .bz 34 0x40003),
    (0b0101001_100010_100000_000000_0000011, .bnz 34 0x40003),
    (0b0101010_100010_100000_000000_0000011, .bltz 34 0x40003),
    (0b0101011_100010_100000_000000_0000011, .bgez 34 0x40003),
    (0b0101100_100010_100000_000000_0000011, .call 34 0x40003),
    (0b0110000_100010_100000_000000_0000011, .loop 34 0x40003),
    (0b0101101_000000_000001_000000_0000100, .jr 0 1 4),
    (0b0101110_000000_000000_000000_0000101, .bqt 5),
    (0b0101111_000000_111111_111111_1111111, .bqf 0x7FFFF),
    (0b0110001_000000_000000_000000_0001001, .lgo 9),
    (0b0110010_000000_100001_000000_0000000, .lgor 33),
    (0b0110011_000000_000000_000000_0000000, .lwait),
    (0b0110100_000111_000000_000000_0000011, .dqpBroadcast 7 3),
    (0b0110100_000111_001000_000000_0000110, .dqpIota 7 8 2)] : List (BitVec 32 × Instr)),
    reads (decodeS e.1) e.2 = true := by decide

/-- R178, R180, R201 to R209: words with their fields at the positions of the spec. -/
theorem test_decode_branches_and_dispatch_2 : ∀ e ∈ ([
    (0b0110101_000111_001000_000000_0010111, .dqld 7 8 true 1 3),
    (0b0110110_000111_001000_001001_0001001, .dqstrm 7 8 9 false 2 1),
    (0b0110111_100011_000000_000000_0000000, .xqp 35)] : List (BitVec 32 × Instr)),
    reads (decodeS e.1) e.2 = true := by decide

/-- R178, R180, R210 to R217, R261 to R263: words with their fields at the positions of the spec. -/
theorem test_decode_special_and_traps_1 : ∀ e ∈ ([
    (0b0111000_000100_000000_000010_0010101, .srd 4 0x115),
    (0b0111001_000000_000100_000000_0000110, .swr 4 0x006),
    (0b0111010_000000_000000_000000_0000000, .regn),
    (0b0111011_000010_000011_000000_0000001, .cwait 2 3 true),
    (0b0111100_000010_000011_000001_1011100, .waitv 1 2 3 .geu .device true),
    (0b0111101_000000_000000_000000_0001111, .barSync 15),
    (0b0111101_000000_000000_000000_0010001, .barArrive 1),
    (0b0111101_000000_000000_000000_0100010, .barWait 2),
    (0b0111101_101100_000000_000000_0110011, .barExpect 44 3),
    (0b0111101_101100_000000_000000_1000100, .barInit 44 4),
    (0b0111110_000000_000000_000000_0000000, .yieldW),
    (0b1110000_000000_000000_000001_1111111, .trap 0x7F),
    (0b1110001_000000_000000_000000_0000000, .eretResume),
    (0b1110001_000000_000000_000000_0000001, .eretReplay)] : List (BitVec 32 × Instr)),
    reads (decodeS e.1) e.2 = true := by decide

/-- R178, R180, R210 to R217, R261 to R263: words with their fields at the positions of the spec. -/
theorem test_decode_special_and_traps_2 : ∀ e ∈ ([
    (0b1110010_000000_000000_000000_0000000, .exitWarp),
    (0b1110011_000001_000010_000000_0000000, .tlbiVa 1 2),
    (0b1110011_000000_000010_000000_0000001, .tlbiCtx 2),
    (0b1110011_000001_000010_000000_0000010, .tlbiSplit 1 2),
    (0b1110011_000001_000010_000000_0000011, .tlbiGpa 1 2)] : List (BitVec 32 × Instr)),
    reads (decodeS e.1) e.2 = true := by decide

/-- R178, R180, R250 to R276: words with their fields at the positions of the spec. -/
theorem test_decode_engines_crews_queues_1 : ∀ e ∈ ([
    (0b1000000_000001_000010_011001_0100001, .cpyImmediate 1 2 true 9 0x21),
    (0b1000000_000001_000010_000011_1100001, .cpyRegister 1 2 3 0x21),
    (0b1000001_000001_100001_000101_0000000, .mxb 1 33 5),
    (0b1000010_000001_100001_100011_1010001, .mxa 1 33 4 3 2 17),
    (0b1000011_000001_000010_101011_0001001, .mxrd 1 2 5 3 9),
    (0b1000100_000000_000000_110000_0010001, .mxz 6 17),
    (0b1000101_000000_000000_000000_0001001, .qfence 9),
    (0b1000110_000010_000000_000001_0000000, .lnch 1 2),
    (0b1000111_000000_000000_000000_0000000, .hintsucc),
    (0b1001000_000000_000000_000000_0000000, .waitpred),
    (0b1010000_000001_000010_000000_0000000, .crew 1 2),
    (0b1010001_000000_000000_000011_0000000, .creww 3),
    (0b1010010_000000_000000_000000_0000000, .breakCrew),
    (0b1010011_000000_000000_000000_0000000, .goStroke)] : List (BitVec 32 × Instr)),
    reads (decodeS e.1) e.2 = true := by decide

/-- R178, R180, R250 to R276: words with their fields at the positions of the spec. -/
theorem test_decode_engines_crews_queues_2 : ∀ e ∈ ([
    (0b1010100_000000_000000_000000_0000000, .srel),
    (0b1010101_000010_000000_000001_0000000, .regroup 1 2),
    (0b1011000_000010_000011_000001_0000000, .qpush 1 2 3),
    (0b1011001_000010_000011_000001_0000001, .qpop 1 2 3 true),
    (0b1011010_000010_000011_000001_0000000, .qsteal 1 2 3),
    (0b1100000_000001_000010_000011_1000001, .ssld 1 2 3 0x41),
    (0b1100001_000001_000010_000011_1000001, .ssst 1 2 3 0x41),
    (0b1100010_000001_000010_000011_0000000, .ssnap 1 2 3),
    (0b1100011_000001_000010_000011_0000000, .ssroll 1 2 3),
    (0b1100100_000001_000010_000011_0000000, .ssfork 1 2 3),
    (0b1100101_000001_000000_000011_0000000, .ssdrop 1 3)] : List (BitVec 32 × Instr)),
    reads (decodeS e.1) e.2 = true := by decide

/-- R183 to R189, R222, R223: words with their fields at the positions of the spec. -/
theorem test_decode_lane_integers_1 : ∀ e ∈ ([
    ([0b0000000000_1001_101_1_0101_0010000000, 0b001_0100000000101_1000000000001_000, 0b0000000000_0000000000000000000000],
      .vadd ⟨9, 5, true, 5, none⟩ (.v 1025) (.o 5) (.op (.l 1))),
    ([0b0000000001_1001_101_1_0101_0010000000, 0b001_0100000000101_1000000000001_000, 0b0000000000_0000000000000000000000],
      .vsub ⟨9, 5, true, 5, none⟩ (.v 1025) (.o 5) (.op (.l 1))),
    ([0b0000000110_1001_101_1_0101_0010000000, 0b001_0100000000101_1000000000001_000, 0b0000000000_0000000000000000000000],
      .vand ⟨9, 5, true, 5, none⟩ (.v 1025) (.o 5) (.op (.l 1))),
    ([0b0000000111_1001_101_1_0101_0010000000, 0b001_0100000000101_1000000000001_000, 0b0000000000_0000000000000000000000],
      .vor ⟨9, 5, true, 5, none⟩ (.v 1025) (.o 5) (.op (.l 1))),
    ([0b0000001000_1001_101_1_0101_0010000000, 0b001_0100000000101_1000000000001_000, 0b0000000000_0000000000000000000000],
      .vxor ⟨9, 5, true, 5, none⟩ (.v 1025) (.o 5) (.op (.l 1))),
    ([0b0000001001_1001_101_1_0101_0010000000, 0b001_0100000000101_1000000000001_000, 0b0000000000_0000000000000000000000],
      .vshl ⟨9, 5, true, 5, none⟩ (.v 1025) (.o 5) (.op (.l 1))),
    ([0b0000001010_1001_101_1_0101_0010000000, 0b001_0100000000101_1000000000001_000, 0b0000000000_0000000000000000000000],
      .vshr ⟨9, 5, true, 5, none⟩ (.v 1025) (.o 5) (.op (.l 1))),
    ([0b0000001011_1001_101_1_0101_0010000000, 0b001_0100000000101_1000000000001_000, 0b0000000000_0000000000000000000000],
      .vsra ⟨9, 5, true, 5, none⟩ (.v 1025) (.o 5) (.op (.l 1))),
    ([0b0000001100_1001_101_1_0101_0010000000, 0b001_0100000000101_1000000000001_000, 0b0000000000_0000000000000000000000],
      .vmin ⟨9, 5, true, 5, none⟩ (.v 1025) (.o 5) (.op (.l 1))),
    ([0b0000001101_1001_101_1_0101_0010000000, 0b001_0100000000101_1000000000001_000, 0b0000000000_0000000000000000000000],
      .vmax ⟨9, 5, true, 5, none⟩ (.v 1025) (.o 5) (.op (.l 1))),
    ([0b0000000010_1001_101_1_0101_0000000000, 0b011_1100000000010_0000000000000_000, 0b0000000000_1000001000000000000001],
      .vmul ⟨9, 5, true, 5, none⟩ (.v 3) (.dq 2) (.imm 0x8001)),
    ([0b0000000011_1001_101_1_0000_1100000010, 0b000_0000000000001_1100000010000_000, 0b0000000000_0000000000000000000000],
      .vmulh ⟨9, 5, true, 0, none⟩ .zero (.v 1) (.op .zero)),
    ([0b0000000100_1001_101_1_0001_1100000001, 0b000_0000000000001_0000000000010_000, 0b0000000000_0000000000000000000000],
      .vmulhu ⟨9, 5, true, 1, none⟩ .xq (.v 1) (.op (.v 2))),
    ([0b111111_0011_000_1_0100000000010_00000, 0b0000000101_1001_101_1_0000_0000000000, 0b001_0000000000010_0000000000011_000, 0b0000000100_0000000000000000000000],
      .vmad ⟨9, 5, true, 0, (some ⟨3, 0, true, .o 2⟩)⟩ (.v 1) (.v 2) (.op (.v 3)) (.v 4))] : List (List (BitVec 32) × Instr)),
    reads (decodeUnits e.1) e.2 = true := by decide

/-- R183 to R189, R222, R223: words with their fields at the positions of the spec. -/
theorem test_decode_lane_integers_2 : ∀ e ∈ ([
    ([0b0000001110_1001_101_1_0000_0000000000, 0b001_0000000000010_0000000000000_000, 0b0000000000_0000000000000000000000],
      .vabs ⟨9, 5, true, 0, none⟩ (.v 1) (.v 2)),
    ([0b0000001111_1001_101_1_0110_0000000000, 0b001_0000000000010_0000000000000_000, 0b0000000000_0000000000000000000000],
      .vneg ⟨9, 5, true, 6, none⟩ (.v 1) (.v 2)),
    ([0b0000010000_1001_101_1_0001_0000000000, 0b001_0000000000010_0000000000000_000, 0b0000000000_0000000000000000000000],
      .vpopc ⟨9, 5, true, 1, none⟩ (.v 1) (.v 2)),
    ([0b0000010001_1001_101_1_0000_0000000000, 0b001_0000000000010_0000000000000_000, 0b0000000000_0000000000000000000000],
      .vclz ⟨9, 5, true, 0, none⟩ (.v 1) (.v 2)),
    ([0b0000010010_1001_101_1_1000_0000000000, 0b001_0000000000010_0000000000011_000, 0b0000000000_0000000000000000001110],
      .vsel ⟨9, 5, true, 8, none⟩ (.v 1) (.v 2) (.v 3) 14),
    ([0b0000010011_1001_101_1_1000_0000000000, 0b001_0000000000010_0000000000000_000, 0b0000000000_0000000000000000000000],
      .vmov ⟨9, 5, true, 8, none⟩ (.v 1) (.v 2)),
    ([0b0000010100_1001_101_1_0010_0000000000, 0b001_0000000000010_0000000000000_000, 0b0000000000_1000011011111011101111],
      .vli ⟨9, 5, true, 2, none⟩ (.v 1) (.v 2) true 0xBEEF),
    ([0b0000010101_1001_101_1_0000_0000000000, 0b001_0000000000000_0000000000000_000, 0b0000000000_0000000000000000000101],
      .vsr ⟨9, 5, true, 0, none⟩ (.v 1) 5),
    ([0b0000010110_1001_101_1_0111_0000000000, 0b001_0000000000010_0000000000011_000, 0b0000000000_0000000000000000000000],
      .vaddsat ⟨9, 5, true, 7, none⟩ (.v 1) (.v 2) (.op (.v 3)))] : List (List (BitVec 32) × Instr)),
    reads (decodeUnits e.1) e.2 = true := by decide

/-- R224 to R229: words with their fields at the positions of the spec. -/
theorem test_decode_lane_predicates_and_floats_1 : ∀ e ∈ ([
    ([0b0001000000_1001_101_1_0001_0000000000, 0b000_0000000000001_0000000000010_000, 0b0000000000_0000000000010101000011],
      .vcmp ⟨9, 5, true, 1, none⟩ (.v 1) (.v 2) 3 4 5),
    ([0b0001000001_1001_101_1_0010_0000000000, 0b000_0000000000001_0000000000010_000, 0b0000000000_0000000000011100000011],
      .fcmp ⟨9, 5, true, 2, none⟩ (.v 1) (.v 2) 3 0 7),
    ([0b0001000010_1001_101_1_0000_0000000000, 0b000_0000000000000_0000000000000_000, 0b0000000000_0000000000110111001011],
      .pand ⟨9, 5, true, 0, none⟩ 11 12 13),
    ([0b0001000011_1001_101_1_0000_0000000000, 0b000_0000000000000_0000000000000_000, 0b0000000000_0000000000110111001011],
      .por ⟨9, 5, true, 0, none⟩ 11 12 13),
    ([0b0001000100_1001_101_1_0000_0000000000, 0b000_0000000000000_0000000000000_000, 0b0000000000_0000000000110111001011],
      .pxor ⟨9, 5, true, 0, none⟩ 11 12 13),
    ([0b0001000101_1001_101_1_0000_0000000000, 0b000_0000000000000_0000000000000_000, 0b0000000000_0000000000110111001011],
      .pandn ⟨9, 5, true, 0, none⟩ 11 12 13),
    ([0b0001000110_1001_101_1_0000_0000000000, 0b000_0000000001001_0000000000000_000, 0b0000000000_0000000000000000000110],
      .pfromv ⟨9, 5, true, 0, none⟩ 6 (.v 9)),
    ([0b0001000111_1001_101_1_0000_0000000001, 0b001_0000000000000_0000000000000_000, 0b0000000000_0000000000000000100111],
      .vfromp ⟨9, 5, true, 0, none⟩ (.v 9) 7 2),
    ([0b0001001000_1001_101_1_0000_0000000001, 0b001_0000000000000_0000000000000_000, 0b0000000000_0000000000000000000000],
      .xmrd ⟨9, 5, true, 0, none⟩ (.v 9)),
    ([0b0001001001_1001_101_1_0000_0000000000, 0b000_0000000000000_0000000000000_000, 0b0000000000_0000000000000000010111],
      .xmwr ⟨9, 5, true, 0, none⟩ (.v 0) 7 1),
    ([0b0001001001_1001_101_1_0000_0000000000, 0b000_0000000000101_0000000000000_000, 0b0000000000_0000000000000000000000],
      .xmwr ⟨9, 5, true, 0, none⟩ (.v 5) 0 0),
    ([0b0010000000_1001_101_1_0010_0000000000, 0b001_0000000000010_0000000000011_000, 0b0000000000_0000000000000000000000],
      .fadd ⟨9, 5, true, 2, none⟩ (.v 1) (.v 2) (.v 3)),
    ([0b0010000001_1001_101_1_0010_0000000000, 0b001_0000000000010_0000000000011_000, 0b0000000000_0000000000000000000000],
      .fsub ⟨9, 5, true, 2, none⟩ (.v 1) (.v 2) (.v 3)),
    ([0b0010000010_1001_101_1_0010_0000000000, 0b001_0000000000010_0000000000011_000, 0b0000000000_0000000000000000000000],
      .fmul ⟨9, 5, true, 2, none⟩ (.v 1) (.v 2) (.v 3))] : List (List (BitVec 32) × Instr)),
    reads (decodeUnits e.1) e.2 = true := by decide

/-- R224 to R229: words with their fields at the positions of the spec. -/
theorem test_decode_lane_predicates_and_floats_2 : ∀ e ∈ ([
    ([0b0010000100_1001_101_1_0010_0000000000, 0b001_0000000000010_0000000000011_000, 0b0000000000_0000000000000000000000],
      .fmin ⟨9, 5, true, 2, none⟩ (.v 1) (.v 2) (.v 3)),
    ([0b0010000101_1001_101_1_0010_0000000000, 0b001_0000000000010_0000000000011_000, 0b0000000000_0000000000000000000000],
      .fmax ⟨9, 5, true, 2, none⟩ (.v 1) (.v 2) (.v 3)),
    ([0b111111_0000_010_0_0000000000000_00000, 0b0010000011_0000_101_0_0010_0000000000, 0b100_0000000000001_0000000000010_000, 0b0000000011_0000000000000000000000],
      .ffma ⟨0, 5, false, 2, (some ⟨0, 2, false, .v 0⟩)⟩ (.v 4) (.v 1) (.v 2) (.v 3)),
    ([0b0010000110_1001_101_1_0010_0000000000, 0b001_0000000000010_0000000000000_000, 0b0000000000_0000000000000000000000],
      .frnd ⟨9, 5, true, 2, none⟩ (.v 1) (.v 2)),
    ([0b0011000000_1001_101_1_0011_0000000000, 0b001_0000000000010_0000000000011_000, 0b0000000000_0000000000000000000000],
      .hadd2 ⟨9, 5, true, 3, none⟩ (.v 1) (.v 2) (.v 3)),
    ([0b0011000001_1001_101_1_0011_0000000000, 0b001_0000000000010_0000000000011_000, 0b0000000000_0000000000000000000000],
      .hsub2 ⟨9, 5, true, 3, none⟩ (.v 1) (.v 2) (.v 3)),
    ([0b0011000010_1001_101_1_0011_0000000000, 0b001_0000000000010_0000000000011_000, 0b0000000000_0000000000000000000000],
      .hmul2 ⟨9, 5, true, 3, none⟩ (.v 1) (.v 2) (.v 3)),
    ([0b0011000100_1001_101_1_0011_0000000000, 0b001_0000000000010_0000000000011_000, 0b0000000000_0000000000000000000000],
      .hmin2 ⟨9, 5, true, 3, none⟩ (.v 1) (.v 2) (.v 3)),
    ([0b0011000101_1001_101_1_0011_0000000000, 0b001_0000000000010_0000000000011_000, 0b0000000000_0000000000000000000000],
      .hmax2 ⟨9, 5, true, 3, none⟩ (.v 1) (.v 2) (.v 3)),
    ([0b0011000011_1001_101_1_0100_0000000000, 0b001_0000000000010_0000000000011_000, 0b0000000100_0000000000000000000000],
      .hfma2 ⟨9, 5, true, 4, none⟩ (.v 1) (.v 2) (.v 3) (.v 4)),
    ([0b0011000110_1001_101_1_0100_0000000000, 0b001_0000000000010_0000000000011_000, 0b0000000100_0000000000000000000000],
      .hdot2 ⟨9, 5, true, 4, none⟩ (.v 1) (.v 2) (.v 3) (.v 4)),
    ([0b0100000000_1001_101_1_0010_0000000000, 0b001_0000000000010_0000000000000_000, 0b0000000000_0000000000000000000000],
      .frcp ⟨9, 5, true, 2, none⟩ (.v 1) (.v 2)),
    ([0b0100000001_1001_101_1_0010_0000000000, 0b001_0000000000010_0000000000000_000, 0b0000000000_0000000000000000000000],
      .frsq ⟨9, 5, true, 2, none⟩ (.v 1) (.v 2)),
    ([0b0100000010_1001_101_1_0010_0000000000, 0b001_0000000000010_0000000000000_000, 0b0000000000_0000000000000000000000],
      .fsqrt ⟨9, 5, true, 2, none⟩ (.v 1) (.v 2))] : List (List (BitVec 32) × Instr)),
    reads (decodeUnits e.1) e.2 = true := by decide

/-- R224 to R229: words with their fields at the positions of the spec. -/
theorem test_decode_lane_predicates_and_floats_3 : ∀ e ∈ ([
    ([0b0100000011_1001_101_1_0010_0000000000, 0b001_0000000000010_0000000000000_000, 0b0000000000_0000000000000000000000],
      .fexp2 ⟨9, 5, true, 2, none⟩ (.v 1) (.v 2)),
    ([0b0100000100_1001_101_1_0010_0000000000, 0b001_0000000000010_0000000000000_000, 0b0000000000_0000000000000000000000],
      .flog2 ⟨9, 5, true, 2, none⟩ (.v 1) (.v 2)),
    ([0b0100000101_1001_101_1_0010_0000000000, 0b001_0000000000010_0000000000000_000, 0b0000000000_0000000000000000000000],
      .fsin ⟨9, 5, true, 2, none⟩ (.v 1) (.v 2)),
    ([0b0100000110_1001_101_1_0010_0000000000, 0b001_0000000000010_0000000000000_000, 0b0000000000_0000000000000000000000],
      .fcos ⟨9, 5, true, 2, none⟩ (.v 1) (.v 2)),
    ([0b0100000111_1001_101_1_0010_0000000000, 0b001_0000000000010_0000000000000_000, 0b0000000000_0000000000000000000000],
      .ftanh ⟨9, 5, true, 2, none⟩ (.v 1) (.v 2))] : List (List (BitVec 32) × Instr)),
    reads (decodeUnits e.1) e.2 = true := by decide

/-- R230 to R241: words with their fields at the positions of the spec. -/
theorem test_decode_lane_conversions_movement_memory : ∀ e ∈ ([
    ([0b111111_0000_000_0_0000000000101_00000, 0b0101000000_1001_101_1_0110_0000000000, 0b001_0000000000010_0000000000011_000, 0b0000000100_0000000000000001000000],
      .cvt ⟨9, 5, true, 6, (some ⟨0, 0, false, .v 5⟩)⟩ (.v 1) (.v 2) (.v 3) (.v 4) 0 0 true),
    ([0b0101000000_1001_101_1_0010_0000000000, 0b001_0000000000010_0000000000000_000, 0b0000000000_0000000000000000010011],
      .cvt ⟨9, 5, true, 2, none⟩ (.v 1) (.v 2) (.v 0) (.v 0) 3 1 false),
    ([0b0101000001_1001_101_1_0010_0000000000, 0b001_0000000000010_0000000000011_000, 0b0000000100_0000000000000010101001],
      .qpack ⟨9, 5, true, 2, none⟩ (.v 1) (.v 2) (.v 3) (.v 4) 5 9),
    ([0b0101000010_1001_101_1_0010_0000000000, 0b001_0000000000010_0000000000011_000, 0b0000000000_0000000000000010101001],
      .qunpk ⟨9, 5, true, 2, none⟩ (.v 1) (.v 2) (.v 3) 5 9),
    ([0b0110000000_1001_101_1_0000_0000000000, 0b001_0000000000010_0000000000000_000, 0b0000000000_1100000000000000000111],
      .shfl ⟨9, 5, true, 0, none⟩ (.v 1) (.v 2) (.imm 7) 2),
    ([0b0110000001_1001_101_1_0000_0000000000, 0b001_0000000000000_0000000000000_000, 0b0000000000_0000000000000000100011],
      .vote ⟨9, 5, true, 0, none⟩ (.v 1) 3 2 false),
    ([0b0110000001_1001_101_1_0000_0000000000, 0b000_0000000000000_0000000000000_000, 0b0000000000_0000000000000001010011],
      .vote ⟨9, 5, true, 0, none⟩ (.v 0) 3 1 true),
    ([0b0110000010_1001_101_1_0000_0000000000, 0b001_0000000000010_0000000000000_000, 0b0000000000_0000000000000000000101],
      .vred ⟨9, 5, true, 0, none⟩ (.v 1) (.v 2) 5),
    ([0b0110000011_1001_101_1_0000_0000000000, 0b001_0000000000010_0000000000000_000, 0b0000000000_0000000000000000001010],
      .vscan ⟨9, 5, true, 0, none⟩ (.v 1) (.v 2) 2 true),
    ([0b0110000100_1001_101_1_0000_0000000000, 0b001_0000000000010_0000000000000_000, 0b0000000000_0000000000000000010011],
      .vmovx ⟨9, 5, true, 0, none⟩ (.v 1) (.v 2) 3 true),
    ([0b0111000000_1001_101_1_0000_0000000000, 0b001_0000000000010_0000000000000_000, 0b0000000000_0101101000101100000001],
      .vld ⟨9, 5, true, 0, none⟩ (.v 1) (.v 2) ⟨5, 2, .device, 1⟩ 1 0x101),
    ([0b0111000001_1001_101_1_0000_0000000000, 0b000_0000000000010_0000000000000_000, 0b0000000011_0101100000010111111111],
      .vst ⟨9, 5, true, 0, none⟩ (.v 2) (.v 3) ⟨5, 2, .warp, 0⟩ 2 0x1FF),
    ([0b0111000010_1001_101_1_0000_0000000000, 0b001_0000000000010_0000000000011_000, 0b0000000100_0111111011111110000000],
      .vatom ⟨9, 5, true, 0, none⟩ (.v 1) (.v 2) (.v 3) (.v 4) ⟨7, 3, .system, 3⟩ .cas 0x80),
    ([0b1000000000_1001_101_1_0000_0000000000, 0b001_0000000000010_0000000000000_000, 0b0000000000_0000000000010010000001],
      .tidx ⟨9, 5, true, 0, none⟩ (.v 1) (.v 2) 0x81 4)] : List (List (BitVec 32) × Instr)),
    reads (decodeUnits e.1) e.2 = true := by decide

/-- R242 to R249: words with their fields at the positions of the spec. -/
theorem test_decode_lane_hypervectors : ∀ e ∈ ([
    ([0b1001000000_1001_101_1_0000_0000000000, 0b000_0000000000100_0000000000000_000, 0b0000000000_0000000000000000000101],
      .hfromv ⟨9, 5, true, 0, none⟩ (.v 4) 5),
    ([0b1001000001_1001_101_1_0000_0000000000, 0b100_0000000000000_0000000000000_000, 0b0000000000_0000000000000000101000],
      .htov ⟨9, 5, true, 0, none⟩ (.v 4) 5),
    ([0b1001000010_1001_101_1_0000_0000000000, 0b000_0000000000100_0000000000000_000, 0b0000000000_0011101101100000000001],
      .hld ⟨9, 5, true, 0, none⟩ (.v 4) 3 2 6 0x1801),
    ([0b1001000011_1001_101_1_0000_0000000000, 0b000_0000000000100_0000000000000_000, 0b0000000000_0011101100100000000001],
      .hst ⟨9, 5, true, 0, none⟩ (.v 4) 3 2 6 0x0801),
    ([0b1001000100_1001_101_1_0000_0000000000, 0b000_0000000000000_0000000000000_000, 0b0000000000_0000000000000011010001],
      .hxor ⟨9, 5, true, 0, none⟩ 1 2 3),
    ([0b1001000101_1001_101_1_0000_0000000000, 0b000_0000000000000_0000000000000_000, 0b0000000000_0100000000001000010001],
      .hrot ⟨9, 5, true, 0, none⟩ 1 2 0x801),
    ([0b1001000110_1001_101_1_0000_0000000000, 0b000_0000000000000_0000000000000_000, 0b0000000000_0000000011011000010000],
      .hbun ⟨9, 5, true, 0, none⟩ 2 1 5 true),
    ([0b1001000111_1001_101_1_0000_0000000000, 0b000_0000000000000_0000000000000_000, 0b0000000000_0000000000001100000001],
      .hthr ⟨9, 5, true, 0, none⟩ 1 4 1),
    ([0b1001001000_1001_101_1_0000_0000000000, 0b000_0000000000000_0000000000000_000, 0b0000000000_0000000000001000000000],
      .hkclr ⟨9, 5, true, 0, none⟩ 1),
    ([0b1001001001_1001_101_1_0000_0000000000, 0b100_0000000000000_0000000000000_000, 0b0000000000_0000000000000011010000],
      .hdist ⟨9, 5, true, 0, none⟩ (.v 4) 2 3),
    ([0b1001001010_1001_101_1_0000_0000000000, 0b100_0000000000101_0000000000000_000, 0b0000000000_1001100000000000000011],
      .hnear ⟨9, 5, true, 0, none⟩ (.v 4) (.v 5) (.imm 3) 6),
    ([0b1001001011_1001_101_1_0000_0000000000, 0b000_0000000000000_0000000000101_000, 0b0000000000_0001100000000000000000],
      .hput ⟨9, 5, true, 0, none⟩ (.op (.v 5)) 6)] : List (List (BitVec 32) × Instr)),
    reads (decodeUnits e.1) e.2 = true := by decide

/-- R189: the two words that the spec assembles as its examples. -/
theorem test_decode_examples :
    (match decodeLaneUnits [0xFC10_0000, 0x20C2_8800, 0x8001_0010, 0x00C0_0000] with
      | .ok x => decide (x = (.ffma ⟨0, 5, false, 2, some ⟨0, 2, false, .v 0⟩⟩ (.v 4) (.v 1) (.v 2) (.v 3), 4))
      | .error _ => false) = true ∧
    (match decodeLaneUnits [0x0040_0000, 0x2001_0000, 0x0020_0028] with
      | .ok x => decide (x = (.vsub ⟨0, 0, false, 0, none⟩ (.v 1) (.v 1) (.imm 40), 3))
      | .error _ => false) = true := by decide

/-! ### One step each -/

/-- R194: addition wraps; MULH of −1 and −1 is 0; DIV of the least integer by −1 is itself, and by 0 all ones. -/
theorem test_integer_group :
    let s := scalar (regs [BitVec.allOnes 64, 2, 0x8000_0000_0000_0000, 0])
    (after (exec (.add 5 1 2) s)).sreg 5 = 1 ∧ (after (exec (.mulh 5 1 1) s)).sreg 5 = 0 ∧
    (after (exec (.mulhu 5 1 2) s)).sreg 5 = 1 ∧ (after (exec (.div 5 3 1) s)).sreg 5 = 0x8000_0000_0000_0000 ∧
    (after (exec (.rem 5 3 4) s)).sreg 5 = BitVec.allOnes 64 ∧ (after (exec (.sra 5 3 2) s)).sreg 5 = 0xE000_0000_0000_0000 ∧
    (after (exec (.clz 5 4) s)).sreg 5 = 64 ∧ (after (exec (.minu 5 1 2) s)).sreg 5 = 2 := by decide
/-- R195, R196: the immediate is sign-extended; LUI shifts by 19; LUH keeps the low 45 bits. -/
theorem test_immediates :
    let s := scalar (regs [5, BitVec.allOnes 64])
    (after (exec (.addi 3 1 0x1FFF) s)).sreg 3 = 4 ∧ (after (exec (.sltui 3 1 0x1FFF) s)).sreg 3 = 1 ∧
    (after (exec (.lui 1 3) s)).sreg 1 = 5 * 2 ^ 19 + 3 ∧ (after (exec (.luh 2 0) s)).sreg 2 = 0x1FFF_FFFF_FFFF := by decide
/-- R49: a write to s0 is discarded and the word still issues. -/
theorem test_s0 : (after (exec (.addi 0 1 7) (scalar (regs [5])))).sreg 0 = 0 ∧
    (after (exec (.addi 0 1 7) (scalar (regs [5])))).me.pc = wordVa + 4 := by decide
/-- R201: BLTZ is signed, LOOP counts to zero, CALL links. -/
theorem test_branches :
    let s := scalar (regs [BitVec.allOnes 64, 1])
    (after (exec (.bltz 1 0x7FFFF) s)).me.pc = wordVa - 4 ∧ (after (exec (.loop 2 5) s)).me.pc = wordVa + 4 ∧
    (after (exec (.loop 1 5) s)).me.pc = wordVa + 20 ∧ (after (exec (.call 3 2) s)).sreg 3 = wordVa + 4 := by decide
/-- R202: JR with d = a jumps to the old value. -/
theorem test_jr : let t := after (exec (.jr 1 1 8) (scalar (regs [0x100])))
    t.me.pc = 0x108 ∧ t.sreg 1 = wordVa + 4 := by decide
/-- R197: a byte stored at the own window is loaded back with its sign, and its neighbour is still zero. -/
theorem test_load_store :
    let t := after (exec (.stb 2 1 3) (scalar (regs [own 0x10, 0x1F0])))
    (after (exec (.ldb 3 1 3) t)).sreg 3 = BitVec.ofInt 64 (-16) ∧ (after (exec (.ldhu 3 1 2) t)).sreg 3 = 0xF000 ∧
    (after (exec (.ldwu 3 1 4) t)).sreg 3 = 0 := by decide
/-- R199: ADD returns the old value; a compare-and-swap that fails writes nothing. -/
theorem test_atomics :
    let t := after (exec (.std 2 1 0) (scalar (regs [own 0x20, 40, 2, 7])))
    let u := after (exec (.atom 5 1 3 .add .block false) t)
    u.sreg 5 = 40 ∧ (after (exec (.ldd 6 1 0) u)).sreg 6 = 42 ∧
    (let v := after (exec (.atoma 4 1 3 .cas .block false) u)
     v.sreg 4 = 42 ∧ (after (exec (.ldd 6 1 0) v)).sreg 6 = 42) := by decide
/-- R206: the iota form pushes s(a) + i × s(b); R209, R203: the queues to the scalar stream pop their oldest. -/
theorem test_queues :
    let t := after (exec (.dqpIota 1 2 3) (scalar (regs [100, 3])))
    (t.me.dq[3].entries.map fun e => lane e.val 31) = [193#32] ∧
    (let u := after (exec (.xqp 4) (scalar fun w => { w with xq := [11, 12] }))
     u.sreg 4 = 11 ∧ u.me.xq = [12]) ∧
    (after (exec (.bqf 4) (scalar fun w => { w with bq := [false, true] }))).me.pc = wordVa + 16 := by decide
/-- R204: LGO dispatches at LCB + 4 × imm; four uncompleted blocks make it wait. -/
theorem test_lgo :
    ((after (exec (.lgo 3) (scalar id))).me.dispatch.map (·.addr)) = [wordVa + 12] ∧
    (let s := scalar fun w => { w with dispatch := List.replicate 4 ⟨0, 0, false, Vector.replicate 8 0, 0, false, none, none⟩ }
     (after (exec (.lgo 3) s)).waited = true) := by decide
/-- R57, R58: FCSR keeps no bit its map leaves out; WID, a read-only register, does not change. -/
theorem test_special_registers :
    let s := scalar (regs [0xFFB])
    (after (exec (.swr 1 0x00B) s)).me.fcsr = 0xFF3 ∧ (after (exec (.swr 1 0x000) s)).me.wid = 0 ∧
    (after (exec (.srd 2 0x005) s)).sreg 2 = BitVec.allOnes 64 := by decide
/-- R222, R53: VADD in its lanes after its results land; the last-result file shifts. -/
theorem test_vadd :
    let s := lanes fun w => { w with v := [(1, Vector.ofFn fun i => BitVec.ofNat 32 i.val), (2, Vector.replicate 32 0xFFFF_FFFF)], exm := 0xFFFF_FFFE }
    let t := after (exec (.vadd (ty 0) (.v 3) (.v 1) (.op (.v 2))) s)
    let u := (landAll t 0).me
    lane (Tbl.get zeroLanes u.v 3) 5 = 4 ∧ lane (Tbl.get zeroLanes u.v 3) 0 = 0 ∧ lane u.l0 31 = 30 ∧
    lane (Tbl.get zeroLanes t.me.v 3) 5 = 0 := by decide
/-- R228: 1.5 + 2.25 is 3.75 in f32. -/
theorem test_fadd :
    let s := lanes fun w => { w with v := [(1, Vector.replicate 32 0x3FC0_0000), (2, Vector.replicate 32 0x4010_0000)] }
    let t := after (exec (.fadd (ty 2) (.v 3) (.v 1) (.v 2)) s)
    lane (Tbl.get zeroLanes (landAll t 0).me.v 3) 9 = 0x4070_0000 := by decide
/-- R233: SHFL by XOR with 1 exchanges neighbours within the tile. -/
theorem test_shfl :
    let s := lanes fun w => { w with v := [(1, Vector.ofFn fun i => BitVec.ofNat 32 (i.val + 1))] }
    let t := after (exec (.shfl (ty 0) (.v 3) (.v 1) (.imm 1) 3) s)
    lane (Tbl.get zeroLanes (landAll t 0).me.v 3) 6 = 8 := by decide
/-- R224: a signed compare writes the predicate and its complement. -/
theorem test_vcmp :
    let s := lanes fun w => { w with v := [(1, Vector.replicate 32 0xFFFF_FFFF)] }
    let t := after (exec (.vcmp (ty 0) (.v 1) (.v 2) 1 2 2) s)
    let u := (landAll t 0).me
    u.p[1] = 0xFFFF_FFFF ∧ u.p[2] = 0 := by decide
set_option exponentiation.threshold 32768 in
/-- R244, R248: HXOR of two hypervectors, and HKCLR zeroes its accumulator. -/
theorem test_hv :
    let s := lanes fun w => { w with h := w.h.set 1 5 |>.set 2 6, k := w.k.set 1 77 }
    (landAll (after (exec (.hxor (ty 0) 3 1 2) s)) 0).me.h[3] = 3 ∧
    (landAll (after (exec (.hkclr (ty 0) 1) s)) 0).me.k[1] = 0 := by decide
/-- R190: a lane word whose guard is empty is skipped whatever else its bits say. -/
theorem test_guard :
    let s := lanes id
    (after (exec (.vred ⟨1, 0, true, 15, none⟩ (.v 1) (.v 2) 7) s)).me.dispatch.map (·.issued) = [true] := by decide
/-- R213, R130: a cause in supervisor mode kills the block. -/
theorem test_handler_cause : ((after (exec (.trap 3) (scalar fun w => { w with sup := true }))).blockAt 0).killed = true := by decide
/-- R303: from reset, the first step of the part is its start from slot A. -/
theorem test_power_on : (after (step State.reset)).boot.power = .running false := by decide
/-- A word placed where the step fetches runs: ADDI, and VMOV of the lane stream. -/
theorem test_step_runs_a_word :
    (after (step (State.reset.withFetchWord 32 0x04080005))).sreg 1 = 5 := by decide

/-! ### Witnesses: the hypotheses of each statement are met together -/

/-- IntegerGroup, ImmediatesAndConstants, Branches, Fences, LaneDispatch and others: a warp that may issue. -/
theorem witness_ready : Ready (scalar id) [1, 2] ∧ Ready (scalar id) [1] ∧ Ready (scalar id) [] :=
  ⟨⟨by decide, by decide⟩, ⟨by decide, by decide⟩, by decide, by decide⟩
/-- IntegerGroup, ImmediatesAndConstants: fields that are no instruction's. -/
theorem witness_unassigned : (∃ fn : BitVec 7, 0x1A ≤ fn.toNat) ∧
    (∃ (fn : BitVec 7) (b : SReg), 0x18 ≤ fn.toNat ∧ b ≠ 0) ∧
    (∃ imm : BitVec 13, (imm.extractLsb' 6 7 : BitVec 7) ≠ 0) ∧ ∃ rest : BitVec 25, rest ≠ 0 :=
  ⟨⟨0x1A, by decide⟩, ⟨0x18, 1, by decide⟩, ⟨0x40, by decide⟩, 1, by decide⟩
/-- IntegerGroup, ImmediatesAndConstants: such a word is fetched. -/
theorem witness_illegal : ∀ u ∈ [0x0200_001A, 0x0200_0098, 0x0C00_0040, (0xFE00_0001 : BitVec 32)],
    let s := State.reset.withFetchWord 32 u.toNat
    canRun s = true ∧ ∃ t, fetchUnit s (whoOf s s.cur s.me) s.me.pc = (t, .ok u) := by
  intro u h
  simp only [List.mem_cons, List.not_mem_nil, or_false] at h
  rcases h with rfl | rfl | rfl | rfl <;> exact ⟨by decide, _, by rfl⟩
/-- JumpRegister: a target that is a multiple of four, and one that is not. -/
theorem witness_JumpRegister : ∃ (s : State) (a : SReg) (i j : BitVec 13), Ready s [a] ∧
    (s.sreg a + i.signExtend 64).toNat % 4 = 0 ∧ (s.sreg a + j.signExtend 64).toNat % 4 ≠ 0 :=
  ⟨scalar (regs [0x100]), 1, 4, 5, ⟨by decide, by decide⟩, by decide⟩
/-- QueueBranches, QueuePop: entries, and none. -/
theorem witness_QueueBranches : ∃ s t : State, Ready s [] ∧ s.me.sup = false ∧ s.me.bq = [true] ∧ s.me.xq = [7] ∧
    Ready t [] ∧ t.me.sup = false ∧ t.me.bq = [] :=
  ⟨scalar fun w => { w with bq := [true], xq := [7] }, scalar id, ⟨by decide, by decide⟩, by decide, by decide, by decide,
    ⟨by decide, by decide⟩, by decide, by decide⟩

/-- A word of eight bytes of the warp's partition, at the last place it has. -/
def nearEnd : State := scalar (regs [own 0x3FF8, 5, 6])

/-- ScalarLoadsAndStores: reads and writes of each size at the end of the partition. -/
theorem witness_ScalarLoadsAndStores : ∀ n ∈ [1, 2, 4, 8], ∃ p,
    resolve nearEnd (whoOf nearEnd nearEnd.cur nearEnd.me) .read n (nearEnd.sreg 1) = (nearEnd, .ok p) ∧
    answers nearEnd p n ∧
    resolve nearEnd (whoOf nearEnd nearEnd.cur nearEnd.me) .write n (nearEnd.sreg 1) = (nearEnd, .ok p) ∧
    unanswered nearEnd nearEnd.cur p = false ∧ ∃ t, StoresTo nearEnd nearEnd 1 [(p, leBytes n (nearEnd.sreg 2).toNat)] t := by
  intro n h
  simp only [List.mem_cons, List.not_mem_nil, or_false] at h
  rcases h with rfl | rfl | rfl | rfl <;>
    exact ⟨.part 0 0x3FF8, rfl, ⟨by decide, by decide⟩, rfl, by decide, _, .inl ⟨by decide, by decide, rfl⟩⟩
/-- ScalarLoadsAndStores: a remote option that is allowed, and a load that no held fence keeps waiting. -/
theorem witness_remote : (∃ sc, remoteOk true sc = true) ∧ Ready nearEnd [1] ∧ fenceHeld nearEnd nearEnd.me = false :=
  ⟨⟨.device, by decide⟩, ⟨by decide, by decide⟩, by decide⟩
/-- Atomics. -/
theorem witness_Atomics : ∃ (s u : State) (d a b : SReg) (p : Spot), ReadyToClose s [d, a, b] ∧ ReadyToClose s [a, b] ∧
    resolve s (whoOf s s.cur s.me) .rw 8 (s.sreg a) = (u, .ok p) ∧ answers u p 8 ∧ unblocked u p ∧
    (∀ op, atomRefused u p op = false) ∧
    (∃ v : State, atomRefused { v with aborted := some v.cur } (.mem 0x8_0000_0000_0000 [] 0 none) .add = true) :=
  ⟨nearEnd, nearEnd, 2, 1, 3, .part 0 0x3FF8, ⟨⟨by decide, by decide⟩, by decide, by decide⟩,
    ⟨⟨by decide, by decide⟩, by decide, by decide⟩, rfl, ⟨by decide, by decide⟩, by unfold unblocked; decide,
    fun op => by cases op <;> rfl, scalar id, by decide⟩
/-- AddressChecks: a misaligned address of each size, and addresses of each window at the bounds of the partition. -/
theorem witness_AddressChecks :
    (∃ va : Word, va.toNat % 2 ≠ 0 ∧ va.toNat % 4 ≠ 0 ∧ va.toNat % 8 ≠ 0) ∧
    (∃ off : BitVec 19, (0xFE#8 ++ (0#37 ++ off) : BitVec 64) = own 0x3FFF ∧ off.toNat < ((scalar id).blockAt 0).size) ∧
    (∃ off : BitVec 19, (0xFE#8 ++ (0#37 ++ off) : BitVec 64) = own 0x4000 ∧ ¬ off.toNat < ((scalar id).blockAt 0).size) ∧
    gangBlockOn (scalar id) 0 0 = some 0 ∧ gangBlockOn (scalar id) 0 7 = none ∧
    (∃ va : Word, (va.extractLsb' 56 8 : BitVec 8) = 0 ∧ va.getLsbD 55 = true) ∧
    (∃ va : Word, (va.extractLsb' 56 8 : BitVec 8) = 0xFF ∧ va.getLsbD 55 = false) ∧
    (∃ va : Word, (va.extractLsb' 56 8 : BitVec 8) = 0xFD ∧ (va.extractLsb' 22 34 : BitVec 34) ≠ 0) :=
  ⟨⟨1, by decide⟩, ⟨0x3FFF, by decide⟩, ⟨0x4000, by decide⟩, by decide, by decide,
    ⟨0x0080_0000_0000_0000, by decide⟩, ⟨0xFF00_0000_0000_0000, by decide⟩, ⟨0xFD00_0000_0040_0000, by decide⟩⟩
/-- StoreEffects: a dirty bit beside the stored bytes; a scratchpad in its form; a page that the log has already, and a log
with one free entry. -/
theorem witness_StoreEffects :
    (∃ (s : State) (pa : Nat) (dirty : List Dirty) (bs : List Byte), s.memOk ∧ dirty ≠ [] ∧ (∀ d ∈ dirty, d.vf = 0) ∧
      ∀ d ∈ dirty, d.pte < pa ∨ pa + bs.length ≤ d.pte) ∧
    Tbl.wf 0 ((scalar id).blockAt 0).scratch = true ∧
    (∃ (s : State) (d : Dirty), s.memOk ∧ d.vf ≠ 0 ∧ d.gpa / 16384 ∈ (s.fnAt d.vf).ahead) ∧
    ∃ (s : State) (d : Dirty), s.memOk ∧ d.vf ≠ 0 ∧ d.pending s = true ∧ (s.fnAt d.vf).ring = some (511, 512) ∧
      d.gpa / 16384 ∉ (s.fnAt d.vf).ahead ∧
      (d.pte < (s.fnAt d.vf).dlbase.toNat + 8 * ((s.fnAt d.vf).prod.toNat % 512) ∨
        (s.fnAt d.vf).dlbase.toNat + 8 * ((s.fnAt d.vf).prod.toNat % 512) + 8 ≤ d.pte) :=
  ⟨⟨scalar id, 0x9000, [⟨0x8FF8, 0, 0⟩], [1, 2, 3], by unfold State.memOk; decide, by decide, by decide, by decide⟩,
    by decide, ⟨(scalar id).setFn 1 { Fn.reset with ahead := [3] }, ⟨0x8000, 1, 3 * 16384⟩, by unfold State.memOk; decide,
      by decide, by decide⟩,
    (scalar id).setFn 1 { Fn.reset with en := true, dlsize := 512, dlbase := 0x4000, prod := 511 },
    ⟨0x8000, 1, 0⟩, by unfold State.memOk; decide, by decide, by decide, by decide, by decide, by decide⟩

/-- A warp that is stroke 1 of a breakable crew, not committed. -/
def stroke (going broke : Bool) : State :=
  (scalar fun w => { w with stroke := some (0, 1) }).setCrew 0 { Crew.absent with
    live := true, commit := 1, next := 2
    record := { CrewRec.none with breakable := true, regs8 := 4, s := 1, w := 2 }
    strokes := [⟨1, 0, going, broke, false, true⟩] }

/-- ScalarLoadsAndStores, LaneMemory, Hypervectors: a store that is held. -/
theorem witness_held : ∃ t, StoresTo (stroke false false) (stroke false false) 1 [(.part 0 0x3FF8, [1, 2])] t :=
  ⟨_, .inr ⟨0, 1, by decide, by decide, rfl⟩⟩

/-- The same stroke with a sequentially consistent fence held. -/
def fenced : State :=
  let s := stroke false false
  s.setCrew 0 { s.crewAt 0 with held := [⟨1, [], [], 0, [], true⟩] }

/-- ScalarLoadsAndStores, QueuePushesAndStreams, Waits: a fence of the warp's own stroke is held; AddressChecks: none is. -/
theorem witness_fenced : Ready fenced [1, 2] ∧ fenceHeld fenced fenced.me = true ∧
    Ready (stroke false false) [1, 2] ∧ fenceHeld (stroke false false) (stroke false false).me = false :=
  ⟨⟨by decide, by decide⟩, by decide, ⟨by decide, by decide⟩, by decide⟩

/-- A warp of a virtual function whose one-leaf second stage is clean and whose dirty log is full. -/
def logFull : State :=
  let s := scalar (regs [0x1_0800, 5])
  let s := s.setFn 1 { Fn.reset with s2ptb := 0x10_0000, en := true, dlsize := 512, prod := 600, cons := 88 }
  let s := s.setCtx 0 { s.ctxAt 0 with vf := 1 }
  { s with mem := writeBytes (writeBytes s.mem 0x10_0000 (leBytes 8 0x10_4001)) 0x10_4000 (leBytes 8 0x3F) }

/-- Whether an access succeeds with a value. -/
def gave {α β ε : Type} [DecidableEq β] (x : α × Except ε β) (b : β) : Bool :=
  match x.2 with
  | .ok y => decide (y = b)
  | .error _ => false

/-- An access that succeeds. -/
theorem ok_of {α β ε : Type} [DecidableEq β] {x : α × Except ε β} {b : β} (h : gave x b = true) : x = (x.1, .ok b) := by
  obtain ⟨a, _ | y⟩ := x
  · exact absurd h (by simp [gave])
  · simp only [gave, decide_eq_true_eq] at h
    exact h ▸ rfl

/-- An access that succeeds, with what then holds. -/
theorem ok_with {α β ε : Type} {x : α × Except ε β} {P : α → β → Prop} [∀ a b, Decidable (P a b)]
    (h : (match x.2 with | .ok y => decide (P x.1 y) | .error _ => false) = true) : ∃ u p, x = (u, .ok p) ∧ P u p := by
  obtain ⟨a, _ | y⟩ := x
  · exact absurd h (by simp)
  · exact ⟨a, y, rfl, of_decide_eq_true h⟩

/-- StoreEffects: a store that the log has no room for. -/
theorem witness_logShort : Ready logFull [2, 1] ∧ uncommitted logFull logFull.me = none ∧
    ∃ u p, resolve logFull (whoOf logFull logFull.cur logFull.me) .write 8 (logFull.sreg 1 + BitVec.signExtend 64 (0 : BitVec 13)) =
      (u, .ok p) ∧ unanswered u u.cur p = false ∧ logShort u (storeDirty [(p, [])]) = some 1 ∧
        (u.fnAt 1).ring = some (512, 512) :=
  ⟨⟨by decide, by decide⟩, by decide, ok_with (by decide +kernel)⟩

/-- Fences: a warp outside a crew, and an uncommitted stroke. -/
theorem witness_Fences : (Ready (scalar id) [] ∧ (scalar id).me.dispatch = [] ∧ uncommitted (scalar id) (scalar id).me = none) ∧
    Ready (stroke false false) [] ∧ (stroke false false).me.dispatch = [] ∧
    uncommitted (stroke false false) (stroke false false).me = some (0, 1) :=
  ⟨⟨⟨by decide, by decide⟩, by decide, by decide⟩, ⟨by decide, by decide⟩, by decide, by decide⟩
/-- LaneDispatch: three blocks dispatched, one place free; aligned and misaligned addresses. -/
theorem witness_LaneDispatch : ∃ (s : State) (a : SReg) (imm : BitVec 19), Ready s [a] ∧ Ready s [] ∧ s.me.sup = false ∧
    s.me.dispatch.length = 3 ∧ s.me.dispatch ≠ [] ∧ (s.me.lcb + 4 * imm.setWidth 64).toNat % 4 = 0 ∧
    (s.me.lcb + s.sreg a).toNat % 4 ≠ 0 ∧ (s.me.lcb + s.sreg 2).toNat % 4 = 0 :=
  ⟨scalar fun w => { regs [2, 4] w with dispatch := List.replicate 3 ⟨0, 0, false, Vector.replicate 8 0, 0, false, none, none⟩ },
    1, 0, ⟨by decide, by decide⟩, ⟨by decide, by decide⟩, by decide, by decide, by decide, by decide, by decide, by decide⟩
/-- LaneDispatch: a lane code base that is not a multiple of four. -/
theorem witness_LaneDispatch_misaligned : ∃ s : State, Ready s [] ∧ s.me.dispatch = [] ∧ s.me.lcb.toNat % 4 ≠ 0 :=
  ⟨scalar fun w => { w with lcb := 6 }, ⟨by decide, by decide⟩, by decide, by decide⟩

/-- A dq with seven entries. -/
def nearlyFull (st : Option Stream) (w : Warp) : Warp :=
  { w with dq := w.dq.set 2 ⟨List.replicate 7 ⟨zeroLanes, none⟩, st⟩ }

/-- QueuePushesAndStreams: one place free, an entry that loads, a count of zero and one that is not. -/
theorem witness_QueuePushesAndStreams : ∃ s : State, Ready s [1, 2, 3] ∧ s.me.sup = false ∧
    s.me.dq[2].entries.length = 7 ∧ s.me.dq[2].stream = none ∧ (s.sreg 3).toNat % 2 ^ 32 ≠ 0 ∧
    (s.sreg 4).toNat % 2 ^ 32 = 0 ∧ fenceHeld s s.me = false ∧ (Instr.dqld 1 2 true 1 2).wf = true ∧
    ∃ u v, loadEntry s s.cur s.me (whoOf s s.cur s.me) true 1 (fun i => s.sreg 1 + BitVec.ofNat 64 i.val * s.sreg 2) = (u, .ok v) :=
  ⟨scalar fun w => nearlyFull none (regs [own 0, 1, 2, 0x1_0000_0000] w), ⟨by decide, by decide⟩, by decide, by decide,
    by decide, by decide, by decide, by decide, by decide, _, _, rfl⟩
/-- QueuePushesAndStreams: the 32 bytes of an entry, each at its own address of the partition. -/
theorem witness_entryOf : entryOf 0 (scalar id).me (whoOf (scalar id) 0 (scalar id).me) true 1 (fun i => own i.val) zeroLanes
    (List.finRange 32) (scalar id) (scalar id) := by
  have h : ∀ l : Fin 32,
      let x := resolve (scalar id) (whoOf (scalar id) 0 (scalar id).me) .read 1 (own l.val)
      gave x (.part 0 l.val) = true ∧ x.1 = scalar id ∧
      poisoned (scalar id) (.part 0 l.val) 1 = false ∧ unanswered (scalar id) 0 (.part 0 l.val) = false ∧
      leNat (seeBytes (scalar id) (scalar id).me (.part 0 l.val) 1) = 0 ∧ lane zeroLanes l = 0 := by decide +kernel
  generalize List.finRange 32 = ls
  induction ls with
  | nil => rfl
  | cons l ls ih =>
    obtain ⟨hr, hs, hp, hu, hb, hz⟩ := h l
    exact ⟨_, _, by rw [ok_of hr, hs], hp, hu, by simp only [hb, hz]; rfl, ih⟩

/-- A stream of words `step` bytes apart, on a purse with one slot for page walks. -/
def streaming (x step : Word) (spent : Nat) : State :=
  (scalar fun w => { nearlyFull (some ⟨0, 1, x, 4, step, false, 2⟩) w with drawn := [] }).setDomain 0
    { Domain.reset with active := Vector.replicate 6 1, spent := Vector.replicate 6 spent }
/-- QueuePushesAndStreams: a stream whose next entry's walks take more slots than the purse has, with one left and with
none. -/
theorem witness_streamWalks : ∀ n ∈ [0, 1], let s := streaming wordVa 0x4000 n
    ∃ u r, loadEntry { s with asked := [] } 0 (s.warpAt 0) { whoOf s 0 (s.warpAt 0) with sup := false } false 4
      (fun i => wordVa + BitVec.ofNat 64 0 * 4 + BitVec.ofNat 64 i.val * 0x4000) = (u, r) ∧
      paidStep s u 0 = none ∧ (drawAhead s u 0).isSome = decide (n = 0) := by
  intro n h
  simp only [List.mem_cons, List.not_mem_nil, or_false] at h
  rcases h with rfl | rfl <;> exact ⟨_, _, rfl, by decide +kernel, by decide +kernel⟩
/-- QueuePushesAndStreams: a stream whose next entry loads, and one whose next entry is misaligned. -/
theorem witness_streams : ∀ x ∈ [own 0, own 1], ∃ s : State, fenceHeld s (s.warpAt 0) = false ∧
    (∀ u, u.asked = [] → paidStep s u 0 = some u) ∧ (s.warpAt 0).dq[2].stream = some ⟨0, 1, x, 4, 4, false, 2⟩ ∧
    (s.warpAt 0).stat = .running ∧ (s.warpAt 0).dq[2].entries.length < 8 ∧ (s.blockAt (s.warpAt 0).block).stopped = false ∧
    (x = own 0 → ∃ u v, loadEntry s 0 (s.warpAt 0) { whoOf s 0 (s.warpAt 0) with sup := false } false 4
      (fun i => x + BitVec.ofNat 64 0 * 4 + BitVec.ofNat 64 i.val * 4) = (u, .ok v)) ∧
    (x = own 1 → ∃ u e, loadEntry s 0 (s.warpAt 0) { whoOf s 0 (s.warpAt 0) with sup := false } false 4
      (fun i => x + BitVec.ofNat 64 0 * 4 + BitVec.ofNat 64 i.val * 4) = (u, .error e)) := by
  intro x h
  refine ⟨scalar (nearlyFull (some ⟨0, 1, x, 4, 4, false, 2⟩)), rfl, fun u h => by simp [paidStep, h], rfl, by rfl, by show (7 : Nat) < 8; decide, by rfl, ?_, ?_⟩ <;>
    rintro rfl <;> exact ⟨_, _, rfl⟩
/-- SpecialRegisters, PrivilegedRegisters: both modes, lane blocks dispatched, and generations in their form. -/
theorem witness_PrivilegedRegisters : (∃ s : State, Ready s [1] ∧ s.me.sup = false ∧ s.me.dispatch = []) ∧
    (∃ s : State, Ready s [1] ∧ s.me.sup = false ∧ s.me.dispatch ≠ []) ∧
    (∃ s : State, Ready s [1] ∧ s.me.sup = true ∧ Tbl.wf 0 s.gens = true) ∧
    (∃ i : BitVec 13, 0x100 ≤ i.toNat ∧ i.toNat ≤ 0x104) ∧ (∃ i : BitVec 13, 0x110 ≤ i.toNat ∧ i.toNat ≤ 0x115) ∧
    (∀ i ∈ [(0x018 : BitVec 13), 0x025, 0x03F, 0x042, 0x10F, 0x116], ¬ assigned i) ∧
    ∀ i ∈ [(0x017 : BitVec 13), 0x020, 0x034, 0x041, 0x100, 0x115], assigned i :=
  ⟨⟨scalar id, ⟨by decide, by decide⟩, by decide, by decide⟩,
    ⟨scalar fun w => { w with dispatch := [⟨0, 0, false, Vector.replicate 8 0, 0, false, none, none⟩] },
      ⟨by decide, by decide⟩, by decide, by decide⟩,
    ⟨scalar fun w => { w with sup := true }, ⟨by decide, by decide⟩, by decide, by decide +kernel⟩,
    ⟨0x104, by decide⟩, ⟨0x115, by decide⟩, by unfold assigned; decide +kernel, by unfold assigned; decide +kernel⟩
/-- RegionYieldAndExit: a warp outside a crew, and a stroke. -/
theorem witness_RegionYieldAndExit : ∀ s ∈ [scalar id, stroke false false], Ready s [] ∧ s.me.hosts = none ∧
    s.me.dispatch = [] ∧ warpCmds s s.cur = [] := by
  intro s h
  simp only [List.mem_cons, List.not_mem_nil, or_false] at h
  rcases h with rfl | rfl <;> exact ⟨⟨by decide, by decide⟩, by decide, by decide, by decide⟩

/-- A warp whose context has a save area and a vector table in the mapped page, with a handler for cause 0x83. -/
def trapReady (f : Warp → Warp) : State :=
  let s := scalar f
  let s := s.setCtx 0 { s.ctxAt 0 with frb := 0x1_0000, tvb := 0x1_2000 }
  { s with mem := writeBytes s.mem (wordPage + 0x2000 + 8 * 0x83) (leBytes 8 0x1_0001) }

/-- TrapEntry: a user-mode warp with nothing in flight, its save area and vector entry readable. -/
theorem witness_TrapEntry :
    let s := trapReady id
    let r : Raise := .plain (1#1 ++ 3#7)
    let who : Who := ⟨coreOf s.cur, s.myCtx, s.me.block, true, some s.me.ctxid, false⟩
    let x := resumption s r (s.me.pc + 4)
    TakesNow s ∧ Ready s [] ∧ r.cause ≠ cPAGE ∧ r.cause ≠ cFMT_ABSENT ∧ r.cause ≠ cECC_SCRATCH ∧
    (s.ctxAt s.myCtx).tvb.toNat % 2048 = 0 ∧
    ∃ u v bs, writeSpan (trapping s r.cause) who x.area (trapBytes s.me x false false) = (u, .ok ()) ∧
      readSpan u who ((s.ctxAt s.myCtx).tvb + BitVec.ofNat 64 (8 * r.cause.toNat)) 8 = (v, .ok bs) ∧
      (u.ctxAt s.myCtx).tvb = (s.ctxAt s.myCtx).tvb ∧ leNat bs = 0x1_0001 :=
  ⟨⟨by decide, by decide, by decide, by decide, by decide⟩, ⟨by decide, by decide⟩, by decide, by decide, by decide,
    by decide, _, _, leBytes 8 0x1_0001, ok_of (by decide +kernel), ok_of (by decide +kernel), by decide +kernel, by decide⟩
/-- PageParks. -/
theorem witness_PageParks :
    let s := trapReady id
    let x := resumption s ⟨cPAGE, 0x5000, 0, false⟩ s.me.pc
    TakesNow s ∧ ∃ u, writeSpan (trapping s cPAGE) ⟨coreOf s.cur, s.myCtx, s.me.block, true, some s.me.ctxid, false⟩ x.area
      (trapBytes s.me x true false) = (u, .ok ()) :=
  ⟨⟨by decide, by decide, by decide, by decide, by decide⟩, _, rfl⟩

/-- A record of a trap. -/
def aTrap : TrapRec := ⟨0x83, false, wordVa, false, false, false, wordVa + 4, 0, 0, 0, 0x1_1000, false, .none⟩

/-- ExceptionReturn: user mode, and a handler whose save area can be read. -/
theorem witness_ExceptionReturn : (Ready (scalar id) [] ∧ (scalar id).me.sup = false) ∧
    ∃ s : State, Ready s [] ∧ s.me.sup = true ∧ s.me.trap = some aTrap ∧ aTrap.cause ≠ cECC_SCRATCH ∧
      ∃ u bs, readSpan s ⟨coreOf s.cur, s.myCtx, s.me.block, true, some s.me.ctxid,
        s.silent == some (.warp s.cur)⟩ aTrap.area 512 = (u, .ok bs) :=
  ⟨⟨⟨by decide, by decide⟩, by decide⟩, trapReady fun w => { w with sup := true, trap := some aTrap },
    ⟨by decide, by decide⟩, by decide, by decide, by decide, _, _, rfl⟩
/-- A warp with an asynchronous cause pending, its page walks on a purse. -/
def asyncReady (purse : BitVec 16) (spent : Nat) : State :=
  let s := (trapReady fun w => { w with async := [(0x83, wordVa)], drawn := [] }).setDomain 0
    { Domain.reset with active := Vector.replicate 6 purse, spent := Vector.replicate 6 spent }
  let s := s.setCtx 0 { s.ctxAt 0 with tvb := 0x1_4000 }
  let m := writeBytes s.mem (wordTable + 0xC028) (leBytes 8 (openLeaf 0x20_0000))
  { s with mem := writeBytes m (0x20_0000 + 8 * 0x83) (leBytes 8 0x1_0001) }

/-- AsynchronousTrap: a purse that limits nothing, one that pays for the entry, one with a slot too few, and none left. -/
theorem witness_AsynchronousTrap : ∀ p ∈ [((0xFFFF : BitVec 16), 0), (3, 0), (1, 0), (1, 1)],
    let s := asyncReady p.1 p.2
    let w := s.warpAt 0
    let z := { s with asked := [] }
    (w.async = [(0x83, wordVa)] ∧ w.stat = .running ∧ w.sup = false ∧ w.parked = none ∧
      (s.blockAt w.block).stopped = false ∧ syncFirst s w 0x83 = false ∧ (∀ vf, (s.fnAt vf).ring = none)) ∧
    ∃ t, takeTrap (z.setWarp 0 { w with async := [] }) 0 ⟨.plain 0x83, false, wordVa, w.pc, true, [], false⟩ = some t ∧
      (paidStep z t 0).isSome = decide (p.1 ≠ 1) ∧ (drawAhead z t 0).isSome = decide (p ≠ (1, 1)) := by
  intro p h
  simp only [List.mem_cons, List.not_mem_nil, or_false] at h
  rcases h with rfl | rfl | rfl | rfl <;>
    exact ⟨⟨rfl, rfl, rfl, rfl, rfl, by decide, fun _ => rfl⟩, _, rfl, by decide +kernel, by decide +kernel⟩

/-- A command of warp 0. -/
def cmd (op : CmdOp) : Cmd where
  op := op
  warp := 0
  block := 0
  pc := wordVa
  word := 0
  a := 0
  b := 0
  k := 0
  scope := 1
  ctr := 0
  seq := 0
  sup := false
  started := false
  flags := 0
  status := none
  copy := none
  emul := false
  pageVa := none
  copies := []
  moves := []
  dirs := none
  drawn := []
  home := none

/-- A core 0 with one command at the head of each engine queue. -/
def queued (c m t l : Cmd) (f : Warp → Warp) : State :=
  let s := scalar f
  s.setCore 0 { s.coreAt 0 with copyQ := [c], matrixQ := [m], stateQ := [t], launchQ := [l] }

/-- FirmwareAnswers: a warp parked for a page, one for the format of the command at its matrix head, an access to a
peer package without an answer, a command at a head. -/
theorem witness_FirmwareAnswers :
    (∃ s : State, (s.warpAt 0).parked = some (.page, aTrap) ∧ (s.ctxAt (s.gridOf (s.warpAt 0).block).ctx).vf = 0) ∧
    (let c := { cmd (.mxz 1 0) with emul := true }
     let s := queued c c c c fun w => { w with parked := some (.format, aTrap) }
     headCmd s (coreOf 0) 1 = some c ∧ (s.warpAt 0).parked = some (.format, aTrap) ∧
     joinsOpen s (coreOf 0) 1 c.seq = true ∧ ∃ u d, cmdStart s (coreOf 0) { c with emul := false } = .goes u d) ∧
    ((scalar id).warpAt 0).stat = .running ∧ paRange 0x9_0000_0000_0000 = .peer ∧
    ({ scalar id with silent := some (.warp 0) } : State).silent = some (.warp (scalar id).cur) :=
  ⟨⟨scalar fun w => { w with parked := some (.page, aTrap) }, by rfl, by rfl⟩, ⟨by rfl, by rfl, by rfl, _, _, rfl⟩,
    by decide, by decide, by decide⟩
/-- A warp whose load names a page of a peer package that does not answer. -/
def silentPeer : State :=
  let s := scalar (regs [0x1_8000])
  { s with silent := some (.warp 0), mem := writeBytes s.mem (wordTable + 0xC030) (leBytes 8 (openLeaf 0x9_0000_0000_0000)) }

/-- A warp of a virtual function of one page and a quota of one, parked for another. -/
def overQuota : State :=
  let s := scalar fun w => { w with parked := some (.page, { aTrap with addr := 0x4_0000 }) }
  let s := s.setFn 1 { Fn.reset with s2ptb := 0x10_0000, quota := 1, qused := 1 }
  let s := s.setCtx 0 { s.ctxAt 0 with vf := 1 }
  { s with mem := writeBytes (writeBytes s.mem 0x10_0000 (leBytes 8 0x10_4001)) 0x10_4000 (leBytes 8 0x7F) }

/-- FirmwareAnswers: a quota that would be exceeded, a load without an answer. -/
theorem witness_FirmwareAnswers_unanswered :
    wouldExceed overQuota 0 0x4_0000 = true ∧
    Ready silentPeer [1] ∧ fenceHeld silentPeer silentPeer.me = false ∧
    ∃ u p, resolve silentPeer (whoOf silentPeer silentPeer.cur silentPeer.me) .read 8
      (silentPeer.sreg 1 + BitVec.signExtend 64 (0 : BitVec 13)) = (u, .ok p) ∧ unanswered u u.cur p = true :=
  ⟨by decide +kernel, ⟨by decide, by decide⟩, by decide, ok_with (by decide +kernel)⟩
/-- An update of a counter that finds no answer. -/
theorem missed_of {x : CtrOut} (h : x.missed = true) : ∃ v, x = .failed v cECC_SCRATCH := by
  cases x with
  | failed v c => exact ⟨v, by rw [CtrOut.missed, beq_iff_eq] at h; rw [h]⟩
  | done _ => exact absurd h (by simp [CtrOut.missed])
  | page _ _ => exact absurd h (by simp [CtrOut.missed])
/-- FirmwareAnswers: an update of a counter in a peer package, and of one in memory. -/
theorem witness_deafCounter :
    (∃ v, counterUpdate silentPeer { whoPart 0 with deaf := true } 0x1_8000 none = .failed v cECC_SCRATCH) ∧
    (counterUpdate silentPeer (whoPart 0) 0x1_8000 none).missed = false ∧
    (counterUpdate silentPeer { whoPart 0 with deaf := true } wordVa none).missed = false :=
  ⟨missed_of (x := counterUpdate silentPeer { whoPart 0 with deaf := true } 0x1_8000 none) (by decide +kernel),
    by decide +kernel, by decide +kernel⟩
/-- FirmwareAnswers: a started command with a piece of its work in a peer package, one whose counter lies there,
and a command that reaches no peer. -/
theorem witness_deafCommand :
    (let c := { cmd (.mxz 1 0) with started := true, moves := [⟨.phys 0x9_0000_0000_0000, .bytes [1]⟩] }
     headCmd (queued c c c c id) 0 2 = some c ∧ ∃ m ∈ c.moves, m.atPeer = true) ∧
    (let c := { cmd (.mxz 1 0) with started := true, ctr := 0x1_8000 }
     let s := { queued c c c c id with mem := silentPeer.mem }
     ∃ c, headCmd s 0 1 = some c ∧ c.started = true ∧ c.moves = [] ∧ cmdAtPeer s 0 1 c = true) ∧
    let c := cmd (.mxz 1 0)
    headCmd (queued c c c c id) 0 1 = some c ∧ cmdAtPeer (queued c c c c id) 0 1 c = false :=
  ⟨⟨rfl, _, List.mem_singleton.mpr rfl, by decide⟩, ⟨_, rfl, rfl, rfl, by decide +kernel⟩, rfl,
    by decide +kernel⟩
/-- CausesMet: supervisor mode, dispatched blocks, a source register in error. -/
theorem witness_CausesMet : (∃ s : State, s.me.sup = true ∧ (s.blockAt s.me.block).killed = false) ∧
    (∃ s : State, s.me.sup = false ∧ s.me.dispatch ≠ []) ∧
    (∃ s : State, s.me.sup = false ∧ (uncommitted s s.me).isSome = true) ∧
    (∃ (s : State) (x : ScalarFault), s.me.fault = some x ∧ TakesNow s ∧ x.regs = [] ∧ x.atOnce = false) ∧
    ∃ (s : State) (a b : SReg), canRun s = true ∧ badSources s [a, b] ≠ [] :=
  ⟨⟨scalar fun w => { w with sup := true }, by decide, by decide⟩, ⟨lanes id, by decide, by decide⟩,
    ⟨stroke false false, by decide, by decide⟩,
    ⟨scalar fun w => { w with fault := some ⟨cMISALIGN, 6, false, wordVa, [], false, false⟩ }, _, rfl,
      ⟨by decide, by decide, by decide, by decide, by decide⟩, rfl, rfl⟩,
    { scalar id with poison := [.sreg 0 2] }, 1, 2, by decide, by decide⟩
/-- WordsOfATurn: a scalar word fetched, a page that is absent, and a lane word fetched. -/
theorem witness_WordsOfATurn :
    (∃ s : State, canRun (s.turnOf 0) = true ∧ (s.turnOf 0).me.fault = none ∧
      asyncFirst (s.turnOf 0) (s.turnOf 0).me = false ∧ addrClass (s.turnOf 0).me.pc = .translated ∧
      ∃ t pa l i, translate (s.turnOf 0) (whoOf (s.turnOf 0) 0 (s.turnOf 0).me) .fetch (s.turnOf 0).me.pc = (t, .ok (pa, l)) ∧
        tableAt pa = true ∧ lineBad t pa 4 = false ∧ (whoOf (s.turnOf 0) 0 (s.turnOf 0).me).deaf = false ∧
        decodeS (BitVec.ofNat 32 (leNat (readBytes t.mem pa 4))) = .ok i) ∧
    (∃ s : State, canRun (s.turnOf 0) = true ∧ (s.turnOf 0).me.fault = none ∧
      asyncFirst (s.turnOf 0) (s.turnOf 0).me = false ∧ addrClass (s.turnOf 0).me.pc = .translated ∧
      ∃ t r, translate (s.turnOf 0) (whoOf (s.turnOf 0) 0 (s.turnOf 0).me) .fetch (s.turnOf 0).me.pc = (t, .error r)) ∧
    ∃ s : State, canRun (s.turnOf 0) = true ∧ (s.turnOf 0).me.sup = false ∧ (s.turnOf 0).me.laneFault = none ∧
      asyncFirst (s.turnOf 0) (s.turnOf 0).me = false ∧
      ∃ d t us i n, (s.turnOf 0).me.laneBlock = some d ∧ (s.turnOf 0).me.laneAt ≤ s.cycle ∧
        fetchLane (s.turnOf 0) (whoOf (s.turnOf 0) 0 (s.turnOf 0).me) d.addr = (t, .ok us) ∧
        decodeLaneUnits us = .ok (i, n) :=
  ⟨⟨scalar id, by decide, by decide, by decide, by decide, _, _, _, .nop, rfl, by decide, by rfl, by rfl, by rfl⟩,
    ⟨scalar fun w => { w with pc := 0x4_0000 }, by decide, by decide, by decide, by decide, _, _, rfl⟩,
    lanes id, by decide, by decide, by decide, by decide, _, _, _, _, _, rfl, by decide, rfl, rfl⟩
/-- WordsOfATurn: a word whose line is in error raises ECC_SCRATCH (R82). -/
theorem witness_badLine : let s := { trapReady id with poison := [.line wordPage] }
    lineBad s wordPage 4 = true ∧ canRun (s.turnOf 0) = true ∧
    ((after (rawTurn s 0 false)).warpAt 0).cause = 0#1 ++ cECC_SCRATCH := by decide +kernel
/-- WordsOfATurn: a turn whose fetch walks, on a purse that pays for it and on one that has nothing left. -/
theorem witness_turnWalks : ∀ n ∈ [0, 1],
    let s := (scalar fun w => { w with drawn := [] }).setDomain 0 ({ Domain.reset with
      active := Vector.replicate 6 1, spent := Vector.replicate 6 n } : Domain)
    ∃ t, rawTurn s 0 false = .next t ∧ t.waited = false ∧ t.asked = [(3, 1)] := by
  intro n h
  simp only [List.mem_cons, List.not_mem_nil, or_false] at h
  rcases h with rfl | rfl <;> exact ⟨_, rfl, by decide +kernel, by decide +kernel⟩
/-- WordsOfATurn: code as at its launch, and code written since. -/
theorem witness_code : ∀ s ∈ [scalar id, { scalar id with mem := writeBytes (scalar id).mem wordPage [1] }],
    let new := leNat (readBytes s.mem wordPage 4)
    let old := leNat (readBytes (s.gridOf 0).code wordPage 4)
    (s.mem = (scalar id).mem → new = old) ∧ (s.mem ≠ (scalar id).mem → new ≠ old) := by decide +kernel
/-- WordsOfATurn: a word that is no instruction. -/
theorem witness_noWord : ∃ e, decodeS 0 = .error e := ⟨_, rfl⟩
/-- StepRunsTheTurn: an agenda with an issue, an event and a tick. -/
theorem witness_StepRunsTheTurn :
    (let u := scalar id
     let v := u.spend (4 * 0 + 0)
     4 * 0 + 0 ∉ u.issued ∧ slotHeld u (4 * 0 + 0) = false ∧ chosen v 0 0 = some (0, false) ∧ ∃ t, warpTurn v 0 false = .next t) ∧
    (∃ (i : Instr) (t : State), encode i = none ∧ barWrite i = false ∧ exec i (scalar id) = .next t) ∧ (scalar id).inbox = [] ∧ (scalar id).toSave = [] ∧
    (scalar id).fencing = [] :=
  ⟨⟨by decide, by decide, by decide, _, rfl⟩, ⟨.pursePeriod, _, rfl, rfl, rfl⟩, rfl, rfl, rfl⟩
/-- Two warps of a block in two slots, each about to issue a word of its own. -/
def twoSlots (i j : Instr) : State :=
  let s := scalar id
  let put := fun (m : Tbl Byte) (n : Nat) (i : Instr) =>
    writeBytes m (wordPage + n) (leBytes 4 (((encode i).getD []).headD 0).toNat)
  let s := { s with mem := put (put s.mem 0 i) 4 j }
  let s := { s with warps := [(0, wordWarp false 0), (1, { wordWarp false 0 with pc := wordVa + 4 })] }
  { s with grids := s.grids.map fun g => { g with code := s.mem } }
/-- StepRunsTheTurn: an input in the inbox; an arrival and an EXPECT, a QSTEAL and a QPOP in two slots of a cycle. -/
theorem witness_StepRunsTheTurn_order :
    (∃ (s : State) (x : Input) (rest : List Input) (i : Instr) (t : State), s.inbox = x :: rest ∧ s.agenda ≠ [] ∧
      x = .event i ∧ encode i = none ∧ barWrite i = false ∧ exec i { s with inbox := rest } = .next t) ∧
    (∃ (s : State) (pa : Nat) (bs : List Byte) (rest : List Input), s.inbox = .memWrite pa bs :: rest) ∧
    (let u := twoSlots (.barArrive 3) (.barExpect 1 3)
     1 ∈ slotsLeft u ∧ chosenBar u 0 = some (0, 3, true) ∧ chosenBar u 1 = some (0, 3, false) ∧
       ∃ v : State, chosenBar v 1 = some (0, 3, false) ∧ (0, 3, true) ∈ v.reached) ∧
    let u := twoSlots (.qsteal 1 2 3) (.qpop 1 2 3 false)
    1 ∈ slotsLeft u ∧ chosenWord u 0 = some (.qsteal 1 2 3) ∧ chosenWord u 1 = some (.qpop 1 2 3 false) :=
  ⟨⟨{ scalar id with inbox := [.event .pursePeriod], agenda := [.tick] }, _, _, .pursePeriod, _, rfl, by simp, rfl, rfl, rfl,
      rfl⟩,
    ⟨{ scalar id with inbox := [.memWrite 0 [1]] }, _, _, _, rfl⟩,
    ⟨by decide +kernel, by decide +kernel, by decide +kernel,
      { twoSlots (.barArrive 3) (.barExpect 1 3) with reached := [(0, 3, true)] }, by decide +kernel, by decide +kernel⟩,
    by decide +kernel, by decide +kernel, by decide +kernel⟩
/-- RoundTrip, DecodedWordsEncode. -/
theorem witness_RoundTrip : ∃ (i : Instr) (us : List (BitVec 32)) (u : BitVec 32), i.wf = true ∧ encode i = some us ∧
    us = [u] ∧ decodeS u = .ok i := ⟨.add 1 2 3, _, _, rfl, rfl, rfl, by rfl⟩
/-- DecodedWordsEncode: a lane word with its prefix. -/
theorem witness_DecodedWordsEncode : ∃ i, decodeLaneUnits [0b111111_0011_010_1_0000000000111_00000,
    0b0010000011_0001_101_0_0010_0100000000, 0b000_0000000000001_0000000000010_100, 0b0000000001_0000000000000000000000] =
      .ok (i, 4) := ⟨_, by rfl⟩
/-- MemoryStaysCanonical: from a state that is not reset's. -/
theorem witness_MemoryStaysCanonical : ∃ s t : State, s.memOk ∧ s.mem ≠ [] ∧ step s = .next t :=
  ⟨State.reset.withFetchWord 32 0xFE000000, _, by unfold State.memOk; decide, by decide, rfl⟩

/-- Waits: a counter in the partition, met and not met; an EARLY grid with and without a pending predecessor. -/
theorem witness_Waits : ∃ (s : State) (p : Spot) (bs : List Byte), Ready s [1, 2] ∧ Ready s [] ∧ fenceHeld s s.me = false ∧
    loadAt s .read (s.sreg 1) 8 = (s, .ok (p, bs)) ∧ leNat bs = 0 ∧ (s.sreg 2).toNat % 2 ^ 62 = 0 ∧
    (s.sreg 3).toNat % 2 ^ 62 = 1 ∧ s.myBlock.grid < s.grids.length ∧ remoteOk true .device = true :=
  ⟨scalar (regs [own 0, 0, 1]), _, _, ⟨by decide, by decide⟩, ⟨by decide, by decide⟩, by decide, rfl, by decide, by decide, by decide,
    by decide, by decide⟩

/-- A block whose barrier 3 expects two arrivals. -/
def barred (x : Barrier) (f : Warp → Warp) : State :=
  let s := scalar f
  s.setBlock 0 { s.blockAt 0 with bars := (s.blockAt 0).bars.set 3 x }

/-- Barriers: one initialised, its waits not begun and begun, its phase open and not, none initialised, one broken. -/
theorem witness_Barriers :
    (∃ (s : State) (a : SReg), ReadyToClose s [a] ∧ (s.sreg a).toNat = 64 ∧ barWaiters s s.me.block 3 = false) ∧
    (∃ s : State, ReadyToClose s [] ∧ (s.myBlock.bar 3).expected = 2 ∧ (s.myBlock.bar 3).arrived = 254 ∧
      (s.myBlock.bar 3).broken = false ∧ s.me.wait = .none) ∧
    (∃ s : State, ReadyToClose s [] ∧ (s.myBlock.bar 3).expected ≠ 0 ∧ (s.myBlock.bar 3).broken = false ∧
      s.me.wait = .barrier (3 : BitVec 4).toNat 0 true ∧ (s.myBlock.bar 3).phase = 0) ∧
    (ReadyToClose (scalar id) [] ∧ ((scalar id).myBlock.bar 3).expected = 0) ∧
    (∃ s : State, ReadyToClose s [1] ∧ (s.myBlock.bar 3).arrived = 255 ∧ 2 ^ 47 - 1 < (s.sreg 1).toNat) ∧
    ∃ s : State, ReadyToClose s [1] ∧ (s.myBlock.bar 3).expected ≠ 0 ∧ (s.myBlock.bar 3).broken = true ∧
      (s.myBlock.bar 3).arrived ≠ 255 ∧ (s.sreg 1).toNat = 2 ^ 47 - 1 :=
  ⟨⟨scalar (regs [64]), 1, ⟨⟨by decide, by decide⟩, by decide, by decide⟩, by decide, by decide⟩,
    ⟨barred ⟨2, 254, 0, 0, false⟩ id, ⟨⟨by decide, by decide⟩, by decide, by decide⟩, by decide, by decide, by decide, by decide⟩,
    ⟨barred ⟨2, 1, 0, 0, false⟩ fun w => { w with wait := .barrier 3 0 true }, ⟨⟨by decide, by decide⟩, by decide, by decide⟩,
      by decide, by decide, by decide, by decide⟩,
    ⟨⟨⟨by decide, by decide⟩, by decide, by decide⟩, by decide⟩,
    ⟨barred ⟨0, 255, 0, 0, false⟩ (regs [2 ^ 47]), ⟨⟨by decide, by decide⟩, by decide, by decide⟩, by decide, by decide⟩,
    barred ⟨2, 254, 0, 0, true⟩ (regs [2 ^ 47 - 1]), ⟨⟨by decide, by decide⟩, by decide, by decide⟩, by decide, by decide,
    by decide, by decide⟩
/-- Barriers: a broken barrier with a warp that waits, and without; ARRIVED at 255; counts of 0, of 65 and of 64 with a
waiter. -/
theorem witness_Barriers_causes :
    (let s := barred ⟨2, 1, 0, 0, true⟩ fun w => { w with wait := .barrier 3 0 true }
     ReadyToClose s [] ∧ (s.myBlock.bar 3).broken = true ∧ s.me.wait = .barrier (3 : BitVec 4).toNat 0 true) ∧
    (let s := barred ⟨2, 254, 0, 0, true⟩ id
     ReadyToClose s [] ∧ (s.myBlock.bar 3).broken = true ∧ (s.myBlock.bar 3).arrived ≠ 255 ∧ s.me.wait = .none) ∧
    (let s := barred ⟨2, 255, 0, 0, false⟩ id
     ReadyToClose s [] ∧ (s.myBlock.bar 3).arrived = 255 ∧ s.me.wait = .none) ∧
    ((0 : Word).toNat = 0 ∧ 64 < (65 : Word).toNat) ∧
    let s := barred ⟨2, 1, 0, 0, false⟩ fun w => { regs [64] w with wait := .barrier 3 0 false }
    ReadyToClose s [1] ∧ barWaiters s s.me.block 3 = true :=
  ⟨⟨⟨⟨by decide, by decide⟩, by decide, by decide⟩, by decide, by decide⟩,
    ⟨⟨⟨by decide, by decide⟩, by decide, by decide⟩, by decide, by decide, by decide⟩,
    ⟨⟨⟨by decide, by decide⟩, by decide, by decide⟩, by decide, by decide⟩, by decide +kernel,
    ⟨⟨by decide, by decide⟩, by decide, by decide⟩, by decide +kernel⟩
/-- PhasesAndWaves: marks just met, a warp that waits, a release list under a slope. -/
theorem witness_PhasesAndWaves :
    (∃ (s : State) (x : Barrier), x.expected = 2 ∧ x.arrived = 3 ∧ x.bytes = 0 ∧ x.broken = false ∧
      (s.warpAt 0).block = 0 ∧ (s.warpAt 0).stat ≠ .absent ∧ (s.warpAt 0).wait = .barrier (3 : BitVec 4).toNat x.phase true) ∧
    (∀ (b : Nat) (i : BitVec 4), ((State.reset.blockAt b).bar i).expected = 0) ∧
    ∃ s : State, (s.coreAt 0).relList = [0] ∧ (s.coreAt 0).relList.Nodup ∧ (s.coreAt 0).nextWave ≤ s.cycle ∧ (s.clusterAt (clusterOf 0)).slope = 0x102 :=
  ⟨⟨scalar fun w => { w with wait := .barrier 3 7 true }, ⟨2, 3, 0, 7, false⟩, by decide, by decide, by decide, by decide,
      by decide, by decide, by decide⟩,
    fun _ i => by show (Block.absent.bar i).expected = 0; revert i; decide,
    ((scalar id).setCore 0 { Core.reset with relList := [0] }).setCluster 0 { Cluster.reset with slope := 0x102 },
    by decide, by decide, by decide, by decide⟩

/-- A context with a 32 MiB leaf at level 2, table in stack 0. -/
def largeLeaf (sup : Bool) : State :=
  let s := scalar fun w => { regs [0x200_0000, 0x8000] w with sup := sup }
  { s with mem := writeBytes s.mem (wordTable + 0x8000 + 8) (leBytes 8 (0x200_0000 + 0x7F)) }

/-- TlbWords: both modes; a leaf of the lowest level and a large one. -/
theorem witness_TlbWords : (Ready (largeLeaf false) [1, 2] ∧ (largeLeaf false).me.sup = false) ∧
    Ready (largeLeaf true) [1, 2] ∧ (largeLeaf true).me.sup = true ∧ (largeLeaf true).memOk ∧
    addrClass ((largeLeaf true).sreg 1) = .translated ∧ ((largeLeaf true).sreg 2).toNat % 16384 = 0 ∧
    (∃ shift, leafOf (largeLeaf true) (largeLeaf true).myCtx wordVa.toNat = .ok (wordTable + 0xC020, 3, shift)) ∧
    (∃ shift, leafOf (largeLeaf true) (largeLeaf true).myCtx 0x200_0000 = .ok (wordTable + 0x8008, 2, shift)) ∧
    (heldThrough (largeLeaf true) fun _ => true) = false ∧
    (heldThrough ((largeLeaf true).setCore 0 { Core.reset with stateQ :=
      [{ cmd (.mxz 1 0) with moves := [⟨.phys 0, .bytes [1]⟩] }] }) fun _ => false) = true ∧
    ∃ x : Word, x.toNat % 128 = 64 :=
  ⟨⟨⟨by decide, by decide⟩, by decide⟩, ⟨by decide, by decide⟩, by decide, by unfold State.memOk; decide, by decide, by decide,
    ⟨_, rfl⟩, ⟨_, rfl⟩, by decide, by decide, 64, by decide⟩
/-- A warp with registers for each command word. -/
def commandReady : State :=
  let s := scalar (regs [own 0x80, 0x4000, 0x0100_0000_0000_0001, 1, 0x1_0002, 9])
  { s with grids := s.grids.map fun g => { g with record := { g.record with fmts := g.record.fmts.set 1 1 } } }

/-- CommandWords: room in each queue; a window and a translated side; a record with a format of each operand. -/
theorem witness_CommandWords : ∃ s : State, ReadyToClose s [1, 2, 3] ∧ isWindow (s.sreg 1) = true ∧
    addrClass (s.sreg 2) = .translated ∧ (∃ off, addrClass (s.sreg 1) = .own off) ∧ cwOk true (s.sreg 3) = true ∧
    cwOk false (s.sreg 4) = true ∧ (∀ q ∈ [0, 1, 2, 3], queueRoom s (coreOf s.cur) q = true) ∧
    (s.sreg 1).toNat % 128 = 0 ∧ fmtElem (s.myGrid.record.fmts[1]) ≠ 3 ∧ fmtElem (s.myGrid.record.fmts[1]) ≠ 4 ∧
    fmtElem (s.myGrid.record.fmts[1]) ≠ 0 ∧ (s.sreg 5).toNat < 2 ^ 32 ∧
    (s.sreg 5).toNat % 65536 ≠ (s.sreg 5).toNat / 65536 ∧ (s.sreg 6).toNat < 65536 :=
  ⟨commandReady,
    ⟨⟨by decide, by decide⟩, by decide, by decide⟩, by decide, by decide, ⟨_, rfl⟩, by decide, by decide, by decide, by decide,
    by decide, by decide, by decide, by decide, by decide, by decide⟩
/-- DeviceLaunch: a queue with room, and one that is full, below a ring with room. -/
theorem witness_DeviceLaunch : ∀ s ∈ [scalar (regs [own 0]), (scalar (regs [own 0])).setCore 0
      { Core.reset with launchQ := List.replicate 4 (cmd (.lnch [] 0)) }], ReadyToClose s [1] ∧ (s.sreg 1).toNat % 128 = 0 ∧
    (∃ p bs, loadAt s .read (s.sreg 1) 128 = (s, .ok (p, bs))) ∧ ((s.ctxAt s.myCtx).ring.any fun e => e.core == 0) = false := by
  intro s h
  simp only [List.mem_cons, List.not_mem_nil, or_false] at h
  rcases h with rfl | rfl <;>
    exact ⟨⟨⟨by decide, by decide⟩, by decide, by decide⟩, by decide, ⟨_, _, rfl⟩, by decide⟩


/-- A warp with a well-formed crew record at the start of its partition: two rows, one to a stroke, BREAKABLE. -/
def crewReady (n : Word) : State :=
  let s := scalar (regs [own 0, n])
  s.setBlock 0 { s.blockAt 0 with scratch := [(2, 1), (8, 2), (10, 1), (11, 1), (13, 1), (14, 4)] }

/-- A host whose crew of `n` iterations has no stroke left and launches none. -/
def hosting (n : Nat) : State :=
  (scalar fun w => { w with hosts := some 0 }).setCrew 0 { Crew.absent with live := true, n := n }

/-- CrewWords: CREW, bounded and unbounded, accepted; CREWW before and after the crew has finished; a stroke that has
gone, has broken, or neither. -/
theorem witness_CrewWords :
    (∀ n ∈ [(0 : Word), 3, 0x4000_0000_0000_0000], let s := crewReady n
      Ready s [1, 2] ∧ s.me.dispatch = [] ∧ (recordOf s s.me).crew = true ∧ s.me.stroke = none ∧ s.me.hosts = none ∧
      (s.sreg 1).toNat % 64 = 0 ∧ (s.sreg 2).toNat ≤ 2 ^ 62 ∧
      ∃ p bs r, loadAt s .read (s.sreg 1) 64 = (s, .ok (p, bs)) ∧ crewRecOf bs = some r ∧ r.breakable = true ∧ r.d = 1 ∧
        freeCrew s (coreOf s.cur) = some 0 ∧ r.w ≤ freeRows s (coreOf s.cur) ∧ s.me.wait = .none ∧
        (∃ t : State, t.me.wait = .record bs ∧ Ready t [1, 2])) ∧
    (freeCrew ({ crewReady 3 with crews := (List.range 64).map fun c => (c, { Crew.absent with live := true }) } : State) 0 = none) ∧
    (Ready (hosting 1) [] ∧ (hosting 1).me.hosts = some 0 ∧ ((hosting 1).crewAt 0).finished = true) ∧
    (Ready (hosting 2) [] ∧ (hosting 2).me.hosts = some 0 ∧ ((hosting 2).crewAt 0).finished = false) ∧
    ∀ x ∈ [(false, false), (true, false), (false, true)], let s := stroke x.1 x.2
      Ready s [] ∧ s.me.dispatch = [] ∧ s.me.stroke = some (0, 1) ∧ (s.crewAt 0).record.breakable = true ∧
      ∃ y, (s.crewAt 0).strokes.find? (·.k == 1) = some y ∧ y.going = x.1 ∧ y.broke = x.2 := by
  refine ⟨?_, by decide +kernel, ⟨⟨by decide, by decide⟩, by decide, by decide⟩, ⟨⟨by decide, by decide⟩, by decide, by decide⟩, ?_⟩
  · intro n h
    simp only [List.mem_cons, List.not_mem_nil, or_false] at h
    rcases h with rfl | rfl | rfl <;>
      exact ⟨⟨by decide, by decide⟩, by decide, by decide, by decide, by decide, by decide, by decide,
        _, _, _, rfl, rfl, by decide, by decide, by decide, by decide +kernel, by decide,
        scalar fun w => { regs [own 0, 3] w with wait := .record _ }, rfl, by decide, by decide⟩
  · intro x h
    simp only [List.mem_cons, List.not_mem_nil, or_false] at h
    rcases h with rfl | rfl | rfl <;>
      exact ⟨⟨by decide, by decide⟩, by decide, by decide, by decide, _, rfl, by decide, by decide⟩

/-- Two warps of a block: the first at a REGROUP, the second waiting in it. -/
def partnered : State :=
  let s := scalar fun w => { w with exm := 0xFFFF_0000 }
  s.setWarp 1 { s.warpAt 0 with wid := 1, exm := 0xFFFF, wait := .regroup 0 8 3 }

/-- Regrouping: refused, without a partner, with one; a wait of 256 cycles. -/
theorem witness_Regrouping :
    (∃ s : State, Ready s [1] ∧ s.me.dispatch = [] ∧ (∀ since n d, s.me.wait ≠ .regroup since n d) ∧ s.me.stroke = none ∧
      (s.sreg 1).toNat ≤ privNames s s.me ∧ regroupRefused s.me = true) ∧
    (let s := scalar id
     Ready s [1] ∧ (∀ since n d, s.me.wait ≠ .regroup since n d) ∧ regroupRefused s.me = false ∧
     regroupPartner (beginWait s (.regroup s.cycle 0 2)) s.cur = none) ∧
    (let s := partnered
     Ready s [1] ∧ (∀ since n d, s.me.wait ≠ .regroup since n d) ∧ regroupRefused s.me = false ∧ s.cur ≠ 1 ∧
     (s.warpAt 1).wait = .regroup 0 8 3 ∧ regroupPartner (beginWait s (.regroup s.cycle 0 2)) s.cur = some 1) ∧
    ((({ partnered with cycle := 256 } : State).warpAt 1).wait = .regroup 0 8 3 ∧
      0 + 256 ≤ ({ partnered with cycle := 256 } : State).cycle) :=
  ⟨⟨scalar fun w => { w with xq := [1] }, ⟨by decide, by decide⟩, by decide, fun _ _ _ h => WaitSt.noConfusion h, by decide,
      by decide, by decide⟩,
    ⟨⟨by decide, by decide⟩, fun _ _ _ h => WaitSt.noConfusion h, by decide, by decide⟩,
    ⟨⟨by decide, by decide⟩, fun _ _ _ h => WaitSt.noConfusion h, by decide, by decide, by decide, by decide⟩, by decide,
    by decide⟩

/-- Regrouping: registers in their form; a lane of the receiver that takes a donor's and one that takes none; the last cycle
of a wait, and a cycle past it. -/
theorem witness_Regrouping_lanes : let s := partnered
    let pairs := ((List.finRange 32).filter fun i => !inMask (s.warpAt 0).exm i).zip (maskLanes (s.warpAt 1).exm)
    Tbl.wf zeroLanes (s.warpAt 0).v = true ∧ Tbl.wf zeroLanes (s.warpAt 0).host = true ∧
    (0, 0) ∈ pairs ∧ (15, 15) ∈ pairs ∧ (∀ q, ((16 : LaneIx), q) ∉ pairs) ∧
    regroupPartner ({ s with cycle := 255 } : State) 0 = some 1 ∧
    regroupPartner ({ s with cycle := 256 } : State) 0 = none := by
  refine ⟨by decide, by decide, by decide, by decide, ?_, by decide, by decide⟩
  unfold LaneIx
  decide

/-- A handle of queue `x` with every right, for descriptors whose other fields are zero. -/
def handle (x : Nat) : Word :=
  BitVec.ofNat 64 (checkCode ⟨.fifo, 0, 0, 0, 0, List.replicate 16 0, []⟩ x 7 + 2 ^ 40 * x + 2 ^ 56 * 7)

/-- A context with a FIFO, two DEQUEs without victims and a PRIO queue, whose handles are in s2 to s5. -/
def taskQueues (tqs : Tbl (List (BitVec 256))) : State :=
  let s := scalar (regs [own 0, handle 0, handle 1, handle 2, handle 3])
  let s := s.setCtx 0 { s.ctxAt 0 with tqBase := 0x2_0000, tqs := tqs }
  { s with mem := [(0x2_0000, 1), (0x2_0040, 3), (0x2_0060, 0xFF), (0x2_0061, 0xFF), (0x2_0080, 5), (0x2_00C0, 3),
    (0x2_00E0, 0xFF), (0x2_00E1, 0xFF)] }

/-- TaskQueueWords: each kind of queue, with an entry, with several, with none and with no room. -/
theorem witness_TaskQueueWords :
    let s := taskQueues [(0, [5]), (1, [5, 6]), (2, [7, 3, 9])]
    let d : TqKind → TqDesc := fun k => ⟨k, 0, 0, 0, 0, List.replicate 16 0, []⟩
    ReadyToClose s [2, 1] ∧ (∃ p bs, loadAt s .read (s.sreg 1) 32 = (s, .ok (p, bs))) ∧
    (∃ p, resolve s (whoOf s s.cur s.me) .write 32 (s.sreg 1) = (s, .ok p) ∧ unblocked s p) ∧
    (∀ need ∈ [1, 2, 3, 4], openHandle s s.myCtx (s.sreg 2) need = some (0, d .fifo) ∧
      openHandle s s.myCtx (s.sreg 3) need = some (1, d .deque) ∧ openHandle s s.myCtx (s.sreg 4) need = some (2, d .prio) ∧
      openHandle s s.myCtx (s.sreg 5) need = some (3, d .deque)) ∧
    tqGet s s.myCtx 0 = 5 :: [] ∧ tqGet s s.myCtx 1 = [5] ++ [6] ∧ tqGet s s.myCtx 2 = [7] ++ 3 :: [9] ∧
    tqGet s s.myCtx 3 = [] ∧ (1 : Nat) ≠ 3 ∧ openHandle s s.myCtx (s.sreg 6) 1 = none ∧
    256 ≤ (tqGet (taskQueues [(0, List.replicate 256 5)]) 0 0).length ∧
    ∀ k ∈ [TqKind.fifo, .deque, .prio], ∃ v, bringIn s s.myCtx 0 (d k) = .ok v ∧ ∃ t, tqStore v s.myCtx 0 (d k) [] = .ok t :=
  ⟨⟨⟨by decide +kernel, by decide +kernel⟩, by decide +kernel, by decide +kernel⟩, ⟨_, _, rfl⟩,
    ⟨_, rfl, by unfold unblocked; decide +kernel⟩, by decide +kernel, by decide +kernel, by decide +kernel, by decide +kernel,
    by decide +kernel, by decide, by decide +kernel, by decide +kernel, fun k h => by
      simp only [List.mem_cons, List.not_mem_nil, or_false] at h
      rcases h with rfl | rfl | rfl <;> exact ⟨_, rfl, _, rfl⟩⟩
/-- Queue 1 of `taskQueues`, empty, with queue 3, which has entries, as its one victim. -/
def stealing : State :=
  let s := taskQueues [(3, [5, 6, 7])]
  { s with mem := [(0x2_0000, 1), (0x2_0040, 3), (0x2_0060, 3), (0x2_0062, 0xFF), (0x2_0063, 0xFF), (0x2_0080, 5), (0x2_00C0, 3),
    (0x2_00E0, 0xFF), (0x2_00E1, 0xFF)] }

/-- TaskQueueWords: QPOP AUTO of an empty DEQUE with a victim, from which two of three entries move. -/
theorem witness_AutoSteal :
    let s := stealing
    let d : TqDesc := ⟨.deque, 0, 0, 0, 0, List.replicate 16 0, [3]⟩
    let dv : TqDesc := ⟨.deque, 0, 0, 0, 0, List.replicate 16 0, []⟩
    openHandle s s.myCtx (s.sreg 3) 3 = some (1, d) ∧ tqGet s s.myCtx 1 = [] ∧ tqDesc s s.myCtx 3 = some dv ∧
    (∀ n, d.victims.getD (n % d.victims.length) 0 = 3) ∧
    (∀ vf, (s.fnAt vf).ring = none) ∧ ∃ v t m, bringIn s s.myCtx 1 d = .ok v ∧ stealFrom s s.myCtx 3 1 dv d = .ok (t, m) ∧
      m = 2 ∧ tqGet t s.myCtx 1 = [5] ++ [6] ∧ tqGet t s.myCtx 3 = [7] :=
  ⟨by decide +kernel, by decide, by decide +kernel, fun n => by show [3].getD (n % 1) 0 = 3; simp [Nat.mod_one], fun _ => rfl,
    _, _, _, rfl, rfl, by decide +kernel, by decide +kernel, by decide +kernel⟩

/-- A queue whose overflow area, from its entries on, is the clean page of `logFull`. -/
def cleanArea : TqDesc := ⟨.deque, 0, 256, 0xE000, 0, List.replicate 16 0, []⟩
/-- `logFull` with 64 queues in the controller, the last of which has an entry and its save space on the clean page. -/
def crowded : State :=
  let s := logFull.setCtx 0 { logFull.ctxAt 0 with tqBase := 0x2_0000, tqs := [(64, [5])] }
  let s := s.setDomain 0 { s.domainAt 0 with queues := (List.range 64).map fun i => (0, i + 1) }
  { s with mem := writeBytes s.mem 0x2_1000 (leBytes 16 (1 + 0x1_0000 * 2 ^ 64)) }

/-- Whether an overflow area needs an entry of the full log of function 1. -/
def short {α : Type} (x : AreaOut α) : Bool :=
  match x with
  | .ok _ => false
  | .error y => y.1 == 1
theorem short_of {α : Type} {x : AreaOut α} (h : short x = true) : ∃ ds, x = .error (1, ds) := by
  rcases x with ⟨vf, ds⟩ | _
  · simp only [short, beq_iff_eq] at h
    exact ⟨ds, h ▸ rfl⟩
  · simp [short] at h
/-- TaskQueueWords: overflow areas that need an entry of a full log, at each of the three writes. -/
theorem witness_shortArea :
    (∃ ds, bringIn crowded 0 0 cleanArea = .error (1, ds)) ∧
    (∃ ds, tqStore logFull 0 0 cleanArea (List.replicate 257 5) = .error (1, ds)) ∧
    ∃ ds, stealFrom (logFull.setCtx 0 { logFull.ctxAt 0 with tqs := [(3, List.replicate 514 5)] }) 0 3 1 cleanArea
      { cleanArea with cap := 0 } = .error (1, ds) :=
  ⟨short_of (by decide +kernel), short_of (by decide +kernel), short_of (by decide +kernel)⟩

/-- The dispatched lane block of `lanes`, with an address base. -/
def aBlock : Dispatch := ⟨wordVa, 0, false, Vector.replicate 8 (own 0x100), 0, false, none, none⟩

/-- A warp in that block, its v1 the lane numbers and its p1 the even lanes, with fields of its own. -/
def working (f : Warp → Warp) : State :=
  lanes fun w => f { w with
    dispatch := [aBlock], v := [(1, Vector.ofFn fun i => BitVec.ofNat 32 i.val)], p := w.p.set 1 0x5555_5555 }

/-- Every lane. -/
abbrev every : Mask := 0xFFFF_FFFF

/-- A control with a prefix that masks by p1. -/
def masked (t : BitVec 4) : LCtl := ⟨0, 0, false, t, some ⟨1, 0, false, .v 1⟩⟩

/-- The words of the lane stream: without a prefix, and under a mask, of each type. -/
theorem witness_LaneActs (t : BitVec 4) : LaneActs (working id) (ty t) aBlock every every ∧
    LaneActs (working id) (masked t) aBlock every 0x5555_5555 ∧ (recordOf (working id) (working id).me).hv = true ∧
    uncommitted (working id) (working id).me = none :=
  ⟨⟨by decide, by decide, by decide, by decide, by decide, ⟨_, ⟨rfl, rfl, rfl, rfl⟩, by decide⟩, rfl⟩,
    ⟨by decide, by decide, by decide, by decide, by decide, ⟨_, ⟨rfl, rfl, rfl, rfl⟩, by decide⟩, _, ⟨rfl, rfl, rfl, rfl⟩, by decide⟩,
    by decide, by decide⟩

/-- LaneGuard: guards of each kind, with active lanes and without; a word that is not well-formed. -/
theorem witness_LaneGuard : ∀ g ∈ [(0 : PCode), 1, 11, 12, 15], let s := working id
    let c : LCtl := ⟨g, 0, false, 0, none⟩
    (∃ f, encodeLFields (.vmov c (.v 3) (.v 1)) = some (c, f)) ∧ canRun s = true ∧ s.me.sup = false ∧
    s.me.laneBlock = some aBlock ∧ s.me.laneAt ≤ s.cycle ∧ s.me.inflight = [] ∧ s.me.stroke = none ∧
    ∃ m, Got (readPred c.g) (.start s aBlock (aBlock.mask s.me)) m (.start s aBlock (aBlock.mask s.me)) ∧ (g = 11 → s.me.exm &&& m = 0) ∧
      (g ≠ 11 → s.me.exm &&& m ≠ 0) := by
  intro g h
  simp only [List.mem_cons, List.not_mem_nil, or_false] at h
  rcases h with rfl | rfl | rfl | rfl | rfl <;>
    exact ⟨⟨_, rfl⟩, by decide, by decide, by decide, by decide, by decide, by decide, _, ⟨rfl, rfl, rfl, rfl⟩, by decide, by decide⟩
/-- LaneGuard: a word that has an encoding and is not well-formed. -/
theorem witness_illFormed : ∃ i : Instr, (∃ x, encodeLFields i = some x) ∧ i.wf = false :=
  ⟨.vmov (ty 15) (.v 3) (.v 1), ⟨_, rfl⟩, by decide⟩
/-- LaneGuard: no lane in EXM, of the warp and of a block that keeps an older EXM; guards st0 and st1 in strokes. -/
theorem witness_LaneGuard_masks :
    (let s := working fun w => { w with exm := 0 }
     canRun s = true ∧ s.me.laneBlock = some aBlock ∧ aBlock.mask s.me = 0) ∧
    ({ aBlock with exm := some 0 } : Dispatch).mask (working id).me = 0 ∧
    ∀ g ∈ [(12 : PCode), 13], let s := (working fun w => { w with stroke := some (0, 0) }).setCrew 0 { Crew.absent with n := 3 }
      canRun s = true ∧ s.me.laneBlock = some aBlock ∧ s.me.stroke = some (0, 0) ∧ aBlock.mask s.me ≠ 0 ∧
      ∃ m, Got (readPred g) (.start s aBlock (aBlock.mask s.me)) m (.start s aBlock (aBlock.mask s.me)) := by
  refine ⟨by decide, by decide, fun g h => ?_⟩
  simp only [List.mem_cons, List.not_mem_nil, or_false] at h
  rcases h with rfl | rfl <;> exact ⟨by decide, by decide, by decide, by decide, _, rfl, rfl, rfl, rfl⟩

/-- LaneIntegers, LaneMoves, LaneFloats, LaneConversions: the operands of each form are there. -/
theorem witness_operands : let c := ty 0
    let st := started (working id) c aBlock every every
    (∃ x t, Got (binOps false (.v 3) (.v 1) (.op (.v 2))) st x t) ∧ (∃ x t, Got (binOps false .xq .zero (.imm 7)) st x t) ∧
    (∃ x t, Got (unOps false (.v 3) (.v 1)) st x t) ∧ (∃ x t, Got (triOps c (.v 3) (.v 1) (.op (.v 2)) (.v 1)) st x t) ∧
    (∃ x t u q, Got (unOps false (.v 3) (.v 1)) st x t ∧ Got (readPred 1) t q u) ∧
    (∃ x t, Got (prepare false (.v 3)) st x t) ∧ (Instr.vadd c (.v 3) (.v 1) (.op (.v 2))).wf = true ∧
    (Instr.vsel c (.v 3) (.v 1) (.v 2) 1).wf = true ∧ (Instr.vmad c (.v 3) (.v 1) (.op (.v 2)) (.v 1)).wf = true ∧
    (∃ x t, Got (do
      let (dst, x, y) ← binOps false (.v 3) (.v 1) (.op (.v 2))
      let z ← readE false (.v 1)
      pure (dst, x, y, z)) st x t) :=
  ⟨⟨_, _, rfl, rfl, rfl, rfl⟩, ⟨_, _, rfl, rfl, rfl, rfl⟩, ⟨_, _, rfl, rfl, rfl, rfl⟩, ⟨_, _, rfl, rfl, rfl, rfl⟩, ⟨_, _, _, _, ⟨rfl, rfl, rfl, rfl⟩, rfl, rfl, rfl, rfl⟩,
    ⟨_, _, rfl, rfl, rfl, rfl⟩, by decide, by decide, by decide, _, _, rfl, rfl, rfl, rfl⟩
/-- LaneIntegers, LaneMoves: an i64 pair, in which the main names n and n + 1 hold the halves. -/
theorem witness_pairs : let st := started (working id) (ty 8) aBlock every every
    (∃ x t, Got (binOps true (.v 4) (.v 2) (.op (.v 0))) st x t) ∧
    (Instr.vadd (ty 8) (.v 4) (.v 2) (.op (.v 0))).wf = true :=
  ⟨⟨_, _, rfl, rfl, rfl, rfl⟩, by decide⟩
/-- LaneFloats, with a fourth operand: FFMA under a prefix. -/
theorem witness_LaneFloats : let c := masked 2
    let st := started (working id) c aBlock every 0x5555_5555
    (∃ x t, Got (triOps c (.v 3) (.v 1) (.op (.v 2)) (.v 1)) st x t) ∧
    (Instr.ffma c (.v 3) (.v 1) (.v 2) (.v 1)).wf = true ∧ (Instr.fadd (ty 2) (.v 3) (.v 1) (.v 2)).wf = true ∧
    (Instr.hdot2 (ty 3) (.v 3) (.v 1) (.v 2) (.v 1)).wf = true ∧ (Instr.hadd2 (ty 3) (.v 3) (.v 1) (.v 2)).wf = true :=
  ⟨⟨_, _, rfl, rfl, rfl, rfl⟩, by decide, by decide, by decide, by decide⟩
/-- LaneFloats, LanePredicates: of f32, sums and products that are exact, the least subnormal among them; the zeros are
equal; a NaN that signals; the infinities stand at both ends. -/
theorem witness_floats :
    (∀ x ∈ [(0x3F80_0000 : Nat), 0x4000_0000, 0x4040_0000, 1], x < 2 ^ f32.width ∧ isFinite f32 x ∧ scaled f32 x ≠ 0) ∧
    scaled f32 0x3F80_0000 + scaled f32 0x4000_0000 = scaled f32 0x4040_0000 ∧
    scaled f32 0x4040_0000 - scaled f32 0x4000_0000 = scaled f32 0x3F80_0000 ∧
    scaled f32 1 * scaled f32 0x3F80_0000 = scaled f32 1 * unitsInOne f32 ∧
    scaled f32 0x3F80_0000 * scaled f32 0x3F80_0000 + scaled f32 0x3F80_0000 * unitsInOne f32 =
      scaled f32 0x4000_0000 * unitsInOne f32 ∧
    sameF f32 0 0x8000_0000 ∧ ¬ lessF f32 0 0x8000_0000 ∧ lessF f32 0xFF80_0000 0xFF7F_FFFF ∧
    lessF f32 0x7F7F_FFFF 0x7F80_0000 ∧ signals f32 0x7F80_0001 ∧ isNaN f32 0x7FC0_0000 ∧ ¬ signals f32 0x7FC0_0000 := by
  unfold sameF lessF signals isNaN isInf isFinite
  refine ⟨?_, ?_, ?_, ?_, ?_, ?_, ?_, ?_, ?_, ?_, ?_, ?_⟩ <;> decide +kernel
/-- LaneConversions: an i8 to a narrower unsigned type; f32 values that are a NaN, infinite and half an integer; bf16 to
f32; the largest integer that is exact; a code of every kind of element. -/
theorem witness_cvt :
    (isFloatTy 0 = false ∧ isFloatTy 1 = false ∧ isFloatTy 2 = true ∧ isFloatTy 3 = true ∧ isFloatTy 4 = true) ∧
    (isNaN f32 0x7FC0_0000 ∧ isInf f32 0xFF80_0000 true ∧ isFinite f32 0x3F00_0000 ∧
      2 * scaled f32 0x3F00_0000 = unitsInOne f32) ∧ tyFmt 3 = bf16 ∧ isFinite bf16 0x3F80 ∧
    (intOf (!tyUnsigned 0) (elem (tyWidth 0) (2 ^ 24) 0)).natAbs = 2 ^ 24 ∧
    ∀ el, el ≤ 4 → 1 ≤ elemBits el := by
  unfold isNaN isInf isFinite
  refine ⟨by decide, by decide +kernel, by decide, by decide, by decide, fun el h => ?_⟩
  rcases el with _ | _ | _ | _ | _ | n <;> first | decide | omega
/-- LanePredicates. -/
theorem witness_LanePredicates : let st := started (working id) (ty 2) aBlock every every
    (∃ x t, Got (do let x ← readE false (.v 1); let y ← readE false (.v 2); pure (x, y)) st x t) ∧
    (∃ x t, Got (do let x ← readPred 1; let y ← readPred 2; pure (x, y)) st x t) ∧
    (∃ x t, Got (readE false (.v 1)) st x t) ∧ (Instr.fcmp (ty 2) (.v 1) (.v 2) 1 2 3).wf = true ∧
    (Instr.vcmp (ty 0) (.v 1) (.v 2) 1 2 5).wf = true ∧ (Instr.pand (ty 0) 3 1 2).wf = true ∧
    (Instr.pfromv (ty 0) 3 (.v 1)).wf = true ∧ (Instr.xmwr (ty 0) (.v 1) 0 0).wf = true ∧
    (Instr.xmwr (ty 0) .unused 1 2).wf = true :=
  ⟨⟨_, _, rfl, rfl, rfl, rfl⟩, ⟨_, _, rfl, rfl, rfl, rfl⟩, ⟨_, _, rfl, rfl, rfl, rfl⟩, by decide, by decide, by decide, by decide, by decide, by decide⟩
/-- LanePredicates: a block that reads the warp's EXM, and one that keeps an older one. -/
theorem witness_LanePredicates_exm : aBlock.exm = none ∧ ({ aBlock with exm := some 5 } : Dispatch).exm ≠ none := by decide
/-- LaneConversions: i32 to f32; QPACK and QUNPK of an INT2 format with a scale, f32. -/
theorem witness_LaneConversions : let s := working id
    let st := started s (ty 2) aBlock every every
    (∃ row x t, cvtRow 0 2 = some row ∧ Got (cvtOps (ty 2) (.v 3) (.v 1) .unused .unused 0 row.nsrc) st x t) ∧
    (Instr.cvt (ty 2) (.v 3) (.v 1) .unused .unused 0 0 false).wf = true ∧
    qLegal 2 ((recordOf s s.me).fmts[0]) 0 (.v 2) = true ∧ fmtStrict ((recordOf s s.me).fmts[0]) = false ∧
    (∃ x t, Got (scaleOps true (.v 3) (.v 1) (.v 2)) st x t ∧ ∃ z u, Got (readE false (.v 4)) t z u) ∧
    (Instr.qpack (ty 2) (.v 3) (.v 1) (.v 2) (.v 4) 0 0).wf = true ∧ (Instr.qunpk (ty 2) (.v 3) (.v 1) (.v 2) 0 0).wf = true :=
  ⟨⟨_, _, _, rfl, rfl, rfl, rfl, rfl⟩, by decide, by decide, by decide, ⟨_, _, ⟨rfl, rfl, rfl, rfl⟩, _, _, rfl, rfl, rfl, rfl⟩, by decide, by decide⟩
/-- LaneMovement. -/
theorem witness_LaneMovement : let s := working id
    let st := started s (ty 0) aBlock every every
    (∃ x t, Got (shflOps (ty 0) (.v 3) (.v 1) (.imm 1) every fun y l => shuffleSrc 3 32 l ((y l).toNat % 2 ^ 32)) st x t) ∧
    (∃ x t, Got (do let dst ← prepare false (.v 3); let q ← readPredIn (← needE) 1; pure (dst, q)) st x t) ∧
    (∃ x t, Got (do readPredIn (← needE) 1) st x t) ∧ s.me.bq.length < 32 ∧
    (∃ x t, Got (moveOps false (.v 3) (.v 1)) st x t ∧ ∃ q u, Got (do readPredIn (← needE) 1) t q u) ∧
    (Instr.shfl (ty 0) (.v 3) (.v 1) (.imm 1) 3).wf = true ∧ (Instr.vote (ty 0) (.v 3) 1 2 false).wf = true ∧
    (Instr.vote (ty 0) .unused 1 1 true).wf = true ∧ (Instr.vred (ty 0) (.v 3) (.v 1) 0).wf = true ∧
    (Instr.vred (ty 2) (.v 3) (.v 1) 0).wf = true ∧ (Instr.vscan (ty 0) (.v 3) (.v 1) 0 true).wf = true ∧
    (Instr.vmovx (ty 0) (.v 3) (.v 1) 1 false).wf = true :=
  ⟨⟨_, _, rfl, rfl, rfl, rfl⟩, ⟨_, _, rfl, rfl, rfl, rfl⟩, ⟨_, _, rfl, rfl, rfl, rfl⟩, by decide,
    ⟨_, _, ⟨rfl, rfl, rfl, rfl⟩, _, _, rfl, rfl, rfl, rfl⟩, by decide, by decide, by decide, by decide, by decide, by decide, by decide⟩
/-- LaneMoves: a predicate to a register. -/
theorem witness_vfromp : ∃ x t, Got (do readPredIn (← needWhole) 1) (started (working id) (ty 0) aBlock every every) x t :=
  ⟨_, _, rfl, rfl, rfl, rfl⟩

/-- The address fields of a word at the block's first base, scale 4. -/
def anAddr : LAddr := ⟨0, 2, .warp, 0⟩

/-- LaneMemory: the addresses of two lanes' words of the warp's own partition, for a load, a store and an atomic; TIDX. -/
theorem witness_LaneMemory : let s := working fun w => { w with exm := 3 }
    let st := started s (ty 0) aBlock 3 3
    let addr := fun (ix : Vals) (off : Word) (l : LaneIx) =>
      aBlock.ab[(0 : BitVec 3).toNat] + (((ix l).setWidth 32 : Lane).signExtend 64 <<< 2) + off
    LaneActs s (ty 0) aBlock 3 3 ∧
    (∃ dst ix spots t, Got (do
      let dst ← prepare false (.v 3)
      let ix ← readE false (.v 1)
      sync
      let spots ← checkLanes .read 4 (addr ix 0) fun _ => false
      pure (dst, ix, spots)) st (dst, ix, spots) t ∧ spots = [(0, .part 0 0x100), (1, .part 0 0x104)]) ∧
    (∃ ix z spots t, Got (do
      let ix ← readE false (.v 1)
      let z ← readE false (.v 2)
      sync
      let spots ← checkLanes .write 4 (addr ix 0) fun _ => false
      pure (ix, z, spots)) st (ix, z, spots) t ∧
      ∃ u, StoresTo t.s t.s 1 (spots.map fun x => (x.2, leBytes 4 (z x.1).toNat)) u) ∧
    (uncommitted s s.me = none ∧ ∃ dst ix y z spots t, Got (do
      let dst ← prepare false (.v 3)
      let ix ← readE false (.v 1)
      let y ← if AtomOp.cas = .cas then readE false (.v 4) else pure fun _ => 0
      let z ← readE false (.v 2)
      sync
      let now ← get
      let spots ← checkLanes .rw 4 (addr ix 0) fun p => atomRefused now.s p .cas
      pure (dst, ix, y, z, spots)) st (dst, ix, y, z, spots) t ∧ spots.length = 2 ∧
      logShort t.s (storeDirty ((atomsInOrder 4 (fun _ _ => some 1) t.s spots).2.2.map fun p => (p, []))) = none) ∧
    (Instr.vld (ty 0) (.v 3) (.v 1) anAddr 0 0).wf = true ∧ (Instr.vst (ty 0) (.v 1) (.v 2) anAddr 0 0).wf = true ∧
    (Instr.vatom (ty 0) (.v 3) (.v 1) (.v 4) (.v 2) anAddr .cas 0).wf = true :=
  ⟨⟨by decide, by decide, by decide, by decide, by decide, ⟨_, ⟨rfl, rfl, rfl, rfl⟩, by decide⟩, rfl⟩,
    ⟨_, _, _, _, ⟨rfl, rfl, rfl, rfl⟩, by rfl⟩, ⟨_, _, _, _, ⟨rfl, rfl, rfl, rfl⟩, _, .inl ⟨by rfl, by rfl, rfl⟩⟩,
    ⟨by decide, _, _, _, _, _, _, ⟨rfl, rfl, rfl, rfl⟩, by rfl, by rfl⟩, by decide, by decide, by decide⟩
/-- LaneMemory: two atomics of one place add up in order; a compare-and-swap that fails writes nothing. -/
theorem test_lane_atomics :
    (let t := atomsInOrder 4 (fun l old => laneAtom true 4 .add old (l.val + 5) 0) (working id) [(0, .part 0 0), (1, .part 0 0)]
     t.2.1 = [(0, 0), (1, 5)] ∧ (t.1.blockAt 0).scratch = [(0, 11)] ∧ t.2.2.length = 2) ∧
    laneAtom true 4 .min 3 (2 ^ 32 - 1) 0 = some (2 ^ 32 - 1) ∧ laneAtom false 4 .min 3 (2 ^ 32 - 1) 0 = some 3 ∧
    laneAtom true 4 .cas 3 9 4 = none := by decide
/-- A stroke that holds a sequentially consistent fence, about to issue a lane word. -/
def fencedLanes : State :=
  (working fun w => { w with stroke := some (0, 1), exm := 3 }).setCrew 0 (fenced.crewAt 0)
/-- LaneMemory, Hypervectors: a load that waits for a held fence. -/
theorem witness_fencedLanes : LaneActs fencedLanes (ty 0) aBlock 3 3 ∧ fenceHeld fencedLanes fencedLanes.me = true ∧
    fenceHeld (working id) (working id).me = false ∧
    (∃ x t, Got (do let dst ← prepare false (.v 3); let ix ← readE false (.v 1); sync; pure (dst, ix))
      (started fencedLanes (ty 0) aBlock 3 3) x t) ∧
    ∃ x t, Got (do let ix ← readE false (.v 1); sync; pure ix) (started fencedLanes (ty 0) aBlock 3 3) x t :=
  ⟨⟨by decide, by decide, by decide, by decide, by decide, ⟨_, ⟨rfl, rfl, rfl, rfl⟩, by decide⟩, rfl⟩, by decide, by decide,
    ⟨_, _, rfl, rfl, rfl, rfl⟩, _, _, rfl, rfl, rfl, rfl⟩
/-- A context whose shape record 0 is R125's: extents 5 and 4. -/
def shaped : State :=
  let s := working id
  let bs := [2, 0, 0, 0, 0, 0, 0, 0] ++ leBytes 4 5 ++ leBytes 4 4
  let m := writeBytes (writeBytes s.mem (wordPage + 0x800) bs) (wordPage + 0x848) (leBytes 4 1 ++ leBytes 4 1)
  let m := writeBytes (writeBytes m (wordPage + 0x860) (leBytes 4 0x9999_999A)) (wordPage + 0x874) [3]
  { s with mem := m, grids := s.grids.map fun g => { g with record := { g.record with shapes := wordVa + 0x800 } } }
/-- LaneMemory: TIDX of a shape of rank 2; R125's own example; a word whose mask leaves E empty. -/
theorem witness_shaped :
    (∃ u r, seeShape shaped (recordOf shaped shaped.me).shapes 0 = (u, .ok r) ∧
      r.any (fun sh => sh.rank = 2 && coordsOf sh.ext sh.magic sh.shift 13 = [3, 2]) = true) ∧
    let s := working fun w => { w with p := w.p.set 1 0 }
    LaneActs s (masked 0) aBlock every 0 :=
  ⟨ok_with (by decide +kernel),
    ⟨by decide, by decide, by decide, by decide, by decide, ⟨_, ⟨rfl, rfl, rfl, rfl⟩, by decide⟩, _, ⟨rfl, rfl, rfl, rfl⟩, by decide⟩⟩
/-- LaneMemory: TIDX under a context with shape records, and none. -/
theorem witness_tidx : (Instr.tidx (ty 0) (.v 3) (.v 1) 0 0).wf = true ∧
    (∃ x t, Got (do let dst ← prepare false (.v 3); let x ← readE false (.v 1); sync; pure (dst, x))
      (started (working id) (ty 0) aBlock every every) x t) ∧
    ∃ u, seeShape (working id) (recordOf (working id) (working id).me).shapes 0 = (u, .ok none) :=
  ⟨by decide, ⟨_, _, rfl, rfl, rfl, rfl⟩, _, rfl⟩

/-- Hypervectors: each operand form; names of the main file; an index of the vault, empty and not. -/
theorem witness_Hypervectors : let s := working id
    let st := started s (ty 0) aBlock every every
    (∃ x y t, Got (do let x ← readHv 1; let y ← readHv 2; pure (x, y)) st (x, y) t) ∧
    (∃ x t y u, Got (readHv 1) st x t ∧ Got (readBun 1) t y u) ∧
    (∃ x t, Got (do
      let dst ← prepare false (.v 3)
      let x ← readHv 1
      let y ← readHv 2
      pure (dst, x, y)) st x t) ∧
    ((60 : BitVec 11).toNat + 3 < privNames s s.me ∧ ∃ x t, Got (do
      let need ← needWhole
      let v0 ← readName 60 need
      let v1 ← readName 61 need
      let v2 ← readName 62 need
      let v3 ← readName 63 need
      pure (v0, v1, v2, v3)) st x t) ∧
    (∃ x t, Got (do
      let dst ← prepare false (.v 3)
      let x ← readE false (.v 1)
      let n ← readB false (.imm 4)
      let q ← readHv 1
      pure (dst, x, n, q)) st x t) ∧
    (∃ n x t, Got (do
      let n ← readB false (.imm 0x1FFF)
      let x ← readHv 1
      pure (n, x)) st (n, x) t ∧ (n (lowest every)).toNat % 2 ^ 32 < 8192 ∧
      t.s.fenced.contains (.vaultEntry (clusterOf (coreOf t.s.cur)) 0x1FFF) = false ∧
      t.s.testing.contains (.vaultEntry (clusterOf (coreOf t.s.cur)) 0x1FFF) = false ∧ uncommitted s s.me = none) ∧
    (Instr.hxor (ty 0) 3 1 2).wf = true ∧ (Instr.hrot (ty 0) 3 1 5).wf = true ∧ (Instr.hbun (ty 0) 1 1 3 true).wf = true ∧
    (Instr.hthr (ty 0) 3 1 1).wf = true ∧ (Instr.hkclr (ty 0) 1).wf = true ∧ (Instr.hdist (ty 0) (.v 3) 1 2).wf = true ∧
    (Instr.hfromv (ty 0) (.v 60) 1).wf = true ∧ (Instr.htov (ty 0) (.v 60) 1).wf = true ∧
    (Instr.hnear (ty 0) (.v 3) (.v 1) (.imm 4) 1).wf = true ∧ (Instr.hput (ty 0) (.imm 4) 1).wf = true :=
  ⟨⟨_, _, _, rfl, rfl, rfl, rfl⟩, ⟨_, _, _, _, ⟨rfl, rfl, rfl, rfl⟩, rfl, rfl, rfl, rfl⟩, ⟨_, _, rfl, rfl, rfl, rfl⟩, ⟨by decide, _, _, rfl, rfl, rfl, rfl⟩, ⟨_, _, rfl, rfl, rfl, rfl⟩,
    ⟨_, _, _, ⟨rfl, rfl, rfl, rfl⟩, by decide, by decide, by decide, by decide⟩, by decide, by decide, by decide, by decide, by decide,
    by decide, by decide, by decide, by decide, by decide⟩
/-- Hypervectors: entries of the vault under a self-test and fenced, and an index of 8192. -/
theorem witness_hput : let u := MemUnit.vaultEntry 0 0x1FFF
    let free := working fun w => { w with v := [(2, Vector.replicate 32 0x2000)] }
    (∀ s ∈ [({ working id with testing := [u] } : State), { working id with fenced := [u] }],
      LaneActs s (ty 0) aBlock every every ∧ (s.testing.contains u || s.fenced.contains u) = true ∧
      clusterOf (coreOf s.cur) = 0 ∧ uncommitted s s.me = none ∧ ∃ n x t, Got (do
        let n ← readB false (.imm 0x1FFF)
        let x ← readHv 1
        pure (n, x)) (started s (ty 0) aBlock every every) (n, x) t ∧ (n (lowest every)).toNat % 2 ^ 32 = 0x1FFF) ∧
    LaneActs free (ty 0) aBlock every every ∧ ∃ n x t, Got (do
        let n ← readB false (.op (.v 2))
        let x ← readHv 1
        pure (n, x)) (started free (ty 0) aBlock every every) (n, x) t ∧ (n (lowest every)).toNat % 2 ^ 32 = 0x2000 := by
  refine ⟨fun s h => ?_, ⟨by decide, by decide, by decide, by decide, by decide, ⟨_, ⟨rfl, rfl, rfl, rfl⟩, by decide⟩, rfl⟩,
    _, _, _, ⟨rfl, rfl, rfl, rfl⟩, by decide⟩
  simp only [List.mem_cons, List.not_mem_nil, or_false] at h
  rcases h with rfl | rfl <;>
    exact ⟨⟨by decide, by decide, by decide, by decide, by decide, ⟨_, ⟨rfl, rfl, rfl, rfl⟩, by decide⟩, rfl⟩, by decide, by decide,
      by decide, _, _, _, ⟨rfl, rfl, rfl, rfl⟩, by decide⟩
/-- Hypervectors: the 128 words of a load and a store. -/
theorem witness_hypervector_memory : let st := started (working id) (ty 0) aBlock every every
    let addr := fun (ix : Vals) =>
      aBlock.ab[BitVec.toNat (0 : BitVec 3)] + (((ix (lowest every)).setWidth 32 : Lane).signExtend 64 <<< BitVec.toNat (2 : BitVec 2)) +
        BitVec.signExtend 64 (0 : BitVec 9)
    (∃ x t, Got (do
      let ix ← readE false (.v 1)
      sync
      let spots ← hvSpots .read (addr ix)
      pure (ix, spots)) st x t) ∧
    (∃ ix x spots t, Got (do
      let ix ← readE false (.v 1)
      let x ← readHv 1
      sync
      let spots ← hvSpots .write (addr ix)
      pure (ix, x, spots)) st (ix, x, spots) t ∧
      let ws := spots.zipIdx.map fun w => (w.1, leBytes 4 (x.extractLsb' (32 * w.2) 32 : Lane).toNat)
      StoresTo t.s t.s 4 ws (performStores t.s ws)) ∧
    (Instr.hld (ty 0) (.v 1) 0 2 1 0).wf = true ∧ (Instr.hst (ty 0) (.v 1) 0 2 1 0).wf = true :=
  ⟨⟨_, _, rfl, rfl, rfl, rfl⟩, ⟨_, _, _, _, ⟨rfl, rfl, rfl, rfl⟩, .inl ⟨by decide +kernel, by decide +kernel, rfl⟩⟩, by decide, by decide⟩
/-- Hypervectors: a vault whose entries rise: none in range, one, two at the same distance. -/
theorem witness_Nearest : let es : List (Nat × HVec) := [(3, 1), (5, 0), (9, 2)]
    (es.map (·.1)).Pairwise (· < ·) ∧ es.filter (fun v => decide (6 ≤ v.1 ∧ v.1 < 9)) = [] ∧
    es.filter (fun v => decide (6 ≤ v.1 ∧ v.1 < 10)) = [(9, 2)] ∧ Nearest 0 es (5, 0) ∧ Nearest 0 [(3, 1), (9, 2)] (3, 1) := by
  unfold Nearest; decide +kernel

/-- LaneFrame: words of both kinds that complete; a dispatched lane block not all issued. -/
theorem witness_LaneFrame :
    (∀ i ∈ [Instr.vmov (ty 0) (.v 3) (.v 1), .hput (ty 0) (.imm 4) 1], (∃ x, encodeLFields i = some x) ∧
      ∃ t, exec i (working id) = .next t ∧ t.me.iret.toNat = (working id).me.iret.toNat + 1) ∧
    reachesMemory (.vmov (ty 0) (.v 3) (.v 1)) = false ∧ reachesMemory (.hput (ty 0) (.imm 4) 1) = true ∧
    ∃ st : LSt, st.s.me.dispatch = [aBlock] ∧ aBlock.issued = false := by
  refine ⟨fun i h => ?_, rfl, rfl, .start (working id) aBlock every, by decide, by decide⟩
  simp only [List.mem_cons, List.not_mem_nil, or_false] at h
  rcases h with rfl | rfl <;> exact ⟨⟨_, rfl⟩, _, rfl, by rfl⟩
/-- LaneAddResult: also where a source is the destination. -/
theorem witness_LaneAddResult : let s := working id
    canRun s = true ∧ s.me.sup = false ∧ s.me.laneBlock = some aBlock ∧ s.me.laneAt ≤ s.cycle ∧ s.me.inflight = [] ∧
    s.poison = [] ∧ s.me.stroke = none ∧ aBlock.mask s.me ≠ 0 ∧
    (∀ n ∈ [(63 : BitVec 11), 63, 1], n.toNat < 256 ∧ n.toNat < 8 * (recordOf s s.me).regs8) :=
  ⟨by decide, by decide, by decide, by decide, by decide, by decide, by decide, by decide, by decide⟩
/-- LaneCompletions: a result whose cycle has come, and a block past its last word. -/
theorem witness_LaneCompletions : ∃ s : State, (s.warpAt 0).inflight = [⟨0, 4, true, [], .none, 0⟩] ∧ 4 ≤ s.cycle ∧
    (s.warpAt 0).dispatch = [{ aBlock with issued := true, seq := 1 }] ∧ ∀ p ∈ (s.warpAt 0).inflight, p.block ≠ 1 :=
  ⟨{ working fun w => { w with inflight := [⟨0, 4, true, [], .none, 0⟩], dispatch := [{ aBlock with issued := true, seq := 1 }] }
      with cycle := 4 }, by decide, by decide, by decide, by decide⟩
/-- LaneCompletions: a result in flight before a due write of a window slot. -/
theorem witness_due : let p : Pending := ⟨0, 9, true, [], .none, 0⟩
    let q : Pending := ⟨0, 4, true, [.vec (.slot 2) 1 zeroLanes], .none, 0⟩
    let s := { working fun w => { w with stroke := some (0, 1), inflight := [p, q] } with cycle := 4 }
    (s.warpAt 0).inflight = [p, q] ∧ s.cycle < p.landAt ∧ q.landAt ≤ s.cycle ∧ (s.warpAt 0).stroke = some (0, 1) ∧
    ∀ x ∈ p.writes, ∀ m v, x ≠ .vec (.slot 2) m v :=
  ⟨rfl, by decide, by decide, rfl, fun _ h => nomatch h⟩

/-- Bytes of a launch record within its limits: one block of one warp of eight names. -/
def aRecord : List Byte := Tbl.range 0 [(0x20, (1 : Byte)), (0x24, 1), (0x25, 1), (0x2C, 1)] 0 128

/-- The machine with that record at 0x4000, or zeros there, and launch queue 0 on it. -/
def launching (bs : List Byte) : State :=
  let s := scalar id
  { s with mem := writeBytes s.mem 0x4000 bs, lqs := s.lqs.set 0 { LaunchQ.reset with base := 0x4000, size := 16, en := true, head := 0, tail := 1 } }

/-- LaunchSteps: an owner and another, a record that is accepted and one that is rejected, a device launch. -/
theorem witness_LaunchSteps :
    (let s := launching aRecord
     let x := s.lqs[(0 : BitVec 4).toNat]
     (0 = 0 ∨ 0 = x.own.toNat) ∧ ((5 : Nat) ≠ 0 ∧ 5 ≠ x.own.toNat) ∧ x.ring = some 16 ∧ x.en = true ∧ x.own.toNat ≤ 64 ∧
     x.head ≠ x.tail ∧ x.grid = none ∧
     rejectReason s (readBytes s.mem (x.base.toNat / 128 * 128 + 128 * x.head.toNat) 128) = none) ∧
    (let s := launching []
     let x := s.lqs[(0 : BitVec 4).toNat]
     rejectReason s (readBytes s.mem (x.base.toNat / 128 * 128 + 128 * x.head.toNat) 128) = some 1) ∧
    (let c := cmd (.lnch aRecord 0)
     let s := queued c c c c id
     headCmd s 0 3 = some c ∧ joinsOpen s 0 3 c.seq = true ∧ rejectReason (dropHead s 0 3) aRecord = none) :=
  ⟨⟨by decide, by decide, by decide, by decide, by decide, by decide, by decide, by decide +kernel⟩, by decide +kernel,
    by decide, by decide, by decide +kernel⟩

/-- LaunchSteps: the oldest record of a core in the rings, its queue empty. -/
theorem witness_ring : let e : RingRec := ⟨0, 0x4000, aRecord, 5⟩
    let s := (scalar id).setCtx 0 { (scalar id).ctxAt 0 with ring := [e] }
    headCmd s 0 3 = none ∧ (s.ctxAt 0).ring = [e] ∧ (s.ctxs.map (·.1)) = [0] ∧ joinsOpen s 0 3 e.seq = true ∧
    rejectReason (s.setCtx 0 { s.ctxAt 0 with ring := (s.ctxAt 0).ring.erase e }) e.bytes = none := by decide +kernel

/-- A graph whose node 0 has a counter, a kind, a predicate and one successor, its record well-formed. -/
def graphed (v kind : Nat) (pred : Byte) : State :=
  let s := (launching []).setCtx 0 { (launching []).ctxAt 0 with graph := 0x8000 }
  let node := leBytes 8 (wordVa + 0x800).toNat ++ leBytes 2 v ++ [1, 0, BitVec.ofNat 8 kind, 0, 0, 0]
    ++ leBytes 8 (if kind = 3 then (wordVa + 0xD00).toNat else 0) ++ leBytes 8 (wordVa + 0xC00).toNat
  let m := writeBytes (writeBytes s.mem 0x8000 node) (wordPage + 0x800) aRecord
  { s with mem := writeBytes (writeBytes m (wordPage + 0xC00) [7, 0]) (wordPage + 0xD00) [pred] }

/-- LaunchSteps: a node's counter at zero, above one, and one; a conditional node with its predicate zero or not. -/
theorem witness_nodes : ∀ x ∈ [(0, 1, (0 : Byte)), (2, 1, 0), (1, 1, 0), (1, 3, 0), (1, 3, 5)],
    let s := graphed x.1 x.2.1 x.2.2
    s.memOk ∧ (s.ctxAt 0).graph + 32 * 0 = 0x8000 ∧ leNat (readBytes s.mem (0x8000 + 8) 2) = x.1 ∧ 0x8000 % 32 = 0 ∧
    let u := { s with mem := writeBytes s.mem (0x8000 + 8) (leBytes 2 0) }
    let bs := readBytes u.mem 0x8000 32
    nodeOk bs = true ∧ fieldNat bs 0x0C 1 = x.2.1 ∧ fieldNat bs 0x0A 2 = 1 ∧
    ∃ w r, readSpan u (whoPart 0) (fieldWord bs 0) 128 = (w, .ok r) ∧
      let y := nodeStatus w 0x8000 1
      rejectReason y r = none ∧ (x.2.1 = 3 → gave (readSpan y (whoPart 0) (fieldWord bs 0x10) 4) [x.2.2, 0, 0, 0] = true ∧
        gave (readSpan (readSpan y (whoPart 0) (fieldWord bs 0x10) 4).1 (whoPart 0) (fieldWord bs 0x18) 2) [7, 0] = true) := by
  intro x h
  simp only [List.mem_cons, List.not_mem_nil, or_false] at h
  rcases h with rfl | rfl | rfl | rfl | rfl <;>
    exact ⟨by unfold State.memOk; decide +kernel, by decide +kernel, by decide +kernel, by decide, by decide +kernel,
      by decide +kernel, by decide +kernel, ok_with (by decide +kernel)⟩

/-- An answer of an operation that a check accepts. -/
theorem some_of {α : Type} {x : Option α} {p : α → Prop} [DecidablePred p]
    (h : (match x with | some t => decide (p t) | none => false) = true) : ∃ t, x = some t ∧ p t := by
  obtain _ | t := x
  · exact absurd h (by simp)
  · exact ⟨t, rfl, of_decide_eq_true h⟩

/-- A grid of three blocks at the head of launch queue 0, none of them placed. -/
def placing : State :=
  let s := { State.reset with grids := [{ wordGrid [] with next := 0, record := { wordRecord with blocks := 3, regs8 := 1, flags := 0 } }]
                              lqs := State.reset.lqs.set 0 { LaunchQ.reset with grid := some 0 } }
  s.setCtx 0 { Ctx.absent with live := true }

/-- A context-0 grid whose block 0 has the given warps. -/
def ending (relaunch : Bool) : State :=
  let s := scalar fun w => { w with stat := .exited }
  s.setBlock 0 { s.blockAt 0 with relaunch := relaunch, killed := relaunch }

/-- A grid all of whose blocks have exited, with a counter or none. -/
def completing (ctr : Word) : State :=
  let s := scalar id
  { s with grids := [{ wordGrid s.mem with exited := 1, record := { wordRecord with ctr := ctr } }] }

/-- BlockSteps: a gang to place. -/
theorem witness_placement : chosenHead placing = some 0 ∧ (placing.gridAt 0).fresh = [] ∧
    (placing.gridAt 0).record.persist = false ∧
    ∃ t, placeGang placing 0 (nextGang (placing.gridAt 0)) = some t ∧ 0 < t.grids.length :=
  ⟨by decide +kernel, by decide, by decide, some_of (by decide +kernel)⟩
/-- BlockSteps: a gang that fits nowhere, and a choice that is kept. -/
theorem witness_choice :
    (let s := { placing with removed := List.range 384 }
     chosenHead s = some 0 ∧ s.choice ≠ some 0 ∧ savedFirst s 0 = false ∧ (s.gridAt 0).fresh = [] ∧
     placeGang s 0 (nextGang (s.gridAt 0)) = none ∧ (s.gridAt 0).next < (s.gridAt 0).record.blocks) ∧
    let s := { placing with choice := some 0 }
    readyHeads s = [0] ∧ s.choice = some 0 := by decide +kernel
/-- BlockSteps: a block that has ended, killed for ECC or not, and one without warps. -/
theorem witness_BlockSteps : (∀ r, let s := ending r
      (s.blockAt 0).live = true ∧ (s.blockAt 0).killed = r ∧ blockCmds s 0 = [] ∧ (s.blockAt 0).grid < s.grids.length ∧
        (s.blockAt 0).relaunch = r) ∧
    ∃ s : State, (s.blockAt 0).live = true ∧ blockWarps s 0 = [] ∧ blockCmds s 0 = [] :=
  ⟨fun r => by cases r <;> exact ⟨by decide, by decide, by decide, by decide, by decide⟩,
    { scalar id with warps := [] }, by decide, by decide, by decide⟩
/-- BlockSteps: a grid that completes. -/
theorem witness_completion : ∀ ctr ∈ [(0 : Word), wordVa + 0x800], let s := completing ctr
    0 < s.grids.length ∧ (s.gridAt 0).done = false ∧ (s.gridAt 0).record.blocks ≤ (s.gridAt 0).exited ∧
    (∀ p ∈ s.pend, p.grid ≠ 0) ∧ handleKind (s.gridAt 0).record.handle ≠ 1 ∧ (s.gridAt 0).record.ctr = ctr := by
  intro ctr h
  simp only [List.mem_cons, List.not_mem_nil, or_false] at h
  rcases h with rfl | rfl <;> exact ⟨by decide, by decide, by decide, by decide, by decide, by decide⟩
/-- BlockSteps: an update of the same counter that waits. -/
theorem witness_clear : ∃ p ∈ ({ completing 8 with pend := [⟨0, 0, 8, some 62, 7, false⟩] } : State).pend,
    p.grid ≠ 0 ∧ p.ctx = 0 ∧ p.ctr = 8 := ⟨_, .head _, by decide, by decide, by decide⟩
/-- BlockSteps: its counter. -/
theorem witness_counter : ∃ u, resolve (completing (wordVa + 0x800)) (whoPart 0) .rw 8 (wordVa + 0x800) =
    (u, .ok (.mem (wordPage + 0x800) [] 0 (tlbLookup u (whoPart 0) (wordVa + 0x800).toNat))) ∧ u.memOk :=
  ⟨_, ok_of (by decide +kernel), by unfold State.memOk; decide +kernel⟩

/-- A crew whose stroke 1 is the oldest of two, in a warp of its own; `f` changes it. -/
def coxReady (f : Crew → Crew) : State :=
  let s := scalar id
  (s.setWarp 4 { s.warpAt 0 with stroke := some (0, 1) }).setCrew 0 (f { Crew.absent with
    live := true, n := 9, next := 2, oldest := 1, commit := 1, relMark := 1
    record := { CrewRec.none with regs8 := 1, s := 1, w := 8, d := 1 }
    strokes := [⟨1, 4, false, false, false, false⟩] })

/-- CoxSteps: a stroke to launch, with and without a template; a template command; a stroke to retire, of either kind of
crew; a release; a commit after GO and after retirement. -/
theorem witness_CoxSteps :
    (∀ f ∈ [(fun c => { c with high := 2 } : Crew → Crew),
        fun c => { c with high := 5, tissued := 3, record := { c.record with tmpl := true } }], let s := coxReady f
      let cr := s.crewAt 0
      cr.live = true ∧ (s.blockAt (s.warpAt cr.host).block).stopped = false ∧ cr.broke = none ∧ cr.runs cr.next = true ∧
      cr.next < cr.oldest + cr.record.lead ∧
      8 * cr.record.regs8 + hvRows (s.gridOf (s.warpAt cr.host).block).record ≤ freeRows s (0 / 64) ∧
      1 ≤ freeWarps s (0 / 64) ∧ (cr.record.tmpl = true → cr.next < cr.tissued) ∧
      (cr.high ≤ cr.next ∨ specUsed s (0 / 64) < 256) ∧ freeSlot s (0 / 64) = some 1) ∧
    (let s := coxReady fun c => { c with record := { c.record with tmpl := true, f := 1 } }
     let cr := s.crewAt 0
     cr.record.tmpl = true ∧ cr.broke = none ∧ cr.runs cr.tissued = true ∧ cr.tout.length < cr.record.f ∧
     queueRoom s (0 / 64) 0 = true) ∧
    (∀ b, let s := coxReady fun c => { c with
            commit := 2, strokes := [⟨1, 4, true, false, true, false⟩], record := { c.record with breakable := b } }
      let cr := s.crewAt 0
      ∃ x, cr.strokes.find? (·.k == cr.oldest) = some x ∧ x.exited = true ∧ (cr.record.breakable = false ∨ x.k < cr.commit)) ∧
    (let cr := (coxReady fun c => { c with strokes := [⟨1, 4, false, false, false, true⟩] }).crewAt 0
     ∃ x ∈ cr.strokes, x.k = cr.relMark ∧ x.relReq = true ∧ cr.broke = none) ∧
    (let s := coxReady fun c => { c with
        record := { c.record with breakable := true }, held := [⟨1, [(.phys 0x4000, 7)], [], 1, [], false⟩] }
     let cr := s.crewAt 0
     cr.commit = 1 ∧ cr.record.breakable = true ∧ 1 ≤ cr.oldest ∧ cr.broke ≠ some (1 - 1) ∧
     logShort s ((cr.held.filter fun h => h.stroke == 1).flatMap (·.dirty)) = none) ∧
    (let cr := (coxReady fun c => { c with
        commit := 2, strokes := [⟨1, 4, true, false, false, false⟩], record := { c.record with breakable := true } }).crewAt 0
     cr.commit = 2 ∧ ∃ x ∈ cr.strokes, x.k + 1 = 2 ∧ x.going = true) := by
  refine ⟨?_, by decide +kernel, ?_, by decide +kernel, by decide +kernel, by decide +kernel⟩
  · intro f h
    simp only [List.mem_cons, List.not_mem_nil, or_false] at h
    rcases h with rfl | rfl <;> decide +kernel
  · intro b
    cases b <;> exact ⟨_, rfl, by decide, by decide⟩

/-- CoxSteps: a release that a waiting stroke's read asks for. -/
theorem witness_release :
    let s := coxReady fun c => { c with next := 3, strokes := [⟨1, 4, false, false, false, true⟩, ⟨2, 8, false, false, false, false⟩] }
    let r : WinRead := ⟨slotOf (s.crewAt 0).record 1 0, 0xF, 1, zeroLanes⟩
    let s := s.setWarp 8 { s.warpAt 0 with stroke := some (0, 2), reads := [r] }
    (∃ x ∈ (s.crewAt 0).strokes, x.k = (s.crewAt 0).relMark ∧ x.relReq = true) ∧ (s.crewAt 0).broke = none ∧
    (0 : Nat) < (s.crewAt 0).record.s ∧ ∃ y ∈ (s.crewAt 0).strokes, (s.warpAt y.warp).reads = [r] := by decide +kernel

/-- A started command that has landed everything, for a counter that may not be there. -/
def landed (ctr : Word) : Cmd := { cmd (.mxz 1 0) with started := true, ctr := ctr }

/-- A copy of 130 words, the first 128 landed. -/
def copying : Cmd := { cmd (.cpy (own 0) wordVa 0 true 0 false) with
  started := true
  copy := some ⟨⟨1, 2, 0, [130], [4], [130], [], []⟩, wordVa, 0, true, [0], 128⟩ }

/-- A command that goes on. -/
theorem goes_of {x : CmdDid} (h : (match x with | .goes _ _ => true | _ => false) = true) : ∃ u d, x = .goes u d := by
  cases x with
  | goes u d => exact ⟨u, d, rfl⟩
  | _ => exact absurd h (by simp)

/-- EngineSteps: a head that starts, that waits for its page and that fails; a copy's next piece; completions. -/
theorem witness_EngineSteps :
    (∀ op ∈ [CmdOp.mxz 1 31, .mxb 0x9_0000 0 0, .mxa 0x9_0000 0 0 0 1 0], let c := cmd op
      let s := queued c c c c id
      headCmd s 0 (1 : BitVec 2).toNat = some c ∧ c.started = false ∧ c.emul = false ∧ c.pageVa = none ∧
      joinsOpen s 0 1 c.seq = true ∧ seqBusy s 0 c = false) ∧
    (let c := cmd (.mxz 1 31)
     (∃ u d, cmdStart (queued c c c c id) 0 c = .goes u d ∧ Paid (queued c c c c id) u c u) ∧
     Tbl.wf 0 ((queued c c c c id).coreAt 0).acc = true) ∧
    (∃ p', copying.copy = some p' ∧ p'.landed < p'.shape.count ∧
      headCmd (queued copying copying copying copying id) 0 (0 : BitVec 2).toNat = some copying ∧
      landsLate (queued copying copying copying copying id) copying p' = false ∧
      copying.op.lowers = some 0 ∧ 0 ∈ p'.blocks ∧
      ∃ u d, landPiece { queued copying copying copying copying id with asked := [(0, 1)] } 0 copying p' = .goes u d) ∧
    (let c := landed 0
     let s := queued c c c c id
     headCmd s 0 (1 : BitVec 2).toNat = some c ∧ c.started = true ∧ c.pageVa = none ∧ c.copy = none ∧ c.moves = [] ∧
     c.dirs = none ∧ c.ctr = 0 ∧ (s.warpAt c.warp).stat ≠ .absent) ∧
    (let c := landed 1
     ∃ u cause, cmdCount (queued c c c c id) 0 c = .fails u cause ∧ Paid (queued c c c c id) u c u) :=
  ⟨by decide, ⟨⟨_, _, rfl, by decide, rfl⟩, by decide⟩,
    ⟨_, rfl, by decide, by decide, by decide, by decide, by decide, goes_of (by decide +kernel)⟩,
    by decide, _, _, rfl, by decide, rfl⟩
/-- EngineSteps, StateStoreCommands: a sequence that another core's state engine is at work on; a change of the region
directory that has come to overlap another sequence's, and one that has not. -/
theorem witness_seqBusy : let c := cmd (.ssnap 0 9)
    (let s := (queued c c c c id).setCore 1 { Core.reset with stateQ := [{ cmd (.ssdrop 0) with started := true }] }
     headCmd s 0 2 = some c ∧ c.started = false ∧ seqBusy s 0 c = true) ∧
    let r : Regions := ⟨(0x1000, 64), (0x2000, 64), (0x3000, 64)⟩
    let s := (queued c c c c id).setCtx 0 { Ctx.absent with dir := [(1, r)] }
    (s.gridOf c.block).ctx = 0 ∧ dirClash (s.ctxAt 0).dir 2 r = true ∧ dirClash (s.ctxAt 0).dir 1 r = false := by
  decide +kernel
/-- EngineSteps: a start whose read of a descriptor and page walk the purses have slots for, and none. -/
theorem witness_walks : ∀ n ∈ [0, 1], let c := cmd (.ssdrop 0)
    let s := (queued c c c c id).setDomain 0 { Domain.reset with active := Vector.replicate 6 1, spent := Vector.replicate 6 n }
    let s := s.setCtx 0 { s.ctxAt 0 with sdtb := 0x1_1000 }
    let s0 := { s with asked := [] }
    ∃ u, (cmdStart s0 0 (c.homed s0 0)).state = some u ∧ u.asked = [(2, 1), (3, 1)] ∧
      billOpen s (owed u.asked c.drawn) = decide (n = 0) ∧ (drawOwed s (owed u.asked c.drawn) c.drawn).isSome = decide (n = 0) ∧
      purseLeft s 0 3 = 1 - n := by
  intro n h
  simp only [List.mem_cons, List.not_mem_nil, or_false] at h
  rcases h with rfl | rfl <;> exact some_of (by decide +kernel)
/-- A core's block 0 with a partner of its gang on core 1, format 1 a plain INT8. -/
def engines (op : CmdOp) (slots : Vector Nat 6) : State :=
  let s := queued (cmd op) (cmd op) (cmd op) (cmd op) id
  let s := { s with grids := s.grids.map fun (g : Grid) =>
    { g with record := { g.record with gang := 2, blocks := 2, fmts := Vector.replicate 8 0x305 } } }
  let s := (s.setBlock 8 { s.blockAt 0 with idx := 1 }).setDomain 0 { Domain.reset with active := Vector.replicate 6 1, spent := slots }
  s.setCore 0 { s.coreAt 0 with pages := [(3, ⟨some 0, []⟩)] }

/-- EngineSteps: MXB from the own and from another core's partition, one slot of the purse left and none. -/
theorem witness_MXB : ∀ x ∈ [(own 0, 0, 0), (0xFD00_0000_0008_0000, 8, 0), (0xFD00_0000_0008_0000, 8, 1)],
    let s := engines (.mxb x.1 3 1) (Vector.replicate 6 x.2.2)
    windowOf s 0 0 x.1 = some (x.2.1, 0) ∧ 0 + 8192 ≤ (s.blockAt x.2.1).size ∧ poisoned s (.part x.2.1 0) 8192 = false ∧
    s.fenced.contains (.bpage 0 3) = false ∧ s.testing.contains (.bpage 0 3) = false ∧
    (Tbl.get BPage.reset (s.coreAt 0).pages 3).owner = some 0 ∧ fmtElem (slotFmt (s.gridOf 0).record 1) ≠ 0 ∧
    (∃ u, (cmdStart { s with asked := [] } 0 (cmd (.mxb x.1 3 1))).state = some u ∧
      u.asked = if x.2.1 = 0 then [] else [(8 * 0 + 1, 16)]) ∧
    blockCore x.2.1 = x.2.1 / 8 ∧ purseTakes s (domainOf 0) 1 16 = false ∧
    purseTakes (s.setDomain 0 { Domain.reset with active := Vector.replicate 6 16 }) (domainOf 0) 1 16 = true ∧ purseLeft s (domainOf 0) 1 = 1 - x.2.2 := by
  intro x h
  simp only [List.mem_cons, List.not_mem_nil, or_false] at h
  rcases h with rfl | rfl | rfl <;> refine ⟨?_, ?_, ?_, ?_, ?_, ?_, ?_, some_of (by decide +kernel), ?_, ?_, ?_, ?_⟩ <;> decide +kernel
/-- EngineSteps: MXA over a page that its block owns, MXRD to the partition. -/
theorem witness_MXA :
    let s := engines (.mxa (own 0) 3 1 1 1 0) (Vector.replicate 6 0)
    let c := cmd (.mxa (own 0) 3 1 1 1 0)
    headCmd s 0 1 = some c ∧ (Tbl.get BPage.reset (s.coreAt 0).pages 3).owner = some 0 ∧ EccSite.bpage 0 3 ∉ s.poison ∧
    fmtScale (slotFmt (s.gridOf 0).record 1) = 3 ∧ fmtStrict (slotFmt (s.gridOf 0).record 1) = false ∧
    (match readWindowBytes s 0 c (own 0) 512 with
      | .ok x => x.1 == 0
      | .error _ => false) = true := by decide +kernel
theorem witness_MXRD : let c := cmd (.mxrd (own 0) 1 0 0)
    let s := engines c.op (Vector.replicate 6 0)
    ∃ u ps, runSpots s (whoCmd s 0 c) .write 4 (64 * 1) (own 0) = (u, .ok ps) ∧ logShort u (storeDirty (ps.map fun p => (p, []))) = none :=
  ok_with (by decide +kernel)
/-- EngineSteps: a completion that stores its status in the word after its counter. -/
theorem witness_status : let c := { landed (wordVa + 0x800) with status := some 2 }
    let s := { queued c c c c id with asked := [] }
    ∃ u ps, pieces s (whoCmd s 0 c) .write (c.ctr + 8) 8 = (u, .ok ps) ∧ (ps = [(wordPage + 0x808, 8, [])] ∧
      let x := moveAll u [⟨.phys (wordPage + 0x808), .bytes (leBytes 8 2)⟩]
      ((resolve x (whoCmd s 0 c) .rw 8 c.ctr).2.toOption.any fun p => match p with
        | .mem pa dirty _ _ => pa == wordPage + 0x800 && dirty.isEmpty
        | _ => false) = true) :=
  ok_with (by decide +kernel)
/-- EngineSteps: a completion that counts. -/
theorem witness_cmdCounter : let c := landed (wordVa + 0x800)
    let s := queued c c c c id
    ∃ u p, resolve s (whoCmd s 0 c) .rw 8 c.ctr = (u, .ok p) ∧
      p = .mem (wordPage + 0x800) [] 0 (tlbLookup u (whoCmd s 0 c) (wordVa + 0x800).toNat) :=
  ok_with (by decide +kernel)

/-- A context whose frame pool has one frame of 16 KiB, on pages that are mapped, and a grid of one block of one warp
with eight names and nothing else. -/
def poolReady (w : Warp) : State :=
  { State.reset with
    cycle := 2048
    warps := [(0, w)]
    blocks := [(0, { Block.absent with live := true, nw := 1 })]
    ctxs := [(0, { Ctx.absent with live := true, ptb := BitVec.ofNat 64 wordTable, frb := 0x1_2000, ctxid := 7 })]
    grids := [{ wordGrid [] with record := { wordRecord with regs8 := 1, flags := 0, scratch := 0 } }]
    mem := writeBytes (writeBytes (writeBytes (wordMemory [] []) (wordPage + 0x2000) (leBytes 8 0x4000 ++ leBytes 4 1))
      (wordTable + 0xC000 + 8 * 0x604) (leBytes 8 (openLeaf 0x20_0000) ++ leBytes 8 (openLeaf 0x10_0000)))
      0x20_3000 (List.replicate 12 0 ++ [7]) }

/-- A block saved in frame 0 of that context. -/
def aSaved : Saved where
  ctx := 0
  frame := 0
  cluster := 0
  stall := false
  block := { wordBlock 0 with size := 0 }
  warps := [(0, wordWarp false 7)]
  crews := []
  cmds := []
  joins := []
  pages := []
  sites := []

/-- A record of an absent page. -/
def stalledAt : TrapRec := ⟨cPAGE, false, 0, false, false, false, 0, 0, 0, 0, 0, false, .none⟩

/-- The machine with that block saved, its frame marked, under an identifier. -/
def savedReady (id : BitVec 16) : State :=
  let s := poolReady Warp.absent
  let s := s.setCtx 0 { s.ctxAt 0 with ctxid := id }
  { s with mem := writeBytes s.mem (wordPage + 0x2010) [1], saved := [aSaved], warps := [], blocks := [] }

/-- A machine whose only gang has stalled. -/
def stalledReady : State := poolReady { Warp.absent with stat := .running, exm := 0, iter := 0, parked := some (.page, stalledAt) }

/-- SaveSteps: a gang that has stalled and can be saved. -/
theorem witness_stall : gangOf stalledReady 0 0 ≠ [] ∧ (∀ b ∈ gangOf stalledReady 0 0, (stalledReady.blockAt b).lastMove + 2000 ≤ stalledReady.cycle ∧
      ∃ e ∈ blockWarps stalledReady b, e.2.stat = .running ∧ e.2.parked.isSome = true) :=
  ⟨by decide, by decide⟩
theorem witness_stall_saves : (saveGang stalledReady true 0 0).isSome = true := by decide +kernel
/-- SaveSteps: a saved block of the context's identifier, and of another. -/
theorem witness_restore : (let s := savedReady 7
     savedAt s 0 0 = some aSaved ∧ admitted s 0 = true ∧ lowerFirst s aSaved = false ∧
     (∀ y ∈ savedGang s aSaved, y.eligible = true) ∧ headerAgrees s aSaved = some true ∧ (restoreGang s aSaved).isSome = true) ∧
    let s := savedReady 6
    savedAt s 0 0 = some aSaved ∧ admitted s 0 = true ∧ lowerFirst s aSaved = false ∧
    (∀ y ∈ savedGang s aSaved, y.eligible = true) ∧ headerAgrees s aSaved = some false ∧ (killSaved s aSaved).isSome = true := by
  decide +kernel

/-- The one core of a pool, its block places taken: block 1 of a grid, at a CWAIT that yields, above block 0, which is
to start again. -/
def crowdedGrid : State :=
  let s := poolReady { Warp.absent with stat := .running, exm := 0, iter := 0, pc := wordVa, waitFrom := some 0 }
  let m := writeBytes s.mem wordPage (leBytes 4 (0x3b#7 ++ (0#24 ++ 1#1) : BitVec 32).toNat)
  (({ s with
    grids := [{ wordGrid m with fresh := [0], record := { wordRecord with regs8 := 1, flags := 0, scratch := 0, cls := 1 } }, wordGrid m]
    blocks := (0, { Block.absent with live := true, idx := 1, nw := 1 }) ::
      (List.range' 1 7).map fun b => (b, { Block.absent with live := true, grid := 1 })
    removed := List.range' 1 31
    mem := m } : State).setDomain 0
      { Domain.reset with cls := 1 })

/-- SaveSteps: a block that makes room for a lower one, and one that need not. -/
theorem witness_swap : admitted crowdedGrid (crowdedGrid.gridAt 0).ctx = true ∧ swapVictim crowdedGrid 0 0 = some 0 ∧
    (∃ place, lowerBlock crowdedGrid 0 = some (0, true, place)) ∧ gangIx crowdedGrid 0 = 1 ∧
    ∃ place, lowerBlock { crowdedGrid with blocks := crowdedGrid.blocks.take 1 } 0 = some (0, false, place) :=
  ⟨by decide, by decide +kernel, ⟨_, by rfl⟩, by decide, _, by rfl⟩
theorem witness_swap_saves : (saveGang crowdedGrid false 0 1).isSome = true := by decide +kernel

/-- SaveSteps: the stages of a context; a class change, asked for, pending and taking effect. -/
theorem witness_SaveSteps :
    (∀ st ∈ [PreStage.admitted, .reset, .drain 0, .saved 0], let s := stalledReady
      let t := { s with cycle := 100_000_000 }
      (t.setCtx 0 { t.ctxAt 0 with stage := st }).ctxAt 0 = { s.ctxAt 0 with stage := st } ∧
      0 + (s.ctxAt 0).grace ≤ t.cycle ∧ 0 + (s.ctxAt 0).deadline ≤ t.cycle ∧ ctxBlocks t 0 ≠ []) ∧
    ((crowdedGrid.setCluster 0 { Cluster.reset with owner := some 0 }).clusterAt 0).owner = some 0 ∧
    (∃ g ∈ stalledReady.grids, g.ctx = 0 ∧ g.done = false) ∧ (∀ g ∈ stalledReady.grids, g.ctx = 1 → g.done = true) ∧
    (State.reset.domainAt 3).pend = none ∧ (State.reset.domainAt 3).cls = 0 ∧
    (let s := State.reset.setDomain 3 { Domain.reset with pend := some 2 }
     (s.domainAt 3).pend = some 2 ∧ (∀ e ∈ s.blocks, e.2.live = true → domainOf (blockCore e.1) ≠ 3) ∧ bound s 3 = false) := by
  decide +kernel

/-- A virtual function whose dirty log of 512 entries is full and whose two writers are parked. -/
def fullLog : State :=
  let s := scalar fun w => { w with parked := some (.dirtyLog 3, stalledAt) }
  s.setFn 3 { Fn.reset with en := true, dlsize := 512, prod := 600, cons := 88, full := true, parked := [0] }

/-- A mapped page written to, whose entry also has its WR bit, bit 7. -/
def scanned : State :=
  let s := scalar id
  { s with mem := writeBytes s.mem (wordTable + 0xC020) (leBytes 8 (openLeaf wordPage + 0x80)) }

/-- RegisterSteps: values of CONS in and out of the log; every queue by the PF and a virtual function's second queue;
the first and last function; a page to write back. -/
theorem witness_RegisterSteps :
    (let f := fullLog.fnAt 3
     f.ringSize = some 512 ∧ (512 : Nat) < (f.prod - 87).toNat ∧ (f.prod - 89).toNat ≤ 512 ∧ (89 : BitVec 32) ≠ f.cons ∧
     0 ∈ f.parked ∧ (fullLog.warpAt 0).parked = some (.dirtyLog 3, stalledAt)) ∧
    (∀ vf ∈ [1, 64], 1 ≤ vf ∧ vf ≤ 64) ∧
    (∀ n : Fin 16, ∃ fn base : Nat, fn = 0 ∧ base = 0x100000 + 64 * n.val) ∧
    (∃ s : State, ∃ n : Fin 16, (1 : Nat) ≤ 5 ∧ ∃ i, (64 : Nat) = 64 * i ∧
      ((List.finRange 16).filter fun m => s.lqs[m].own.toNat == 5)[i]? = some n) ∧
    (∃ l, leafOf scanned 0 (0x1_0008 : Word).toNat = .ok (wordTable + 0xC020, 3, 14) ∧
      walk scanned 0 (0x1_0008 : Word).toNat = .ok l) ∧
    (readEntry scanned.mem (wordTable + 0xC020)).getLsbD 6 = true ∧
    (readEntry scanned.mem (wordTable + 0xC020)).getLsbD 7 = true ∧ scanned.memOk :=
  ⟨by decide, by decide, fun _ => ⟨0, _, rfl, rfl⟩,
    ⟨{ State.reset with lqs := (State.reset.lqs.set 3 { LaunchQ.reset with own := 5 }).set 9 { LaunchQ.reset with own := 5 } },
      9, by decide, 1, by decide, by decide +kernel⟩, ⟨_, by rfl, by rfl⟩, by decide +kernel, by decide +kernel, by unfold State.memOk; decide +kernel⟩

/-- RegisterSteps: a page whose entry has been read, no access outstanding, with a controller to write it back. -/
theorem witness_scan : let x : Scan := ⟨0, 0x1_0008, 0, 0x1_0000, 14, wordPage, true, 0⟩
    let s := { scanned with scans := [x], fabric := ⟨[0], [[0, 3]]⟩ }.setDomain 0
      { Domain.reset with active := Vector.replicate 6 32 }
    x.va = (0x1_0008 : Word).toNat ∧ s.pend = [] ∧ x.pieces s = [(0x1_0000, wordPage)] ∧ paRange wordPage = .stack 0 ∧
    nvmeQueue s.fabric = some (0, 0) ∧ purseTakes s 0 fabricPurse (32 * (x.pieces s).length - x.drawn) = true ∧ s.memOk ∧
    (heldThrough s fun _ => true) = false ∧
    (∃ (t : State), t.scans = [x] ∧ heldThrough t (fun y => y.maps (t.ctxAt x.ctx).ctxid x.page) = true) ∧
    leafOf s x.ctx x.page = .ok (wordTable + 0xC020, 3, 14) ∧
    pteAddr (readEntry s.mem (wordTable + 0xC020)) + x.page % 2 ^ 14 = x.base :=
  ⟨by decide, by decide, by decide +kernel, by decide, by decide, by decide +kernel, by unfold State.memOk; decide +kernel,
    by decide, ⟨{ State.reset.setCore 0 { Core.reset with stateQ :=
      [{ cmd (.ssdrop 0) with moves := [⟨.phys 0, .bytes [1]⟩] }] } with scans := _ }, rfl, by decide⟩, by rfl,
    by decide +kernel⟩
/-- A warp of a virtual function whose second stage is one dirty leaf of a page that storage keeps. -/
def guestScanned : State :=
  let s := scalar id
  let s := s.setFn 1 { Fn.reset with s2ptb := 0x10_0000 }
  let s := s.setCtx 0 { s.ctxAt 0 with vf := 1 }
  { s with mem := writeBytes (writeBytes s.mem 0x10_0000 (leBytes 8 0x10_4001)) 0x10_4000 (leBytes 8 0xFF) }
/-- RegisterSteps: a page that is dirty and backed in the second stage alone. -/
theorem witness_guestScan : guestScanned.scans = [] ∧ (guestScanned.ctxAt 0).vf = 1 ∧ guestScanned.memOk ∧
    (∃ p l k, leafOf guestScanned 0 wordVa.toNat = .ok (p, l, k) ∧ (readEntry guestScanned.mem p).getLsbD 7 = false) ∧
    guestOf guestScanned 0 wordVa.toNat = some wordPage ∧
    (∃ level shift, leafEntry guestScanned.mem .ok wordPage walkLevels (guestBase guestScanned 1) =
      .ok (0x10_4000, level, shift)) ∧
    (readEntry guestScanned.mem 0x10_4000).getLsbD 6 = true ∧ (readEntry guestScanned.mem 0x10_4000).getLsbD 7 = true :=
  ⟨by decide, by decide, by unfold State.memOk; decide +kernel, ⟨_, _, _, by rfl, by decide +kernel⟩, by decide +kernel,
    ⟨_, _, by rfl⟩, by decide +kernel, by decide +kernel⟩
/-- RegisterSteps: an assigned queue with entries of a live context, and another context's. -/
theorem witness_qreset : let s := taskQueues [(3, [5])]
    (s.ctxAt 0).live = true ∧ (0, s.ctxAt 0) ∈ s.ctxs ∧ tqGet s 0 3 ≠ [] ∧ (s.ctxAt 0).ctxid ≠ 1 := by decide +kernel

/-- An image in a slot that power-on accepts. -/
def accepted (b : Boot) (x : Option FwImage) : Prop :=
  ∃ i, x = some i ∧ i.signed = true ∧ b.fuse ≤ i.version ∧ i.wellFormed = true
theorem not_accepted (b : Boot) : ¬ accepted b none := fun ⟨_, h, _⟩ => by cases h

/-- PlatformSteps: the intervals that are due; a supply that sags; errors, self-tests that run; each state of power and
each choice of slot; the ends of a peer's memory. -/
theorem witness_PlatformSteps :
    (∃ s : State, s.ctlDue ≤ s.cycle ∧ s.ctlDue ≠ 0 ∧ s.purseDue ≤ s.cycle) ∧
    (∀ b : Bool, ∃ s : State, (s.clusterAt 47).sag = b) ∧ tableAt 0 = true ∧
    (∃ s : State, MemUnit.stackRow 2 5 ∈ s.testing ∧ (errAt s (.stackRow 2 5)).fails = 0) ∧
    (∃ s : State, MemUnit.stackRow 2 5 ∈ s.testing ∧ (errAt s (.stackRow 2 5)).fails = 1) ∧
    (accepted Boot.reset Boot.reset.slotA ∧ Boot.reset.power = .off ∧
     (∃ b : Boot, b.power = .recovery ∧ ¬ accepted b b.slotA ∧ accepted b b.slotB) ∧
     ∃ b : Boot, b.power = .off ∧ ¬ accepted b b.slotA ∧ ¬ accepted b b.slotB) ∧
    (∃ s : State, s.boot.power ≠ .off ∧ ∃ i, s.boot.image = some i) ∧
    (∃ s : State, MemUnit.scratchBank 7 2 ∈ s.testing ∧ (errAt s (.scratchBank 7 2)).fails = 1 ∧ 7 ∉ s.removed ∧
      Tbl.get 0 s.spares (7 / 64) < 4 ∧ s.toSave = [] ∧ ∀ e ∈ s.blocks, e.2.live = true → blockCore e.1 ≠ 7) ∧
    (∃ s : State, 4 ≤ Tbl.get 0 s.spares (7 / 64)) ∧
    (∃ s : State, s.fencing = []) ∧ (∃ s : State, s.boot.power ≠ .off ∧ s.fencing ≠ []) ∧
    (linked ⟨[], []⟩ = true ∧ purseOpen State.reset 11 fabricPurse = true ∧ (0xC0_0000_0000 - 8) / 2 ^ 36 = 11) ∧
    0xC0_0000_0000 - 8 + (List.replicate 8 (0 : Byte)).length ≤ 0xC0_0000_0000 :=
  ⟨⟨{ State.reset with ctlDue := 14000, cycle := 14000 }, by decide, by decide, by decide⟩,
    fun b => ⟨State.reset.setCluster 47 { Cluster.reset with sag := b }, by cases b <;> decide⟩, by decide,
    ⟨{ State.reset with testing := [.stackRow 2 5] }, by decide, by decide⟩,
    ⟨{ State.reset with testing := [.stackRow 2 5], errs := [(.stackRow 2 5, ⟨0, 0, 0, 1⟩)] }, by decide, by decide⟩,
    ⟨⟨_, rfl, by decide, by decide, by decide⟩, by decide,
      ⟨{ Boot.reset with power := .recovery, fuse := 3, slotB := some ⟨true, 3, true, 0⟩ }, by decide,
        fun ⟨i, h, _, v, _⟩ => by cases h; exact absurd v (by decide), _, rfl, by decide, by decide, by decide⟩,
      { Boot.reset with slotA := none }, by decide, not_accepted _, not_accepted _⟩,
    ⟨{ State.reset with boot := { Boot.reset with power := .running false } }, by decide, _, rfl⟩,
    ⟨{ State.reset with testing := [.scratchBank 7 2], errs := [(.scratchBank 7 2, ⟨0, 0, 0, 1⟩)] }, by decide, by decide, by decide,
      by decide, rfl, by decide⟩,
    ⟨{ State.reset with spares := [(0, 4)] }, by decide⟩, ⟨State.reset, rfl⟩,
    ⟨{ State.reset with boot := { Boot.reset with power := .running false }, fencing := [7] }, by decide, by decide⟩,
    ⟨by decide, by decide, by decide⟩, by decide⟩

/-- A sequence's descriptor: live region 0x1_2000 of 512 bytes, a ring of four slots at 0x1_2200, its table at 0x1_2A00. -/
def aSequence (valid pins : Byte) : List Byte :=
  leBytes 8 0x1_2000 ++ leBytes 8 512 ++ leBytes 8 0 ++ leBytes 8 0x1_2200 ++ leBytes 8 0x1_2A00 ++ [4, 0, 1, 0, 0, 0, 0, 0]
    ++ leBytes 8 valid.toNat ++ leBytes 8 pins.toNat ++ List.replicate 64 0

/-- A fork block for position 0: regions from 0x1_3000. -/
def aFork : List Byte := leBytes 8 0 ++ leBytes 8 0x1_3000 ++ leBytes 8 0x1_3200 ++ leBytes 8 0x1_3A00 ++ [4]

/-- The head of the state queue of core 0, over that sequence as number 0. -/
def storing (op : CmdOp) (valid pins : Byte) : State :=
  let s := queued (cmd op) (cmd op) (cmd op) (cmd op) id
  let s := s.setCtx 0 { s.ctxAt 0 with sdtb := 0x1_1000 }
  { s with mem := writeBytes (writeBytes s.mem (wordPage + 0x1000) (aSequence valid pins)) (wordPage + 0x1800) aFork }

/-- Whether a command finds its sequence, and a test of what it then has holds. -/
def finds (s : State) (c : Cmd) (k : State → Cmd → SeqDesc → Bool) : Bool :=
  let at_ := (s.ctxAt 0).sdtb
  match readSpan (engineAsks s 0 c 128) (whoCmd s 0 c) at_ 128 with
  | (v, .ok raw) =>
    let d := SeqDesc.of at_ raw
    d.used && d.ok && !dirClash (v.ctxAt 0).dir 0 d.regions &&
      k (dirSet v 0 0 (some d.regions)) { c with copies := [(at_, raw)] } d
  | (_, .error _) => false

theorem sequence_of {s : State} {c : Cmd} {k : State → Cmd → SeqDesc → Bool} (h : finds s c k = true)
    (hc : (s.gridOf c.block).ctx = 0) (hd : (s.ctxAt 0).sdtb = 0x1_1000) (hn : c.copies = []) :
    ∃ u c' d, Sequence s 0 c 0 u c' d ∧ k u c' d = true := by
  unfold finds at h
  rcases hr : readSpan (engineAsks s 0 c 128) (whoCmd s 0 c) (s.ctxAt 0).sdtb 128 with ⟨v, e | raw⟩ <;> simp only [hr] at h
  · exact absurd h (by simp)
  · simp only [Bool.and_eq_true, Bool.not_eq_true'] at h
    obtain ⟨⟨⟨hu, ho⟩, hx⟩, hk⟩ := h
    refine ⟨_, _, _, ⟨raw, v, ?_⟩, hk⟩
    simp only [hc, Nat.mul_zero, BitVec.add_zero]
    exact ⟨by rw [hd]; decide, by rw [hd]; decide, hn, hr, by trivial, hu, ho, hx, by trivial, by trivial⟩

/-- Whether a command reads memory, and a test of what it then has holds. -/
def fetches (s : State) (c : Cmd) (va : Word) (n : Nat) (k : State → List Byte → Bool) : Bool :=
  !isWindow va && match readSpan (engineAsks s 0 c n) (whoCmd s 0 c) va n with
    | (u, .ok bs) => k u bs
    | (_, .error _) => false

theorem fetches_of {s : State} {c : Cmd} {va : Word} {n : Nat} {k : State → List Byte → Bool} (h : fetches s c va n k = true) :
    ∃ bs u, Fetches s 0 c va n bs u ∧ k u bs = true := by
  unfold fetches at h
  simp only [Bool.and_eq_true, Bool.not_eq_true'] at h
  rcases hr : readSpan (engineAsks s 0 c n) (whoCmd s 0 c) va n with ⟨u, e | bs⟩ <;> simp only [hr] at h
  · exact absurd h.2 (by simp)
  · exact ⟨bs, u, ⟨h.1, hr⟩, h.2⟩

/-- Whether a command can copy from memory, and a test of what it then has holds. -/
def sources (s : State) (c : Cmd) (va : Word) (n : Nat) (k : State → List Place → Bool) : Bool :=
  !isWindow va && match span (engineAsks s 0 c n) (whoCmd s 0 c) .read va n with
    | (u, .ok ps) => (ps.all fun x => !lineBad u x.1 x.2.1) && k u (spanWords ps)
    | (_, .error _) => false

theorem sources_of {s : State} {c : Cmd} {va : Word} {n : Nat} {k : State → List Place → Bool} (h : sources s c va n k = true) :
    ∃ ws u, Sources s 0 c va n ws u ∧ k u ws = true := by
  unfold sources at h
  simp only [Bool.and_eq_true, Bool.not_eq_true'] at h
  rcases hr : span (engineAsks s 0 c n) (whoCmd s 0 c) .read va n with ⟨u, e | ps⟩ <;> simp only [hr] at h
  · exact absurd h.2 (by simp)
  · simp only [Bool.and_eq_true, List.all_eq_true, Bool.not_eq_true'] at h
    exact ⟨_, u, ⟨h.1, ps, hr, h.2.1, rfl⟩, h.2.2⟩

/-- Whether a command's writes are all allowed. -/
def writable (s : State) (c : Cmd) (ws : List (Word × List MoveSrc)) : Bool :=
  match probeWrites (whoCmd s 0 c) (ws.foldl (fun t x => engineAsks t 0 c (x.2.map (·.size)).sum) s) ws with
  | (v, .ok ps) => (logShort v (ps.flatMap fun x => spanDirty x.1)).isNone
  | (_, .error _) => false

theorem targets_of {s : State} {c : Cmd} {ws : List (Word × List MoveSrc)} (h : writable s c ws = true) :
    ∃ u ms, Targets s 0 c ws u ms := by
  unfold writable at h
  rcases hr : probeWrites (whoCmd s 0 c) (ws.foldl (fun t x => engineAsks t 0 c (x.2.map (·.size)).sum) s) ws with ⟨v, e | ps⟩ <;> simp only [hr] at h
  · exact absurd h (by simp)
  · exact ⟨_, _, v, ps, hr, ⟨Option.isNone_iff_eq_none.mp h, rfl⟩, rfl⟩

/-- A command of sequence 0 given to the state engine of the domain that homes its live region. -/
def homed (op : CmdOp) : Cmd := { cmd op with home := some 0 }

/-- StateStoreCommands: the command as it comes to start. -/
theorem witness_homed : ∀ op ∈ [CmdOp.ssld 0 0 0x1_3000 512, .ssnap 0 9, .ssroll 0 5, .ssfork 0 1 0x1_1800],
    ∀ valid ∈ [(1 : Byte), 0], ∀ pins ∈ [(0 : Byte), 15],
      (storing op valid pins).asked = [] ∧ (cmd op).homed (storing op valid pins) 0 = homed op := by decide +kernel

/-- StateStoreCommands: SSLD to memory and SSST from it. -/
theorem witness_SSLD : let c := homed (.ssld 0 0 0x1_3000 512)
    ∃ u c' d, Sequence (storing c.op 1 0) 0 c 0 u c' d ∧ 0 + 512 ≤ d.size ∧
      ∃ ws v, Sources u 0 c' d.live 512 ws v ∧ ∃ t ms, Targets v 0 c' [(0x1_3000, ws.map .word)] t ms := by
  obtain ⟨u, c', d, h, k⟩ := sequence_of (s := storing (.ssld 0 0 0x1_3000 512) 1 0) (c := homed (.ssld 0 0 0x1_3000 512))
    (k := fun u c' d => decide (0 + 512 ≤ d.size) && sources u c' d.live 512 fun v ws =>
      writable v c' [(0x1_3000, ws.map .word)])
    (by decide +kernel) (by decide +kernel) (by decide +kernel) rfl
  simp only [Bool.and_eq_true, decide_eq_true_eq] at k
  obtain ⟨ws, v, f, w⟩ := sources_of k.2
  exact ⟨u, c', d, h, k.1, ws, v, f, targets_of w⟩
/-- StateStoreCommands: the window side of SSLD and SSST. -/
theorem witness_SSST_window : let c := cmd (.ssst 0 0 (own 0) 512)
    let s := storing c.op 1 0
    isWindow (own 0) = true ∧ windowOf s 0 0 (own 0) = some (0, 0) ∧ 0 + 512 ≤ (s.blockAt 0).size ∧
    (match partBytes s 0 0 512 with
      | .ok _ => true
      | .error _ => false) = true := by decide +kernel
/-- StateStoreCommands: a started command that has a word still to write, with its work otherwise done. -/
theorem witness_moves : let ms : List Move := [⟨.phys wordPage, .word (.part 0 4)⟩]
    let c := { cmd (.ssdrop 0) with started := true, status := some 0, moves := ms }
    c.started = true ∧ c.moves ≠ [] ∧ c.finished = true := by decide +kernel
/-- R286: a word of the partition is copied to memory as it stands at that moment. -/
theorem test_move : let s := storing (.ssdrop 0) 1 0
    let s := s.setBlock 0 { s.blockAt 0 with scratch := [(4, 1), (7, 9), (8, 5)] }
    readBytes (moveAll s [⟨.phys wordPage, .word (.part 0 4)⟩]).mem wordPage 8 = [1, 0, 0, 9] ++ readBytes s.mem (wordPage + 4) 4 := by
  decide +kernel
/-- StateStoreCommands: SSNAP to slot 0, and where every slot is pinned. -/
theorem witness_SSNAP : (let c := homed (.ssnap 0 9)
    ∃ u c' d, Sequence (storing c.op 1 0) 0 c 0 u c' d ∧ snapSlot d d.depth d.head = some 0 ∧
      ∃ ws v, Sources u 0 c' d.live d.size ws v ∧
        ∃ t ms, Targets v 0 c' [(d.ring, ws.map .word), (d.at_ + 0x30, [.bytes [1]])] t ms) ∧
    ∃ u c' d, Sequence (storing (.ssnap 0 9) 1 15) 0 (homed (.ssnap 0 9)) 0 u c' d ∧ snapSlot d d.depth d.head = none := by
  constructor
  · obtain ⟨u, c', d, h, k⟩ := sequence_of (s := storing (.ssnap 0 9) 1 0) (c := homed (.ssnap 0 9))
      (k := fun u c' d => decide (snapSlot d d.depth d.head = some 0) && sources u c' d.live d.size fun v ws =>
        writable v c' [(d.ring, ws.map .word), (d.at_ + 0x30, [.bytes [1]])])
      (by decide +kernel) (by decide +kernel) (by decide +kernel) rfl
    simp only [Bool.and_eq_true, decide_eq_true_eq] at k
    obtain ⟨ws, v, f, w⟩ := sources_of k.2
    exact ⟨u, c', d, h, k.1, ws, v, f, targets_of w⟩
  · obtain ⟨u, c', d, h, k⟩ := sequence_of (s := storing (.ssnap 0 9) 1 15) (c := homed (.ssnap 0 9))
      (k := fun _ _ d => decide (snapSlot d d.depth d.head = none)) (by decide +kernel) (by decide +kernel) (by decide +kernel) rfl
    exact ⟨u, c', d, h, of_decide_eq_true k⟩
/-- StateStoreCommands: SSROLL to a slot, and where none is at or below the position. -/
theorem witness_SSROLL : ∀ valid ∈ [(1 : Byte), 0], let c := homed (.ssroll 0 5)
    ∃ u c' d, Sequence (storing c.op valid 0) 0 c 0 u c' d ∧ ∃ tab v, Fetches u 0 c' d.slots (16 * d.depth) tab v ∧
      (valid = 1 → bestSlot d tab 5 = some 0) ∧ (valid = 0 → bestSlot d tab 5 = none) := by
  intro valid h
  obtain ⟨u, c', d, h, k⟩ := sequence_of (s := storing (.ssroll 0 5) valid 0) (c := homed (.ssroll 0 5))
    (k := fun u c' d => fetches u c' d.slots (16 * d.depth) fun _ tab =>
      decide ((valid = 1 → bestSlot d tab 5 = some 0) ∧ (valid = 0 → bestSlot d tab 5 = none)))
    (by simp only [List.mem_cons, List.not_mem_nil, or_false] at h; rcases h with rfl | rfl <;> decide +kernel)
    (by simp only [List.mem_cons, List.not_mem_nil, or_false] at h; rcases h with rfl | rfl <;> decide +kernel)
    (by simp only [List.mem_cons, List.not_mem_nil, or_false] at h; rcases h with rfl | rfl <;> decide +kernel) rfl
  obtain ⟨tab, v, f, w⟩ := fetches_of k
  exact ⟨u, c', d, h, tab, v, f, of_decide_eq_true w⟩
/-- StateStoreCommands: SSFORK of slot 0 to sequence 1, which is not in use: its block and its regions. -/
theorem witness_SSFORK : let c := homed (.ssfork 0 1 0x1_1800)
    ∃ u c' d, Sequence (storing c.op 1 0) 0 c 0 u c' d ∧ ∃ raw2 v, Fetches u 0 c' 0x1_1080 128 raw2 v ∧
      (SeqDesc.of 0x1_1080 raw2).used = false ∧ reservedOk raw2 = true ∧
      ∃ fb x, Fetches v 0 c' 0x1_1800 64 fb x ∧ zeroBytes fb 0x21 31 = true ∧
        layoutOk (fieldWord fb 0x08) d.size (fieldWord fb 0x10) (fieldWord fb 0x18) (fieldNat fb 0x20 1) 0 = true ∧
        dirClash (x.ctxAt 0).dir 1 (regionsOf (fieldWord fb 0x08) d.size (fieldWord fb 0x10) (fieldWord fb 0x18) (fieldNat fb 0x20 1)) =
          false := by
  obtain ⟨u, c', d, h, k⟩ := sequence_of (s := storing (.ssfork 0 1 0x1_1800) 1 0) (c := homed (.ssfork 0 1 0x1_1800))
    (k := fun u c' d => fetches u c' 0x1_1080 128 fun v raw2 =>
      decide ((SeqDesc.of 0x1_1080 raw2).used = false ∧ reservedOk raw2 = true) && fetches v c' 0x1_1800 64 fun x fb =>
        decide (zeroBytes fb 0x21 31 = true ∧
          layoutOk (fieldWord fb 0x08) d.size (fieldWord fb 0x10) (fieldWord fb 0x18) (fieldNat fb 0x20 1) 0 = true ∧
          dirClash (x.ctxAt 0).dir 1 (regionsOf (fieldWord fb 0x08) d.size (fieldWord fb 0x10) (fieldWord fb 0x18)
            (fieldNat fb 0x20 1)) = false))
    (by decide +kernel) (by decide +kernel) (by decide +kernel) rfl
  obtain ⟨raw2, v, f, w⟩ := fetches_of k
  simp only [Bool.and_eq_true] at w
  obtain ⟨fb, x, g, z⟩ := fetches_of w.2
  exact ⟨u, c', d, h, raw2, v, f, (of_decide_eq_true w.1).1, (of_decide_eq_true w.1).2, fb, x, g, of_decide_eq_true z⟩
/-- StateStoreCommands: no other core at work on the sequence; a home domain's purse that has the slots, one left of those
asked for, and none. -/
theorem witness_ssPurse : ∀ x ∈ [((4 : BitVec 16), 0), (1, 0), (1, 1)], let c := cmd (.ssroll 0 5)
    let s := storing c.op 0 0
    let d : Domain := { Domain.reset with active := Vector.replicate 6 x.1, spent := Vector.replicate 6 x.2 }
    let s := { s with domains := (List.range 12).map fun k => (k, d) }
    seqBusy s 0 c = false ∧ homeDomain s 0 c 0x1_2000 < 12 ∧
      ∃ u, (cmdStart s 0 (c.homed s 0)).state = some u ∧ Tbl.get 0 u.asked 2 = 2 ∧
        billOpen s (owed u.asked c.drawn) = decide (x.1 = 4) ∧
        (drawOwed s (owed u.asked c.drawn) c.drawn).isNone = decide (x.2 = 1) := by
  intro x h
  simp only [List.mem_cons, List.not_mem_nil, or_false] at h
  rcases h with rfl | rfl | rfl <;> exact ⟨by decide +kernel, by decide +kernel, some_of (by decide +kernel)⟩

/-! ### Witnesses: clauses of more than one case -/

/-- PhasesAndWaves: the end of a cycle at which a barrier of a resident block meets its marks, a warp waiting; one whose
marks are not met; of the warps of a wave one that goes on and one that an asynchronous cause has ended the wait of. -/
theorem witness_phases :
    (let s := { barred ⟨2, 3, 0, 7, false⟩ (fun w => { w with wait := .barrier 3 7 true }) with agenda := [.tick] }
     s.inbox = [] ∧ s.agenda = [.tick] ∧ s.toSave = [] ∧ s.fencing = [] ∧ (s.blockAt 0).live = true ∧
     meetsMarks ((s.blockAt 0).bar 3) ∧ ¬ meetsMarks ((s.blockAt 0).bar 4) ∧
     0 < ((s.blockAt 0).bar 3).arrived.toNat / ((s.blockAt 0).bar 3).expected.toNat ∧ (s.warpAt 0).block = 0 ∧
     (s.warpAt 0).stat ≠ .absent ∧
     (s.warpAt 0).wait = .barrier (3 : BitVec 4).toNat (((s.blockAt 0).bar 3).phase + BitVec.ofNat 16 0) true) ∧
    ∀ x ∈ [(([] : List (BitVec 8 × Word)), false), ([(0x88, 0)], true), ([(0x88, 0)], false)],
      let s := (scalar fun w => { w with wait := .released true, async := x.1, sup := x.2 }).setCore 0
        { Core.reset with relList := [0] }
      (0 ∈ (s.coreAt 0).relList.take 1 ∧ ((s.warpAt 0).async = [] ∨ (s.warpAt 0).sup = true ↔ x ≠ ([(0x88, 0)], false))) := by
  unfold meetsMarks; decide +kernel
/-- Barriers: a SYNC whose wait has passed. -/
theorem witness_passed : ∀ sync, let s := barred ⟨2, 1, 0, 0, false⟩ fun w => { w with wait := .passed sync }
    ReadyToClose s [] ∧ s.me.wait = .passed sync := by
  intro sync
  cases sync <;> exact ⟨⟨⟨by decide, by decide⟩, by decide, by decide⟩, by rfl⟩
/-- CausesMet: a handler that may issue. -/
theorem witness_handlerWord : let s := scalar fun w => { w with sup := true }
    canRun s = true ∧ s.me.sup = true := by decide
/-- TlbWords: numbers of no virtual function, in either mode. -/
theorem witness_tlbiGpa : (∀ sup, let s := scalar fun w => { regs [0, 65] w with sup := sup }
      Ready s [1, 2] ∧ s.me.sup = sup ∧ (s.sreg 2).toNat = 65) ∧
    (0 : Word).toNat % 128 = 0 ∧ (128 : Word).toNat % 128 = 0 ∧ 64 < (65 : Word).toNat % 128 :=
  ⟨fun sup => by cases sup <;> exact ⟨⟨by decide, by decide⟩, by decide, by decide⟩, by decide⟩
/-- Regrouping: of two waiting warps that fit, both are named. -/
theorem witness_fits : let s := partnered.setWarp 2 { partnered.warpAt 1 with wid := 5, async := [(0x88, 0)], sup := true }
    (∀ j ∈ [1, 2], (j, s.warpAt j) ∈ s.warps ∧ j ≠ s.cur ∧ (s.warpAt j).block = s.me.block ∧ (s.warpAt j).stat ≠ .absent ∧
      (s.warpAt j).pc = s.me.pc ∧ (s.warpAt j).wait = .regroup 0 8 3 ∧ s.cycle < 0 + 256 ∧
      ((s.warpAt j).async = [] ∨ (s.warpAt j).sup = true) ∧ popBits (s.warpAt j).exm + popBits s.me.exm ≤ 32) ∧
    regroupPartner s s.cur = some 1 := by decide +kernel

/-- A warp with the registers of a command word, its core's queues full or not. -/
def commanding (xs : List Word) (full : Bool) : State :=
  let s := scalar (regs xs)
  let q := fun (n : Nat) => if full then List.replicate n (cmd (.mxz 1 0)) else []
  let s := s.setCore 0 { s.coreAt 0 with copyQ := q 32, matrixQ := q 32, stateQ := q 16 }
  { s with grids := s.grids.map fun g => { g with record := { g.record with fmts := #v[0, 1, 3, 4, 0, 0, 0, 0] } } }

/-- CommandWords: room in the queues and none. -/
theorem witness_queueRoom : ∀ full, let s := commanding [own 0x80, 0x4000, 1] full
    ReadyToClose s [1, 2, 3] ∧ ∀ q ∈ [0, 1, 2], queueRoom s (coreOf s.cur) q = !full := by
  intro full
  cases full <;> exact ⟨⟨⟨by decide, by decide⟩, by decide, by decide⟩, by decide⟩
/-- CommandWords: each check at issue that fails, at the values where it begins to. -/
theorem witness_commandChecks :
    (cwOk true 6 = false ∧ cwOk true 0x4000_0000_0000_0000 = false ∧ cwOk true 0x3FFF_FFFF_FFFF_FFF5 = true ∧
      cwOk false 0x0100_0000_0000_0000 = false ∧ cwOk false 0x00FF_FFFF_FFFF_FFF5 = true) ∧
    (isWindow (own 0) = true ∧ isWindow 0x4000 = false ∧ addrClass (0x4000 : Word) = .translated) ∧
    (cwOk true 0x0100_0000_0000_0001 = true ∧ cwMc 0x0100_0000_0000_0001 = true ∧
      isWindow 0xFD00_0000_0008_0000 = true ∧ ∀ off, addrClass (0xFD00_0000_0008_0000 : Word) ≠ .own off) ∧
    ((own 0x81).toNat % 128 ≠ 0 ∧ (own 0x80).toNat % 128 = 0 ∧ (own 0x81).toNat % 16 ≠ 0 ∧ (own 0x81).toNat % 4 ≠ 0) ∧
    (let r := (commanding [] false).myGrid.record
     fmtElem (r.fmts[2]) = 3 ∧ fmtElem (r.fmts[3]) = 4 ∧ fmtElem (r.fmts[0]) = 0 ∧ fmtElem (r.fmts[1]) = 1) ∧
    (32 ≤ (31 : BitVec 5).toNat + (1 : BitVec 3).toNat ∧ (31 : BitVec 5).toNat + (0 : BitVec 3).toNat < 32) ∧
    ¬ ((0x1_0001 : Word).toNat < 65536) ∧ (0x1_0001 : Word).toNat % 65536 = (0x1_0001 : Word).toNat / 65536 :=
  ⟨by decide, by decide, ⟨by decide, by decide, by decide, fun _ h => by simp [addrClass] at h⟩, by decide, by decide,
    by decide, by decide⟩
/-- CommandWords: an absent format in a handler, and in user mode with a save area. -/
theorem witness_absents : (∀ sup, let s := { commanding [own 0x80] false with mem := (trapReady id).mem }
      let s := s.setMe { s.me with sup := sup }
      ReadyToClose s [1] ∧ s.me.sup = sup) ∧
    let s := { (commanding [own 0x80] false).setCtx 0 ((trapReady id).ctxAt 0) with mem := (trapReady id).mem }
    let c := { commandOf s (.mxb 1 3 2) (.mxb (s.sreg 1) 3 2) (s.sreg 1) 0 0 1 0 with emul := true }
    let x := s.coreAt (coreOf s.cur)
    let v := trapping { s.setCore (coreOf s.cur) (x.setQueue 1 (x.queue 1 ++ [c])) with seq := s.seq + 1 } cFMT_ABSENT
    let r := resumption s (.plain cFMT_ABSENT) s.me.pc
    ReadyToClose s [1] ∧ TakesNow s ∧
    ∃ u, writeSpan v ⟨coreOf s.cur, s.myCtx, s.me.block, true, some s.me.ctxid, false⟩ r.area (trapBytes s.me r true false) =
      (u, .ok ()) :=
  ⟨fun sup => by cases sup <;> exact ⟨⟨⟨by decide, by decide⟩, by decide, by decide⟩, by decide⟩,
    ⟨⟨by decide, by decide⟩, by decide, by decide⟩, ⟨by decide, by decide, by decide, by decide, by decide⟩, _, rfl⟩

/-- LaneAddResult: source operands of each kind: an immediate, the zero port, an operand register, both last results, a
held pop of a queue and its entry, a name of the main file. -/
theorem witness_sources : let e : DqEntry := ⟨Vector.replicate 32 7, none⟩
    let s := working id
    let held := { s.me with held := [(2, e)] }
    let entry := { s.me with dq := s.me.dq.set 1 { s.me.dq[1] with entries := [e] } }
    (∃ x, sourceIs s every s.me (.imm 5) x s.me) ∧ (∃ x, sourceIs s every s.me (.op .zero) x s.me) ∧
    (∃ x, sourceIs s every s.me (.op (.o 7)) x s.me) ∧ (∀ i, ∃ x, sourceIs s every s.me (.op (.l i)) x s.me) ∧
    (∃ x u, sourceIs s every held (.op (.dq 2)) x u) ∧ (∃ x u, sourceIs s every entry (.op (.dq 1)) x u) ∧
    (∃ x, sourceIs s every s.me (.op (.v 63)) x s.me) ∧ (Instr.vadd (ty 0) (.v 63) (.v 63) (.imm 5)).wf = true :=
  ⟨⟨_, rfl, rfl⟩, ⟨_, rfl, rfl⟩, ⟨_, rfl, rfl⟩, fun _ => ⟨_, rfl, rfl⟩, ⟨_, _, .inl ⟨[], [], rfl, nofun, rfl⟩⟩,
    ⟨_, _, .inr ⟨nofun, [], rfl, rfl⟩⟩, ⟨_, rfl, .inl ⟨by decide, by decide, rfl⟩⟩, by decide⟩

/-- Stroke 1 of a crew of windows of four names, two of them new, about to issue a lane word; `n` strokes launched and
the lanes of a mask present in slot 0, which is its name of distance 1. -/
def windowed (n : Nat) (pres : Mask) : State :=
  let s := working fun w => { w with stroke := some (0, 1) }
  s.setCrew 0 { Crew.absent with
    live := true, next := n, record := { CrewRec.none with regs8 := 8, s := 2, w := 4 }, pres := [(0, pres)]
    strokes := [⟨0, 0, true, false, false, false⟩, ⟨1, 0, true, false, false, false⟩] }
/-- LaneAddResult: the host's window name; names of a stroke's window, present, absent and overtaken by a later stroke;
an empty queue that a stream fills. -/
theorem witness_windowNames :
    (∃ x, sourceIs (working id) every (working id).me (.op (.v 256)) x (working id).me) ∧
    (∀ y ∈ [(2, every), (3, (0 : Mask))], ∃ x, sourceIs (windowed y.1 y.2) every (windowed y.1 y.2).me (.op (.v 258)) x
      (windowed y.1 y.2).me) ∧
    (let s := windowed 2 1
     let r := (s.crewAt 0).record
     s.me.stroke = some (0, 1) ∧ (recordOf s s.me).crew = true ∧ 2 < r.w ∧ r.s ≤ 2 ∧
     ((s.crewAt 0).next : Int) ≤ (1 : Int) - (2 / r.s : Nat) + (r.w / r.s : Nat) ∧
     every &&& ~~~(Tbl.get 0 (s.crewAt 0).pres ((((2 : Int) - (1 : Int) * r.s) % r.w).toNat)) ≠ 0 ∧
     canRun s = true ∧ s.me.laneBlock = some aBlock ∧ s.me.inflight = [] ∧ s.me.reads = [] ∧ aBlock.mask s.me = every) ∧
    let st : Stream := ⟨0, 0, 0, 0, 0, false, 0⟩
    let s := working fun w => { w with dq := w.dq.set 0 ⟨[], some st⟩ }
    (∀ y ∈ s.me.held, y.1 ≠ (0 : BitVec 2).toNat) ∧ s.me.dq[(0 : BitVec 2).toNat] = ⟨[], some st⟩ := by
  refine ⟨⟨_, rfl, .inr ⟨by decide, by decide, .inl ⟨by decide, by decide, rfl⟩⟩⟩, fun y h => ?_, by decide, nofun, rfl⟩
  simp only [List.mem_cons, List.not_mem_nil, or_false] at h
  rcases h with rfl | rfl
  · exact ⟨_, rfl, .inr ⟨by decide, by decide, .inr ⟨0, 1, by decide, by decide, rfl, .inl (by decide)⟩⟩⟩
  · exact ⟨_, rfl, .inr ⟨by decide, by decide, .inr ⟨0, 1, by decide, by decide, rfl, .inr ⟨by decide, by decide⟩⟩⟩⟩

/-- Hypervectors, LaneMemory: HNEAR and TIDX in a stroke that holds a fence. -/
theorem witness_fencedReads : let s := (working fun w => { w with stroke := some (0, 1) }).setCrew 0 (fenced.crewAt 0)
    let st := started s (ty 0) aBlock every every
    LaneActs s (ty 0) aBlock every every ∧ (recordOf s s.me).hv = true ∧ fenceHeld s s.me = true ∧
    (∃ x t, Got (do
      let dst ← prepare false (.v 3)
      let x ← readE false (.v 1)
      let n ← readB false (.imm 4)
      let q ← readHv 1
      pure (dst, x, n, q)) st x t) ∧
    ∃ x t, Got (do let dst ← prepare false (.v 3); let x ← readE false (.v 1); sync; pure (dst, x)) st x t :=
  ⟨⟨by decide, by decide, by decide, by decide, by decide, ⟨_, ⟨rfl, rfl, rfl, rfl⟩, by decide⟩, rfl⟩, by decide, by decide,
    ⟨_, _, rfl, rfl, rfl, rfl⟩, _, _, rfl, rfl, rfl, rfl⟩
/-- StateStoreCommands: a live region that a stack holds, its descriptor read and its base translated. -/
theorem witness_home : let s := storing (.ssdrop 0) 1 0
    let who : Who := ⟨walkerHolder (domainOf 0), (s.gridOf 0).ctx, 0, (cmd (.ssdrop 0)).sup, none, cmdDeaf s 0⟩
    (match readSpan s who 0x1_1000 128 with
      | (_, .ok raw) => (match (translate s who .read (fieldWord raw 0)).2 with
        | .ok (pa, _) => decide (paRange pa = .stack 0)
        | .error _ => false)
      | (_, .error _) => false) = true ∧ (s.ctxAt 0).sdtb = 0x1_1000 ∧
    paRange 0x8_0000_0000_0000 = .host := by decide +kernel

/-- SaveSteps: a block to start again that no saved block goes before, the pool full. -/
theorem witness_lowest : let s := { crowdedGrid with saved := [{ aSaved with block := { aSaved.block with idx := 3 } }] }
    (s.gridAt 0).fresh = [0] ∧ (s.gridAt 0).done = false ∧ predReady s 0 = true ∧
    poolClusters s (s.gridAt 0).record.cls ≠ [] ∧
    (∀ x ∈ s.saved, x.block.grid = 0 → x.eligible = true → 0 ≤ x.block.idx) ∧ (placeGang s 0 [0]).isNone = true ∧
    clusterOrder s (s.gridAt 0).ctx (s.gridAt 0).record ≠ [] ∧ (placeGang { s with blocks := [] } 0 [0]).isSome = true := by
  decide +kernel
/-- SaveSteps: the same block where a class change is pending in its domain, which takes no block: no room is made for it. -/
theorem witness_lowestPending : let s := crowdedGrid.setDomain 0 { crowdedGrid.domainAt 0 with pend := some 0 }
    (s.gridAt 0).fresh = [0] ∧ poolClusters s (s.gridAt 0).record.cls ≠ [] ∧ (placeGang s 0 [0]).isNone = true ∧
    clusterOrder s (s.gridAt 0).ctx (s.gridAt 0).record = [] := by decide +kernel
/-- SaveSteps: a saved block below the lowest that has not started. -/
theorem witness_savedLowest : let s := savedReady 7
    aSaved ∈ s.saved ∧ aSaved.block.grid = 0 ∧ aSaved.eligible = true ∧ aSaved.block.idx < (s.gridAt 0).lowest ∧
    savedFirst s 0 = true ∧ (lowerBlock s 0).isSome = true ∧ lowerFirst s aSaved = false ∧
    ∀ y ∈ savedGang s aSaved, y.eligible = true ∧ headerAgrees s y = some true := by decide +kernel
/-- The second block of a gang, saved in the next frame. -/
def aSecond : Saved := { aSaved with frame := 1, block := { aSaved.block with idx := 1 } }

/-- Both of them saved, the second frame under another identifier. -/
def gangSaved : State :=
  let s := savedReady 7
  { s with
    grids := s.grids.map fun g => { g with record := { g.record with gang := 2, blocks := 2 } }
    saved := [aSaved, aSecond]
    mem := writeBytes s.mem (wordPage + 0x2008) (leBytes 4 2 ++ leBytes 4 0 ++ [3]) }

/-- SaveSteps: a saved gang of two blocks, the second under another identifier. -/
theorem witness_gang : savedAt gangSaved 0 0 = some aSaved ∧ admitted gangSaved 0 = true ∧ lowerFirst gangSaved aSaved = false ∧
    savedGang gangSaved aSaved = [aSaved] ++ aSecond :: [] ∧ (∀ z ∈ savedGang gangSaved aSaved, z.eligible = true) := by
  decide +kernel
theorem witness_gangHeaders : headerAgrees gangSaved aSaved = some true ∧ headerAgrees gangSaved aSecond = some false := by
  decide +kernel
theorem witness_gangKill : (killSaved gangSaved aSecond).isSome = true := by decide +kernel

/-- RegisterSteps: values of DLCONS that leave less in the ring, as much as it holds and more; a writer of it saved. -/
theorem witness_dlcons : let f := fullLog.fnAt 3
    (f.prod = 600 ∧ f.cons = 88 ∧ f.ringSize = some 512) ∧
    ((89 : BitVec 32) ≠ 88 ∧ (600 - (89 : BitVec 32)).toNat ≤ 512 ∧ 600 - 89 < (600 : BitVec 32) - 88) ∧
    ((600 : BitVec 32) ≠ 88 ∧ (600 - (600 : BitVec 32)).toNat ≤ 512 ∧ 600 - 600 < (600 : BitVec 32) - 88) ∧
    (512 : Nat) < (600 - (87 : BitVec 32)).toNat := by decide +kernel
theorem witness_dlcons_full : let f : Fn := { Fn.reset with en := true, dlsize := 512, prod := 600, cons := 500 }
    f.prod - f.cons < f.prod - 88 ∧ (f.prod - 88).toNat ≤ 512 ∧ ({ f with cons := 88 } : Fn).ring = some (512, 512) ∧
    f.full = false := by decide +kernel
/-- RegisterSteps: writers that resume one after another: the last one's word not yet issued, issued with room in the ring,
and issued with none. -/
theorem witness_drainLog : ∀ x ∈ [((0 : BitVec 64), (88 : BitVec 32)), (1, 88), (1, 89)],
    let s := scalar fun w => { w with iret := x.1 }
    let f : Fn := { Fn.reset with en := true, dlsize := 512, prod := 600, cons := x.2, parked := [5], waking := some (0, 0), drains := true }
    f.drains = true ∧ f.parked = 5 :: [] ∧ f.awaits s = decide (x.1 = 0) ∧ f.isFull = decide (x.2 = 88) := by
  intro x h
  simp only [List.mem_cons, List.not_mem_nil, or_false] at h
  rcases h with rfl | rfl | rfl <;> decide +kernel
theorem witness_dlcons_saved : let w := { Warp.absent with parked := some (.dirtyLog 3, stalledAt) }
    let x := { aSaved with warps := [(0, w)] }
    x ∈ ({ fullLog with saved := [x] } : State).saved ∧ (0, w) ∈ x.warps := ⟨.head _, .head _⟩

/-- PlatformSteps: the copies that wait for the fabric purse: none, one that the period's slots complete, one that they do not,
one that has drawn all. -/
theorem witness_dma : ∀ x ∈ [(1024, 0, (1 : BitVec 16)), (1024, 1, 1), (1024, 2, 1), (1024, 0, 2), (1024, 0, 0xFFFF)],
    let d : Dma := ⟨0x5000, List.replicate x.1 0, x.1, x.2.1⟩
    let s := { State.reset with dma := [d] }.setDomain 0 { Domain.reset with purse := Vector.replicate 6 x.2.2 }
    s.purseDue ≤ s.cycle ∧ s.dma = [d] ∧ d.pa < 0xC0_0000_0000 ∧ (s.domainAt (d.pa / 2 ^ 36)).purse[5] = x.2.2 ∧
    (bursts d.len - d.drawn = 0 ∨ x.2.2 = 0xFFFF ∨ bursts d.len - d.drawn ≤ max 1 x.2.2.toNat ↔ x ≠ (1024, 0, 1)) := by
  decide +kernel
/-- PlatformSteps: a peer's copy, the purse with the slots and without. -/
theorem witness_copy : ∀ x ∈ [(512, true), (513, false)],
    let s := State.reset.setDomain 0 { Domain.reset with active := Vector.replicate 6 1 }
    linked s.fabric = true ∧ s.dma = [] ∧ 0 + (List.replicate x.1 (0 : Byte)).length ≤ 0xC0_0000_0000 ∧
    purseTakes s (0 / 2 ^ 36) fabricPurse (bursts (List.replicate x.1 (0 : Byte)).length) = x.2 := by decide +kernel

/-- LaneFrame: a window name whose group of rows is not taken yet, with rows left for it; an immediate takes none. -/
theorem witness_rows : let st := started (working fun w => { w with win := 0, groups := [] }) (ty 0) aBlock every every
    (match (nameTarget 256).run st with
      | .ok (_, u) => u.rows == [0] && (match settle.run u with
        | .ok (_, v) => v.rows == [0]
        | .error _ => false)
      | .error _ => false) = true ∧ (if st.zero then st.act else st.e) ≠ 0 ∧ 8 ≤ freeRows st.s (coreOf st.s.cur) := by
  decide +kernel
/-- FirmwareAnswers: an emulated MXB from another core's partition, whose slots the period has and has not. -/
theorem witness_emulatedMxb : ∀ x ∈ [((16 : BitVec 16), 0), (1, 0), (1, 1)],
    let c := { cmd (.mxb 0xFD00_0000_0008_0000 3 1) with emul := true }
    let s := engines c.op (Vector.replicate 6 x.2)
    let s := s.setDomain 0 { s.domainAt 0 with active := Vector.replicate 6 x.1 }
    let s := (s.setCore 0 { s.coreAt 0 with matrixQ := [c] }).setWarp 0 { s.warpAt 0 with parked := some (.format, aTrap) }
    headCmd s (coreOf 0) 1 = some c ∧ (s.warpAt 0).parked = some (.format, aTrap) ∧ joinsOpen s (coreOf 0) 1 c.seq = true ∧
    ∃ u, (cmdStart { s with asked := [] } (coreOf 0) { c with emul := false }).state = some u ∧
      billOpen s (owed u.asked c.drawn) = decide (x.1 = 16) ∧
      (drawOwed s (owed u.asked c.drawn) c.drawn).isSome = decide (x.2 = 0) := by
  intro x h
  simp only [List.mem_cons, List.not_mem_nil, or_false] at h
  rcases h with rfl | rfl | rfl <;>
    exact ⟨by decide +kernel, by decide +kernel, by decide +kernel, some_of (by decide +kernel)⟩
/-- RegisterSteps: offsets within a register, a listed one's and others'. -/
theorem witness_offsets : (0x30_0004 : BitVec 52).toNat % 8 ≠ 0 ∧ (0x30_0001 : BitVec 52).toNat % 8 ≠ 0 ∧
    (0x20_0004 : BitVec 52).toNat % 8 ≠ 0 := by decide

/-- R42, R87: the bytes that a stroke's word reads of memory, a TIDX's shape record as well: of its own held store where it
has stored, memory's elsewhere; and what memory holds meanwhile. -/
theorem test_see_own_store : let s := fenced.setCrew 0 { fenced.crewAt 0 with held := [⟨1, [(.phys (wordPage + 0x801), 9)], [], 1, [], false⟩] }
    let gave := fun (x : State × Except PartErr (List Byte)) (bs : List Byte) => match x.2 with
      | .ok ys => ys == bs
      | .error _ => false
    gave (seeSpan s.me s (whoOf s s.cur s.me) (wordVa + 0x800) 3) [0, 9, 0] = true ∧
    gave (readSpan s (whoOf s s.cur s.me) (wordVa + 0x800) 3) [0, 0, 0] = true := by decide +kernel

end Sys2Proof.Tests
end

section
/-!
PROOFS. Entries and pages of memory: what an 8-byte entry reads after its write, and a page as storage keeps it.
-/
namespace Sys2Proof.Machine

@[simp] theorem length_leBytes (n : Nat) : ∀ v, (leBytes n v).length = n := by
  induction n with
  | zero => exact fun _ => rfl
  | succ n ih => exact fun v => congrArg (· + 1) (ih (v / 256))

/-- The little-endian bytes of a value give it back, modulo what they can hold (R5). -/
theorem leNat_leBytes (n : Nat) : ∀ v, leNat (leBytes n v) = v % 256 ^ n := by
  induction n with
  | zero => exact fun v => (Nat.mod_one v).symm
  | succ n ih =>
    intro v
    calc leNat (leBytes (n + 1) v)
        = v % 256 + 256 * (v / 256 % 256 ^ n) := by rw [leBytes, leNat, ih, BitVec.toNat_ofNat]
      _ = v % (256 * 256 ^ n) := Nat.mod_mul.symm
      _ = v % 256 ^ (n + 1) := by rw [Nat.pow_succ']

@[simp] theorem readEntry_writeBytes_same (m : Tbl Byte) (pa : Nat) (e : Word) :
    readEntry (writeBytes m pa (leBytes 8 e.toNat)) pa = e := by
  have hread : readBytes (writeBytes m pa (leBytes 8 e.toNat)) pa 8 = leBytes 8 e.toNat := by
    simpa using readBytes_writeBytes_same m pa (leBytes 8 e.toNat)
  rw [readEntry, hread, leNat_leBytes, Nat.mod_eq_of_lt (show e.toNat < 256 ^ 8 from e.isLt), BitVec.ofNat_toNat,
    BitVec.setWidth_eq]

theorem readPhys_writeEntry_outside (m : Tbl Byte) {pa at_ : Nat} (v : Nat) (h : pa < at_ ∨ at_ + 8 ≤ pa) :
    readPhys (writeBytes m at_ (leBytes 8 v)) pa = readPhys m pa :=
  readPhys_writeBytes_outside m pa at_ _ (by simpa using h)

/-- A key below those of a table in canonical form reads as the default. -/
theorem readPhys_of_wfFrom {m : Tbl Byte} {k j : Nat} (h : Tbl.wfFrom emptyByte (some k) m = true) (hj : j ≤ k) :
    readPhys m j = emptyByte := by
  cases m with
  | nil => rfl
  | cons e r =>
    obtain ⟨i, x⟩ := e
    have hi : k < i := ((Tbl.wfFrom_cons ..).mp h).1 k rfl
    rw [readPhys, Tbl.get, if_neg (by omega), if_neg (by omega)]

theorem get_pageImage_of_wfFrom (pa : Nat) {n i : Nat} (hi : i < n) :
    ∀ (m : Tbl Byte) (lo : Option Nat), Tbl.wfFrom emptyByte lo m = true →
      Tbl.get 0 (pageImage m pa n) i = readPhys m (pa + i) := by
  intro m
  induction m with
  | nil => exact fun _ _ => rfl
  | cons e r ih =>
    obtain ⟨j, x⟩ := e
    intro lo hm
    obtain ⟨-, -, hr⟩ := (Tbl.wfFrom_cons ..).mp hm
    have ih := ih _ hr
    by_cases hin : pa ≤ j ∧ j < pa + n
    · have himg : pageImage ((j, x) :: r) pa n = (j - pa, x) :: pageImage r pa n := by
        simp [pageImage, hin]
      simp only [himg, Tbl.get, readPhys, ih, show j - pa < i ↔ j < pa + i by omega,
        show j - pa = i ↔ j = pa + i by omega]
      rfl
    · have himg : pageImage ((j, x) :: r) pa n = pageImage r pa n := by
        rw [pageImage, List.filter_cons_of_neg (by simpa using hin), ← pageImage]
      rw [himg, ih]
      by_cases hlt : j < pa + i
      · simp [readPhys, Tbl.get, hlt]
      · rw [readPhys_of_wfFrom hr (by omega), readPhys, Tbl.get, if_neg hlt, if_neg (by omega)]

/-- A page as storage keeps it has the bytes that memory had (R80). -/
theorem get_pageImage {m : Tbl Byte} (hm : Memory.wf m = true) (pa : Nat) {n i : Nat} (hi : i < n) :
    Tbl.get 0 (pageImage m pa n) i = readPhys m (pa + i) :=
  get_pageImage_of_wfFrom pa hi m none hm

end Sys2Proof.Machine
end

section
/-!
PROOFS. QRESET: the entries of the queues it names, and of the others (R113).
-/
namespace Sys2Proof.Machine

theorem tqGet_tqPut (s : State) (c x c' z : Nat) (es : List (BitVec 256)) :
    tqGet (tqPut s c x es) c' z = if c' = c ∧ z = x then es else tqGet s c' z := by
  by_cases hc : c' = c
  · subst hc
    by_cases hz : z = x
    · simp [tqGet, tqPut, hz]
    · simp [tqGet, tqPut, hz]
  · simp [tqGet, tqPut, hc]

/-- Emptying a queue of some contexts empties it in those, and no other queue. -/
theorem tqGet_emptied (x c z : Nat) : ∀ (cs : List Nat) (s : State),
    tqGet (cs.foldl (fun s c => tqPut s c x []) s) c z = if c ∈ cs ∧ z = x then [] else tqGet s c z := by
  intro cs
  induction cs with
  | nil => exact fun _ => (if_neg fun h => List.not_mem_nil h.1).symm
  | cons d cs ih =>
    intro s
    rw [List.foldl_cons, ih, tqGet_tqPut]
    by_cases hz : z = x <;> by_cases hd : c = d <;> simp [hz, hd]

theorem emptied_frame (x : Nat) : ∀ (cs : List Nat) (s : State),
    (cs.foldl (fun s c => tqPut s c x []) s).mem = s.mem ∧
    (cs.foldl (fun s c => tqPut s c x []) s).warps = s.warps := by
  intro cs
  induction cs with
  | nil => exact fun _ => ⟨rfl, rfl⟩
  | cons d cs ih => exact fun s => ih (tqPut s d x [])

/-- The contexts whose queue a QRESET of a value resets. -/
def resetContexts (s : State) (value : Word) : List Nat :=
  (s.ctxs.filter fun e => e.2.live && e.2.ctxid == value.extractLsb' 16 16).map (·.1)

theorem mem_resetContexts {s : State} {value : Word} {c : Nat} : c ∈ resetContexts s value ↔
    ∃ e ∈ s.ctxs, e.1 = c ∧ e.2.live = true ∧ e.2.ctxid = value.extractLsb' 16 16 := by
  simp only [resetContexts, List.mem_map, List.mem_filter, Bool.and_eq_true, beq_iff_eq]
  exact ⟨fun ⟨e, ⟨he, hn⟩, hc⟩ => ⟨e, he, hc, hn⟩, fun ⟨e, he, hc, hn⟩ => ⟨e, ⟨he, hn⟩, hc⟩⟩

/-- QRESET empties a queue in the contexts with the identifier; a queue lies in no memory and no warp. -/
theorem execQreset_next (s : State) (value : Word) : ∃ t, execQreset value s = .next t ∧
    t.mem = s.mem ∧ t.warps = s.warps ∧ ∀ c z, tqGet t c z =
      if c ∈ resetContexts s value ∧ z = value.toNat % 65536 then [] else tqGet s c z := by
  have hx : (value.extractLsb' 0 16 : BitVec 16).toNat = value.toNat % 65536 := by
    rw [BitVec.extractLsb'_toNat, Nat.shiftRight_zero]
  obtain ⟨hmem, hwarps⟩ := emptied_frame (value.toNat % 65536) (resetContexts s value) s
  refine ⟨_, rfl, ?_, ?_, fun c z => ?_⟩
  · rw [hx]; exact hmem
  · rw [hx]; exact hwarps
  · rw [hx]; exact tqGet_emptied _ c z (resetContexts s value) s

end Sys2Proof.Machine
end

section
/-!
PROOFS. A function's dirty log: a write of its registers, its writers that resume, the two cases of DLCONS (R116).
-/
namespace Sys2Proof.Machine

/-- A write of a function's registers changes that function, FULL when its ring becomes full, and the messages. -/
@[simp] theorem putRing_warps (s : State) (vf : Nat) (f : Fn) : (putRing s vf f).warps = s.warps := by
  unfold putRing
  split <;> rfl
@[simp] theorem fnAt_putRing (s : State) (vf : Nat) (f : Fn) : (putRing s vf f).fnAt vf =
    { f with full := f.full || (f.isFull && !(s.fnAt vf).isFull) } := by
  unfold putRing
  split
  · rename_i h
    rw [h, Bool.or_true]
    exact State.fnAt_setFn_same ..
  · rename_i h
    rw [Bool.eq_false_of_not_eq_true h, Bool.or_false, State.fnAt_setFn_same]

/-- A ring that a write of its registers makes full sets FULL and sends MSI-X. -/
theorem putRing_full {s : State} {vf : Nat} {f : Fn} (hf : f.isFull = true) (hs : (s.fnAt vf).isFull = false) :
    ((putRing s vf f).fnAt vf).full = true ∧ (putRing s vf f).boot.out = s.boot.out ++ [.msix vf] := by
  refine ⟨by simp [hf, hs], ?_⟩
  simp [putRing, hf, hs, send]

@[simp] theorem wakeSaved_warps (s : State) (vf : Nat) : (wakeSaved s vf).warps = s.warps := rfl
@[simp] theorem fnAt_wakeSaved (s : State) (vf k : Nat) : (wakeSaved s vf).fnAt k = s.fnAt k := rfl

theorem wakeSavedWriter_parked (vf : Nat) (w : Warp) (r : TrapRec) :
    (wakeSavedWriter vf w).parked ≠ some (.dirtyLog vf, r) := by
  unfold wakeSavedWriter
  split
  · split
    · simp
    · simp_all
  · simp_all

/-- No saved warp waits for the log any more. -/
theorem wakeSaved_parked {s : State} {vf : Nat} {x : Saved} (hx : x ∈ (wakeSaved s vf).saved)
    {e : Nat × Warp} (he : e ∈ x.warps) (r : TrapRec) : e.2.parked ≠ some (.dirtyLog vf, r) := by
  obtain ⟨y, -, rfl⟩ := List.mem_map.mp hx
  obtain ⟨d, -, rfl⟩ := List.mem_map.mp he
  exact wakeSavedWriter_parked vf d.2 r

@[simp] theorem wakeWriter_fns (s : State) (k : Nat) : (wakeWriter s k).fns = s.fns := by
  simp only [wakeWriter]
  split <;> rfl
@[simp] theorem wakeWriter_saved (s : State) (k : Nat) : (wakeWriter s k).saved = s.saved := by
  simp only [wakeWriter]
  split <;> rfl
theorem warpAt_wakeWriter_other (s : State) {j k : Nat} (h : j ≠ k) : (wakeWriter s k).warpAt j = s.warpAt j := by
  simp only [wakeWriter]
  split
  · exact State.warpAt_setWarp_other s _ h
  · rfl
theorem warpAt_wakeWriter_same {s : State} {k n : Nat} {r : TrapRec} (h : (s.warpAt k).parked = some (.dirtyLog n, r)) :
    (wakeWriter s k).warpAt k = (s.warpAt k).resumeBy r false := by
  simp [wakeWriter, h]

/-- A warp that resumes is parked no more and in user mode (R166). -/
theorem resumeBy_parked (w : Warp) (r : TrapRec) (replay : Bool) :
    (w.resumeBy r replay).parked = none ∧ (w.resumeBy r replay).sup = false := by
  unfold Warp.resumeBy
  dsimp only
  split <;> exact ⟨rfl, rfl⟩

/-- The next writer resumes only where there is one; the ring's registers and the saved blocks stay as they are. -/
theorem wakeNext_cons (s : State) (vf : Nat) : ((wakeNext s vf).fnAt vf).cons = (s.fnAt vf).cons := by
  simp only [wakeNext]
  split <;> simp [State.fnAt]
theorem wakeNext_saved (s : State) (vf : Nat) : (wakeNext s vf).saved = s.saved := by
  simp only [wakeNext]
  split <;> simp

theorem wakeNext_resumes {s : State} {vf k : Nat} {rest : List Nat} (hp : (s.fnAt vf).parked = k :: rest) :
    resumes s (wakeNext s vf) vf k rest := by
  have hnext : wakeNext s vf = wakeWriter (s.setFn vf { s.fnAt vf with
      parked := rest, waking := some (k, (s.warpAt k).iret), drains := true }) k := by
    simp only [wakeNext, hp]
  have hfn : (wakeNext s vf).fnAt vf = { s.fnAt vf with
      parked := rest, waking := some (k, (s.warpAt k).iret), drains := true } := by
    rw [hnext, State.fnAt, wakeWriter_fns, ← State.fnAt, State.fnAt_setFn_same]
  refine ⟨by rw [hfn], by rw [hfn], by rw [hfn], fun n r hk => ?_, fun j hj => ?_⟩
  · have hw : (wakeNext s vf).warpAt k = (s.warpAt k).resumeBy r false := by
      rw [hnext]
      exact warpAt_wakeWriter_same hk
    rw [hw]
    exact resumeBy_parked _ r false
  · rw [hnext, warpAt_wakeWriter_other _ hj]
    rfl

/-- Whether a warp resumes is a matter of the warps before. -/
theorem resumes_of_warps {s u t : State} {vf k : Nat} {rest : List Nat} (hw : u.warps = s.warps)
    (h : resumes u t vf k rest) : resumes s t vf k rest := by
  simpa only [resumes, State.warpAt, hw] using h

/-- DLCONS ignores the value it has, and one that leaves more than the ring holds. -/
theorem execDlconsWrite_ignored {s : State} {vf : Nat} {value : Word}
    (h : value.setWidth 32 = (s.fnAt vf).cons ∨
      ∃ n, (s.fnAt vf).ringSize = some n ∧ n < ((s.fnAt vf).prod - value.setWidth 32).toNat) :
    execDlconsWrite vf value s = .next s := by
  refine if_pos ?_
  obtain h | ⟨n, hn, hlt⟩ := h
  · simp [h]
  · simp only [hn, hlt, decide_true, Bool.true_or]

/-- DLCONS takes any other value; one that leaves less resumes the writers (R116). -/
theorem execDlconsWrite_taken {s : State} {vf : Nat} {value : Word} (hv : value.setWidth 32 ≠ (s.fnAt vf).cons)
    (hr : ∀ n, (s.fnAt vf).ringSize = some n → ((s.fnAt vf).prod - value.setWidth 32).toNat ≤ n) :
    let f := s.fnAt vf
    let t := putRing s vf { f with cons := value.setWidth 32 }
    execDlconsWrite vf value s = .next (if f.prod - value.setWidth 32 < f.prod - f.cons then
      if f.drains then wakeSaved t vf else wakeNext (wakeSaved t vf) vf else t) := by
  refine if_neg ?_
  cases hn : (s.fnAt vf).ringSize with
  | none => simp [hv]
  | some n => simp only [Nat.not_lt.mpr (hr n hn), decide_false, Bool.false_or, beq_iff_eq, hv, not_false_eq_true]

/-- A ring that is enabled has its size and its entries. -/
theorem ring_eq_some {f : Fn} {n size : Nat} (h : f.ring = some (n, size)) :
    f.ringSize = some size ∧ (f.prod - f.cons).toNat = n := by
  unfold Fn.ring at h
  split at h
  · obtain ⟨m, hm, heq⟩ := Option.map_eq_some_iff.mp h
    obtain ⟨hn, rfl⟩ := Prod.mk.inj heq
    exact ⟨hm, hn⟩
  · cases h

/-- A ring whose entries are fewer than those that would fill it is not full. -/
theorem isFull_eq_false {f : Fn} {n : Nat} (hsize : f.ringSize = some n) (hlt : (f.prod - f.cons).toNat < n) :
    f.isFull = false := by
  cases hen : f.en with
  | false => simp [Fn.isFull, Fn.ring, hen]
  | true =>
    simp only [Fn.isFull, Fn.ring, hen, hsize, if_true, Option.map_some, Option.any_some]
    exact beq_false_of_ne (Nat.ne_of_lt hlt)

/-- The end of a cycle: the last writer's word has not issued; the ring has no room; the next resumes (R116). -/
theorem drainLog_waits {s : State} {vf : Nat} (h : (s.fnAt vf).drains = false ∨ (s.fnAt vf).awaits s = true) :
    drainLog s vf = s :=
  if_pos (by obtain h | h := h <;> simp [h])

theorem drainLog_ends {s : State} {vf : Nat} (hd : (s.fnAt vf).drains = true) (ha : (s.fnAt vf).awaits s = false)
    (hf : (s.fnAt vf).isFull = true) :
    drainLog s vf = s.setFn vf { s.fnAt vf with waking := none, drains := false } := by
  simp [drainLog, hd, ha, hf]

theorem drainLog_goes_on {s : State} {vf : Nat} (hd : (s.fnAt vf).drains = true) (ha : (s.fnAt vf).awaits s = false)
    (hf : (s.fnAt vf).isFull = false) : drainLog s vf = wakeNext s vf := by
  simp [drainLog, hd, ha, hf]

end Sys2Proof.Machine
end

section
/-!
PROOFS. The registers by offset of BAR0 (R297, R298): which register an offset is, what its write does.
-/
namespace Sys2Proof.Machine

/-- An offset within a register is none that is listed. -/
theorem ioReg_unaligned {off : Nat} (h : off % 8 ≠ 0) : ioReg off = none := if_pos h

theorem barReg_unaligned (s : State) (fn : Nat) {off : Nat} (h : off % 8 ≠ 0) : barReg s fn off = none := by
  unfold barReg
  split
  · exact ioReg_unaligned h
  · split
    · exact if_neg fun hr => h hr.1
    · rfl

/-- The launch queues by number, as the statements name them. -/
@[simp] theorem lqAt_fin (s : State) (n : Fin 16) : lqAt s n = s.lqs[n] := by
  simp [lqAt]

theorem setLq_fin (s : State) (n : Fin 16) (q : LaunchQ) : setLq s n q = { s with lqs := s.lqs.set n.val q } := by
  have hset : s.lqs.setIfInBounds n.val q = s.lqs.set n.val q := by
    simp [Vector.setIfInBounds, Vector.set, Array.setIfInBounds]
  rw [setLq, hset]

/-- The queues assigned to a virtual function, as the statements name them. -/
theorem vfQueues_eq (s : State) {fn : Nat} (h : fn ≤ 64) :
    vfQueues s fn = ((List.finRange 16).filter fun m => s.lqs[m].own.toNat == fn).map Fin.val := by
  rw [vfQueues, if_pos h, ← List.map_coe_finRange_eq_range, List.filter_map]
  simp [Function.comp_def]

/-- A function maps a launch queue at the base of its registers in BAR0: the PF every queue in its place, a virtual
function its own, packed (R297). -/
def MapsQueue (s : State) (n : Fin 16) (fn base : Nat) : Prop :=
  (fn = 0 ∧ base = 0x100000 + 64 * n.val) ∨ (1 ≤ fn ∧ fn ≤ 64 ∧ ∃ i, base = 64 * i ∧
    ((List.finRange 16).filter fun m => s.lqs[m].own.toNat == fn)[i]? = some n)

section
variable {s : State} {n : Fin 16} {fn base : Nat} (h : MapsQueue s n fn base)
include h

theorem MapsQueue.writes : fn = 0 ∨ fn = (s.lqs[n]).own.toNat := by
  obtain ⟨rfl, -⟩ | ⟨-, -, i, -, hi⟩ := h
  · exact .inl rfl
  · have hown := (List.mem_filter.mp (List.mem_of_getElem? hi)).2
    exact .inr (beq_iff_eq.mp hown).symm

theorem MapsQueue.base_lt : base < 0x200000 := by
  obtain ⟨-, rfl⟩ | ⟨-, -, i, rfl, hi⟩ := h
  · omega
  · have hlen := (List.length_filter_le (fun m : Fin 16 => s.lqs[m].own.toNat == fn) (List.finRange 16))
    have hi := (List.getElem?_eq_some_iff.mp hi).1
    rw [List.length_finRange] at hlen
    omega

theorem MapsQueue.barReg {r : Nat} (hr : r % 8 = 0) (hr' : r ≤ 0x30) :
    barReg s fn (base + r) = some (.lq n r) := by
  obtain ⟨rfl, rfl⟩ | ⟨h1, h64, i, rfl, hi⟩ := h
  · have hdiv : (0x100000 + 64 * n.val + r - 0x100000) / 64 = n := by omega
    have hmod : (0x100000 + 64 * n.val + r) % 64 = r := by omega
    rw [Machine.barReg, if_pos rfl, ioReg, if_neg (by omega), if_pos (by omega), hdiv, hmod, if_pos hr']
  · have hdiv : (64 * i + r) / 64 = i := by omega
    have hmod : (64 * i + r) % 64 = r := by omega
    rw [Machine.barReg, if_neg (by omega), vfQueues_eq s h64, List.getElem?_map, hdiv, hi, hmod]
    exact if_pos ⟨by omega, hr'⟩

/-- A write of a plain register of a launch queue by the PF or the function it is assigned to. -/
theorem MapsQueue.write {r : Nat} (hr : r % 8 = 0) (hr' : r ≤ 0x30) (htail : r ≠ 0x10) (hstart : r ≠ 0x30)
    (x : Word) : execRegisterWrite fn (BitVec.ofNat 52 (base + r)) x s =
      .next { s with lqs := s.lqs.set n.val ((s.lqs[n]).write fn r x) } := by
  have hoff : (BitVec.ofNat 52 (base + r)).toNat = base + r := by
    have := h.base_lt
    rw [BitVec.toNat_ofNat, Nat.mod_eq_of_lt (by omega)]
  unfold execRegisterWrite
  rw [hoff, h.barReg hr hr']
  split
  next _ m heq => exact absurd (IoReg.lq.inj (Option.some.inj heq)).2 htail
  next _ m heq => exact absurd (IoReg.lq.inj (Option.some.inj heq)).2 hstart
  next _ m r' _ _ heq =>
    obtain ⟨rfl, rfl⟩ := IoReg.lq.inj (Option.some.inj heq)
    rw [lqAt_fin, ← setLq_fin]
    exact congrArg _ (if_pos h.writes)
  next _ y _ _ hne heq => exact (hne n r (Option.some.inj heq).symm).elim
  next _ heq => cases heq
end

/-- A virtual function maps 16 queues at most, so it has no register beyond them. -/
theorem barReg_beyond (s : State) {fn off : Nat} (hfn : fn ≠ 0) (hoff : 64 * 16 ≤ off) : barReg s fn off = none := by
  have hlen : (vfQueues s fn).length ≤ 16 := by
    unfold vfQueues
    split
    · exact (List.length_filter_le ..).trans_eq List.length_range
    · exact Nat.zero_le _
  have hnone : (vfQueues s fn)[off / 64]? = none := List.getElem?_eq_none (by omega)
  rw [barReg, if_neg hfn, hnone]

/-- Offsets that are not listed ignore writes and read as zero. -/
theorem execRegisterWrite_unlisted {s : State} {fn : Nat} {off : BitVec 52} (x : Word)
    (h : barReg s fn off.toNat = none) : execRegisterWrite fn off x s = .next s := by
  unfold execRegisterWrite
  rw [h]
theorem barValue_unlisted {s : State} {fn off : Nat} (h : barReg s fn off = none) : barValue s fn off = 0 := by
  unfold barValue
  rw [h]
  exact ite_self 0

/-- A write of QUOTA, the register of a function's table at 8, by the PF. -/
theorem execRegisterWrite_quota (s : State) {vf : Nat} (h1 : 1 ≤ vf) (h64 : vf ≤ 64) (x : Word) :
    execRegisterWrite 0 (BitVec.ofNat 52 (0x400000 + 64 * vf + 0x08)) x s =
      .next (s.setFn vf { s.fnAt vf with quota := x.setWidth 40 }) := by
  have hoff : (BitVec.ofNat 52 (0x400000 + 64 * vf + 0x08)).toNat = 0x400000 + 64 * vf + 0x08 := by
    rw [BitVec.toNat_ofNat, Nat.mod_eq_of_lt (by omega)]
  have hreg : barReg s 0 (0x400000 + 64 * vf + 0x08) = some (.fn vf 0x08) := by
    have hdiv : (0x400000 + 64 * vf + 0x08 - 0x400000) / 64 = vf := by omega
    have hmod : (0x400000 + 64 * vf + 0x08) % 64 = 0x08 := by omega
    rw [barReg, if_pos rfl, ioReg, if_neg (by omega), if_neg (by omega), if_neg (by omega), if_neg (by omega),
      if_neg (by omega), if_neg (by omega), if_pos (by omega), hdiv, hmod]
  unfold execRegisterWrite
  rw [hoff, hreg]
  rfl

/-- A store of one byte to a register whose other bytes are kept as zero sends the byte alone (R6). -/
theorem performStores_io {s : State} {off : Nat} (attr : BitVec 2) (x : Byte) (hk : ioKept s off = 0) :
    performStores s [(.io off [] attr, [x])] =
      { s with inbox := s.inbox ++ [.event (ioEvent 0 off (BitVec.ofNat 64 x.toNat))] } := by
  have hbytes : leNat ([x] ++ (leBytes 8 0).drop 1) = x.toNat := by
    simp [leBytes, leNat]
  show ioStore s off [x] = _
  rw [ioStore, hk]
  simp only [List.length_singleton, hbytes]

/-- Registers that a write of part of them keeps nothing of: REPREQ, SAGCNT, and what is not listed. -/
theorem ioKept_eq_zero {s : State} {off : Nat} (h : off = 0x300000 ∨ off = 0x300008 ∨ off % 8 ≠ 0) :
    ioKept s off = 0 := by
  obtain rfl | rfl | h := h
  · rfl
  · rfl
  · simp [ioKept, ioRead, ioReg_unaligned h]

/-- Their writes have no step of their own. -/
theorem ioEvent_plain {off : Nat} (h : off = 0x300000 ∨ off = 0x300008 ∨ off % 8 ≠ 0) (x : Word) :
    ioEvent 0 off x = .registerWrite 0 (BitVec.ofNat 52 off) x := by
  obtain rfl | rfl | h := h
  · rfl
  · rfl
  · simp [ioEvent, ioReg_unaligned h]

theorem leBytes_zero (n : Nat) : leBytes n 0 = List.replicate n 0 := by
  induction n with
  | zero => rfl
  | succ n ih => exact congrArg (0#8 :: ·) ih

theorem ioBytes_unaligned (s : State) {off n : Nat} (h : off % 8 ≠ 0) (hn : n ≤ 8) :
    ioBytes s off n = List.replicate n 0 := by
  have hread : ioRead s off = 0 := by simp [ioRead, ioReg_unaligned h]
  rw [ioBytes, hread, leBytes_zero, List.take_replicate, Nat.min_eq_left hn]

end Sys2Proof.Machine
end

section
/-!
PROOFS. The write-back scanner: the page it takes, the page it brings to storage (R80).
-/
namespace Sys2Proof.Machine

/-- The scanner takes a dirty file-backed leaf: write permission and dirty bit go, the page is held. -/
theorem scanLeaf_takes {s : State} {x : Scan} {a pte level shift : Nat} (drops : TlbEntry → Bool)
    (he : x.entry s a = .ok (pte, level, shift)) (hscans : s.scans = [])
    (hdirty : (readEntry s.mem pte).getLsbD 6 = true) (hback : (readEntry s.mem pte).getLsbD 7 = true) :
    let e := readEntry s.mem pte
    ∃ t, scanLeaf s x a drops = some t ∧ readEntry t.mem pte = e &&& ~~~(0x48 : BitVec 64) ∧
      (∀ y, y < pte ∨ pte + 8 ≤ y → readPhys t.mem y = readPhys s.mem y) ∧ t.warps = s.warps ∧
      t.scans = [{ x with page := a / 2 ^ shift * 2 ^ shift, bits := shift, base := pteAddr e, wr := e.getLsbD 3 }] := by
  simp only [scanLeaf, he, hdirty, hback, Bool.and_self, if_true, hscans, List.nil_append]
  exact ⟨_, rfl, readEntry_writeBytes_same .., fun y hy => readPhys_writeEntry_outside _ _ hy, rfl, rfl⟩

/-- It takes no leaf that is clean or that no storage backs. -/
theorem scanLeaf_none {s : State} {x : Scan} {a : Nat} (drops : TlbEntry → Bool)
    (h : ∀ p l k, x.entry s a = .ok (p, l, k) →
      ((readEntry s.mem p).getLsbD 6 && (readEntry s.mem p).getLsbD 7) = false) : scanLeaf s x a drops = none := by
  unfold scanLeaf
  split
  · rfl
  · rename_i p l k he
    exact if_neg (Bool.eq_false_iff.mp (h p l k he))

/-- Where a leaf lies is a matter of memory and of the bases of the tables. -/
theorem leafOf_of_tables {s t : State} (hm : t.mem = s.mem) (hc : t.ctxs = s.ctxs) (hf : t.fns = s.fns) (ctx a : Nat) :
    leafOf t ctx a = leafOf s ctx a := by
  unfold leafOf State.ctxAt State.fnAt
  rw [hm, hc, hf]

/-- A scan works on the context's own tables, under the context's key, or else on the second stage's. -/
theorem Scan.owner_own {x : Scan} (h : x.vf = 0) : x.owner = x.ctx := if_pos h
theorem Scan.drops_own {x : Scan} (h : x.vf = 0) (s : State) (a : Nat) :
    x.drops s a = fun e => e.maps (s.ctxAt x.ctx).ctxid a := funext fun _ => if_pos h
theorem Scan.entry_own {x : Scan} (h : x.vf = 0) (s : State) (a : Nat) : x.entry s a = leafOf s x.ctx a := if_pos h
theorem Scan.entry_guest {x : Scan} (h : x.vf ≠ 0) (s : State) (a : Nat) :
    x.entry s a = leafEntry s.mem .ok a walkLevels (guestBase s x.vf) := if_neg h

/-- The scan of a context's address, before it has a page. -/
def Scan.fresh (ctx : Nat) (va : Word) : Scan := ⟨ctx, va.toNat, 0, 0, 0, 0, false, 0⟩
theorem Scan.fresh_entry (s : State) (ctx : Nat) (va : Word) (a : Nat) :
    (Scan.fresh ctx va).entry s a = leafOf s ctx a := entry_own rfl s a

/-- The same in the second stage of the context's virtual function. -/
def Scan.freshGuest (s : State) (ctx : Nat) (va : Word) : Scan := ⟨ctx, va.toNat, (s.ctxAt ctx).vf, 0, 0, 0, false, 0⟩

/-- Without a page held, a scan begins: at the leaf of the context's own tables, if it is to be taken. -/
theorem execWriteBackScan_own {s t : State} {ctx : Nat} {va : Word} (hs : s.scans = [])
    (h : scanLeaf s (Scan.fresh ctx va) va.toNat ((Scan.fresh ctx va).drops s va.toNat) = some t) :
    execWriteBackScan ctx va s = .next t := by
  unfold Scan.fresh at h
  simp only [execWriteBackScan, hs, List.find?_nil, scanStart, h, enabledStep]

/-- Else it begins at the leaf of the second stage. -/
theorem execWriteBackScan_guest {s t : State} {ctx gpa : Nat} {va : Word} (hs : s.scans = [])
    (hown : scanLeaf s (Scan.fresh ctx va) va.toNat ((Scan.fresh ctx va).drops s va.toNat) = none)
    (hg : guestOf s ctx va.toNat = some gpa)
    (h : scanLeaf s (Scan.freshGuest s ctx va) gpa ((Scan.freshGuest s ctx va).drops s gpa) = some t) :
    execWriteBackScan ctx va s = .next t := by
  unfold Scan.fresh at hown
  unfold Scan.freshGuest at h
  simp only [execWriteBackScan, hs, List.find?_nil, scanStart, hown, hg, h, enabledStep]

/-- The part of a held page at an address gets its write permission back. -/
def Scan.reopenAt (x : Scan) (s : State) (a i : Nat) : State :=
  match x.entry s a with
  | .error _ => s
  | .ok (at_, _, shift) =>
    let e := readEntry s.mem at_
    if pteAddr e + a % 2 ^ shift = x.base + 16384 * i then
      { s with mem := writeBytes s.mem at_ (leBytes 8 (e ||| 0x8).toNat) }
    else s

theorem Scan.reopen_eq (x : Scan) (s : State) : x.reopen s = if !x.wr then s else
    (List.range (2 ^ (x.bits - 14))).foldl (fun s i => x.reopenAt s (x.page + 16384 * i) i) s := rfl

/-- What a change of permission leaves of the scanner's own state. -/
theorem Scan.reopenAt_frame (x : Scan) (s : State) (a i : Nat) :
    ∃ m, x.reopenAt s a i = { s with mem := m } := by
  unfold reopenAt
  split
  · exact ⟨s.mem, rfl⟩
  · dsimp only
    split
    · exact ⟨_, rfl⟩
    · exact ⟨s.mem, rfl⟩
theorem Scan.reopen_frame (x : Scan) (s : State) : ∃ m, x.reopen s = { s with mem := m } := by
  rw [reopen_eq]
  split
  · exact ⟨s.mem, rfl⟩
  · generalize List.range (2 ^ (x.bits - 14)) = is
    induction is generalizing s with
    | nil => exact ⟨s.mem, rfl⟩
    | cons i is ih =>
      obtain ⟨m, hm⟩ := x.reopenAt_frame s (x.page + 16384 * i) i
      rw [List.foldl_cons, hm]
      exact ih { s with mem := m }

theorem Scan.reopen_readonly {x : Scan} (h : x.wr = false) (s : State) : x.reopen s = s := by
  rw [reopen_eq, h]
  rfl

/-- A page of 16 KiB whose leaf still maps it gets its write permission back there. -/
theorem Scan.reopen_page {x : Scan} {s : State} {pte level shift : Nat} (hw : x.wr = true) (hb : x.bits = 14)
    (he : x.entry s x.page = .ok (pte, level, shift))
    (hm : pteAddr (readEntry s.mem pte) + x.page % 2 ^ shift = x.base) :
    x.reopen s = { s with mem := writeBytes s.mem pte (leBytes 8 (readEntry s.mem pte ||| 0x8).toNat) } := by
  rw [reopen_eq, hw, hb]
  show x.reopenAt s x.page 0 = _
  simp only [reopenAt, he]
  exact if_pos hm

/-- Who waits for a page goes on; memory and the scanner's own state stay as they are where no counter waits. -/
theorem wakeScan_mem {s : State} (x : Scan) (h : s.pend = []) : (wakeScan s x).mem = s.mem := by
  simp only [wakeScan, h, List.filter_nil, List.foldl_nil]
theorem wakeScan_storage {s : State} (x : Scan) (h : s.pend = []) : (wakeScan s x).storage = s.storage := by
  simp only [wakeScan, h, List.filter_nil, List.foldl_nil]
theorem wakeScan_scans {s : State} (x : Scan) (h : s.pend = []) : (wakeScan s x).scans = s.scans := by
  simp only [wakeScan, h, List.filter_nil, List.foldl_nil]

/-- With its page held, a scan goes on. -/
theorem execWriteBackScan_held {s : State} {x : Scan} {va : Word} (hs : s.scans = [x]) (hva : x.va = va.toNat) :
    execWriteBackScan x.ctx va s = enabledStep "WRITE_BACK_SCAN" (scanFinish s x) := by
  have hfind : s.scans.find? (fun y => (y.ctx == x.ctx && y.va == va.toNat) || y.holds s x.ctx va) = some x := by
    simp [hs, hva]
  simp only [execWriteBackScan, hfind]
theorem execWriteBackScan_goes_on {s t : State} {x : Scan} {va : Word} (hs : s.scans = [x]) (hva : x.va = va.toNat)
    (h : scanFinish s x = some t) : execWriteBackScan x.ctx va s = .next t := by
  rw [execWriteBackScan_held hs hva, h]
  rfl
theorem execWriteBackScan_waits {s : State} {x : Scan} {va : Word} (hs : s.scans = [x]) (hva : x.va = va.toNat)
    (h : scanFinish s x = none) : execWriteBackScan x.ctx va s = .refused (.notEnabled "WRITE_BACK_SCAN") := by
  rw [execWriteBackScan_held hs hva, h]
  rfl

/-- The scan waits for a store that was translated before. -/
theorem scanFinish_held {s : State} {x : Scan} (hh : heldThrough s (x.drops s x.page) = true) :
    scanFinish s x = none := by
  simp only [scanFinish, hh, if_true]
  split <;> rfl

/-- A scan's page is in storage, under the scan's key, in place of what was there of it. -/
def Scan.stored (x : Scan) (s : State) : List (Nat × Nat × Tbl Byte) :=
  s.storage.filter (fun y => !(y.1 == x.owner && (x.pieces s).any fun p => p.1 == y.2.1)) ++
    (x.pieces s).map fun p => (x.owner, p.1, pageImage s.mem p.2 16384)

theorem Scan.mem_stored {x : Scan} {s : State} {p : Nat × Nat} (h : p ∈ x.pieces s) :
    (x.owner, p.1, pageImage s.mem p.2 16384) ∈ x.stored s :=
  List.mem_append_right _ (List.mem_map_of_mem h)

/-- With its slots of the fabric purse, the scan ends: the page is in storage, its write permission is back. -/
theorem scanFinish_ends {s : State} {x : Scan} {p : Nat × Nat} {rest : List (Nat × Nat)} {n c q : Nat}
    (hp : x.pieces s = p :: rest) (hn : paRange p.2 = .stack n) (hq : nvmeQueue s.fabric = some (c, q))
    (hh : heldThrough s (x.drops s x.page) = false)
    (hb : purseTakes s n fabricPurse (32 * (x.pieces s).length - x.drawn) = true) :
    let u := x.reopen (spendPurse s n fabricPurse (32 * (x.pieces s).length - x.drawn))
    scanFinish s x = some (wakeScan { u with
      storage := x.stored s, scans := u.scans.erase x, fabric := u.fabric.count c q (· + 1) } x) := by
  have hhead : (x.pieces s).head?.map (fun p => paRange p.2) = some (.stack n) := by
    rw [hp, List.head?_cons, Option.map_some, hn]
  simp only [scanFinish, hq, hh, hhead, hb, Bool.false_eq_true, if_false, if_true, Scan.stored]

/-- What the end of a scan leaves: memory as the page's leaf gets its permission back, the page in storage. -/
theorem scanFinish_next {s : State} {x : Scan} {p : Nat × Nat} {rest : List (Nat × Nat)} {n c q : Nat}
    (hs : s.scans = [x]) (hpend : s.pend = [])
    (hp : x.pieces s = p :: rest) (hn : paRange p.2 = .stack n) (hq : nvmeQueue s.fabric = some (c, q))
    (hh : heldThrough s (x.drops s x.page) = false)
    (hb : purseTakes s n fabricPurse (32 * (x.pieces s).length - x.drawn) = true) :
    ∃ t, scanFinish s x = some t ∧ t.scans = [] ∧ t.storage = x.stored s ∧
      ∃ u, u.mem = s.mem ∧ u.ctxs = s.ctxs ∧ u.fns = s.fns ∧ t.mem = (x.reopen u).mem := by
  obtain ⟨m, hm⟩ := x.reopen_frame (spendPurse s n fabricPurse (32 * (x.pieces s).length - x.drawn))
  have hu := (congrArg State.pend hm).trans hpend
  refine ⟨_, scanFinish_ends hp hn hq hh hb, (wakeScan_scans x (by exact hu)).trans ?_,
    wakeScan_storage x (by exact hu), spendPurse s n fabricPurse _, rfl, rfl, rfl, wakeScan_mem x hu⟩
  rw [hm]
  show s.scans.erase x = []
  rw [hs, List.erase_cons_head]

end Sys2Proof.Machine
end

section
/-!
PROOFS. The writes of the registers, QRESET, DLCONS and the write-back scan, by their rules.
-/
namespace Sys2Proof.Machine

/-- R113: QRESET discards the entries of the queue it names, and of no other. -/
theorem qreset_discards (s : State) (value : Word) : ∃ t, exec (.qreset value) s = .next t ∧ t.mem = s.mem ∧
    t.warps = s.warps ∧
    let x := value.toNat % 65536
    let named := fun (e : Nat × Ctx) => e.2.live = true ∧ e.2.ctxid = value.extractLsb' 16 16
    (∀ e ∈ s.ctxs, named e → tqGet t e.1 x = []) ∧
    ∀ c z, (z ≠ x ∨ ∀ e ∈ s.ctxs, e.1 = c → ¬ named e) → tqGet t c z = tqGet s c z := by
  obtain ⟨t, ht, hmem, hwarps, hget⟩ := execQreset_next s value
  refine ⟨t, ht, hmem, hwarps, fun e he hn => ?_, fun c z hz => ?_⟩
  · rw [hget, if_pos ⟨mem_resetContexts.mpr ⟨e, he, rfl, hn⟩, rfl⟩]
  · rw [hget, if_neg]
    rintro ⟨hc, rfl⟩
    obtain ⟨e, he, hec, hn⟩ := mem_resetContexts.mp hc
    exact hz.elim (fun h => h rfl) fun h => h e he hec hn

/-- R81, R116: a DLCONS that is taken, by whether it leaves less than before or more. -/
theorem dlconsWrite_taken {s : State} {vf : Nat} {value : Word} :
    let f := s.fnAt vf
    let v : BitVec 32 := value.setWidth 32
    v ≠ f.cons → (∀ n, f.ringSize = some n → (f.prod - v).toNat ≤ n) →
    ∃ t, exec (.dlconsWrite vf value) s = .next t ∧ (t.fnAt vf).cons = v ∧
      (f.prod - v < f.prod - f.cons →
        (∀ k rest, f.drains = false → f.parked = k :: rest → resumes s t vf k rest) ∧
        (f.drains = true → (t.fnAt vf).parked = f.parked ∧ t.warps = s.warps) ∧
        ∀ x ∈ t.saved, ∀ e ∈ x.warps, ∀ r, e.2.parked ≠ some (.dirtyLog vf, r)) ∧
      (f.prod - f.cons < f.prod - v → (t.fnAt vf).parked = f.parked ∧ t.warps = s.warps ∧
        ∀ n, ({ f with cons := v } : Fn).ring = some (n, n) →
          (t.fnAt vf).full = true ∧ t.boot.out = s.boot.out ++ [.msix vf]) := by
  intro f v hv hr
  have htaken := execDlconsWrite_taken hv hr
  by_cases hless : f.prod - v < f.prod - f.cons
  · have hmore : ¬ f.prod - f.cons < f.prod - v := BitVec.not_lt.mpr (BitVec.le_of_lt hless)
    cases hd : f.drains with
    | true =>
      refine ⟨wakeSaved (putRing s vf { f with cons := v }) vf, ?_, ?_, fun _ => ⟨?_, ?_, ?_⟩, fun h => absurd h hmore⟩
      · exact htaken.trans (by rw [if_pos hless, if_pos hd])
      · rw [fnAt_wakeSaved, fnAt_putRing]
      · exact fun _ _ h => nomatch h
      · exact fun _ => ⟨by rw [fnAt_wakeSaved, fnAt_putRing], by rw [wakeSaved_warps, putRing_warps]⟩
      · exact fun x hx e he r => wakeSaved_parked hx he r
    | false =>
      refine ⟨wakeNext (wakeSaved (putRing s vf { f with cons := v }) vf) vf, ?_, ?_, fun _ => ⟨?_, ?_, ?_⟩,
        fun h => absurd h hmore⟩
      · exact htaken.trans (by rw [if_pos hless, if_neg (Bool.eq_false_iff.mp hd)])
      · rw [wakeNext_cons, fnAt_wakeSaved, fnAt_putRing]
      · intro k rest _ hk
        refine resumes_of_warps (by rw [wakeSaved_warps, putRing_warps]) (wakeNext_resumes ?_)
        rw [fnAt_wakeSaved, fnAt_putRing]
        exact hk
      · exact fun h => nomatch h
      · rw [wakeNext_saved]
        exact fun x hx e he r => wakeSaved_parked hx he r
  · refine ⟨putRing s vf { f with cons := v }, ?_, ?_, fun h => absurd h hless, fun hmore => ⟨?_, ?_, ?_⟩⟩
    · exact htaken.trans (by rw [if_neg hless])
    · rw [fnAt_putRing]
    · rw [fnAt_putRing]
    · exact putRing_warps ..
    · intro n hn
      obtain ⟨hsize, hleft⟩ := ring_eq_some hn
      refine putRing_full (by simp [Fn.isFull, hn]) (isFull_eq_false hsize ?_)
      rw [← hleft]
      exact hmore

/-- R80: a scan that holds a page of 16 KiB of a context's own tables ends once no store translated before is held. -/
theorem writeBackScan_ends {s : State} {x : Scan} {va : Word} {p : Nat × Nat} {rest : List (Nat × Nat)} {n c q : Nat}
    (hs : s.scans = [x]) (hvf : x.vf = 0) (hva : x.va = va.toNat) (hpend : s.pend = [])
    (hp : x.pieces s = p :: rest) (hn : paRange p.2 = .stack n) (hq : nvmeQueue s.fabric = some (c, q))
    (hb : purseTakes s n fabricPurse (32 * (x.pieces s).length - x.drawn) = true) (hok : s.memOk)
    (hh : heldThrough s (x.drops s x.page) = false) :
    ∃ t, exec (.writeBackScan x.ctx va) s = .next t ∧ t.scans = [] ∧
      (x.wr = false → t.mem = s.mem) ∧
      (∀ pte level shift, x.wr = true → x.bits = 14 → leafOf s x.ctx x.page = .ok (pte, level, shift) →
        let e := readEntry s.mem pte
        pteAddr e + x.page % 2 ^ shift = x.base → readEntry t.mem pte = e ||| 0x8 ∧
          ∀ y, y < pte ∨ pte + 8 ≤ y → readPhys t.mem y = readPhys s.mem y) ∧
      ∀ y ∈ x.pieces s, ∃ img, (x.ctx, y.1, img) ∈ t.storage ∧
        ∀ i, i < 16384 → Tbl.get 0 img i = readPhys s.mem (y.2 + i) := by
  obtain ⟨t, ht, hscans, hstored, u, humem, huctxs, hufns, htmem⟩ := scanFinish_next hs hpend hp hn hq hh hb
  refine ⟨t, ?_, hscans, fun hw => ?_, fun pte level shift hw hbits hleaf he => ?_, fun y hy => ?_⟩
  · exact execWriteBackScan_goes_on hs hva ht
  · rw [htmem, Scan.reopen_readonly hw, humem]
  · have hentry : x.entry u x.page = .ok (pte, level, shift) := by
      rw [Scan.entry_own hvf, leafOf_of_tables humem huctxs hufns, hleaf]
    rw [htmem, Scan.reopen_page hw hbits hentry (by rw [humem]; exact he), humem]
    exact ⟨readEntry_writeBytes_same .., fun y hy => readPhys_writeEntry_outside _ _ hy⟩
  · refine ⟨pageImage s.mem y.2 16384, ?_, fun i hi => get_pageImage hok y.2 hi⟩
    rw [hstored, ← Scan.owner_own hvf]
    exact Scan.mem_stored hy

/-- Settles O59: each write of a register by its reading rule, DLCONS and the writers it resumes by the rules of the
dirty log, the scan by its two steps. -/
theorem registerSteps : Obligations.RegisterSteps := by
  intro s value
  refine ⟨qreset_discards s value, fun vf => ⟨execDlconsWrite_ignored, dlconsWrite_taken, drainLog_waits,
    fun hd ha => ⟨drainLog_ends hd ha, fun k rest hf hk => ?_⟩⟩, fun n fn base (h : MapsQueue s n fn base) => ?_,
    fun vf h1 h64 => ⟨execRegisterWrite_quota s h1 h64 value, fun fn hfn => ?_⟩, rfl,
    fun off x attr hoff => ?_, fun fn off hoff => ?_, fun ctx pte level shift hleaf hs hdirty hback _ => ?_,
    fun ctx gpa pte level shift hs hown hg hleaf hvf hdirty hback _ => ?_,
    fun x va p rest n c q hs hvf hva hpend hp hn hq hb hok => ⟨fun hh => ?_, fun hh => ?_⟩⟩
  · rw [drainLog_goes_on hd ha hf]
    exact wakeNext_resumes hk
  · exact ⟨h.write (by decide) (by decide) (by decide) (by decide) value,
      h.write (by decide) (by decide) (by decide) (by decide) value,
      h.write (by decide) (by decide) (by decide) (by decide) value⟩
  · refine execRegisterWrite_unlisted value (barReg_beyond s hfn ?_)
    rw [BitVec.toNat_ofNat, Nat.mod_eq_of_lt (by omega)]
    omega
  · have hplain : off.toNat = 0x300000 ∨ off.toNat = 0x300008 ∨ off.toNat % 8 ≠ 0 :=
      hoff.imp (congrArg BitVec.toNat) (Or.imp_left (congrArg BitVec.toNat))
    rw [performStores_io attr x (ioKept_eq_zero hplain), ioEvent_plain hplain, BitVec.ofNat_toNat, BitVec.setWidth_eq]
  · have hbar := barReg_unaligned s fn hoff
    exact ⟨execRegisterWrite_unlisted value hbar, barValue_unlisted hbar, fun n hn => ioBytes_unaligned s hoff hn⟩
  · obtain ⟨t, ht, htaken⟩ := scanLeaf_takes ((Scan.fresh ctx value).drops s value.toNat)
      ((Scan.fresh_entry ..).trans hleaf) hs hdirty hback
    exact ⟨t, execWriteBackScan_own hs ht, htaken⟩
  · have hnone := scanLeaf_none (x := Scan.fresh ctx value) ((Scan.fresh ctx value).drops s value.toNat)
      fun p l k he => hown p l k ((Scan.fresh_entry ..).symm.trans he)
    have hentry : (Scan.freshGuest s ctx value).entry s gpa = .ok (pte, level, shift) :=
      (Scan.entry_guest hvf s gpa).trans hleaf
    obtain ⟨t, ht, htaken⟩ := scanLeaf_takes ((Scan.freshGuest s ctx value).drops s gpa) hentry hs hdirty hback
    exact ⟨t, execWriteBackScan_guest hs hnone hg ht, htaken⟩
  · exact execWriteBackScan_waits hs hva (scanFinish_held (by rw [Scan.drops_own hvf]; exact hh))
  · exact writeBackScan_ends hs hvf hva hpend hp hn hq hb hok (by rw [Scan.drops_own hvf]; exact hh)

end Sys2Proof.Machine
end

section
/-!
How a scalar word of the acting warp ends, and the words of the execution model that dispatch lane blocks or wait.
-/
namespace Sys2Proof.Machine

/-- What a scalar word that may act makes of what its body does. -/
def Did.out (closes : Bool) (s : State) : Did → Out
  | .waits => Machine.waits s
  | .raises t r => raiseScalar s t r s.me.pc [] false
  | .deadlocks => raiseScalar s s (.plain cILLEGAL) s.me.pc [] true
  | .traps r resume => raiseScalar s s r resume [] false
  | .stops t => .next t
  | .done t next => .next (retire t s.me.pc next closes)

section
variable {kind : Kind} {srcs : List SReg} {body : State → Did} {s : State}

/-- A scalar word that meets the conditions of its kind does what its body says. -/
theorem scalarWord_acts (hr : Ready s srcs) (hh : s.me.sup = true → kind.handler = true)
    (hc : kind.commits = true → uncommitted s s.me = none)
    (hd : kind.closes = true → s.me.sup = true ∨ s.me.dispatch = []) :
    scalarWord kind srcs body s = (body s).out kind.closes s := by
  obtain ⟨hrun, hbad⟩ := hr
  have hmode : (s.me.sup && !kind.handler) = false := by cases h : s.me.sup <;> simp_all
  have hcommit : (kind.commits && (uncommitted s s.me).isSome) = false := by cases h : kind.commits <;> simp_all
  have hclose : (kind.closes && !s.me.sup && !s.me.dispatch.isEmpty) = false := by
    cases h : kind.closes
    · rfl
    · rcases hd h with h | h <;> simp [h]
  simp only [scalarWord, hrun, hbad, hmode, hcommit, hclose, Bool.not_true, List.isEmpty_nil, Bool.false_eq_true, if_false]
  cases body s <;> rfl

theorem scalarWord_plain_acts (hr : Ready s srcs) : scalarWord .plain srcs body s = (body s).out false s :=
  scalarWord_acts hr (fun _ => rfl) (by simp) (by simp)

theorem scalarWord_user_acts (hr : Ready s srcs) (hu : s.me.sup = false) :
    scalarWord .userOnly srcs body s = (body s).out false s :=
  scalarWord_acts hr (by simp [hu]) (by simp) (by simp)

@[simp] theorem out_waits (c : Bool) (s : State) : Did.out c s .waits = .next { s with waited := true } := rfl

@[simp] theorem out_raises (c : Bool) (s : State) (r : Raise) : Did.out c s (.raises s r) = raised s r := rfl

@[simp] theorem out_stops (c : Bool) (s t : State) : Did.out c s (.stops t) = .next t := rfl

@[simp] theorem out_done (c : Bool) (s t : State) (next : Option Word) :
    Did.out c s (.done t next) = .next (issued t t.me (next.getD (s.me.pc + 4)) c) := by
  rw [Did.out, retire_eq]
end

/-! ### Dispatch of lane blocks -/

/-- Fewer than four uncompleted lane blocks leave room for one more at an aligned address (R14, R204). -/
theorem dispatchAt_room {s : State} {at_ : Word} (ha : at_.toNat % 4 = 0) (hn : s.me.dispatch.length < 4) :
    dispatchAt s at_ = .done { s.setMe { s.me with dispatch := s.me.dispatch ++
      [⟨at_, s.me.fcsr.extractLsb' 0 3, s.me.chk, s.me.ab, s.seq, false, none, none⟩] } with seq := s.seq + 1 } none := by
  simp [dispatchAt, ha, Nat.not_le.mpr hn]

theorem dispatchAt_misaligned {s : State} {at_ : Word} (ha : at_.toNat % 4 ≠ 0) :
    dispatchAt s at_ = .raises s (.at cMISALIGN at_) := by
  simp [dispatchAt, ha]

end Sys2Proof.Machine
namespace Sys2Proof.Certificates
open Sys2Proof.Machine

/-- Settles O12: each word is its body, whose dispatch is `dispatchAt_room` or `dispatchAt_misaligned`. -/
theorem laneDispatch : Obligations.LaneDispatch := by
  unfold Obligations.LaneDispatch
  refine ⟨fun s a imm hu hn => ⟨fun hr ha => ?_, fun hr ha => ?_, fun hr ha => ?_, fun hr ha => ?_⟩,
    fun s hr hu => ⟨fun he => ?_, fun he => ?_⟩⟩
  · rw [exec, execLgo, scalarWord_user_acts hr hu, dispatchAt_room ha hn, out_done]
    simp [issued, State.setWarp, State.setBlock, State.blockAt, State.me, State.warpAt]
  · rw [exec, execLgo, scalarWord_user_acts hr hu, dispatchAt_misaligned ha, out_raises]
  · rw [exec, execLgor, scalarWord_user_acts hr hu, dispatchAt_room ha hn, out_done]
    simp [issued, State.setWarp, State.setBlock, State.blockAt, State.me, State.warpAt]
  · rw [exec, execLgor, scalarWord_user_acts hr hu, dispatchAt_misaligned ha, out_raises]
  · rw [exec, execLwait, scalarWord_user_acts hr hu, he]
    simp
  · rw [exec, execLwait, scalarWord_user_acts hr hu]
    simp [he]

end Sys2Proof.Certificates
namespace Sys2Proof.Machine

/-! ### Waits on counters and values -/

/-- R132: a counter satisfies a target by one of its two mark bits or by its count. -/
theorem counterMet_iff (v x : Word) : counterMet v x = true ↔
    v.getLsbD 62 = true ∨ v.getLsbD 63 = true ∨ x.toNat % 2 ^ 62 ≤ v.toNat % 2 ^ 62 := by
  simp [counterMet, BitVec.extractLsb'_toNat, or_assoc]

/-- R262: what each condition of WAITV asks of the value read. -/
theorem waitMet_iff (c : WaitCond) (v x : Word) : waitMet c v x = true ↔
    match c with
    | .eq => v = x
    | .ne => v ≠ x
    | .ltu => v.toNat < x.toNat
    | .geu => x.toNat ≤ v.toNat
    | .lt => v.toInt < x.toInt
    | .ge => x.toInt ≤ v.toInt := by
  cases c <;> simp [waitMet, BitVec.ult, BitVec.slt]

theorem mem_insertAsc (x : Nat) : ∀ l : List Nat, x ∈ insertAsc x l
  | [] => by simp [insertAsc]
  | y :: r => by
    unfold insertAsc
    split
    · simp
    · simp [mem_insertAsc x r]

theorem mem_insertNew (x : Nat) (l : List Nat) : x ∈ execHintsucc.insertNew x l := by
  unfold execHintsucc.insertNew
  split
  · simp_all
  · exact mem_insertAsc x l

section
variable {s u : State} {k a b : SReg} {p : Spot} {bs : List Byte}

/-- CWAIT that reads its counter completes or waits by R132. -/
theorem execCwait_read (hr : Ready s [a, b]) (hf : fenceHeld s s.me = false)
    (hl : loadAt s .read (s.sreg a) 8 = (u, .ok (p, bs))) (yld : Bool) :
    execCwait a b yld s = if counterMet (BitVec.ofNat 64 (leNat bs)) (s.sreg b)
      then .next (issued u u.me (s.me.pc + 4) false) else .next { s with waited := true } := by
  rw [execCwait, scalarWord_plain_acts hr]
  simp only [hf, hl, Bool.false_eq_true, if_false]
  split <;> simp

/-- WAITV that reads its value completes or waits by its condition. -/
theorem execWaitv_read (hr : Ready s [a, b]) (hf : fenceHeld s s.me = false)
    (hl : loadAt s .read (s.sreg a) 8 = (u, .ok (p, bs))) {sc : Scope} {rmt : Bool} (hs : remoteOk rmt sc = true)
    (cond : WaitCond) :
    execWaitv k a b cond sc rmt s = if waitMet cond (BitVec.ofNat 64 (leNat bs)) (s.sreg b)
      then .next (issued u (u.withReg k (BitVec.ofNat 64 (leNat bs))) (s.me.pc + 4) false)
      else .next { s with waited := true } := by
  rw [execWaitv, legalWord, if_pos hs, scalarWord_plain_acts hr]
  simp only [hf, hl, Bool.false_eq_true, if_false]
  split <;> simp
end

/-- HINTSUCC adds its block to those of its grid. -/
theorem execHintsucc_notes {s : State} (hr : Ready s []) :
    ∃ t, execHintsucc s = .next (issued t t.me (s.me.pc + 4) false) ∧ t.mem = s.mem ∧ t.warps = s.warps ∧
      (s.myBlock.grid < s.grids.length → s.myBlock.idx ∈ t.myGrid.hints) := by
  refine ⟨_, (scalarWord_plain_acts hr).trans (out_done ..), rfl, rfl, fun hg => ?_⟩
  have : s.myBlock.grid < s.grids.length := hg
  simp only [State.myGrid, State.gridOf, State.me_setGrid, State.blockAt_setGrid]
  simp only [State.myBlock] at this
  simp [State.gridAt, State.setGrid, this, mem_insertNew, State.myBlock]

end Sys2Proof.Machine
namespace Sys2Proof.Certificates
open Sys2Proof.Machine

/-- Settles O32, word by word. -/
theorem waits : Obligations.Waits := by
  unfold Obligations.Waits
  intro s u k a b p bs
  refine ⟨fun hr hf yld cond sc rmt hs => ⟨?_, ?_⟩,
    fun hr hf hl => ⟨fun yld => ?_, fun sc rmt cond hs => ⟨fun hc => ?_, fun hc => ?_⟩⟩,
    fun hr => ⟨execHintsucc_notes hr, ?_⟩⟩
  · rw [exec, execCwait, scalarWord_plain_acts hr, if_pos hf, out_waits]
  · rw [exec, execWaitv, legalWord, if_pos hs, scalarWord_plain_acts hr, if_pos hf, out_waits]
  · rw [exec, execCwait_read hr hf hl]
    simp only [counterMet_iff]
  · rw [exec, execWaitv_read hr hf hl hs, if_pos ((waitMet_iff ..).mpr hc)]
  · rw [exec, execWaitv_read hr hf hl hs, if_neg (mt (waitMet_iff ..).mp hc)]
  · rw [exec, execWaitpred, scalarWord_plain_acts hr]
    simp only [Bool.and_eq_true]
    split <;> simp

end Sys2Proof.Certificates
end

section
/-!
The frame of a lane word: the operations of its monad, how its guard and mask are read, and what it does once it acts.
-/
namespace Sys2Proof.Machine

/-! ### The monad of a lane word -/

section
variable {α β : Type} {st t : LSt}

/-- A step that succeeds hands its value and state to the rest of the word. -/
theorem run_bind_ok {m : LM α} {x : α} (f : α → LM β) (h : m.run st = .ok (x, t)) :
    (m >>= f).run st = (f x).run t := by
  rw [StateT.run_bind, h]
  rfl

@[simp] theorem run_get_bind (f : LSt → LM β) : (get >>= f).run st = (f st).run st := rfl
@[simp] theorem run_pure (x : α) : (pure x : LM α).run st = .ok (x, st) := rfl
@[simp] theorem run_set (u : LSt) : (set u : LM PUnit).run st = .ok (⟨⟩, u) := rfl
@[simp] theorem run_modify (f : LSt → LSt) : (modify f : LM PUnit).run st = .ok (⟨⟩, f st) := rfl
@[simp] theorem run_block : block.run st = .ok ((), { st with blocked := true }) := rfl
@[simp] theorem run_needActive : needActive.run st = .ok (⟨st.act, fun m => m &&& st.e⟩, st) := rfl
@[simp] theorem run_needE : needE.run st = .ok (⟨st.e, fun m => m &&& st.e⟩, st) := rfl
@[simp] theorem run_tileT : tileT.run st = .ok (tileWidth (st.disp.ltile.getD st.s.me.ltile), st) := rfl

/-- A part that succeeds has its parts succeed one after the other. -/
theorem run_bind_eq_ok {m : LM α} {f : α → LM β} {y : β} (h : (m >>= f).run st = .ok (y, t)) :
    ∃ x u, m.run st = .ok (x, u) ∧ (f x).run u = .ok (y, t) := by
  rw [StateT.run_bind] at h
  cases hm : m.run st with
  | error e => rw [hm] at h; cases h
  | ok p => exact ⟨p.1, p.2, rfl, by rw [hm] at h; exact h⟩

/-- No lane raises a cause of no lanes. -/
theorem run_note_zero {r : Raise} {sites : List EccSite} (h : r.lanes = 0) : (note r sites).run st = .ok ((), st) := by
  simp only [note, run_get_bind, if_pos h]
  rfl

/-- A cause of some lanes is remembered, or a higher one is. -/
theorem run_note_some {r : Raise} {sites : List EccSite} (h : r.lanes ≠ 0) :
    ∃ x, (note r sites).run st = .ok ((), { st with cand := some x }) := by
  simp only [note, run_get_bind, if_neg h]
  cases hc : st.cand with
  | none => exact ⟨_, rfl⟩
  | some x =>
    dsimp only
    split
    · exact ⟨_, rfl⟩
    · split
      · exact ⟨_, rfl⟩
      · exact ⟨x, by rw [← hc]; rfl⟩

/-- The first cause of a word stands as it was noted. -/
theorem run_note_first {r : Raise} {sites : List EccSite} (h : r.lanes ≠ 0) (hc : st.cand = none) :
    (note r sites).run st = .ok ((), { st with cand := some (r, sites) }) := by
  simp only [note, run_get_bind, if_neg h, hc]
  rfl

/-- A note leaves the chosen cause none only where no lane raises it. -/
theorem note_quiet {r : Raise} {sites : List EccSite} {u : Unit} (h : (note r sites).run st = .ok (u, t))
    (ht : t.cand = none) : r.lanes = 0 ∧ t = st := by
  by_cases hl : r.lanes = 0
  · rw [run_note_zero hl] at h
    cases h
    exact ⟨hl, rfl⟩
  · obtain ⟨x, hx⟩ := run_note_some (st := st) (sites := sites) hl
    rw [hx] at h
    cases h
    cases ht

/-- A word with nothing to wait for, no cause and the rows it needs goes on (R16, R51, R162). -/
theorem run_settle_ok (hc : st.cand = none) (hb : st.blocked = false) (hs : st.short = false) :
    settle.run st = .ok ((), st) := by
  simp [settle, sync, hc, hb, hs]
  rfl

theorem run_sync_ok (hb : st.blocked = false) : sync.run st = .ok ((), st) := by
  simp [sync, hb]
  rfl

/-- A word with nothing to wait for raises the cause that stands. -/
theorem run_settle_raises {r : Raise} {sites : List EccSite} (hc : st.cand = some (r, sites)) (hb : st.blocked = false) :
    settle.run st = .error (.raises st.s r sites st.popped) := by
  simp [settle, sync, hc, hb]
  rfl
end

/-! ### Reading a predicate in fewer lanes -/

/-- The lanes of a set that errors of a register lie in. -/
theorem getLsbD_foldl_or {α : Type} (f : α → Mask) (l : List α) (acc : Mask) (n : Nat) :
    (l.foldl (fun acc e => acc ||| f e) acc).getLsbD n = true ↔
      acc.getLsbD n = true ∨ ∃ e ∈ l, (f e).getLsbD n = true := by
  induction l generalizing acc with
  | nil => simp
  | cons x l ih => simp [ih, or_assoc]

/-- No bit of the one mask but those of the other. -/
def within (m n : Mask) : Prop := ∀ i, m.getLsbD i = true → n.getLsbD i = true

theorem within_and (m n : Mask) : within (m &&& n) m := fun i h => by simp_all

theorem within_refl (m : Mask) : within m m := fun _ h => h

theorem within_trans {a b c : Mask} (h : within a b) (g : within b c) : within a c := fun i hi => g i (h i hi)

theorem eq_zero_of_within {m n : Mask} (h : within m n) (hn : n = 0) : m = 0 := by
  apply BitVec.eq_of_getLsbD_eq
  intro i _
  cases hi : m.getLsbD i with
  | false => simp
  | true => have := h i hi; simp [hn] at this

theorem within_and_and {a b c d : Mask} (h : within a b) (g : within c d) : within (a &&& c) (b &&& d) := by
  intro i hi
  simp only [BitVec.getLsbD_and, Bool.and_eq_true] at hi ⊢
  exact ⟨h i hi.1, g i hi.2⟩

/-- The lanes, among those needed, in which the storage of a register is in error. -/
def eccLanes (k : Nat) (r : LReg) (row : Option (Nat × Nat)) (sites : List EccSite) (need : Mask) : Mask :=
  (sites.filter fun e => (siteLanes k r row e).any fun m => m &&& need != 0).foldl
    (fun acc e => acc ||| (siteLanes k r row e).getD 0) 0 &&& need

theorem eccLanes_within {k : Nat} {r : LReg} {row : Option (Nat × Nat)} {sites : List EccSite} {m n : Mask}
    (h : within m n) : within (eccLanes k r row sites m) (eccLanes k r row sites n) := by
  refine within_and_and (fun i hi => ?_) h
  rw [getLsbD_foldl_or] at hi ⊢
  refine hi.imp id fun ⟨e, he, hb⟩ => ⟨e, ?_, hb⟩
  simp only [List.mem_filter, Option.any_eq_true, bne_iff_ne] at he ⊢
  obtain ⟨hm, x, hx, hne⟩ := he
  exact ⟨hm, x, hx, fun h0 => hne (eq_zero_of_within (within_and_and (within_refl x) h) h0)⟩

section
variable {α : Type} {st u : LSt}

theorem run_checkEcc (r : LReg) (row : Option (Nat × Nat)) (need : Need) :
    (checkEcc r row need).run st = (note ⟨cECC_REG, 0, need.blame (eccLanes st.s.cur r row st.s.poison need.lanes), false⟩
      (st.s.poison.filter fun e => (siteLanes st.s.cur r row e).any fun m => m &&& need.lanes != 0)).run st := rfl

/-- A register is taken without a wait or a cause only where no lane needed is to come (R16). -/
theorem take_quiet {need : Need} {x : Seen α} {v : α} (h : (take need x).run st = .ok (v, u)) (hc : u.cand = none)
    (hb : u.blocked = false) :
    x.waits &&& need.lanes = 0 ∧ (st.disp.chk = true → need.blame (x.early &&& need.lanes) = 0) ∧ v = x.val ∧ u = st := by
  have hw : x.waits &&& need.lanes = 0 := by
    by_contra hne
    simp only [take, run_get_bind, if_pos hne] at h
    rw [run_bind_ok _ run_block] at h
    split at h
    · obtain ⟨_, t, ht, h⟩ := run_bind_eq_ok h
      by_cases hl : need.blame (x.early &&& need.lanes) = 0
      · rw [run_note_zero hl] at ht
        cases ht; cases h; cases hb
      · obtain ⟨y, hy⟩ := run_note_some (st := { st with blocked := true })
          (r := ⟨cSTALL_SHORT, 0, need.blame (x.early &&& need.lanes), false⟩) (sites := []) hl
        rw [hy] at ht
        cases ht; cases h; cases hb
    · cases h; cases hb
  simp only [take, run_get_bind, hw, ne_eq, not_true_eq_false, if_false] at h
  split at h
  · obtain ⟨_, t, ht, h⟩ := run_bind_eq_ok h
    cases h
    obtain ⟨hl, rfl⟩ := note_quiet ht hc
    exact ⟨hw, fun _ => hl, rfl, rfl⟩
  · cases h
    exact ⟨hw, fun hk => absurd hk (by assumption), rfl, rfl⟩

theorem run_take_ok {need : Need} {x : Seen α} (hw : x.waits &&& need.lanes = 0)
    (hs : st.disp.chk = true → need.blame (x.early &&& need.lanes) = 0) : (take need x).run st = .ok (x.val, st) := by
  simp only [take, run_get_bind, hw, ne_eq, not_true_eq_false, if_false]
  split
  · rw [run_bind_ok _ (run_note_zero (hs (by assumption)))]
    rfl
  · rfl

/-- A predicate that the guard's lanes read with no cause and no wait is read so, with the same value, in fewer of
them. -/
theorem readPred_fewer {p : PCode} {g : Mask} (h : (readPred p).run st = .ok (g, st)) (hc : st.cand = none)
    (hb : st.blocked = false) {v : LSt} (hs : v.s = st.s) (hd : v.disp = st.disp) (ha : within v.act st.act)
    (he : within v.e st.e) : (readPred p).run v = .ok (g, v) := by
  rw [readPred, run_bind_ok _ run_needActive] at h ⊢
  simp only [readPredIn, run_get_bind, hs] at h ⊢
  split at h
  · next hp =>
    cases h
    rw [if_pos hp]
    rfl
  · next hp =>
    rw [if_neg hp]
    split at h
    · next h0 =>
      cases h
      rw [if_pos h0]
      rfl
    · next h0 =>
      rw [if_neg h0]
      obtain ⟨_, t, ht, h⟩ := run_bind_eq_ok h
      obtain ⟨hw, hk, rfl, rfl⟩ := take_quiet h hc hb
      rw [run_checkEcc] at ht
      have hl := (note_quiet ht hc).1
      rw [run_bind_ok (t := v) (x := ())]
      · refine run_take_ok (eq_zero_of_within (within_and_and (within_refl _) ha) hw) fun hv => ?_
        exact eq_zero_of_within (within_and_and (within_and_and (within_refl _) ha) he) (hk (hd ▸ hv))
      · rw [run_checkEcc, run_note_zero]
        rw [hs]
        exact eq_zero_of_within (within_and_and (eccLanes_within ha) he) hl
end

/-! ### What a predicate code reads (R41, R55, R184) -/

section
variable {st u : LSt} {p : PCode} {g : Mask}

theorem readPred_stage (hp : 12 ≤ p.toNat) : (readPred p).run st = .ok (stagePred st.s st.s.me (p.toNat - 12), st) := by
  simp [readPred, run_bind_ok _ run_needActive, readPredIn, hp]
  rfl

theorem readPred_true : (readPred 0).run st = .ok (0xFFFF_FFFF, st) := by
  simp [readPred, readPredIn]

/-- With nothing in flight p1 to p11 read their registers. -/
theorem readPred_register (hp : p.toNat < 12) (h0 : p ≠ 0) (hi : st.s.me.inflight = [])
    (h : (readPred p).run st = .ok (g, u)) (hc : u.cand = none) (hb : u.blocked = false) : g = st.s.me.preg p.toNat := by
  rw [readPred, run_bind_ok _ run_needActive] at h
  simp only [readPredIn, run_get_bind, Nat.not_le.mpr hp, h0, if_false, hi, see] at h
  obtain ⟨_, t, _, h⟩ := run_bind_eq_ok h
  exact (take_quiet h hc hb).2.2.1
end

/-! ### The issue of a lane word -/

/-- Every lane word is issued by `laneWord` with its own control fields and its own legality. -/
theorem exec_lane {i : Instr} {c : LCtl} {f : LFields} (h : encodeLFields i = some (c, f)) :
    ∃ k body, ∀ s, exec i s = laneWord k c i.wf body s := by
  cases i <;> simp only [encodeLFields, reduceCtorEq, Option.some.injEq, Prod.mk.injEq] at h
  all_goals
    obtain ⟨rfl, -⟩ := h
    exact ⟨_, _, fun _ => rfl⟩

section
variable {s : State} {d : Dispatch} {c : LCtl} {k : LKind} {legal : Bool} {body : LM Unit}

theorem readGuard_zero (h : d.mask s.me = 0) : readGuard s d c = some 0 := by
  simp [readGuard, h]

theorem readGuard_got {g : Mask} (hm : d.mask s.me ≠ 0)
    (h : Got (readPred c.g) (.start s d (d.mask s.me)) g (.start s d (d.mask s.me))) :
    readGuard s d c = some (d.mask s.me &&& g) := by
  obtain ⟨hrun, _, hb, _⟩ := h
  simp only [readGuard, if_neg hm, hrun, hb, Bool.false_eq_true, if_false]

variable (hr : canRun s = true) (hu : s.me.sup = false) (hl : s.me.laneBlock = some d) (ht : s.me.laneAt ≤ s.cycle)
include hr hu hl ht

/-- A lane word with no active lane is skipped (R17). -/
theorem laneWord_skips (hg : readGuard s d c = some 0) : laneWord k c legal body s = .next (laneSkip c s) := by
  simp [laneWord, laneIssue, hl, hr, hu, Nat.not_lt.mpr ht, hg]

/-- An ill-formed lane word raises ILLEGAL in its active lanes (R190). -/
theorem laneWord_illegal {act g : Mask} (hg : readGuard s d c = some act) (ha : act ≠ 0)
    (hp : (readPred c.g).run (LSt.start s d act) = .ok (g, .start s d act)) :
    laneWord k c false body s = raiseLane s s d.addr ⟨cILLEGAL, 0, act, false⟩ [] [] := by
  have hnote : (noteHere cILLEGAL).run (LSt.start s d act) =
      .ok ((), { LSt.start s d act with cand := some (⟨cILLEGAL, 0, act, false⟩, []) }) := by
    rw [noteHere, run_get_bind, run_note_first ha rfl]
    rfl
  have hrun : (do let _ ← readPred c.g; noteHere cILLEGAL; settle : LM Unit).run (LSt.start s d act) =
      .error (.raises s ⟨cILLEGAL, 0, act, false⟩ [] []) := by
    rw [run_bind_ok _ hp, run_bind_ok _ hnote]
    exact run_settle_raises rfl rfl
  simp only [laneWord, laneIssue, hl, hr, hu, Nat.not_lt.mpr ht, hg, ha, hrun, Bool.not_true, Bool.or_self,
    Bool.false_eq_true, if_false, Bool.not_false, if_true]
end

theorem start_within (s : State) (d : Dispatch) (m g : Mask) : within (LSt.start s d (m &&& g)).act (LSt.start s d m).act :=
  within_and m g

end Sys2Proof.Machine
namespace Sys2Proof.Certificates
open Sys2Proof.Machine

/-- Settles O41, from how the guard is read. -/
theorem laneGuard : Obligations.LaneGuard := by
  unfold Obligations.LaneGuard
  intro s d i c f hi hr hu hl ht
  obtain ⟨k, body, hx⟩ := exec_lane hi
  refine ⟨fun h0 => (hx s).trans (laneWord_skips hr hu hl ht (readGuard_zero h0)), fun g hm hg => ?_⟩
  have hguard := readGuard_got hm hg
  obtain ⟨hrun, hc, hb, _⟩ := hg
  refine ⟨fun h0 => (hx s).trans (laneWord_skips hr hu hl ht (h0 ▸ hguard)), fun h0 hw => ?_, fun h0 => ?_,
    fun hf h1 h2 => ?_, fun h1 hs => ?_, fun cr n h1 hs => ?_⟩
  · rw [hx, hw]
    exact laneWord_illegal hr hu hl ht hguard h0 (readPred_fewer hrun hc hb rfl rfl (within_and _ _) (within_and _ _))
  · rw [h0, readPred_true] at hrun
    cases hrun
    rfl
  · exact readPred_register h2 (fun h => by simp [h] at h1) hf hrun hc hb
  · rw [readPred_stage h1] at hrun
    cases hrun
    simp only [LSt.start, stagePred, hs]
  · rw [readPred_stage h1] at hrun
    cases hrun
    simp only [LSt.start, stagePred, hs]
    by_cases h0 : (s.crewAt cr).n = 0 <;> simp [h0]

end Sys2Proof.Certificates
end

section
/-!
What a lane word that acts keeps while it reads its operands and gives its results (R17, R218): the lanes it acts in,
the machine but for its warp, and its warp but for the queues.
-/
namespace Sys2Proof.Machine

/-- The same warp, but for what stands in the queues between the streams and what its reads of window slots have taken. -/
def Kept (w u : Warp) : Prop :=
  ∃ dq xq bq held reads, u = { w with dq := dq, xq := xq, bq := bq, held := held, reads := reads }

theorem kept_refl (w : Warp) : Kept w w := ⟨w.dq, w.xq, w.bq, w.held, w.reads, rfl⟩

theorem kept_trans {w u v : Warp} (h : Kept w u) (g : Kept u v) : Kept w v := by
  obtain ⟨_, _, _, _, _, rfl⟩ := h
  obtain ⟨_, _, _, _, _, rfl⟩ := g
  exact ⟨_, _, _, _, _, rfl⟩

/-- A part of a lane word that acts for its own warp, in the same lanes. -/
structure Stays (st t : LSt) : Prop where
  disp : t.disp = st.disp
  act : t.act = st.act
  e : t.e = st.e
  zero : t.zero = st.zero
  only : t.s = st.s ∨ ∃ w, t.s = st.s.setMe w
  kept : Kept st.s.me t.s.me

theorem stays_refl (st : LSt) : Stays st st := ⟨rfl, rfl, rfl, rfl, .inl rfl, kept_refl _⟩

theorem stays_trans {a b c : LSt} (h : Stays a b) (g : Stays b c) : Stays a c := by
  refine ⟨g.disp.trans h.disp, g.act.trans h.act, g.e.trans h.e, g.zero.trans h.zero, ?_, kept_trans h.kept g.kept⟩
  obtain hb | ⟨w, hb⟩ := h.only
  · exact hb ▸ g.only
  · obtain hc | ⟨v, hc⟩ := g.only
    · exact .inr ⟨w, hc.trans hb⟩
    · exact .inr ⟨v, by rw [hc, hb]; simp⟩

/-- A word's part that keeps the machine keeps it in the terms of `Stays`. -/
theorem stays_of_same {st t : LSt} (hs : t.s = st.s) (hd : t.disp = st.disp) (ha : t.act = st.act) (he : t.e = st.e)
    (hz : t.zero = st.zero) : Stays st t := ⟨hd, ha, he, hz, .inl hs, hs ▸ kept_refl _⟩

/-- A word's part that changes its warp's queues alone. -/
theorem stays_of_warp {st t : LSt} {w : Warp} (hs : t.s = st.s.setMe w) (hw : Kept st.s.me w) (hd : t.disp = st.disp)
    (ha : t.act = st.act) (he : t.e = st.e) (hz : t.zero = st.zero) : Stays st t :=
  ⟨hd, ha, he, hz, .inr ⟨w, hs⟩, by rw [hs]; simpa using hw⟩

/-- A part of a lane word that stays, where it goes on at all. -/
def Keeps {α : Type} (m : LM α) : Prop := ∀ st x t, m.run st = .ok (x, t) → Stays st t

section
variable {α β : Type}

theorem keeps_pure (x : α) : Keeps (pure x) := fun st _ _ h => by cases h; exact stays_refl st

theorem keeps_bind {m : LM α} {f : α → LM β} (hm : Keeps m) (hf : ∀ x, Keeps (f x)) : Keeps (m >>= f) := by
  intro st y t h
  obtain ⟨x, u, hx, hy⟩ := run_bind_eq_ok h
  exact stays_trans (hm _ _ _ hx) (hf x _ _ _ hy)

theorem keeps_get_bind {f : LSt → LM β} (hf : ∀ st, Keeps (f st)) : Keeps (get >>= f) :=
  fun st x t h => hf st st x t h

/-- A part that reads the word's state and goes on from it. -/
theorem keeps_get_at {f : LSt → LM β} (hf : ∀ st x t, (f st).run st = .ok (x, t) → Stays st t) : Keeps (get >>= f) := hf

theorem keeps_ite {p : Prop} [Decidable p] {m n : LM α} (hm : p → Keeps m) (hn : ¬ p → Keeps n) :
    Keeps (if p then m else n) := by
  split
  · exact hm ‹_›
  · exact hn ‹_›

theorem keeps_modify {f : LSt → LSt} (hf : ∀ st, Stays st (f st)) : Keeps (modify f) :=
  fun st _ _ h => by cases h; exact hf st

theorem keeps_needActive : Keeps needActive := keeps_get_bind fun _ => keeps_pure _
theorem keeps_needE : Keeps needE := keeps_get_bind fun _ => keeps_pure _
theorem keeps_needWhole : Keeps needWhole := keeps_get_bind fun _ => keeps_pure _
theorem keeps_tileT : Keeps tileT := keeps_get_bind fun _ => keeps_pure _
theorem keeps_block : Keeps block := keeps_modify fun _ => stays_of_same rfl rfl rfl rfl rfl
theorem keeps_wait : Keeps (wait : LM α) := fun _ _ _ h => by cases h

theorem keeps_note (r : Raise) (sites : List EccSite) : Keeps (note r sites) := by
  intro st x t h
  by_cases hl : r.lanes = 0
  · rw [run_note_zero hl] at h
    cases h
    exact stays_refl _
  · obtain ⟨y, hy⟩ := run_note_some (st := st) (sites := sites) hl
    rw [hy] at h
    cases h
    exact stays_of_same rfl rfl rfl rfl rfl

theorem keeps_noteHere (c : Cause) : Keeps (noteHere c) := keeps_get_bind fun _ => keeps_note _ _
theorem keeps_noteStuck : Keeps noteStuck := keeps_get_bind fun _ => keeps_note _ _

theorem keeps_sync : Keeps sync :=
  keeps_get_bind fun _ => keeps_ite (fun _ => keeps_wait) fun _ => keeps_pure _

theorem keeps_settle : Keeps settle := by
  refine keeps_bind keeps_sync fun _ => keeps_get_bind fun st => ?_
  cases st.cand with
  | some x => exact fun _ _ _ h => by cases h
  | none => exact keeps_ite (fun _ => keeps_wait) fun _ => keeps_pure _

theorem keeps_fail (r : Raise) : Keeps (fail r) := keeps_bind (keeps_note _ _) fun _ => keeps_settle

/-! ### Reading registers -/

theorem keeps_checkEcc (r : LReg) (row : Option (Nat × Nat)) (need : Need) : Keeps (checkEcc r row need) :=
  keeps_get_bind fun _ => keeps_get_bind fun _ => keeps_note _ _

theorem keeps_noteEcc (r : LReg) (row : Option (Nat × Nat)) (need : Need) (sites : List EccSite) :
    Keeps (noteEcc r row need sites) := keeps_get_bind fun _ => keeps_note _ _

/-- A part that may first do another and then goes on. -/
theorem keeps_first {p : Prop} [Decidable p] {m : LM PUnit} {f : PUnit → LM α} (hm : p → Keeps m) (hf : ∀ x, Keeps (f x)) :
    Keeps (if p then m >>= f else f ⟨⟩) :=
  keeps_ite (fun h => keeps_bind (hm h) hf) fun _ => hf ⟨⟩

/-- A part that sets the word's state and goes on from there. -/
theorem stays_set_bind {st u t : LSt} {f : PUnit → LM α} {x : α} (h : (set u >>= f).run st = .ok (x, t)) (hu : Stays st u)
    (hf : Keeps (f ⟨⟩)) : Stays st t := stays_trans hu (hf _ _ _ h)

theorem stays_set_first {p : Prop} [Decidable p] {st u t : LSt} {f : PUnit → LM α} {x : α}
    (h : (if p then set u >>= f else f ⟨⟩).run st = .ok (x, t)) (hu : Stays st u) (hf : Keeps (f ⟨⟩)) : Stays st t := by
  split at h
  · exact stays_set_bind h hu hf
  · exact hf _ _ _ h

theorem keeps_take (need : Need) (x : Seen α) : Keeps (take need x) :=
  keeps_get_bind fun _ => keeps_first (fun _ => keeps_block) fun _ =>
    keeps_first (fun _ => keeps_note _ _) fun _ => keeps_pure _

theorem keeps_readPredIn (need : Need) (c : PCode) : Keeps (readPredIn need c) :=
  keeps_get_bind fun _ => keeps_ite (fun _ => keeps_pure _) fun _ => keeps_ite (fun _ => keeps_pure _) fun _ =>
    keeps_bind (keeps_checkEcc _ _ _) fun _ => keeps_take _ _

theorem keeps_readPred (c : PCode) : Keeps (readPred c) := keeps_bind keeps_needActive fun _ => keeps_readPredIn _ _

theorem keeps_readPresent (cr : Crew) (slot : Nat) (need : Need) : Keeps (readPresent cr slot need) := by
  refine keeps_get_at fun st x t h => ?_
  exact stays_set_bind h (stays_of_warp rfl ⟨_, _, _, _, _, rfl⟩ rfl rfl rfl rfl)
    (keeps_first (fun _ => keeps_block) fun _ => keeps_pure _)

theorem keeps_readWindow (c k j : Nat) (need : Need) : Keeps (readWindow c k j need) := by
  refine keeps_get_bind fun st => keeps_ite (fun _ => keeps_bind (keeps_noteHere _) fun _ => keeps_pure _) fun _ => ?_
  refine keeps_bind (keeps_checkEcc _ _ _) fun _ => keeps_ite (fun _ => ?_) fun _ =>
    keeps_ite (fun _ => keeps_pure _) fun _ => keeps_readPresent _ _ _
  exact keeps_ite (fun _ => keeps_bind (keeps_checkEcc _ _ _) fun _ => keeps_take _ _) fun _ => keeps_take _ _

theorem keeps_windowFault (x : α) : Keeps (do noteHere cWINDOW; pure x : LM α) :=
  keeps_bind (keeps_noteHere _) fun _ => keeps_pure _

theorem keeps_readName (i : Nat) (need : Need) : Keeps (readName i need) := by
  refine keeps_get_bind fun st => keeps_ite
    (fun _ => keeps_ite (fun _ => keeps_bind (keeps_checkEcc _ _ _) fun _ => keeps_take _ _) fun _ => keeps_windowFault _)
    fun _ => keeps_ite (fun _ => keeps_windowFault _) fun _ => ?_
  cases st.s.me.stroke with
  | some x => exact keeps_readWindow _ _ _ _
  | none => exact keeps_ite (fun _ => keeps_windowFault _) fun _ => keeps_bind (keeps_checkEcc _ _ _) fun _ => keeps_take _ _

theorem keeps_nameTarget (i : Nat) : Keeps (nameTarget i) := by
  refine keeps_get_at fun st x t h => ?_
  have named : Keeps (do noteHere cWINDOW; pure none : LM (Option VTarget)) := keeps_windowFault _
  by_cases hi : i < 256
  · simp only [if_pos hi] at h
    exact keeps_ite (fun _ => keeps_pure _) (fun _ => named) _ _ _ h
  · simp only [if_neg hi] at h
    by_cases hc : (!(recordOf st.s st.s.me).crew || st.s.me.hosts.isSome) = true
    · rw [if_pos hc] at h
      exact named _ _ _ h
    · rw [if_neg hc] at h
      cases hk : st.s.me.stroke with
      | some x =>
        rw [hk] at h
        exact keeps_ite (fun _ => keeps_pure _) (fun _ => named) _ _ _ h
      | none =>
        rw [hk] at h
        exact stays_set_first h (stays_of_same rfl rfl rfl rfl rfl) (keeps_pure _)

theorem nextEntry_kept {w u : Warp} {q : Nat} {x : DqEntry} (h : w.nextEntry q = some (x, u)) : Kept w u := by
  unfold Warp.nextEntry at h
  split at h
  · cases h
    exact ⟨_, _, _, _, _, rfl⟩
  · dsimp only at h
    split at h
    · cases h
      exact ⟨_, _, _, _, _, rfl⟩
    · cases h

theorem keeps_popDq (q : Nat) : Keeps (popDq q) := by
  refine keeps_get_at fun st x t h => ?_
  cases hn : st.s.me.nextEntry q with
  | some y =>
    rw [hn] at h
    refine stays_set_bind h (stays_of_warp rfl (nextEntry_kept hn) rfl rfl rfl rfl) ?_
    cases y.1.fault with
    | some z => exact keeps_bind (keeps_note _ _) fun _ => keeps_pure _
    | none => exact keeps_pure _
  | none =>
    rw [hn] at h
    have go : ∀ u, Keeps ((fun _ => pure zeroLanes : PUnit → LM Lanes) u) := fun _ => keeps_pure _
    exact keeps_ite (fun _ => keeps_bind keeps_noteStuck go) (fun _ => keeps_bind keeps_block go) _ _ _ h

theorem keeps_readOper (i : Nat) (need : Need) : Keeps (readOper i need) :=
  keeps_get_bind fun _ => keeps_bind (keeps_checkEcc _ _ _) fun _ => keeps_take _ _

theorem keeps_readLast (i : Nat) (need : Need) : Keeps (readLast i need) :=
  keeps_get_bind fun _ => keeps_bind (keeps_noteEcc _ _ _ _) fun _ => keeps_take _ _

theorem keeps_pairing {f : Nat → LM Lanes} (hf : ∀ i, Keeps (f i)) (pair : Bool) (i : Nat) :
    Keeps (do let lo ← f i; if pair then do let hi ← f (i + 1); pure (paired lo hi) else pure (single lo) : LM Vals) :=
  keeps_bind (hf _) fun _ => keeps_ite (fun _ => keeps_bind (hf _) fun _ => keeps_pure _) fun _ => keeps_pure _

theorem keeps_readOp (pair : Bool) (o : Opnd) (need : Need) : Keeps (readOp pair o need) := by
  cases o with
  | v i => exact keeps_pairing (fun j => keeps_readName j need) _ _
  | o i => exact keeps_pairing (fun j => keeps_readOper j need) _ _
  | l i => exact keeps_pairing (fun j => keeps_readLast j need) _ _
  | dq q => exact keeps_bind (keeps_popDq _) fun _ => keeps_pure _
  | xq => exact keeps_pure _
  | zero => exact keeps_pure _

theorem keeps_readE (pair : Bool) (o : Opnd) : Keeps (readE pair o) := keeps_bind keeps_needActive fun _ => keeps_readOp _ _ _

theorem keeps_readMoved (pair : Bool) (o : Opnd) : Keeps (readMoved pair o) := keeps_bind keeps_needE fun _ => keeps_readOp _ _ _

theorem keeps_readB (pair : Bool) (b : BSrc) : Keeps (readB pair b) := by
  cases b with
  | op o => exact keeps_readE _ _
  | imm i => exact keeps_pure _

theorem keeps_readFourth (c : LCtl) : Keeps (readFourth c) := by
  unfold readFourth
  cases c.pfx with
  | none => exact keeps_pure _
  | some p => exact keeps_bind (keeps_readE _ _) fun _ => keeps_pure _

theorem keeps_readHv (i : BitVec 3) : Keeps (readHv i) :=
  keeps_get_bind fun _ => keeps_bind keeps_needWhole fun _ => keeps_bind (keeps_checkEcc _ _ _) fun _ => keeps_take _ _

theorem keeps_readBun (i : BitVec 1) : Keeps (readBun i) :=
  keeps_get_bind fun _ => keeps_bind keeps_needWhole fun _ => keeps_bind (keeps_checkEcc _ _ _) fun _ => keeps_take _ _

/-! ### Destinations and results -/

theorem keeps_needXq : Keeps needXq :=
  keeps_get_bind fun _ => keeps_ite (fun _ => keeps_pure _) fun _ => keeps_ite (fun _ => keeps_noteStuck) fun _ => keeps_block

theorem keeps_prepare (pair : Bool) (d : Opnd) : Keeps (prepare pair d) := by
  cases d with
  | v i =>
    refine keeps_bind (keeps_nameTarget _) fun _ => ?_
    exact keeps_ite (fun _ => keeps_bind (keeps_nameTarget _) fun _ => keeps_pure _) fun _ => keeps_bind (keeps_pure _) fun _ => keeps_pure _
  | xq => exact keeps_bind keeps_needXq fun _ => keeps_pure _
  | o i => exact keeps_pure _
  | l i => exact keeps_pure _
  | dq q => exact keeps_pure _
  | zero => exact keeps_pure _

theorem keeps_emit (ty : BitVec 4) (pair : Bool) (dst : Dst) (val : Vals) : Keeps (emit ty pair dst val) := by
  refine keeps_get_at fun st x t h => ?_
  cases h
  cases dst with
  | xq => exact stays_of_warp rfl ⟨_, _, _, _, _, rfl⟩ rfl rfl rfl rfl
  | vec lo hi => exact stays_of_same rfl rfl rfl rfl rfl
  | none => exact stays_of_same rfl rfl rfl rfl rfl

theorem keeps_emitPred (t : PCode) (bits : BitVec 32) : Keeps (emitPred t bits) := by
  refine keeps_get_at fun st x u h => ?_
  dsimp only at h
  split at h
  · exact keeps_pure _ _ _ _ h
  · cases h
    exact stays_of_same rfl rfl rfl rfl rfl

theorem keeps_emitHv (i : BitVec 3) (x : HVec) : Keeps (emitHv i x) := keeps_modify fun _ => stays_of_same rfl rfl rfl rfl rfl
theorem keeps_emitBun (i : BitVec 1) (x : Bundle) : Keeps (emitBun i x) := keeps_modify fun _ => stays_of_same rfl rfl rfl rfl rfl
theorem keeps_raiseFlags (f : Flags) : Keeps (raiseFlags f) := keeps_modify fun _ => stays_of_same rfl rfl rfl rfl rfl

end

end Sys2Proof.Machine
end

section
/-!
The words that compare and that write predicates and EXM (R224, R225, R227), once they act.
-/
namespace Sys2Proof.Machine

/-! ### A lane word that acts -/

section
variable {s : State} {c : LCtl} {d : Dispatch} {act e : Mask} {k : LKind} {body : LM Unit} {t : LSt}

/-- The causes of reading the guard and the mask are none where both are read with none. -/
theorem laneIssue_acts (h : LaneActs s c d act e) (hk : k.commits = true → uncommitted s s.me = none) :
    laneIssue k c true s = .acts (started s c d act e) := by
  obtain ⟨hr, hu, hl, ht, ha, ⟨g, hg, rfl⟩, hm⟩ := h
  have hexm : d.mask s.me ≠ 0 := fun h0 => ha (by rw [h0]; simp)
  have hguard := readGuard_got hexm hg
  obtain ⟨hgr, hgc, hgb, _⟩ := hg
  have hcommit : (k.commits && (uncommitted s s.me).isSome) = false := by cases hc : k.commits <;> simp_all
  have hagain : ∀ m z, within m (d.mask s.me &&& g) → (readPred c.g).run
      { LSt.start s d (d.mask s.me &&& g) with e := m, zero := z } =
        .ok (g, { LSt.start s d (d.mask s.me &&& g) with e := m, zero := z }) := fun m z hw =>
    readPred_fewer hgr hgc hgb rfl rfl (within_and _ _) (within_trans hw (within_and _ _))
  have hmask : readMask s d c (d.mask s.me &&& g) = some e ∧
      (noteGuard c).run { LSt.start s d (d.mask s.me &&& g) with e := e, zero := c.pfx.any (·.zero) } =
        .ok ((), started s c d (d.mask s.me &&& g) e) := by
    cases hp : c.pfx with
    | none =>
      rw [hp] at hm
      subst hm
      refine ⟨by simp [readMask, hp], (run_bind_ok _ (hagain _ _ (within_refl _))).trans ?_⟩
      simp only [hp, started]
      rfl
    | some p =>
      rw [hp] at hm
      obtain ⟨m, ⟨hmr, hmc, hmb, _⟩, rfl⟩ := hm
      refine ⟨?_, (run_bind_ok _ (hagain _ _ (within_and _ _))).trans ?_⟩
      · simp only [readMask, hp]
        rw [show LSt.start s d (d.mask s.me &&& g) = { LSt.start s d (d.mask s.me) with
          act := d.mask s.me &&& g, e := d.mask s.me &&& g } from rfl, hmr]
        simp [LSt.start]
      · have hmask : (readPred p.mask).run
            { LSt.start s d (d.mask s.me &&& g) with e := d.mask s.me &&& g &&& m, zero := p.zero } =
              .ok (m, { LSt.start s d (d.mask s.me &&& g) with e := d.mask s.me &&& g &&& m, zero := p.zero }) :=
          readPred_fewer hmr hmc hmb rfl rfl (within_refl _) (within_and _ _)
        simp only [hp]
        refine (run_bind_ok _ hmask).trans ?_
        simp only [started, hp]
        rfl
  simp only [laneIssue, hl, hr, hu, Nat.not_lt.mpr ht, hguard, ha, hcommit, hmask.1, hmask.2, Bool.not_true,
    Bool.or_self, Bool.false_eq_true, if_false]

/-- A lane word that acts ends with what its body leaves. -/
theorem laneWord_done (h : LaneActs s c d act e) (hk : k.commits = true → uncommitted s s.me = none)
    (hb : body.run (started s c d act e) = .ok ((), t)) : laneWord k c true body s = .next (laneFinish k c t) := by
  simp only [laneWord, laneIssue_acts h hk, hb]

/-- The operands of a word that acts stay in its lanes. -/
theorem started_stays {st : LSt} (h : Stays (started s c d act e) st) :
    st.disp = d ∧ st.act = act ∧ st.e = e ∧ st.zero = (started s c d act e).zero := ⟨h.disp, h.act, h.e, h.zero⟩
end

/-- Operands that are got are settled with no cause. -/
theorem Got.settle {α : Type} {m : LM α} {st t : LSt} {x : α} (h : Got m st x t) : settle.run t = .ok ((), t) :=
  run_settle_ok h.2.1 h.2.2.1 h.2.2.2

/-! ### Masks as sets of lanes -/

theorem shift_one_bit (i n : LaneIx) : (1#32 <<< i.val).getLsbD n.val = decide (i = n) := by
  revert i n
  decide

theorem getLsbD_foldl_mask (f : LaneIx → Bool) (l : List LaneIx) (acc : Mask) (n : LaneIx) :
    (l.foldl (fun acc i => if f i then acc ||| (1#32 <<< i.val) else acc) acc).getLsbD n.val =
      (acc.getLsbD n.val || (l.contains n && f n)) := by
  induction l generalizing acc with
  | nil => simp
  | cons i l ih =>
    rw [List.foldl_cons, ih, List.contains_cons]
    have hbit := shift_one_bit i n
    by_cases hin : i = n
    · subst hin
      cases hf : f i <;> simp
    · have : (n == i) = false := by simpa using Ne.symm hin
      cases hf : f i <;> simp only [BitVec.getLsbD_or, hbit, hin, this, decide_false, Bool.or_false, Bool.false_or, if_true,
        if_false, Bool.false_eq_true]

/-- A mask made from a test holds the lanes of the test. -/
@[simp] theorem inMask_mkMask (f : LaneIx → Bool) (n : LaneIx) : inMask (mkMask f) n = f n := by
  rw [inMask, mkMask, getLsbD_foldl_mask]
  simp

/-! ### Writing predicates -/

/-- The writes of a predicate word: its target in the lanes it writes, p0 discarding them (R55, R220). -/
def predWrites (st : LSt) (t : PCode) (bits : Mask) (ws : List LWrite) : List LWrite :=
  if t = 0 then ws else ws ++ [.pred t.toNat (if st.zero then st.act else st.e) (bits &&& st.e)]

theorem run_emitPred (st : LSt) (t : PCode) (bits : Mask) :
    (emitPred t bits).run st = .ok ((), { st with writes := predWrites st t bits st.writes }) := by
  simp only [emitPred, run_get_bind, predWrites]
  split <;> rfl

/-- A compare writes its first target, then the complement in its second. -/
theorem run_emitPair (st : LSt) (pt pf : PCode) (bits : Mask) : (emitPair pt pf bits).run st =
    .ok ((), { st with writes := predWrites st pf (~~~bits) (predWrites st pt bits st.writes) }) := by
  rw [emitPair, run_bind_ok _ (run_emitPred ..)]
  exact run_emitPred ..

/-- What a predicate code of VCMP asks (R224). -/
theorem vCompare_list (ty : BitVec 4) (cond : BitVec 3) (hc : cond.toNat ≤ 5) (x y : BitVec 64) :
    vCompare ty cond x y =
      (let w := tyWidth ty
       let p := intOf (!tyUnsigned ty) (elem w x 0)
       let q := intOf (!tyUnsigned ty) (elem w y 0)
       [decide (p = q), decide (p ≠ q), decide (p < q), decide (p ≤ q), decide (q < p), decide (q ≤ p)].getD
         cond.toNat false) := by
  obtain h | h | h | h | h | h : cond.toNat = 0 ∨ cond.toNat = 1 ∨ cond.toNat = 2 ∨ cond.toNat = 3 ∨ cond.toNat = 4 ∨
    cond.toNat = 5 := by omega
  all_goals simp [vCompare, h]

/-! ### Compares of binary32 (R144, R146, R224) -/

theorem isNaN_f32 (x : Nat) : isNaN f32 x ↔ x / 8388608 % 256 = 255 ∧ x % 8388608 ≠ 0 := Iff.rfl

theorem isInf_f32 (x : Nat) (neg : Bool) : isInf f32 x neg ↔
    x / 8388608 % 256 = 255 ∧ x % 8388608 = 0 ∧ decide (x / 2147483648 % 2 = 1) = neg := Iff.rfl

theorem isFinite_f32 (x : Nat) : isFinite f32 x ↔ x / 8388608 % 256 ≠ 255 := Iff.rfl

/-- Every bit pattern is a NaN, an infinity or finite. -/
theorem f32_cases (x : Nat) : isNaN f32 x ∨ (∃ neg, isInf f32 x neg) ∨ isFinite f32 x := by
  by_cases he : x / 8388608 % 256 = 255
  · by_cases hf : x % 8388608 = 0
    · exact .inr (.inl ⟨_, he, hf, rfl⟩)
    · exact .inl ⟨he, hf⟩
  · exact .inr (.inr he)

theorem not_nan_of_inf {x : Nat} {neg : Bool} (h : isInf f32 x neg) : ¬ isNaN f32 x := fun g => g.2 h.2.1
theorem not_nan_of_finite {x : Nat} (h : isFinite f32 x) : ¬ isNaN f32 x := fun g => h g.1
theorem not_finite_of_inf {x : Nat} {neg : Bool} (h : isInf f32 x neg) : ¬ isFinite f32 x := fun g => g h.1
theorem not_inf_of_finite {x : Nat} (h : isFinite f32 x) (neg : Bool) : ¬ isInf f32 x neg := fun g => h g.1
theorem isInf_sign {x : Nat} {neg : Bool} (h : isInf f32 x neg) (b : Bool) : isInf f32 x b ↔ neg = b :=
  ⟨fun g => h.2.2.symm.trans g.2.2, fun e => e ▸ h⟩

theorem signals_f32 (x : Nat) : signals f32 x ↔ isNaN f32 x ∧ x % 8388608 < 4194304 :=
  and_congr_right fun _ => show x % 8388608 / 4194304 % 2 = 0 ↔ _ by omega

/-- The significand of a finite binary32 value. -/
def significand (x : Nat) : Nat := if x / 8388608 % 256 = 0 then x % 8388608 else x % 8388608 + 8388608

theorem decode_f32 (x : Nat) : f32.decode x =
    if x / 8388608 % 256 = 255 then
      if x % 8388608 = 0 then .inf (decide (x / 2147483648 % 2 = 1)) else .nan (decide (x % 8388608 < 4194304))
    else .fin (decide (x / 2147483648 % 2 = 1)) (significand x) (f32.qmin + (x / 8388608 % 256 - 1 : Nat)) := by
  have h : f32.decode x =
      if x / 8388608 % 256 = 255 then
        if x % 8388608 = 0 then .inf (x / 2147483648 % 2 == 1) else .nan (decide (x % 8388608 < 4194304))
      else if x / 8388608 % 256 = 0 then .fin (x / 2147483648 % 2 == 1) (x % 8388608) f32.qmin
      else .fin (x / 2147483648 % 2 == 1) (x % 8388608 + 8388608) (f32.qmin + (x / 8388608 % 256 - 1 : Nat)) := rfl
  rw [h, significand]
  split
  · rfl
  · split <;> simp_all [beq_eq_decide]

theorem scaled_f32 (x : Nat) : scaled f32 x = (if x / 2147483648 % 2 = 1 then -1 else 1) *
    ((significand x * 2 ^ (x / 8388608 % 256 - 1) : Nat) : Int) := by
  show (if decide (x / 2147483648 % 2 = 1) = true then -((significand x * 2 ^ (x / 8388608 % 256 - 1) : Nat) : Int)
    else ((significand x * 2 ^ (x / 8388608 % 256 - 1) : Nat) : Int)) = _
  split <;> simp_all

theorem significand_lt (x : Nat) : significand x < 16777216 := by
  unfold significand
  split <;> omega

theorem significand_ge {x : Nat} (h : x / 8388608 % 256 ≠ 0) : 8388608 ≤ significand x := by
  unfold significand
  split <;> omega

/-- A larger exponent is a larger magnitude. -/
theorem magnitude_lt {x y : Nat} (h : x / 8388608 % 256 < y / 8388608 % 256) :
    significand x * 2 ^ (x / 8388608 % 256 - 1) < significand y * 2 ^ (y / 8388608 % 256 - 1) := by
  have hy : 8388608 ≤ significand y := significand_ge (by omega)
  by_cases hx : x / 8388608 % 256 = 0
  · have hs : significand x < 8388608 := by
      unfold significand
      split <;> omega
    calc significand x * 2 ^ (x / 8388608 % 256 - 1) = significand x := by simp [hx]
      _ < significand y := by omega
      _ ≤ significand y * 2 ^ (y / 8388608 % 256 - 1) := Nat.le_mul_of_pos_right _ (by positivity)
  · have hexp : y / 8388608 % 256 - 1 = (x / 8388608 % 256 - 1) + 1 + (y / 8388608 % 256 - x / 8388608 % 256 - 1) := by omega
    have hx := significand_lt x
    calc significand x * 2 ^ (x / 8388608 % 256 - 1) < 16777216 * 2 ^ (x / 8388608 % 256 - 1) :=
          Nat.mul_lt_mul_of_pos_right hx (by positivity)
      _ = 8388608 * 2 ^ (x / 8388608 % 256 - 1 + 1) := by rw [pow_succ]; ring
      _ ≤ 8388608 * 2 ^ (y / 8388608 % 256 - 1) := Nat.mul_le_mul_left _ (Nat.pow_le_pow_right (by decide) (by omega))
      _ ≤ significand y * 2 ^ (y / 8388608 % 256 - 1) := Nat.mul_le_mul_right _ hy

/-- Binary32 patterns of one magnitude differ at most in their sign. -/
theorem magnitude_inj {x y : Nat} (h : significand x * 2 ^ (x / 8388608 % 256 - 1) =
    significand y * 2 ^ (y / 8388608 % 256 - 1)) : x % 2147483648 = y % 2147483648 := by
  obtain hlt | heq | hgt := lt_trichotomy (x / 8388608 % 256) (y / 8388608 % 256)
  · exact absurd h (magnitude_lt hlt).ne
  · rw [heq] at h
    have hs := Nat.eq_of_mul_eq_mul_right (by positivity) h
    simp only [significand, heq] at hs
    split at hs <;> omega
  · exact absurd h (magnitude_lt hgt).ne'

/-- The two zeros. -/
def zeroF (x : Nat) : Prop := isFinite f32 x ∧ significand x = 0

theorem scaled_zero_iff (x : Nat) : scaled f32 x = 0 ↔ significand x = 0 := by
  rw [scaled_f32]
  split <;> simp

/-- Finite values are equal where their patterns are, and the two zeros (R146). -/
theorem scaled_eq_iff {x y : Nat} (hx : x < 2 ^ 32) (hy : y < 2 ^ 32) :
    scaled f32 x = scaled f32 y ↔ x = y ∨ (significand x = 0 ∧ significand y = 0) := by
  refine ⟨fun h => ?_, ?_⟩
  · by_cases h0 : significand x = 0
    · exact .inr ⟨h0, (scaled_zero_iff y).mp (h ▸ (scaled_zero_iff x).mpr h0)⟩
    · left
      have h0y : significand y ≠ 0 := fun hy0 => h0 ((scaled_zero_iff x).mp (h ▸ (scaled_zero_iff y).mpr hy0))
      have px : 0 < significand x * 2 ^ (x / 8388608 % 256 - 1) := Nat.mul_pos (Nat.pos_of_ne_zero h0) (by positivity)
      have py : 0 < significand y * 2 ^ (y / 8388608 % 256 - 1) := Nat.mul_pos (Nat.pos_of_ne_zero h0y) (by positivity)
      have hinj := @magnitude_inj x y
      rw [scaled_f32, scaled_f32] at h
      generalize significand x * 2 ^ (x / 8388608 % 256 - 1) = m at *
      generalize significand y * 2 ^ (y / 8388608 % 256 - 1) = n at *
      split at h <;> split at h <;> omega
  · rintro (rfl | ⟨h, g⟩)
    · rfl
    · rw [(scaled_zero_iff x).mpr h, (scaled_zero_iff y).mpr g]

/-- The order of decoded finite values, the zeros apart, is that of the values in units of the least subnormal. -/
theorem less_finite {x y : Nat} (hx : isFinite f32 x) (hy : isFinite f32 y)
    (hz : ¬ (significand x = 0 ∧ significand y = 0)) :
    (f32.decode x).less (f32.decode y) = decide (scaled f32 x < scaled f32 y) := by
  rw [isFinite_f32] at hx hy
  have hmin : ∀ a b : Nat, (f32.qmin + (a : Int) - min (f32.qmin + (a : Int)) (f32.qmin + (b : Int))).toNat = a - min a b ∧
      (f32.qmin + (b : Int) - min (f32.qmin + (a : Int)) (f32.qmin + (b : Int))).toNat = b - min a b := by
    intro a b
    omega
  have hpow : ∀ m a b : Nat, m * 2 ^ a = m * 2 ^ (a - min a b) * 2 ^ min a b ∧
      m * 2 ^ b = m * 2 ^ (b - min a b) * 2 ^ min a b := fun m a b => by
    constructor <;> rw [mul_assoc, ← pow_add] <;> congr 2 <;> omega
  simp only [decode_f32, if_neg hx, if_neg hy, FVal.less, scaled_f32, hmin]
  generalize x / 8388608 % 256 - 1 = a
  generalize y / 8388608 % 256 - 1 = b
  rw [(hpow (significand x) a b).1, (hpow (significand y) a b).2]
  have hx0 : significand x * 2 ^ (a - min a b) = 0 ↔ significand x = 0 := by simp
  have hy0 : significand y * 2 ^ (b - min a b) = 0 ↔ significand y = 0 := by simp
  generalize significand x * 2 ^ (a - min a b) = m at *
  generalize significand y * 2 ^ (b - min a b) = n at *
  have hp : (0 : Int) < (2 ^ min a b : Nat) := by positivity
  have hlt : ∀ u v : Int, u * ((m * 2 ^ min a b : Nat) : Int) < v * ((n * 2 ^ min a b : Nat) : Int) ↔ u * m < v * n := by
    intro u v
    rw [Nat.cast_mul, Nat.cast_mul, ← mul_assoc, ← mul_assoc]
    exact mul_lt_mul_iff_left₀ hp
  have hsame : ¬ (x / 2147483648 % 2 = 1 ∧ ¬ y / 2147483648 % 2 = 1 ∧ (-1 : Int) * m = 1 * n) := by
    rintro ⟨_, _, h⟩
    exact hz ⟨hx0.mp (by omega), hy0.mp (by omega)⟩
  simp only [hlt]
  by_cases hxn : x / 2147483648 % 2 = 1 <;> by_cases hyn : y / 2147483648 % 2 = 1 <;> simp_all

/-! ### FCMP -/

/-- What a binary32 pattern decodes to. -/
theorem decode_cases (x : Nat) : (isNaN f32 x ∧ ∃ b, (b = true ↔ signals f32 x) ∧ f32.decode x = .nan b) ∨
    (∃ neg, isInf f32 x neg ∧ f32.decode x = .inf neg) ∨
    (isFinite f32 x ∧ ∃ neg e, f32.decode x = .fin neg (significand x) e) := by
  obtain h | ⟨neg, h⟩ | h := f32_cases x
  · obtain ⟨he, hf⟩ := (isNaN_f32 x).mp h
    exact .inl ⟨h, decide (x % 8388608 < 4194304), by simp [signals_f32, h], by rw [decode_f32, if_pos he, if_neg hf]⟩
  · obtain ⟨he, hf, hn⟩ := (isInf_f32 x neg).mp h
    exact .inr (.inl ⟨neg, h, by rw [decode_f32, if_pos he, if_pos hf, hn]⟩)
  · exact .inr (.inr ⟨h, _, _, by rw [decode_f32, if_neg ((isFinite_f32 x).mp h)]⟩)

def FVal.isNan : FVal → Bool
  | .nan _ => true
  | .inf _ | .fin .. => false

def FVal.isZero : FVal → Bool
  | .fin _ m _ => m == 0
  | .nan _ | .inf _ => false

/-- The unordered, equal and less of FCMP. -/
def unF (x y : Nat) : Bool := (f32.decode x).isNan || (f32.decode y).isNan
def eqF (x y : Nat) : Bool := !unF x y && (x == y || ((f32.decode x).isZero && (f32.decode y).isZero))
def ltF (x y : Nat) : Bool :=
  !unF x y && !((f32.decode x).isZero && (f32.decode y).isZero) && (f32.decode x).less (f32.decode y)

theorem fCompare_eq (cond x y : Nat) : fCompare cond x y =
    (match cond with
      | 0 => eqF x y
      | 1 => !eqF x y
      | 2 => ltF x y
      | 3 => ltF x y || eqF x y
      | 4 => ltF y x
      | 5 => ltF y x || eqF x y
      | 6 => unF x y
      | _ => !unF x y,
      if decide (2 ≤ cond ∧ cond ≤ 5) && unF x y then fNV else sigFlag (f32.decode x) ||| sigFlag (f32.decode y)) := by
  unfold fCompare eqF ltF unF
  generalize f32.decode x = v
  generalize f32.decode y = u
  rcases v with b | n | ⟨n, _ | m, e⟩ <;> rcases u with b' | n' | ⟨n', _ | m', e'⟩ <;> rfl

theorem unF_iff (x y : Nat) : unF x y = true ↔ isNaN f32 x ∨ isNaN f32 y := by
  have h : ∀ z, (f32.decode z).isNan = true ↔ isNaN f32 z := fun z => by
    obtain ⟨h, b, _, hd⟩ | ⟨n, h, hd⟩ | ⟨h, n, e, hd⟩ := decode_cases z
    · simp [hd, FVal.isNan, h]
    · simp [hd, FVal.isNan, not_nan_of_inf h]
    · simp [hd, FVal.isNan, not_nan_of_finite h]
  simp [unF, h]

theorem isZero_iff (x : Nat) : (f32.decode x).isZero = true ↔ isFinite f32 x ∧ significand x = 0 := by
  obtain ⟨h, b, _, hd⟩ | ⟨n, h, hd⟩ | ⟨h, n, e, hd⟩ := decode_cases x
  · simpa [hd, FVal.isZero] using fun g => absurd h (not_nan_of_finite g)
  · simp [hd, FVal.isZero, not_finite_of_inf h]
  · simp [hd, FVal.isZero, h]

theorem sigFlag_eq (x : Nat) : ∃ b, (b = true ↔ signals f32 x) ∧ sigFlag (f32.decode x) = if b then fNV else 0 := by
  obtain ⟨h, b, hb, hd⟩ | ⟨n, h, hd⟩ | ⟨h, n, e, hd⟩ := decode_cases x
  · exact ⟨b, hb, by rw [hd]; cases b <;> rfl⟩
  · exact ⟨false, by simp [signals_f32, not_nan_of_inf h], by rw [hd]; rfl⟩
  · exact ⟨false, by simp [signals_f32, not_nan_of_finite h], by rw [hd]; rfl⟩

/-- R224: equal values, the zeros equal, and no NaN. -/
theorem eqF_iff {x y : Nat} (hx : x < 2 ^ 32) (hy : y < 2 ^ 32) : eqF x y = true ↔ sameF f32 x y := by
  simp only [eqF, Bool.and_eq_true, Bool.not_eq_true', Bool.or_eq_true, beq_iff_eq, isZero_iff, ← Bool.not_eq_true, unF_iff,
    not_or, sameF, and_assoc]
  refine and_congr_right fun _ => and_congr_right fun _ => ⟨?_, ?_⟩
  · rintro (h | ⟨hfx, hsx, hfy, hsy⟩)
    · exact .inl h
    · exact .inr ⟨hfx, hfy, (scaled_eq_iff hx hy).mpr (.inr ⟨hsx, hsy⟩)⟩
  · rintro (h | ⟨hfx, hfy, h⟩)
    · exact .inl h
    · exact ((scaled_eq_iff hx hy).mp h).imp id fun ⟨hsx, hsy⟩ => ⟨hfx, hsx, hfy, hsy⟩

/-- R224: the order of values that are no NaN. -/
theorem ltF_iff (x y : Nat) : ltF x y = true ↔ lessF f32 x y := by
  simp only [ltF, Bool.and_eq_true, Bool.not_eq_true', ← Bool.not_eq_true, unF_iff, isZero_iff, not_or, lessF, and_assoc]
  refine and_congr_right fun hx => and_congr_right fun hy => ?_
  obtain ⟨h, -⟩ | ⟨n, hix, hdx⟩ | ⟨hfx, n, e, hdx⟩ := decode_cases x
  · exact absurd h hx
  · obtain ⟨h, -⟩ | ⟨n', hiy, hdy⟩ | ⟨hfy, n', e', hdy⟩ := decode_cases y
    · exact absurd h hy
    · rw [hdx, hdy]
      cases n <;> cases n' <;> simp [FVal.less, not_finite_of_inf hix, isInf_sign hix, isInf_sign hiy]
    · rw [hdx, hdy]
      simp [FVal.less, not_finite_of_inf hix, isInf_sign hix, not_inf_of_finite hfy]
  · obtain ⟨h, -⟩ | ⟨n', hiy, hdy⟩ | ⟨hfy, n', e', hdy⟩ := decode_cases y
    · exact absurd h hy
    · rw [hdx, hdy]
      simp [FVal.less, not_finite_of_inf hiy, isInf_sign hiy, not_inf_of_finite hfx]
    · by_cases hz : significand x = 0 ∧ significand y = 0
      · have := (scaled_zero_iff x).mpr hz.1
        have := (scaled_zero_iff y).mpr hz.2
        simp_all [not_inf_of_finite]
      · rw [less_finite hfx hfy hz]
        simp [not_inf_of_finite hfx, not_inf_of_finite hfy, hfx, hfy, hz]

theorem fNV_bit (b : Bool) (n : Nat) : (if b then fNV else 0).getLsbD n = true ↔ fNV.getLsbD n = true ∧ b = true := by
  cases b <;> simp

/-- R150, R224: FCMP raises NV for a signalling NaN, and for any NaN in an ordered comparison. -/
theorem fCompare_flags (cond x y n : Nat) : (fCompare cond x y).2.getLsbD n = true ↔ fNV.getLsbD n = true ∧
    (signals f32 x ∨ signals f32 y ∨ (2 ≤ cond ∧ cond ≤ 5 ∧ (isNaN f32 x ∨ isNaN f32 y))) := by
  rw [fCompare_eq]
  obtain ⟨bx, hbx, hx⟩ := sigFlag_eq x
  obtain ⟨by_, hby, hy⟩ := sigFlag_eq y
  have hun := unF_iff x y
  simp only [hx, hy, ← hbx, ← hby, ← hun]
  by_cases ho : 2 ≤ cond ∧ cond ≤ 5 ∧ unF x y = true
  · simp [ho]
  · have : (decide (2 ≤ cond ∧ cond ≤ 5) && unF x y) = false := by simpa [and_assoc] using ho
    rw [this, if_neg (by decide), BitVec.getLsbD_or, Bool.or_eq_true, fNV_bit, fNV_bit, ← and_or_left]
    simp [ho]

/-- R224: FCMP's conditions. -/
theorem fCompare_val {x y : Nat} (hx : x < 2 ^ 32) (hy : y < 2 ^ 32) (cond : Nat) : (fCompare cond x y).1 = true ↔
    match cond with
    | 0 => sameF f32 x y
    | 1 => ¬ sameF f32 x y
    | 2 => lessF f32 x y
    | 3 => lessF f32 x y ∨ sameF f32 x y
    | 4 => lessF f32 y x
    | 5 => lessF f32 y x ∨ sameF f32 x y
    | 6 => isNaN f32 x ∨ isNaN f32 y
    | _ => ¬ (isNaN f32 x ∨ isNaN f32 y) := by
  rw [fCompare_eq]
  rcases cond with _ | _ | _ | _ | _ | _ | _ | cond <;>
    simp only [← eqF_iff hx hy, ← ltF_iff, ← unF_iff, Bool.or_eq_true, Bool.not_eq_true', Bool.not_eq_true]

end Sys2Proof.Machine
end

section
namespace Sys2Proof.Machine

section
variable {α β : Type} {st t : LSt}

/-- Two operands are read one after the other. -/
theorem got_two {m : LM α} {n : LM β} {x : α} {y : β}
    (h : Got (do let x ← m; let y ← n; pure (x, y)) st (x, y) t) :
    ∃ u, m.run st = .ok (x, u) ∧ n.run u = .ok (y, t) := by
  obtain ⟨a, u, ha, hr⟩ := run_bind_eq_ok h.1
  obtain ⟨b, v, hb, hr⟩ := run_bind_eq_ok hr
  cases hr
  exact ⟨u, ha, hb⟩

theorem run_raiseFlags (f : Flags) : (raiseFlags f).run st = .ok ((), { st with flags := st.flags ||| f }) := rfl

theorem got_keeps {m : LM α} {x : α} (h : Got m st x t) (hm : Keeps m) : Stays st t := hm _ _ _ h.1
end

section
variable {s : State} {c : LCtl} {d : Dispatch} {act e : Mask} (ha : LaneActs s c d act e)

/-- The writes of a predicate word in the lanes in which it acts. -/
theorem predWrites_acts {st : LSt} (h : Stays (started s c d act e) st) (t : PCode) (bits : Mask) (ws : List LWrite) :
    predWrites st t bits ws = if t = 0 then ws
      else ws ++ [.pred t.toNat (if (started s c d act e).zero then act else e) (bits &&& e)] := by
  obtain ⟨_, h1, h2, h3⟩ := started_stays h
  rw [predWrites, h1, h2, h3]

include ha

theorem execVcmp_acts {a b : Opnd} {pt pf : PCode} {cond : BitVec 3} {x y : Vals} {st : LSt}
    (hw : (Instr.vcmp c a b pt pf cond).wf = true)
    (h : Got (do let x ← readE (isPair c.ty) a; let y ← readE (isPair c.ty) b; pure (x, y)) (started s c d act e) (x, y) st) :
    exec (.vcmp c a b pt pf cond) s = .next (laneFinish (.fixed 4) c { st with
      writes := predWrites st pf (~~~mkMask fun i => vCompare c.ty cond (x i) (y i))
        (predWrites st pt (mkMask fun i => vCompare c.ty cond (x i) (y i)) st.writes) }) := by
  obtain ⟨u, hx, hy⟩ := got_two h
  rw [exec, execVcmp, hw]
  refine laneWord_done ha (by simp) ?_
  rw [run_bind_ok _ hx, run_bind_ok _ hy, run_bind_ok _ h.settle, run_emitPair]

theorem execFcmp_acts {a b : Opnd} {pt pf : PCode} {cond : BitVec 3} {x y : Vals} {st : LSt}
    (hw : (Instr.fcmp c a b pt pf cond).wf = true)
    (h : Got (do let x ← readE false a; let y ← readE false b; pure (x, y)) (started s c d act e) (x, y) st) :
    let r := fun (i : LaneIx) => fCompare cond.toNat ((x i).toNat % 2 ^ 32) ((y i).toNat % 2 ^ 32)
    exec (.fcmp c a b pt pf cond) s = .next (laneFinish (.fixed 4) c { st with
      writes := predWrites st pf (~~~mkMask fun i => (r i).1) (predWrites st pt (mkMask fun i => (r i).1) st.writes)
      flags := st.flags ||| (maskLanes st.e).foldl (fun acc i => acc ||| (r i).2) 0 }) := by
  obtain ⟨u, hx, hy⟩ := got_two h
  rw [exec, execFcmp, hw]
  refine laneWord_done ha (by simp) ?_
  rw [run_bind_ok _ hx, run_bind_ok _ hy, run_bind_ok _ h.settle, run_get_bind]
  simp only [BitVec.toNat_setWidth]
  rw [run_bind_ok _ (run_raiseFlags _), run_emitPair]
  rfl

theorem lanePred_acts {i : Instr} {t p q : PCode} {f : Mask → Mask → Mask} {x y : Mask} {st : LSt} (hw : i.wf = true)
    (h : Got (do let x ← readPred p; let y ← readPred q; pure (x, y)) (started s c d act e) (x, y) st) :
    lanePred i c t p q f s = .next (laneFinish (.fixed 4) c { st with writes := predWrites st t (f x y) st.writes }) := by
  obtain ⟨u, hx, hy⟩ := got_two h
  rw [lanePred, hw]
  refine laneWord_done ha (by simp) ?_
  rw [run_bind_ok _ hx, run_bind_ok _ hy, run_bind_ok _ h.settle, run_emitPred]

theorem execPfromv_acts {t : PCode} {a : Opnd} {x : Vals} {st : LSt} (hw : (Instr.pfromv c t a).wf = true)
    (h : Got (readE false a) (started s c d act e) x st) :
    exec (.pfromv c t a) s = .next (laneFinish (.fixed 4) c { st with
      writes := predWrites st t (mkMask fun i => (x i).setWidth 32 != (0 : Lane)) st.writes }) := by
  rw [exec, execPfromv, hw]
  refine laneWord_done ha (by simp) ?_
  rw [run_bind_ok _ h.1, run_bind_ok _ h.settle, run_emitPred]

/-- XMWR rewrites EXM where E is not empty (R227). -/
theorem execXmwr_lane {a : Opnd} {p : PCode} {x : Vals} {st : LSt} (hw : (Instr.xmwr c a p 0).wf = true)
    (h : Got (readE false a) (started s c d act e) x st) :
    exec (.xmwr c a p 0) s = .next (laneFinish (.fixed 4) c
      (if st.e = 0 then st else { st with s := st.s.setExm st.disp ((x (lowest st.e)).setWidth 32) })) := by
  rw [exec, execXmwr, hw]
  refine laneWord_done ha (by simp) ?_
  simp only [if_true]
  rw [run_bind_ok _ h.1, run_bind_ok _ (run_pure _), run_bind_ok _ h.settle, run_get_bind]
  split <;> rfl

theorem execXmwr_pred {a : Opnd} {p : PCode} {form : BitVec 2} {q : Mask} {st : LSt} (hf : form ≠ 0)
    (hw : (Instr.xmwr c a p form).wf = true) (h : Got (readPred p) (started s c d act e) q st) :
    exec (.xmwr c a p form) s = .next (laneFinish (.fixed 4) c
      (if st.e = 0 then st else { st with s := (st.s.setExm st.disp
        (if form = 1 then st.disp.mask st.s.me &&& q else st.disp.mask st.s.me &&& ~~~q)) })) := by
  rw [exec, execXmwr, hw]
  refine laneWord_done ha (by simp) ?_
  simp only [if_neg hf]
  rw [run_bind_ok _ (run_pure _), run_bind_ok _ h.1, run_bind_ok _ h.settle, run_get_bind]
  have forms : ∀ n : BitVec 2, n ≠ 0 → n = 1 ∨ n = 2 ∨ n = 3 := by decide
  obtain rfl | rfl | rfl := forms form hf
  all_goals split <;> rfl
end

/-- Flags of the lanes of a mask together. -/
theorem getLsbD_maskFlags (m : Mask) (f : LaneIx → Flags) (n : Nat) :
    ((maskLanes m).foldl (fun acc i => acc ||| f i) 0).getLsbD n = true ↔
      ∃ l, inMask m l = true ∧ (f l).getLsbD n = true := by
  have h : ∀ (l : List LaneIx) (acc : Flags), (l.foldl (fun acc i => acc ||| f i) acc).getLsbD n = true ↔
      acc.getLsbD n = true ∨ ∃ i ∈ l, (f i).getLsbD n = true := by
    intro l
    induction l with
    | nil => simp
    | cons i l ih => intro acc; simp [ih, or_assoc]
  rw [h]
  simp [maskLanes]

theorem setExm_register {s : State} {d : Dispatch} (h : d.exm = none) (x : Mask) :
    (s.setExm d x).me = { s.me with exm := x } := by
  simp [State.setExm, h]

theorem setExm_blocks {s : State} {d : Dispatch} (h : d.exm ≠ none) (x : Mask) :
    (s.setExm d x).me = { s.me with
      dispatch := s.me.dispatch.map fun y => if y.exm ≠ none then { y with exm := some x } else y } := by
  have : d.exm.isSome = true := Option.isSome_iff_ne_none.mpr h
  simp [State.setExm, this, Option.isSome_iff_ne_none]

end Sys2Proof.Machine
namespace Sys2Proof.Certificates
open Sys2Proof.Machine

/-- Settles O44, from what each word leaves where it acts. -/
theorem lanePredicates : Obligations.LanePredicates := by
  unfold Obligations.LanePredicates
  intro s c d act e ha
  dsimp only
  have hpair : c.ty = 2 → isPair c.ty = false := fun h => by rw [h]; rfl
  refine ⟨fun a b x y st pt pf h => ?_, fun t p q x y st h => ?_, fun t a x st h => ?_, ⟨fun a x st h => ?_, fun a p q st h => ?_⟩,
    fun x => ⟨fun h => setExm_register h x, fun h => setExm_blocks h x⟩⟩
  · have hs := got_keeps h (keeps_bind (keeps_readE _ _) fun _ => keeps_bind (keeps_readE _ _) fun _ => keeps_pure _)
    refine ⟨fun cond hc => ⟨mkMask fun i => vCompare c.ty cond (x i) (y i), fun l => ?_, fun hw => ?_⟩,
      fun cond ht => ⟨mkMask fun i => (fCompare cond.toNat ((x i).toNat % 2 ^ 32) ((y i).toNat % 2 ^ 32)).1,
        (maskLanes e).foldl (fun acc i => acc ||| (fCompare cond.toNat ((x i).toNat % 2 ^ 32) ((y i).toNat % 2 ^ 32)).2) 0,
        fun l => ?_, fun n => ?_, fun hw => ?_⟩⟩
    · rw [inMask_mkMask, vCompare_list _ _ hc]
    · rw [execVcmp_acts ha hw h, predWrites_acts hs, predWrites_acts hs]
    · rw [inMask_mkMask]
      exact fCompare_val (Nat.mod_lt _ (by decide)) (Nat.mod_lt _ (by decide)) _
    · rw [getLsbD_maskFlags]
      simp only [fCompare_flags]
      exact ⟨fun ⟨l, hl, hn, hc⟩ => ⟨hn, l, hl, hc⟩, fun ⟨hn, l, hl, hc⟩ => ⟨l, hl, hn, hc⟩⟩
    · rw [hpair ht] at h
      rw [execFcmp_acts ha hw h, predWrites_acts hs, predWrites_acts hs, (started_stays hs).2.2.1]
  · have hs := got_keeps h (keeps_bind (keeps_readPred _) fun _ => keeps_bind (keeps_readPred _) fun _ => keeps_pure _)
    simp only [← predWrites_acts hs]
    exact ⟨fun hw => lanePred_acts ha hw h, fun hw => lanePred_acts ha hw h, fun hw => lanePred_acts ha hw h,
      fun hw => lanePred_acts ha hw h⟩
  · have hs := got_keeps h (keeps_readE _ _)
    refine ⟨mkMask fun i => (x i).setWidth 32 != (0 : Lane), fun l => ?_, fun hw => ?_⟩
    · rw [inMask_mkMask, Bool.eq_iff_iff, bne_iff_ne, decide_eq_true_iff, ne_eq, ← BitVec.toNat_inj,
        BitVec.toNat_setWidth]
      rfl
    · rw [execPfromv_acts ha hw h, predWrites_acts hs]
  · obtain ⟨h1, -, h2, -⟩ := started_stays (got_keeps h (keeps_readE _ _))
    intro hw
    rw [execXmwr_lane ha hw h, h1, h2]
  · obtain ⟨h1, -, h2, -⟩ := started_stays (got_keeps h (keeps_readPred _))
    refine ⟨fun hw => ?_, fun hw => ?_⟩
    · rw [execXmwr_pred ha (by decide) hw h, h1, h2]
      rfl
    · rw [execXmwr_pred ha (by decide) hw h, h1, h2]
      rfl

end Sys2Proof.Certificates
end

section
/-!
Lane movement within tiles (R18, R233 to R237).
-/
namespace Sys2Proof.Machine

/-! ### Results -/

section
variable {st : LSt} {ty : BitVec 4} {dst : Dst}

/-- A result of its type's size is written by R218. -/
theorem run_emit (val : Vals) : (emit ty (isPair ty) dst val).run st = .ok ((), emitted st ty dst val) := by
  have hlo : (mkLanes fun i => (if inMask st.e i then val i else 0).setWidth 32) =
      mkLanes fun i => if inMask st.e i then (val i).setWidth 32 else 0 := by
    congr 1
    funext i
    split <;> simp
  have hhi : (mkLanes fun i => (if inMask st.e i then val i else 0).extractLsb' 32 32) =
      mkLanes fun i => if inMask st.e i then (val i).extractLsb' 32 32 else 0 := by
    congr 1
    funext i
    split <;> simp
  simp only [emit, run_get_bind, run_set, hlo, hhi, emitted]
  rcases dst with ⟨_ | t, _ | u⟩ | _ | _ <;> by_cases h : ty = 8 <;> simp [isPair, h]

/-- A result of one register. -/
theorem run_emit_single (h : ty ≠ 8) (val : Vals) : (emit ty false dst val).run st = .ok ((), emitted st ty dst val) := by
  have := run_emit (st := st) (ty := ty) (dst := dst) val
  rwa [show isPair ty = false from beq_false_of_ne h] at this

theorem run_emitFlagged (f : LaneIx → BitVec 64 × Flags) : (emitFlagged ty dst f).run st =
    .ok ((), flagged st ty dst (fun i => (f i).1) ((maskLanes st.e).foldl (fun acc i => acc ||| (f i).2) 0)) := by
  rw [emitFlagged, run_get_bind, run_bind_ok _ (run_raiseFlags _), run_emit]
  rfl
end

theorem flagged_zero (st : LSt) (ty : BitVec 4) (dst : Dst) (val : Vals) : flagged st ty dst val 0 = emitted st ty dst val := by
  simp [flagged, emitted]

theorem foldl_no_flags {f : LaneIx → Flags} (l : List LaneIx) (h : ∀ i, f i = 0) : l.foldl (fun acc i => acc ||| f i) 0 = 0 := by
  simp [h]

/-! ### SHFL -/

theorem tileBase_eq (t : Nat) (l : LaneIx) : tileBase t l = t * (l.val / t) := by
  have := Nat.div_add_mod l.val t
  simp only [tileBase]
  omega

/-- R233: the four modes of SHFL. -/
theorem shuffleSrc_eq (mode : BitVec 2) (t : Nat) (l : LaneIx) (m : Nat) : shuffleSrc mode t l m =
    (let first := t * (l.val / t)
     let ix := l.val - first
     let swapped := Nat.xor ix (m % 32)
     Fin.ofNat 32 ([first + m % t, if m ≤ ix then l.val - m else l.val, if ix + m < t then l.val + m else l.val,
          if swapped < t then first + swapped else l.val].getD mode.toNat 0)) := by
  have hix : l.val - t * (l.val / t) = l.val % t := by
    have := Nat.div_add_mod l.val t
    omega
  have modes : mode = 0 ∨ mode = 1 ∨ mode = 2 ∨ mode = 3 := by revert mode; decide
  simp only [shuffleSrc, tileBase_eq, hix]
  obtain rfl | rfl | rfl | rfl := modes <;> rfl

/-- The ltile of a warp that keeps. -/
theorem stays_ltile {st t : LSt} (h : Stays st t) :
    t.disp.ltile.getD t.s.me.ltile = st.disp.ltile.getD st.s.me.ltile := by
  obtain ⟨_, _, _, _, _, hk⟩ := h.kept
  rw [h.disp, hk]

/-! ### A tile's lanes combined (R235, R236) -/

section
variable {α : Type} {f : α → α → α} {z : α}

theorem foldl_pairs (hassoc : ∀ a b c, f (f a b) c = f a (f b c)) : ∀ (xs : List α) (acc : α),
    (redTree.pairs f xs).foldl f acc = xs.foldl f acc
  | [], _ => rfl
  | [_], _ => rfl
  | x :: y :: r, acc => by
    rw [redTree.pairs, List.foldl_cons, foldl_pairs hassoc r]
    simp [hassoc]

theorem foldl_redTree (hassoc : ∀ a b c, f (f a b) c = f a (f b c)) (n : Nat) (xs : List α) (acc : α) :
    (redTree f n xs).foldl f acc = xs.foldl f acc := by
  induction n generalizing xs with
  | zero => rfl
  | succ n ih => rw [redTree, ih, foldl_pairs hassoc]

theorem length_pairs : ∀ xs : List α, (redTree.pairs f xs).length = (xs.length + 1) / 2
  | [] => by simp [redTree.pairs]
  | [_] => by simp [redTree.pairs]
  | x :: y :: r => by
    rw [redTree.pairs, List.length_cons, length_pairs r]
    simp only [List.length_cons]
    omega

theorem length_redTree (n : Nat) (xs : List α) (h : xs.length ≤ 2 ^ n) : (redTree f n xs).length ≤ 1 := by
  induction n generalizing xs with
  | zero => exact h
  | succ n ih =>
    refine ih _ ?_
    rw [length_pairs]
    rw [pow_succ] at h
    omega

theorem redTree_ne_nil (n : Nat) (xs : List α) (h : xs ≠ []) : redTree f n xs ≠ [] := by
  induction n generalizing xs with
  | zero => exact h
  | succ n ih =>
    refine ih _ fun h0 => h ?_
    have := length_pairs (f := f) xs
    rw [h0] at this
    exact List.eq_nil_of_length_eq_zero (by simp at this; omega)

/-- A pairwise tree of an associative operation, over no more values than its leaves, is the values combined in order. -/
theorem redTree_eq_foldl (hassoc : ∀ a b c, f (f a b) c = f a (f b c)) (hz : ∀ a, f z a = a) (n : Nat) {xs : List α}
    (hne : xs ≠ []) (h : xs.length ≤ 2 ^ n) (y : α) : (redTree f n xs).headD y = xs.foldl f z := by
  rw [← foldl_redTree hassoc n xs z]
  match hr : redTree f n xs, length_redTree (f := f) n xs h with
  | [], _ => exact absurd hr (redTree_ne_nil n xs hne)
  | [x], _ => simp [hz]

theorem headD_map {β : Type} (φ : α → β) (l : List α) (y : α) : (l.map φ).headD (φ y) = φ (l.headD y) := by
  cases l <;> rfl

/-- A tree commutes with a map of its operation. -/
theorem redTree_map {β : Type} {g : β → β → β} (φ : α → β) (hφ : ∀ a b, φ (f a b) = g (φ a) (φ b)) (n : Nat) (xs : List α) :
    (redTree f n xs).map φ = redTree g n (xs.map φ) := by
  have hp : ∀ xs : List α, (redTree.pairs f xs).map φ = redTree.pairs g (xs.map φ) := by
    intro xs
    induction xs using redTree.pairs.induct with
    | case1 x y r ih => simp [redTree.pairs, hφ, ih]
    | case2 xs h =>
      match xs with
      | [] => rfl
      | [x] => rfl
      | x :: y :: r => exact absurd rfl (h x y r)
  induction n generalizing xs with
  | zero => rfl
  | succ n ih => rw [redTree, redTree, ih, hp]

/-- Lanes left out are lanes of the identity. -/
theorem foldl_filter_identity {β : Type} (p : β → Bool) (v : β → α) (hz : ∀ a, f a z = a) (l : List β) (acc : α) :
    (l.map fun j => if p j then v j else z).foldl f acc = (l.filter p).foldl (fun acc j => f acc (v j)) acc := by
  induction l generalizing acc with
  | nil => rfl
  | cons j l ih => cases hj : p j <;> simp [hj, hz, ih]
end

theorem length_tileLanes (t : Nat) (l : LaneIx) : (tileLanes t l).length ≤ 2 ^ 5 := by
  refine (List.length_filter_le _ _).trans ?_
  simp

theorem tileLanes_ne_nil (t : Nat) (l : LaneIx) : tileLanes t l ≠ [] :=
  List.ne_nil_of_mem (a := l) (by simp [tileLanes])

/-! ### Integer reductions and scans -/

section
variable {w : Nat} (signed : Bool) (op : BitVec 3)

theorem intOf_inj {x y : BitVec w} (h : intOf signed x = intOf signed y) : x = y := by
  cases signed
  · exact BitVec.eq_of_toNat_eq (by simpa [intOf] using h)
  · exact BitVec.eq_of_toInt_eq (by simpa [intOf] using h)

theorem intOf_lt (x y : BitVec w) : (if signed then x.slt y else x.ult y) = decide (intOf signed x < intOf signed y) := by
  cases signed <;> simp [intOf, BitVec.slt, BitVec.ult]

theorem minElem_eq (x y : BitVec w) : minElem signed x y = if intOf signed x ≤ intOf signed y then x else y := by
  have hinj := @intOf_inj w signed x y
  simp only [minElem, intOf_lt, decide_eq_true_iff]
  split <;> split
  · rfl
  · omega
  · exact (hinj (by omega)).symm
  · rfl

theorem maxElem_eq (x y : BitVec w) : maxElem signed x y = if intOf signed x ≤ intOf signed y then y else x := by
  have hinj := @intOf_inj w signed x y
  simp only [maxElem, intOf_lt, decide_eq_true_iff]
  split <;> split
  · rfl
  · omega
  · exact hinj (by omega)
  · rfl

theorem combined_assoc (x y z : BitVec w) : combined signed op (combined signed op x y) z =
    combined signed op x (combined signed op y z) := by
  unfold combined
  match op.toNat with
  | 0 => exact BitVec.add_assoc ..
  | 1 => grind
  | 2 => grind
  | 3 => exact BitVec.and_assoc ..
  | 4 => exact BitVec.or_assoc ..
  | n + 5 => exact BitVec.xor_assoc ..

theorem intOf_bounds (x : BitVec w) : loOf signed w ≤ intOf signed x ∧ intOf signed x ≤ hiOf signed w := by
  cases signed
  · have := x.isLt
    simp only [loOf, hiOf, intOf, Bool.false_eq_true, if_false]
    constructor
    · omega
    · have : (x.toNat : Int) < ((2 ^ w : Nat) : Int) := by exact_mod_cast this
      push_cast at this
      omega
  · have h1 := BitVec.le_toInt x
    have h2 := BitVec.toInt_lt (x := x)
    simp only [loOf, hiOf, intOf, if_true]
    omega

theorem intOf_ofInt (hw : 0 < w) {n : Int} (hl : loOf signed w ≤ n) (hh : n ≤ hiOf signed w) :
    intOf signed (BitVec.ofInt w n) = n := by
  cases signed
  · simp only [loOf, hiOf, intOf, Bool.false_eq_true, if_false] at *
    rw [BitVec.toNat_ofInt, Int.emod_eq_of_lt hl (by push_cast; omega), Int.toNat_of_nonneg hl]
  · simp only [loOf, hiOf, intOf, if_true] at *
    exact BitVec.toInt_ofInt_eq_self hw hl (by omega)

theorem lo_le_hi : loOf signed w ≤ hiOf signed w :=
  le_trans (intOf_bounds signed (0 : BitVec w)).1 (intOf_bounds signed (0 : BitVec w)).2

/-- The identity of an operation leaves the other element, on either side (R235). -/
theorem combined_neutral (hw : 0 < w) (x : BitVec w) : combined signed op (neutral w signed op) x = x ∧
    combined signed op x (neutral w signed op) = x := by
  have hb := intOf_bounds signed x
  have hhi := intOf_ofInt signed hw (lo_le_hi (w := w) signed) le_rfl
  have hlo := intOf_ofInt signed hw le_rfl (lo_le_hi (w := w) signed)
  have hinj := fun y => @intOf_inj w signed y x
  unfold combined neutral
  match op.toNat with
  | 0 => simp
  | 1 => grind
  | 2 => grind
  | 3 => simp
  | 4 => simp
  | n + 5 => simp
end

theorem elem_setWidth {w : Nat} (h : w ≤ 64) (x : BitVec w) : elem w (x.setWidth 64) 0 = x := by
  apply BitVec.eq_of_getLsbD_eq
  intro i hi
  simp [elem, hi, show i < 64 by omega]

theorem tyWidth_le (ty : BitVec 4) : 0 < tyWidth ty ∧ tyWidth ty ≤ 64 := by
  revert ty
  decide

/-- Elements combine as R222 has it. -/
theorem elem_redInt (ty : BitVec 4) (op : BitVec 3) (x y : BitVec 64) : elem (tyWidth ty) (redInt ty op x y) 0 =
    combined (!tyUnsigned ty) op (elem (tyWidth ty) x 0) (elem (tyWidth ty) y 0) := by
  simp only [redInt, elem_setWidth (tyWidth_le ty).2, minElem_eq, maxElem_eq]
  unfold combined
  match op.toNat with
  | 0 | 1 | 2 | 3 | 4 => rfl
  | n + 5 => rfl

theorem elem_redIdentity {ty : BitVec 4} (h : tysWide.contains ty = true) (op : BitVec 3) :
    elem (tyWidth ty) (redIdentity ty op) 0 = neutral (tyWidth ty) (!tyUnsigned ty) op := by
  obtain rfl | rfl | rfl : ty = 0 ∨ ty = 1 ∨ ty = 8 := by simpa [tysWide] using h
  all_goals revert op; decide

/-- The fold of a tile's lanes in a type. -/
def tileFold (ty : BitVec 4) (op : BitVec 3) (x : Vals) (js : List LaneIx) : BitVec (tyWidth ty) :=
  js.foldl (fun acc j => combined (!tyUnsigned ty) op acc (elem (tyWidth ty) (x j) 0)) (neutral (tyWidth ty) (!tyUnsigned ty) op)

theorem elem_foldl_redInt {ty : BitVec 4} (h : tysWide.contains ty = true) (op : BitVec 3) (x : Vals) (js : List LaneIx) :
    elem (tyWidth ty) (js.foldl (fun acc j => redInt ty op acc (x j)) (redIdentity ty op)) 0 = tileFold ty op x js := by
  have hgo : ∀ (js : List LaneIx) (acc : BitVec 64),
      elem (tyWidth ty) (js.foldl (fun acc j => redInt ty op acc (x j)) acc) 0 =
        js.foldl (fun acc j => combined (!tyUnsigned ty) op acc (elem (tyWidth ty) (x j) 0)) (elem (tyWidth ty) acc 0) := by
    intro js
    induction js with
    | nil => intro acc; rfl
    | cons j js ih => intro acc; rw [List.foldl_cons, List.foldl_cons, ih, elem_redInt]
  rw [hgo, elem_redIdentity h, tileFold]

/-- A lane's value and flags in a reduction (R235). -/
def reduced (ty : BitVec 4) (op : BitVec 3) (rm : Rm) (t : Nat) (e : Mask) (x : Vals) (l : LaneIx) : BitVec 64 × Flags :=
  (redTree (redPair ty op rm) 5
    ((tileLanes t l).map fun j => ((if inMask e j then x j else redIdentity ty op), (0 : Flags)))).headD (0, 0)

/-- The reduction of integers combines the lanes of E of the tile. -/
theorem reduced_elem {ty : BitVec 4} (h : tysWide.contains ty = true) (op : BitVec 3) (rm : Rm) (t : Nat) (e : Mask)
    (x : Vals) (l : LaneIx) : elem (tyWidth ty) (reduced ty op rm t e x l).1 0 =
      tileFold ty op x ((tileLanes t l).filter (inMask e)) := by
  have hf : ty ≠ 2 := by rintro rfl; exact absurd h (by decide)
  have hw := (tyWidth_le ty).1
  let φ : BitVec 64 × Flags → BitVec (tyWidth ty) := fun p => elem (tyWidth ty) p.1 0
  have hφ : ∀ a b, φ (redPair ty op rm a b) = combined (!tyUnsigned ty) op (φ a) (φ b) := fun a b => by
    simp only [φ, redPair, if_neg hf, elem_redInt]
  have hmap : (fun j => φ ((if inMask e j then x j else redIdentity ty op), (0 : Flags))) = fun j =>
      if inMask e j then elem (tyWidth ty) (x j) 0 else neutral (tyWidth ty) (!tyUnsigned ty) op := by
    funext j
    rw [← elem_redIdentity h op]
    simp only [φ]
    split <;> rfl
  calc elem (tyWidth ty) (reduced ty op rm t e x l).1 0
      = (redTree (combined (!tyUnsigned ty) op) 5 ((tileLanes t l).map fun j =>
          if inMask e j then elem (tyWidth ty) (x j) 0 else neutral (tyWidth ty) (!tyUnsigned ty) op)).headD (φ (0, 0)) := by
        show φ (reduced ty op rm t e x l) = _
        rw [reduced, ← headD_map φ, redTree_map φ hφ, List.map_map, ← hmap]
        rfl
    _ = tileFold ty op x ((tileLanes t l).filter (inMask e)) := by
        rw [redTree_eq_foldl (combined_assoc _ op) (fun a => (combined_neutral _ op hw a).1) 5
          (by simpa using tileLanes_ne_nil t l) (by simpa using length_tileLanes t l),
          foldl_filter_identity _ _ fun a => (combined_neutral _ op hw a).2]
        rfl

/-- The reduction of integers raises no flag. -/
theorem reduced_flags {ty : BitVec 4} (hf : ty ≠ 2) (op : BitVec 3) (rm : Rm) (t : Nat) (e : Mask) (x : Vals)
    (l : LaneIx) : (reduced ty op rm t e x l).2 = 0 := by
  have hφ : ∀ a b, (redPair ty op rm a b).2 = a.2 ||| b.2 := fun a b => by simp only [redPair, if_neg hf]
  have hor : ∀ k : Nat, (List.replicate k (0 : Flags)).foldl (· ||| ·) 0 = 0 := fun k => by
    induction k with
    | zero => rfl
    | succ k ih => simpa [List.replicate_succ] using ih
  rw [reduced, ← headD_map Prod.snd, redTree_map Prod.snd hφ,
    redTree_eq_foldl (fun _ _ _ => BitVec.or_assoc ..) (fun _ => BitVec.zero_or) 5 (by simpa using tileLanes_ne_nil t l)
      (by simpa using length_tileLanes t l), List.map_map]
  simpa [Function.comp_def, List.map_const'] using hor (tileLanes t l).length

/-- The reduction of floats is a pairwise tree of their patterns and flags. -/
theorem reduced_float {op : BitVec 3} (ho : op.toNat ≤ 2) (rm : Rm) (t : Nat) (e : Mask) (x : Vals) (l : LaneIx) :
    let two := fun (p q : Nat × Flags) =>
      let r := [fAdd f32 rm p.1 q.1, fMinMax f32 false p.1 q.1, fMinMax f32 true p.1 q.1].getD op.toNat (0, 0)
      (r.1 % 2 ^ 32, p.2 ||| q.2 ||| r.2)
    let lack := [0x8000_0000, 0x7F80_0000, 0xFF80_0000].getD op.toNat 0
    ((reduced 2 op rm t e x l).1.toNat % 2 ^ 32, (reduced 2 op rm t e x l).2) =
      (redTree two 5 ((tileLanes t l).map fun j =>
        (if inMask e j then (x j).toNat % 2 ^ 32 else lack, (0 : Flags)))).headD (0, 0) := by
  intro two lack
  let φ : BitVec 64 × Flags → Nat × Flags := fun p => (p.1.toNat % 2 ^ 32, p.2)
  have hφ : ∀ a b, φ (redPair 2 op rm a b) = two (φ a) (φ b) := fun a b => by
    have hmod : ∀ n : Nat, (BitVec.ofNat 64 n).toNat % 2 ^ 32 = n % 2 ^ 32 := fun n => by
      rw [BitVec.toNat_ofNat, Nat.mod_mod_of_dvd _ (by decide)]
    obtain h | h | h : op.toNat = 0 ∨ op.toNat = 1 ∨ op.toNat = 2 := by omega
    all_goals
      simp only [φ, two, redPair, if_true, BitVec.toNat_setWidth, h, hmod]
      rfl
  have hid : (redIdentity 2 op).toNat % 2 ^ 32 = lack := by
    obtain h | h | h : op.toNat = 0 ∨ op.toNat = 1 ∨ op.toNat = 2 := by omega
    all_goals simp [redIdentity, lack, h]
  have hmap : (φ ∘ fun j => ((if inMask e j then x j else redIdentity 2 op), (0 : Flags))) = fun j =>
      (if inMask e j then (x j).toNat % 2 ^ 32 else lack, (0 : Flags)) := by
    funext j
    rw [← hid]
    simp only [Function.comp, φ]
    split <;> rfl
  show φ (reduced 2 op rm t e x l) = _
  rw [reduced, ← headD_map φ, redTree_map φ hφ, List.map_map, hmap]
  rfl

/-! ### The words -/

section
variable {s : State} {c : LCtl} {disp : Dispatch} {act e : Mask} (ha : LaneActs s c disp act e) {st : LSt} {dst : Dst}
  {d a : Opnd} {x : Vals}

/-- The tile width in force where a word of the block acts. -/
def tileOf (s : State) (disp : Dispatch) : Nat := tileWidth (disp.ltile.getD s.me.ltile)

theorem keeps_moveOps (pair : Bool) (d a : Opnd) : Keeps (moveOps pair d a) :=
  keeps_bind (keeps_prepare _ _) fun _ => keeps_bind (keeps_readMoved _ _) fun _ => keeps_pure _

theorem run_tileT_stays (h : Stays (started s c disp act e) st) : tileT.run st = .ok (tileOf s disp, st) := by
  rw [run_tileT, stays_ltile h]
  rfl

/-- The destination and the operand of a movement word. -/
theorem got_moveOps {pair : Bool} {st0 : LSt} (h : Got (moveOps pair d a) st0 (dst, x) st) :
    ∃ u, (prepare pair d).run st0 = .ok (dst, u) ∧ (readMoved pair a).run u = .ok (x, st) := got_two h

include ha

theorem execVred_acts {op : BitVec 3} (hw : (Instr.vred c d a op).wf = true)
    (h : Got (moveOps (isPair c.ty) d a) (started s c disp act e) (dst, x) st) :
    let r := reduced c.ty op (Rm.ofCode disp.rm.toNat) (tileOf s disp) e x
    exec (.vred c d a op) s = .next (laneFinish (.fixed 10) c (flagged st c.ty dst (fun l => (r l).1)
      ((maskLanes e).foldl (fun acc l => acc ||| (r l).2) 0))) := by
  have hs := got_keeps h (keeps_moveOps _ _ _)
  obtain ⟨hd, -, he, -⟩ := started_stays hs
  obtain ⟨u, h1, h2⟩ := got_moveOps h
  rw [exec, execVred, hw]
  refine laneWord_done ha (by simp) ?_
  rw [run_bind_ok _ h1, run_bind_ok _ h2, run_bind_ok _ h.settle, run_bind_ok _ (run_tileT_stays hs), run_get_bind,
    run_emitFlagged, hd, he]
  rfl

theorem execVscan_acts {op : BitVec 3} {excl : Bool} (hw : (Instr.vscan c d a op excl).wf = true)
    (h : Got (moveOps (isPair c.ty) d a) (started s c disp act e) (dst, x) st) :
    exec (.vscan c d a op excl) s = .next (laneFinish (.fixed 10) c (emitted st c.ty dst fun l =>
      ((tileLanes (tileOf s disp) l).filter fun j =>
        inMask e j && (if excl then decide (j.val < l.val) else decide (j.val ≤ l.val))).foldl
          (fun acc j => redInt c.ty op acc (x j)) (redIdentity c.ty op))) := by
  have hs := got_keeps h (keeps_moveOps _ _ _)
  obtain ⟨-, -, he, -⟩ := started_stays hs
  obtain ⟨u, h1, h2⟩ := got_moveOps h
  rw [exec, execVscan, hw]
  refine laneWord_done ha (by simp) ?_
  rw [run_bind_ok _ h1, run_bind_ok _ h2, run_bind_ok _ h.settle, run_bind_ok _ (run_tileT_stays hs), run_get_bind,
    run_emit, he]

theorem execVmovx_acts {p : PCode} {expand : Bool} {q : Mask} {st' : LSt} (hw : (Instr.vmovx c d a p expand).wf = true)
    (h : Got (moveOps (isPair c.ty) d a) (started s c disp act e) (dst, x) st)
    (hq : Got (do readPredIn (← needE) p) st q st') :
    exec (.vmovx c d a p expand) s = .next (laneFinish (.fixed 10) c (emitted st' c.ty dst fun l =>
      ((movxSrc expand (tileOf s disp) e q l).map x).getD 0)) := by
  have hs := stays_trans (got_keeps h (keeps_moveOps _ _ _)) (got_keeps hq (keeps_bind keeps_needE fun _ => keeps_readPredIn _ _))
  obtain ⟨-, -, he, -⟩ := started_stays hs
  obtain ⟨u, h1, h2⟩ := got_moveOps h
  obtain ⟨n, v, h3, h4⟩ := run_bind_eq_ok hq.1
  rw [exec, execVmovx, hw]
  refine laneWord_done ha (by simp) ?_
  rw [run_bind_ok _ h1, run_bind_ok _ h2, run_bind_ok _ h3, run_bind_ok _ h4, run_bind_ok _ hq.settle,
    run_bind_ok _ (run_tileT_stays hs), run_get_bind, run_emit, he]
omit ha in
/-- The source lanes of SHFL by R233. -/
theorem shflSrc_eq (mode : BitVec 2) (t : Nat) (y : Vals) : (fun l : LaneIx => shuffleSrc mode t l ((y l).setWidth 32 : Lane).toNat) =
    fun l =>
      let first := t * (l.val / t)
      let ix := l.val - first
      let m := (y l).toNat % 2 ^ 32
      let swapped := Nat.xor ix (m % 32)
      Fin.ofNat 32 ([first + m % t, if m ≤ ix then l.val - m else l.val, if ix + m < t then l.val + m else l.val,
        if swapped < t then first + swapped else l.val].getD mode.toNat 0) := by
  funext l
  rw [shuffleSrc_eq, BitVec.toNat_setWidth]

theorem execShfl_acts {b : BSrc} {mode : BitVec 2} {y : Vals} (hw : (Instr.shfl c d a b mode).wf = true)
    (h : Got (shflOps c d a b e fun y l => shuffleSrc mode (tileOf s disp) l ((y l).setWidth 32 : Lane).toNat)
      (started s c disp act e) (dst, x, y) st) :
    exec (.shfl c d a b mode) s = .next (laneFinish (.fixed 10) c (emitted st c.ty dst fun l =>
      x (shuffleSrc mode (tileOf s disp) l ((y l).setWidth 32 : Lane).toNat))) := by
  obtain ⟨dst', u, hu, h1⟩ := run_bind_eq_ok h.1
  have hs := keeps_prepare _ _ _ _ _ hu
  obtain ⟨-, -, he, -⟩ := started_stays hs
  rw [exec, execShfl, hw]
  refine laneWord_done ha (by simp) ?_
  rw [run_bind_ok _ hu, run_bind_ok _ (run_tileT_stays hs), run_get_bind, he]
  cases a
  case dq q =>
    obtain ⟨x', v, hv, h1⟩ := run_bind_eq_ok h1
    obtain ⟨first, v', hfirst, h1⟩ := run_bind_eq_ok h1
    cases hfirst
    obtain ⟨y', v', hv', h1⟩ := run_bind_eq_ok h1
    obtain ⟨_, w, hsync, h1⟩ := run_bind_eq_ok h1
    cases h1
    refine (run_bind_ok _ hv).trans ((run_bind_ok _ (run_pure _)).trans ((run_bind_ok _ hv').trans
      ((run_bind_ok _ hsync).trans ((run_bind_ok _ (run_pure _)).trans ?_))))
    exact (run_bind_ok _ h.settle).trans (run_emit _)
  all_goals
    obtain ⟨first, v', hfirst, h1⟩ := run_bind_eq_ok h1
    cases hfirst
    obtain ⟨y', v', hv', h1⟩ := run_bind_eq_ok h1
    obtain ⟨_, w, hsync, h1⟩ := run_bind_eq_ok h1
    obtain ⟨x', v, hv, h1⟩ := run_bind_eq_ok h1
    cases h1
    refine (run_bind_ok _ (run_pure _)).trans ((run_bind_ok _ hv').trans
      ((run_bind_ok _ hsync).trans ((run_bind_ok _ hv).trans ?_)))
    exact (run_bind_ok _ h.settle).trans (run_emit _)

/-! ### VOTE -/

omit ha in
/-- A predicate read with no cause and no wait leaves the word as it was. -/
theorem readPredIn_quiet {need : Need} {p : PCode} {q : Mask} {st t : LSt} (h : (readPredIn need p).run st = .ok (q, t))
    (hc : t.cand = none) (hb : t.blocked = false) : t = st := by
  simp only [readPredIn, run_get_bind] at h
  split at h
  · cases h; rfl
  · split at h
    · cases h; rfl
    · obtain ⟨_, u, hu, h⟩ := run_bind_eq_ok h
      obtain ⟨-, -, -, rfl⟩ := take_quiet h hc hb
      rw [run_checkEcc] at hu
      exact (note_quiet hu hc).2

theorem execVote_acts {p : PCode} {kind : BitVec 2} {q : Mask} (hw : (Instr.vote c d p kind false).wf = true)
    (h : Got (do let dst ← prepare false d; let q ← readPredIn (← needE) p; pure (dst, q)) (started s c disp act e) (dst, q) st) :
    exec (.vote c d p kind false) s = .next (laneFinish (.fixed 10) c (emitted st c.ty dst fun l =>
      (voteOutcome kind (tileOf s disp) e q l).setWidth 64)) := by
  obtain ⟨dst', u, hu, h1⟩ := run_bind_eq_ok h.1
  obtain ⟨n, v, hn, h1⟩ := run_bind_eq_ok h1
  obtain ⟨q', w, hq, h1⟩ := run_bind_eq_ok h1
  cases h1
  have hs : Stays (started s c disp act e) st := stays_trans (keeps_prepare _ _ _ _ _ hu)
    (stays_trans (keeps_needE _ _ _ hn) (keeps_readPredIn _ _ _ _ _ hq))
  obtain ⟨-, -, he, -⟩ := started_stays hs
  have hty : c.ty ≠ 8 := by
    intro h8
    simp [Instr.wf, h8] at hw
  rw [exec, execVote, hw]
  refine laneWord_done ha (by simp) ?_
  simp only [Bool.false_eq_true, if_false, Bool.false_and]
  rw [run_bind_ok _ (run_tileT_stays (stays_refl _)), run_bind_ok _ hu, run_bind_ok _ hn, run_bind_ok _ hq, run_get_bind,
    run_bind_ok _ h.settle, he, run_emit_single hty]

theorem execVote_bq {p : PCode} {kind : BitVec 2} {q : Mask} (hw : (Instr.vote c d p kind true).wf = true)
    (hlen : s.me.bq.length < 32) (h : Got (do readPredIn (← needE) p) (started s c disp act e) q st) :
    exec (.vote c d p kind true) s = .next (laneFinish (.fixed 10) c { st with
      s := (st.s.setMe { st.s.me with bq := st.s.me.bq ++ [voteOutcome kind (tileOf s disp) e q (lowest e) == 1] }) }) := by
  obtain ⟨n, v, hn, hq⟩ := run_bind_eq_ok h.1
  cases hn
  obtain rfl := readPredIn_quiet hq h.2.1 h.2.2.1
  have hfull : decide (32 ≤ (started s c disp act e).s.me.bq.length) = false := decide_eq_false (Nat.not_le.mpr hlen)
  rw [exec, execVote, hw]
  refine laneWord_done ha (by simp) ?_
  simp only [if_true, Bool.true_and]
  rw [run_bind_ok _ (run_tileT_stays (stays_refl _)), run_bind_ok _ (run_pure _), run_bind_ok _ run_needE,
    run_bind_ok _ hq, run_get_bind]
  simp only [hfull, Bool.false_eq_true, if_false]
  rw [run_bind_ok _ h.settle]
  rfl

omit ha in
/-- R234: any, all, and the lanes themselves. -/
theorem voteOutcome_eq {kind : BitVec 2} (hk : kind ≠ 3) (t : Nat) (e q : Mask) (l : LaneIx) : voteOutcome kind t e q l =
    (let holds := tileLanes t l |>.filter (inMask e)
     if kind = 0 then (if holds.any (inMask q) then 1 else 0)
     else if kind = 1 then (if holds.all (inMask q) then 1 else 0)
     else mkMask fun j => holds.contains j && inMask q j) := by
  have kinds : ∀ k : BitVec 2, k ≠ 3 → k = 0 ∨ k = 1 ∨ k = 2 := by decide
  obtain rfl | rfl | rfl := kinds kind hk <;> rfl
end

theorem vote_kind {c : LCtl} {d : Opnd} {p : PCode} {kind : BitVec 2} {q : Bool} (hw : (Instr.vote c d p kind q).wf = true) :
    kind ≠ 3 := by
  simp only [Instr.wf, Bool.and_eq_true, bne_iff_ne] at hw
  exact hw.1.2

theorem wfRed_of_vred {c : LCtl} {d a : Opnd} {op : BitVec 3} (hw : (Instr.vred c d a op).wf = true) :
    wfRed c.ty op = true := by
  simp only [Instr.wf, Bool.and_eq_true] at hw
  exact hw.1.1.1

theorem vred_wide {c : LCtl} {d a : Opnd} {op : BitVec 3} (hf : c.ty ≠ 2) (hw : (Instr.vred c d a op).wf = true) :
    tysWide.contains c.ty = true := by
  have := wfRed_of_vred hw
  have h2 : (c.ty == tyF32 && decide (op.toNat ≤ 2)) = false := by
    rw [show (c.ty == tyF32) = false from by simpa using hf, Bool.false_and]
  rw [wfRed, h2, Bool.or_false, Bool.and_eq_true] at this
  exact this.2

theorem vred_float {c : LCtl} {d a : Opnd} {op : BitVec 3} (hf : c.ty = 2) (hw : (Instr.vred c d a op).wf = true) :
    op.toNat ≤ 2 := by
  have := wfRed_of_vred hw
  simpa [wfRed, hf, tysWide] using (Bool.and_eq_true_iff.mp this).2

theorem vscan_wide {c : LCtl} {d a : Opnd} {op : BitVec 3} {excl : Bool} (hw : (Instr.vscan c d a op excl).wf = true) :
    tysWide.contains c.ty = true := by
  simp only [Instr.wf, Bool.and_eq_true] at hw
  exact hw.1.1.1.2

end Sys2Proof.Machine
namespace Sys2Proof.Certificates
open Sys2Proof.Machine

/-- Settles O47, from what each word leaves where it acts. -/
theorem laneMovement : Obligations.LaneMovement := by
  unfold Obligations.LaneMovement
  intro s c disp act e d a ha
  dsimp only
  refine ⟨fun b mode dst x y st h hw => ?_, fun p kind q => ⟨fun dst st h hw => ?_, fun st h hlen hw => ?_⟩,
    fun dst x st h => ⟨fun op hf hw => ?_, fun op hf hw => ?_, fun op excl hw => ?_, fun p expand q st' hq hw => ?_⟩⟩
  · have hfun : ∀ y : Vals, (fun l : LaneIx => shuffleSrc mode (tileOf s disp) l ((y l).setWidth 32 : Lane).toNat) = _ :=
      shflSrc_eq mode (tileOf s disp)
    have hall := funext hfun
    rw [← show tileOf s disp = 32 / 2 ^ (disp.ltile.getD s.me.ltile).toNat from rfl] at h ⊢
    have hx := execShfl_acts ha hw (hall ▸ h)
    exact hx.trans (by rw [show (fun l => x (shuffleSrc mode (tileOf s disp) l ((y l).setWidth 32 : Lane).toNat)) = _ from
      congrArg (fun f : LaneIx → LaneIx => fun l => x (f l)) (hfun y)])
  · rw [execVote_acts ha hw h]
    simp only [voteOutcome_eq (vote_kind hw)]
    rfl
  · rw [execVote_bq ha hw hlen h]
    simp only [voteOutcome_eq (vote_kind hw)]
    rfl
  · have hty := vred_wide hf hw
    refine ⟨_, (execVred_acts ha hw h).trans ?_, fun l => reduced_elem hty op (Rm.ofCode disp.rm.toNat) _ e x l⟩
    rw [show (maskLanes e).foldl (fun acc l => acc ||| (reduced c.ty op _ (tileOf s disp) e x l).2) 0 = 0 from
      foldl_no_flags _ fun l => reduced_flags hf op _ _ e x l, flagged_zero]
    rfl
  · refine ⟨_, _, execVred_acts ha hw h, ?_⟩
    have ho := vred_float hf hw
    have hr := fun l => reduced_float ho (Rm.ofCode disp.rm.toNat) (tileOf s disp) e x l
    rw [hf]
    refine ⟨fun l => BitVec.eq_of_toNat_eq ?_, fun n => ?_⟩
    · rw [BitVec.toNat_setWidth, BitVec.toNat_ofNat]
      have := congrArg (fun p : Nat × Flags => p.1 % 2 ^ 32) (hr l)
      exact (Nat.mod_mod _ _).symm.trans this
    · rw [getLsbD_maskFlags]
      refine exists_congr fun l => and_congr_right fun _ => ?_
      have := congrArg (fun p : Nat × Flags => p.2.getLsbD n = true) (hr l)
      exact Eq.to_iff this
  · have hty := vscan_wide hw
    exact ⟨_, execVscan_acts ha hw h, fun l => elem_foldl_redInt hty op x _⟩
  · rw [execVmovx_acts ha hw h hq]
    have hopt : ∀ o : Option LaneIx, (o.map x).getD 0 = match o with
      | some j => x j
      | none => 0 := fun o => by cases o <;> rfl
    congr 3
    exact funext fun l => hopt (movxSrc expand (tileOf s disp) e q l)

end Sys2Proof.Certificates
end

section
/-!
The completion of lane results and lane blocks (R14, R16, R39, R52).
-/
namespace Sys2Proof.Machine

/-- What every step of a fold keeps, the fold keeps. -/
theorem foldl_keeps {σ α β : Type} (P : σ → β) {f : σ → α → σ} (h : ∀ s a, P (f s a) = P s) (l : List α) (s : σ) :
    P (l.foldl f s) = P s := by
  induction l generalizing s with
  | nil => rfl
  | cons a l ih => rw [List.foldl_cons, ih, h]

theorem enabledStep_some (m : String) (s : State) : enabledStep m (some s) = .next s := rfl

/-- A write of a warp that keeps a part of it keeps that part of every warp. -/
theorem warpAt_setWarp_keeps {β : Type} (P : Warp → β) {s : State} {j : Nat} {w : Warp} (h : P w = P (s.warpAt j)) (k : Nat) :
    P ((s.setWarp j w).warpAt k) = P (s.warpAt k) := by
  by_cases hk : k = j
  · subst hk
    simpa using h
  · rw [State.warpAt_setWarp_other _ _ hk]

/-- A warp's reads of window slots may take lanes as a crew's slots change; nothing else of it does. -/
theorem putCrew_inflight (s : State) (c : Nat) (cr : Crew) (k : Nat) :
    ((s.putCrew c cr).warpAt k).inflight = (s.warpAt k).inflight := by
  refine (foldl_keeps (fun t : State => (t.warpAt k).inflight) (fun t x => ?_) cr.strokes (s.setCrew c cr)).trans rfl
  dsimp only
  split
  · rfl
  · exact warpAt_setWarp_keeps Warp.inflight (by rfl) k

theorem crewAt_putCrew (s : State) (c : Nat) (cr : Crew) : (s.putCrew c cr).crewAt c = cr := by
  refine (foldl_keeps (fun t : State => t.crewAt c) (fun t x => ?_) cr.strokes (s.setCrew c cr)).trans
    (State.crewAt_setCrew_same ..)
  dsimp only
  split <;> rfl

/-- Lane `l` of two registers put together. -/
@[simp] theorem lane_blend (m : Mask) (x y : Lanes) (l : LaneIx) :
    lane (blend m x y) l = if inMask m l then lane x l else lane y l := by
  simp [blend, lane, mkLanes]

/-- A result that lands in a window slot makes its lanes present (R39). -/
theorem landWrite_slot {s : State} {k c n j : Nat} {m : Mask} {v : Lanes} (h : (s.warpAt k).stroke = some (c, n)) :
    landWrite s k (.vec (.slot j) m v) = s.putCrew c { s.crewAt c with
      slots := Tbl.put zeroLanes (s.crewAt c).slots j (blend m v (Tbl.get zeroLanes (s.crewAt c).slots j))
      pres := Tbl.put 0 (s.crewAt c).pres j (Tbl.get 0 (s.crewAt c).pres j ||| m) } := by
  simp [landWrite, h]

/-- A write to a window slot that is due is found behind a word still to come that writes no window slot. -/
theorem dueSlot_second {now : Nat} {p q : Pending} {j : Nat} {m : Mask} {v : Lanes} (hp : now < p.landAt)
    (hq : q.landAt ≤ now) (hpw : ∀ x ∈ p.writes, ∀ m' v', x ≠ .vec (.slot j) m' v') (hqw : q.writes = [.vec (.slot j) m v]) :
    dueSlot now [p, q] [] 0 = some (1, j) := by
  have hmem : (p.writes.filterMap LWrite.slot).contains j = false := by
    simp only [List.contains_eq_mem, decide_eq_false_iff_not, List.mem_filterMap, not_exists, not_and]
    intro x hx hs
    unfold LWrite.slot at hs
    split at hs
    · next m' v' =>
      cases hs
      exact hpw _ hx m' v' rfl
    · cases hs
  have hqs : q.writes.filterMap LWrite.slot = [j] := by rw [hqw]; rfl
  simp only [dueSlot, if_neg (Nat.not_le.mpr hp), if_pos hq, hqs, List.nil_append, List.find?_cons, hmem]
  rfl

/-- R39, R52: the due write to a window slot is taken into it before an older result that is still to come. -/
theorem landSlot_second {s : State} {k c n j : Nat} {p q : Pending} {m : Mask} {v : Lanes}
    (hw : (s.warpAt k).inflight = [p, q]) (hqw : q.writes = [.vec (.slot j) m v]) (hs : (s.warpAt k).stroke = some (c, n)) :
    let t := landSlot s k 1 j
    (t.warpAt k).inflight = [p, { q with writes := [] }] ∧
      Tbl.get 0 (t.crewAt c).pres j = Tbl.get 0 (s.crewAt c).pres j ||| m ∧
      ∀ l : LaneIx, inMask m l = true → lane (Tbl.get zeroLanes (t.crewAt c).slots j) l = lane v l := by
  have hq : (s.warpAt k).inflight.getD 1 ⟨0, 0, false, [], .none, 0⟩ = q := by rw [hw]; rfl
  have hmine : (q.writes.filter fun x => x.slot == some j) = [.vec (.slot j) m v] := by simp [hqw, LWrite.slot]
  have hrest : (q.writes.filter fun x => x.slot != some j) = [] := by simp [hqw, LWrite.slot]
  simp only [landSlot, hq, hmine, hrest, List.foldl_cons, List.foldl_nil, landWrite_slot hs]
  simp only [putCrew_inflight, hw, State.warpAt_setWarp_same, State.crewAt_setWarp, crewAt_putCrew, Tbl.get_put_same,
    lane_blend]
  exact ⟨rfl, trivial, fun l hl => if_pos hl⟩

end Sys2Proof.Machine
namespace Sys2Proof.Certificates
open Sys2Proof.Machine

/-- Settles O52: the oldest result where it is due, else `landSlot_second`; the block by its own step. -/
theorem laneCompletions : Obligations.LaneCompletions := by
  unfold Obligations.LaneCompletions
  intro s k
  refine ⟨fun p rest hw hp => ?_, fun p q j m v c n hw hp hq hpw hqw hs => ?_, fun d rest hd hi hp => ?_⟩
  · simp only [exec, execWriteLands, hw, if_pos hp, enabledStep_some]
  · refine ⟨landSlot s k 1 j, ?_, landSlot_second hw hqw hs⟩
    simp only [exec, execWriteLands, hw, if_neg (Nat.not_le.mpr hp), dueSlot_second hp hq hpw hqw, Option.map_some,
      enabledStep_some]
  · have hnone : ((s.warpAt k).inflight.any fun p => p.block == d.seq) = false := by simpa using hp
    simp only [exec, execLaneBlockCompletion, hd, hi, hnone, Bool.not_false, Bool.and_self, if_true, enabledStep_some]

end Sys2Proof.Certificates
end

section
/-!
What a turn of a warp pays the purses (R140): the key of a purse is eight times its domain and the activity's number,
which WORDS-OF-A-TURN reads as the domain's number itself.
-/
namespace Sys2Proof.Machine

/-- Warp 0 in its handler, on a context whose tables hold nothing, so that its turn walks for its fetch and meets PAGE.
Domain 0, whose core runs it, has a page-walker slot left in the period; domain 3 has spent the only one it has. -/
def walkingHandler : State :=
  (State.reset.setWarp 0 { Warp.absent with stat := .running, sup := true }).setDomain 3
    { Domain.reset with spent := Vector.replicate 6 1 }

/-- Its turn asks a slot of purse 3, the page walker of domain 0, and does not wait. -/
theorem rawTurn_walkingHandler :
    ∃ t, rawTurn walkingHandler 0 false = .next t ∧ t.asked = [(purseOf 0 walkerPurse, 1)] ∧ t.waited = false :=
  ⟨_, rfl, rfl, rfl⟩

/-- Domain 0 pays for it: the turn is no wait. -/
theorem warpReady_walkingHandler : warpReady walkingHandler 0 false = true := by decide

/-- Domain 3 could not have paid for it. -/
theorem spent_walkingHandler :
    ¬ ((walkingHandler.domainAt 3).spent[3] + 1 ≤ max 1 (walkingHandler.domainAt 3).active[3].toNat) ∧
      (walkingHandler.domainAt 3).active[3].toNat ≠ 0xFFFF := by decide

end Sys2Proof.Machine
namespace Sys2Proof.Certificates
open Sys2Proof.Machine

/-- Refutes O24: a slot of the page walker of domain 0 has the key 3 (`purseOf 0 walkerPurse`), and the statement asks
domain 3 whether it can pay. In `walkingHandler` it cannot, domain 0 can, and the turn goes on. -/
theorem not_wordsOfATurn : ¬ Obligations.WordsOfATurn := by
  unfold Obligations.WordsOfATurn
  rintro ⟨-, -, hpay⟩
  obtain ⟨t, ht, hasked, hgo⟩ := rawTurn_walkingHandler
  obtain ⟨hshort, hbudget⟩ := spent_walkingHandler
  have hwait : warpTurn walkingHandler 0 false = .next { walkingHandler.turnOf 0 with waited := true } := by
    refine ((hpay walkingHandler t 0 false ht).2 hgo (by simp [hasked])).2 fun hpaid => ?_
    rw [hasked] at hpaid
    obtain hzero | hopen | hleft := hpaid (3, 1) (by decide)
    · cases hzero
    · exact hbudget hopen
    · exact hshort hleft
  have hready := warpReady_walkingHandler
  rw [warpReady, hwait] at hready
  cases hready

end Sys2Proof.Certificates
end

section
/-!
One step: an input, the turn of the agenda, and the end of a cycle (R30, R115, R134).
-/
namespace Sys2Proof.Machine

/-- What the default of a table and all its entries have, every value read from it has. -/
theorem Tbl.get_induct {α : Type} {d : α} {t : Tbl α} (P : α → Prop) (hd : P d) (h : ∀ e ∈ t, P e.2) (k : Nat) :
    P (Tbl.get d t k) := by
  induction t with
  | nil => exact hd
  | cons e r ih =>
    have hr := ih fun x hx => h x (List.mem_cons_of_mem e hx)
    have he := h e List.mem_cons_self
    unfold Tbl.get
    split
    · exact hr
    · split
      · exact he
      · exact hd

/-! ### Inputs, events and the turn of a slot -/

theorem step_input {s : State} {x : Input} {rest : List Input} (h : s.inbox = x :: rest) :
    step s = takeInput x { s with inbox := rest } := by
  simp [step, h]

theorem step_agenda {s : State} {x : Turn} {rest : List Turn} (hin : s.inbox = []) (h : s.agenda = x :: rest) :
    step s = takeTurn x { s with agenda := rest } := by
  simp [step, hin, h]

/-- A step of the part asked for from outside, which is no write through a BAR0, is taken where it can occur. -/
theorem takeStep_next {i : Instr} {s t : State} (hi : encode i = none) (hb : barWrite i = false) (h : exec i s = .next t) :
    takeStep i s = .next t := by
  simp [takeStep, hi, hb, h]

/-- What `noteReached` adds to the barriers reached: none, or the one that the slot's word would reach. -/
theorem noteReached_eq (s t : State) (k : Nat) (hit : Option (Nat × Nat × Bool)) :
    ∃ r, noteReached s t k hit = { t with reached := t.reached ++ r } ∧ (r = [] ∨ ∃ x, r = [x] ∧ hit = some x) := by
  have hnone : t = { t with reached := t.reached ++ [] } := by rw [List.append_nil]
  unfold noteReached
  cases hit with
  | none => exact ⟨[], hnone, .inl rfl⟩
  | some x =>
    dsimp only
    split
    · exact ⟨[x], rfl, .inr ⟨x, rfl, rfl⟩⟩
    · exact ⟨[], hnone, .inl rfl⟩

/-- A slot whose warp is chosen issues that warp's turn; its other ready warps let the opportunity pass. -/
theorem issueSlot_chosen {v t : State} {core slot k : Nat} {lane : Bool} (hc : chosen v core slot = some (k, lane))
    (ht : warpTurn v k lane = .next t) :
    issueSlot v core slot = some (.next (passOver ((readyOf v (slotWarps v core slot)).map (·.1)) k
      (noteReached v t k (chosenBar v (4 * core + slot))))) := by
  unfold chosen at hc
  simp [issueSlot, hc, ht]

theorem takeTurn_issue_open {u v t : State} {core slot k : Nat} {lane : Bool} (hv : v = u.spend (4 * core + slot))
    (hn : 4 * core + slot ∉ u.issued) (hheld : slotHeld u (4 * core + slot) = false)
    (hc : chosen v core slot = some (k, lane)) (ht : warpTurn v k lane = .next t) :
    ∃ r, takeTurn (.issue core slot) u =
        .next (passOver ((readyOf v (slotWarps v core slot)).map (·.1)) k { t with reached := t.reached ++ r }) ∧
      (r = [] ∨ ∃ x, r = [x] ∧ chosenBar v (4 * core + slot) = some x) := by
  obtain ⟨r, hr, hreach⟩ := noteReached_eq v t k (chosenBar v (4 * core + slot))
  refine ⟨r, ?_, hreach⟩
  subst hv
  simp only [takeTurn, hheld, List.contains_eq_mem, hn, decide_false, Bool.or_self, Bool.false_eq_true, if_false,
    issueSlot_chosen hc ht, Option.getD_some, hr]

/-- A slot that lets another go first does nothing. -/
theorem takeTurn_issue_held {u : State} {core slot : Nat} (h : slotHeld u (4 * core + slot) = true) :
    takeTurn (.issue core slot) u = .next u := by
  simp [takeTurn, h]

theorem stealWaits_pop {u : State} {n m k a b k' a' b' : _} {auto : Bool} (hm : m ∈ slotsLeft u) (hmn : m ≠ n)
    (hs : chosenWord u n = some (.qsteal k a b)) (hp : chosenWord u m = some (.qpop k' a' b' auto)) :
    slotHeld u n = true := by
  have hwait : stealWaits u n = true := by
    simp only [stealWaits, hs, List.any_eq_true, Bool.and_eq_true, bne_iff_ne]
    exact ⟨m, hm, hmn, by rw [hp]⟩
  simp [slotHeld, hwait]

theorem barWaits_expect {u : State} {n m blk b : Nat} (hm : m ∈ slotsLeft u) (hmn : m ≠ n)
    (ha : chosenBar u n = some (blk, b, true)) (he : chosenBar u m = some (blk, b, false)) : slotHeld u n = true := by
  have hwait : barWaits u n = true := by
    simp only [barWaits, ha, List.any_eq_true, Bool.and_eq_true, bne_iff_ne]
    exact ⟨m, hm, hmn, by rw [he]; simp⟩
  simp [slotHeld, hwait]

theorem barWaits_reached {u : State} {n blk b : Nat} (he : chosenBar u n = some (blk, b, false))
    (h : (blk, b, true) ∈ u.reached) : slotHeld u n = true := by
  have hwait : barWaits u n = true := by simp [barWaits, he, h]
  simp [slotHeld, hwait]

/-! ### The end of a cycle -/

/-- What the notes of a cycle's end leave: memory, the functions, the repairs that wait, and of every warp its
registers and its pc. -/
def calmView (s : State) :=
  (s.mem, s.fns, s.toSave, s.fencing, fun k => ((s.warpAt k).s, (s.warpAt k).v, (s.warpAt k).pc))

theorem calmView_setWarp {s : State} {k : Nat} {w : Warp} (hs : w.s = (s.warpAt k).s) (hv : w.v = (s.warpAt k).v)
    (hpc : w.pc = (s.warpAt k).pc) : calmView (s.setWarp k w) = calmView s := by
  have hview : (fun j => (((s.setWarp k w).warpAt j).s, ((s.setWarp k w).warpAt j).v, ((s.setWarp k w).warpAt j).pc)) =
      fun j => ((s.warpAt j).s, (s.warpAt j).v, (s.warpAt j).pc) :=
    funext fun j => warpAt_setWarp_keeps (fun w : Warp => (w.s, w.v, w.pc)) (by simp [hs, hv, hpc]) j
  simp only [calmView, hview]
  rfl

@[simp] theorem calmView_setBlock (s : State) (b : Nat) (x : Block) : calmView (s.setBlock b x) = calmView s := rfl
@[simp] theorem calmView_setCore (s : State) (c : Nat) (x : Core) : calmView (s.setCore c x) = calmView s := rfl

theorem calmView_spendBill (s : State) (bill : Tbl Nat) : calmView (spendBill s bill) = calmView s :=
  by
  refine foldl_keeps calmView (fun u e => ?_) bill s
  rfl

theorem calmView_drawAhead {s t u : State} {k : Nat} (h : drawAhead s t k = some u) : calmView u = calmView s := by
  obtain ⟨bill, drawn, rfl⟩ := drawAhead_some h
  exact (calmView_setWarp (by rfl) (by rfl) (by rfl)).trans (calmView_spendBill s bill)

theorem calmView_noteReads (s : State) (k : Nat) : calmView (noteReads s k) = calmView s := by
  unfold noteReads
  split
  · split
    · exact calmView_setWarp rfl rfl rfl
    · rfl
  · rfl
  · rfl

theorem calmView_noteDraws (s : State) (k : Nat) : calmView (noteDraws s k) = calmView s := by
  unfold noteDraws
  dsimp only
  split
  · next t _ =>
    cases hd : drawAhead s t k with
    | none => rfl
    | some u => exact calmView_drawAhead hd
  · rfl

theorem calmView_noteReady (s : State) (k : Nat) : calmView (noteReady s k) = calmView s := by
  unfold noteReady
  dsimp only
  split <;> rfl

theorem calmView_noteWarp (s : State) (k : Nat) : calmView (noteWarp s k) = calmView s := by
  have hyield : ∀ u : State, calmView (noteYield u k) = calmView u := fun u => calmView_setWarp rfl rfl rfl
  unfold noteWarp
  rw [calmView_noteReady, hyield, calmView_noteDraws]
  split
  · exact calmView_noteReads s k
  · rfl

theorem calmView_noteWaits (s : State) : calmView (noteWaits s) = calmView s := foldl_keeps calmView calmView_noteWarp _ s

theorem calmView_openPhases (b : Nat) (i : BitVec 4) (fuel : Nat) (s : State) :
    calmView (openPhases b i fuel s) = calmView s := by
  induction fuel generalizing s with
  | zero => rfl
  | succ n ih =>
    unfold openPhases
    dsimp only
    split
    · rw [ih, calmView_setBlock, calmView_setCore]
      refine foldl_keeps calmView (fun u j => ?_) _ s
      exact calmView_setWarp (by rfl) (by rfl) (by rfl)
    · rfl

theorem calmView_openBarriers (s : State) : calmView (openBarriers s) = calmView s := by
  refine foldl_keeps calmView (fun u e => ?_) s.blocks s
  split
  · exact foldl_keeps calmView (fun v i => calmView_openPhases e.1 _ 256 v) _ u
  · rfl

/-- No function's writers resume one after another: nothing goes on at the end of the cycle. -/
theorem drainLogs_idle {s : State} (h : ∀ e ∈ s.fns, e.2.drains = false) : drainLogs s = s := by
  have hone : ∀ vf, drainLog s vf = s := by
    intro vf
    have hfn : (s.fnAt vf).drains = false := Tbl.get_induct (fun f : Fn => f.drains = false) rfl h vf
    simp [drainLog, hfn]
  unfold drainLogs
  generalize s.fns.map (·.1) = l
  induction l with
  | nil => rfl
  | cons vf l ih => rw [List.foldl_cons, hone, ih]

/-- Where no repair waits, firmware asks for its own events and nothing else changes. -/
theorem calmView_retryRepairs {s : State} (hsave : s.toSave = []) (hfence : s.fencing = []) :
    calmView (retryRepairs s) = calmView s := by
  simp only [retryRepairs, hsave, hfence, List.foldl_nil, List.isEmpty_nil, if_true, calmView]
  rfl

/-- Where no repair waits and no writer drains a log, the end of a cycle leaves memory and every warp's registers and
pc. -/
theorem calmView_tick {s : State} (hsave : s.toSave = []) (hfence : s.fencing = [])
    (hdrain : ∀ e ∈ s.fns, e.2.drains = false) : calmView (tick s) = calmView s := by
  have hview : calmView (openBarriers (noteWaits s)) = calmView s := by rw [calmView_openBarriers, calmView_noteWaits]
  obtain ⟨-, hf, hs, hfe, -⟩ := by simpa only [calmView, Prod.mk.injEq] using hview
  have hidle : drainLogs (openBarriers (noteWaits s)) = openBarriers (noteWaits s) := drainLogs_idle (by rwa [hf])
  calc calmView (tick s) = calmView (retryRepairs (drainLogs (openBarriers (noteWaits s)))) := rfl
    _ = calmView s := by rw [hidle, calmView_retryRepairs (hs.trans hsave) (hfe.trans hfence), hview]

end Sys2Proof.Machine
namespace Sys2Proof.Certificates
open Sys2Proof.Machine

/-- Settles O25: inputs and turns by `step_input` and `step_agenda`, the end of a cycle by `calmView_tick`. -/
theorem stepRunsTheTurn : Obligations.StepRunsTheTurn := by
  unfold Obligations.StepRunsTheTurn
  refine ⟨fun s x rest hin => ⟨step_input hin, fun pa bs hx => ?_, fun i t hx hi hb ht => ?_⟩,
    fun s rest hin => ⟨fun core slot k lane t ha hn hheld hc ht => ?_, fun core slot ha => ⟨fun m hm hmn => ⟨?_, ?_⟩, ?_⟩,
      fun i t ha hi hb ht => ?_, fun ha hsave hfence hdrain => ?_⟩⟩
  · rw [step_input hin, hx]
    rfl
  · rw [step_input hin, hx]
    exact takeStep_next hi hb ht
  · rw [step_agenda hin ha]
    exact takeTurn_issue_open rfl hn hheld hc ht
  · intro k a b k' a' b' auto hs hp
    rw [step_agenda hin ha]
    exact takeTurn_issue_held (stealWaits_pop hm hmn hs hp)
  · intro blk b hb he
    rw [step_agenda hin ha]
    exact takeTurn_issue_held (barWaits_expect hm hmn hb he)
  · intro blk b hb hr
    rw [step_agenda hin ha]
    exact takeTurn_issue_held (barWaits_reached hb hr)
  · rw [step_agenda hin ha]
    exact takeStep_next hi hb ht
  · have hview := calmView_tick (s := { s with agenda := rest }) hsave hfence hdrain
    simp only [calmView, Prod.mk.injEq] at hview
    obtain ⟨hmem, -, -, -, hwarps⟩ := hview
    refine ⟨tick { s with agenda := rest }, step_agenda hin ha, rfl, rfl, rfl, hmem, fun k => ?_⟩
    have hk := congrFun hwarps k
    simp only [Prod.mk.injEq] at hk
    exact hk

end Sys2Proof.Certificates
end

section
/-!
No step faults (R30). A word faults only where the warp that is to act may not run it, and a turn runs a word only of a
warp that may; a step of the part never faults.
-/
namespace Sys2Proof.Machine

/-! ### Outcomes without a fault -/

structure Faultless (o : Out) : Prop where
  ne_fault : ∀ f, o ≠ .fault f

theorem faultless_next (s : State) : Faultless (.next s) := ⟨fun _ => nofun⟩
theorem faultless_refused (r : Refusal) : Faultless (.refused r) := ⟨fun _ => nofun⟩
theorem faultless_waits (s : State) : Faultless (waits s) := faultless_next _

theorem faultless_if {c : Prop} [Decidable c] {a b : Out} (ha : Faultless a) (hb : Faultless b) :
    Faultless (if c then a else b) := by
  split
  · exact ha
  · exact hb

theorem faultless_enabledStep (m : String) (o : Option State) : Faultless (enabledStep m o) := by
  cases o
  · exact faultless_refused _
  · exact faultless_next _

/-! ### Words -/

theorem faultless_takeScalar (s s' : State) (x : ScalarFault) : Faultless (takeScalar s s' x) := by
  unfold takeScalar
  split
  · exact faultless_next _
  · exact faultless_waits s

theorem faultless_raiseScalar (s s' : State) (r : Raise) (resume : Word) (sites : List EccSite) (atOnce : Bool) :
    Faultless (raiseScalar s s' r resume sites atOnce) := by
  unfold raiseScalar
  dsimp only
  split
  · exact faultless_next _
  · split
    · split
      · exact faultless_waits s
      · exact faultless_next _
    · exact faultless_takeScalar ..

/-- A scalar word of a warp that may issue does not fault. -/
theorem faultless_scalarWord {s : State} (hr : canRun s = true) (kind : Kind) (srcs : List SReg) (body : State → Did) :
    Faultless (scalarWord kind srcs body s) := by
  simp only [scalarWord, hr, Bool.not_true, Bool.false_eq_true, if_false]
  split
  · exact faultless_next _
  · split
    · exact faultless_raiseScalar ..
    · split
      · exact faultless_waits s
      · split
        · exact faultless_waits s
        · cases body s with
          | waits => exact faultless_waits s
          | raises s' r => exact faultless_raiseScalar ..
          | deadlocks => exact faultless_raiseScalar ..
          | traps r resume => exact faultless_raiseScalar ..
          | stops s' => exact faultless_next _
          | done s' next => exact faultless_next _

theorem faultless_legalWord {s : State} (hr : canRun s = true) {ok : Bool} {o : State → Out} (h : Faultless (o s)) :
    Faultless (legalWord ok o s) := by
  unfold legalWord
  split
  · exact h
  · exact faultless_scalarWord hr ..

/-- Every scalar word is run by `scalarWord`. -/
theorem faultless_scalar {i : Instr} (h : (encodeS i).isSome = true) {s : State} (hr : canRun s = true) :
    Faultless (exec i s) := by
  cases i <;> cases h
  all_goals simp only [exec,
    execAdd, execSub, execAnd, execOr, execXor, execShl, execShr, execSra, execMul, execMulh, execMulhu, execDiv,
    execDivu, execRem, execRemu, execMin, execMax, execMinu, execMaxu, execSlt, execSltu, execSeq, execSne,
    execAddw, execClz, execPopc, execAddi, execAndi, execOri, execXori, execShli, execShri, execSrai, execSlti,
    execSltui, execMuli, execLi, execLui, execLuh, execLdb, execLdbu, execLdh, execLdhu, execLdw, execLdwu,
    execLdd, execStb, execSth, execStw, execStd, execLda, execStl, execAtom, execAtoma, execAtoml, execAtomal,
    execFence, execBz, execBnz, execBltz, execBgez, execCall, execJr, execBqt, execBqf, execLoop, execLgo,
    execLgor, execLwait, execDqpBroadcast, execDqpIota, execDqld, execDqstrm, execXqp, execSrd, execSwr, execRegn,
    execCwait, execWaitv, execBarSync, execBarArrive, execBarWait, execBarExpect, execBarInit, execYieldW,
    execCpyImmediate, execCpyRegister, execMxb, execMxa, execMxrd, execMxz, execQfence, execLnch, execHintsucc,
    execWaitpred, execCrew, execCreww, execBreakCrew, execGoStroke, execSrel, execRegroup, execQpush, execQpop,
    execQsteal, execSsld, execSsst, execSsnap, execSsroll, execSsfork, execSsdrop, execTrap, execEretResume,
    execEretReplay, execExitWarp, execTlbiVa, execTlbiCtx, execTlbiSplit, execTlbiGpa, execNop,
    alu, aluI, loadWord, storeWordAt, branchIf, branchBq, strokeWord, eret, supWord, atomic,
    ↓faultless_scalarWord hr, ↓faultless_legalWord hr]

theorem faultless_takeLane (s s' : State) (epc : Word) (r : Raise) (sites : List EccSite) :
    Faultless (takeLane s s' epc r sites) := by
  unfold takeLane
  dsimp only
  split
  · exact faultless_next _
  · exact faultless_waits s

theorem faultless_raiseLane (s s' : State) (epc : Word) (r : Raise) (sites : List EccSite) (popped : List (Nat × DqEntry)) :
    Faultless (raiseLane s s' epc r sites popped) := by
  unfold raiseLane
  dsimp only
  split
  · exact faultless_next _
  · exact faultless_takeLane ..

/-- A warp that may issue the words of a dispatched lane block. -/
structure LaneReady (s : State) (d : Dispatch) : Prop where
  run : canRun s = true
  user : s.me.sup = false
  block : s.me.laneBlock = some d

/-- Such a warp's word is not stuck. -/
theorem LaneReady.not_stuck {s : State} {d : Dispatch} (h : LaneReady s d) (k : LKind) (c : LCtl) (legal : Bool) :
    laneIssue k c legal s ≠ .stuck := by
  obtain ⟨hr, hu, hl⟩ := h
  simp only [laneIssue, hl, hr, hu, Bool.not_true, Bool.or_self, Bool.false_eq_true, if_false]
  repeat' split
  all_goals exact nofun

/-- A lane word of such a warp does not fault. -/
theorem faultless_laneWord {s : State} {d : Dispatch} (h : LaneReady s d) (k : LKind) (c : LCtl) (legal : Bool)
    (body : LM Unit) : Faultless (laneWord k c legal body s) := by
  unfold laneWord
  split
  · next hs => exact absurd hs (h.not_stuck k c legal)
  · exact faultless_waits s
  · exact faultless_next _
  · exact faultless_raiseLane ..
  · split
    · exact faultless_waits _
    · exact faultless_raiseLane ..
    · exact faultless_next _
    · exact faultless_next _

/-! ### Steps of the part -/

theorem faultless_affineStreamPush (k : Nat) (q : BitVec 2) (s : State) : Faultless (execAffineStreamPush k q s) := by
  unfold execAffineStreamPush
  dsimp only
  split
  · exact faultless_refused _
  · split
    · split
      · split
        · exact faultless_next _
        · exact faultless_refused _
      · split
        · exact faultless_next _
        · exact faultless_next _
    · exact faultless_refused _

theorem faultless_releaseWave (core : Nat) (s : State) : Faultless (execReleaseWave core s) := by
  unfold execReleaseWave
  dsimp only
  split
  · exact faultless_refused _
  · exact faultless_next _

theorem faultless_launchQueueTailWrite (fn : Nat) (q : BitVec 4) (x : Word) (s : State) :
    Faultless (execLaunchQueueTailWrite fn q x s) := by
  unfold execLaunchQueueTailWrite
  exact faultless_if (faultless_next _) (faultless_next _)

theorem faultless_lqstart (fn : Nat) (q : BitVec 4) (x : Word) (s : State) : Faultless (execLqstart fn q x s) := by
  unfold execLqstart
  exact faultless_if (faultless_next _) (faultless_next _)

theorem faultless_dlconsWrite (vf : Nat) (x : Word) (s : State) : Faultless (execDlconsWrite vf x s) := by
  unfold execDlconsWrite
  exact faultless_if (faultless_next _) (faultless_next _)

theorem faultless_classChange (d : Nat) (cls : BitVec 2) (s : State) : Faultless (execClassChange d cls s) := by
  unfold execClassChange
  exact faultless_if (faultless_next _) (faultless_next _)

theorem faultless_qreset (x : Word) (s : State) : Faultless (execQreset x s) := faultless_next _

theorem faultless_registerWrite (fn : Nat) (off : BitVec 52) (x : Word) (s : State) :
    Faultless (execRegisterWrite fn off x s) := by
  unfold execRegisterWrite
  split
  · exact faultless_launchQueueTailWrite ..
  · exact faultless_lqstart ..
  · exact faultless_next _
  · split
    · exact faultless_next _
    · split
      · exact faultless_classChange ..
      · exact faultless_next _
      · exact faultless_next _
      · exact faultless_qreset ..
      · exact faultless_dlconsWrite ..
      · exact faultless_next _
      · exact faultless_next _
  · exact faultless_next _

theorem faultless_thermalBandChange (u : Nat) (band : BitVec 3) (s : State) :
    Faultless (execThermalBandChange u band s) := faultless_next _

/-- A step of the part has its effect or is not enabled; the writes through a BAR0 always have theirs. -/
theorem faultless_step {i : Instr} (h : encode i = none) (s : State) : Faultless (exec i s) := by
  cases i <;> cases h
  all_goals simp only [exec,
    execRegroupTimeout, execLaneBlockCompletion, execLaunchRecordRead, execDeviceLaunchPass, execBlockExit,
    execGridCompletion, execStrokeLaunch, execTemplateCopyIssue, execStrokeRetire, execOutSlotRelease,
    execStrokeCommit, execEngineCommandStart, execCopyPieceLanding, execEngineCommandCompletion, execTrapEntry,
    execFaultResolution, execFormatEmulation, execStallSwapOut, execWaitingBlockSwap, execBlockRestore,
    execBlockRelaunch, execPreemptionRequest, execPreemptionSave, execContextReset, execWriteBackScan,
    execClassChangeEffect, execSupplySag, execEccError, execSelfTestCompletion, execPeerTimeout,
    execRedfishRequest, execChallenge, execWriteLands, execContextRelease, execContextReadmission,
    execRailRecovers, execPeerPackageAccess, execGangPlacement, execControlInterval, execPursePeriod, execPowerOn,
    execGetCertificate, execGetMeasurements,
    spdm, ↓faultless_enabledStep, faultless_affineStreamPush, faultless_releaseWave, faultless_launchQueueTailWrite,
    faultless_lqstart, faultless_dlconsWrite, faultless_classChange, faultless_qreset, faultless_registerWrite,
    faultless_thermalBandChange]

/-! ### Fetching -/

/-- The machine but for what the walker and the TLBs change: the draws of free choices, the slots asked, the contexts'
logs, the TLBs of cores, clusters and ports. -/
def walkRest (s : State) : State := { s with free := 0, asked := [], ctxs := [], cores := [], clusters := [], ports := [] }

theorem walkRest_tlbFill (s : State) (w : Who) (va : Nat) (x : Found) (gone : Bool) :
    walkRest (tlbFill s w va x gone) = walkRest s := by
  unfold tlbFill
  dsimp only
  split
  · rfl
  · split <;> rfl

theorem walkRest_pickHeld (l : List (Except WalkErr Found × Bool)) (s : State) :
    walkRest (pickHeld l s).1 = walkRest s := by
  induction l generalizing s with
  | nil => rfl
  | cons x r ih =>
    unfold pickHeld
    dsimp only
    split
    · rfl
    · exact ih _

theorem walkRest_lookup (s : State) (w : Who) (a : Acc) (va : Nat) : walkRest (lookup s w a va).1 = walkRest s := by
  unfold lookup
  dsimp only
  split
  · next e _ =>
    have hpick := walkRest_pickHeld ((e.choices s va (walkBoth s w.ctx va)).filter fun x => !agrees x.1 (walkBoth s w.ctx va) a) s
    split
    · next h => rwa [h] at hpick
    · next h => rwa [h] at hpick
  · rfl

theorem walkRest_askWalk (s : State) (w : Who) (x : Source) : walkRest (askWalk s w x) = walkRest s := by
  unfold askWalk
  split <;> rfl

/-- A translation changes nothing but what the walker and the TLBs do. -/
theorem walkRest_translate (s : State) (w : Who) (a : Acc) (va : Word) :
    walkRest (translate s w a va).1 = walkRest s := by
  have hlook : ∀ x, walkRest (askWalk (lookup s w a va.toNat).1 w x) = walkRest s := fun x =>
    (walkRest_askWalk ..).trans (walkRest_lookup ..)
  unfold translate
  dsimp only
  split
  · exact hlook _
  · exact hlook _
  · exact hlook _
  · exact hlook _
  · have hfill : ∀ x g, walkRest (tlbFill (askWalk (lookup s w a va.toNat).1 w (lookup s w a va.toNat).2.2) w va.toNat x g) =
        walkRest s := fun x g => (walkRest_tlbFill ..).trans (hlook _)
    split
    · exact hfill ..
    · split
      · exact hfill ..
      · split
        · exact hfill ..
        · exact hfill ..

theorem walkRest_codeUnit (s : State) (block pa : Nat) : walkRest (codeUnit s block pa).1 = walkRest s := by
  unfold codeUnit
  dsimp only
  split <;> rfl

theorem walkRest_fetchUnit (s : State) (w : Who) (va : Word) : walkRest (fetchUnit s w va).1 = walkRest s := by
  have htr := walkRest_translate s w .fetch va
  unfold fetchUnit
  split
  · rfl
  · split
    · next h => rwa [h] at htr
    · next h =>
      rw [h] at htr
      split
      · exact htr
      · split
        · exact htr
        · exact (walkRest_codeUnit ..).trans htr

theorem walkRest_fetchUnits (w : Who) (n : Nat) (s : State) (va : Word) :
    walkRest (fetchUnits w n s va).1 = walkRest s := by
  induction n generalizing s va with
  | zero => rfl
  | succ n ih =>
    have hone := walkRest_fetchUnit s w va
    unfold fetchUnits
    split
    · next h => rwa [h] at hone
    · next t u h =>
      rw [h] at hone
      have hrest := (ih t (va + 4)).trans hone
      split
      · next h' => rwa [h'] at hrest
      · next h' => rwa [h'] at hrest

theorem walkRest_fetchLane (s : State) (w : Who) (va : Word) : walkRest (fetchLane s w va).1 = walkRest s := by
  have hone := walkRest_fetchUnit s w va
  unfold fetchLane
  split
  · next h => rwa [h] at hone
  · next t u h =>
    rw [h] at hone
    split
    · have htwo := (walkRest_fetchUnit t w (va + 4)).trans hone
      split
      · next h' => rwa [h'] at htwo
      · next h' =>
        rw [h'] at htwo
        split
        · exact htwo
        · exact (walkRest_fetchUnits ..).trans htwo
    · exact (walkRest_fetchUnits ..).trans hone

theorem walkRest_me {s t : State} (h : walkRest t = walkRest s) : t.me = s.me := by
  have hw : t.warps = s.warps := (congrArg State.warps h :)
  have hc : t.cur = s.cur := (congrArg State.cur h :)
  simp [State.me, State.warpAt, hw, hc]

theorem walkRest_canRun {s t : State} (h : walkRest t = walkRest s) (hr : canRun s = true) : canRun t = true := by
  have hb : t.blocks = s.blocks := (congrArg State.blocks h :)
  simpa [canRun, walkRest_me h, State.blockAt, hb] using hr

theorem LaneReady.of_walkRest {s t : State} {d : Dispatch} (hs : LaneReady s d) (h : walkRest t = walkRest s) :
    LaneReady t d := by
  obtain ⟨hr, hu, hl⟩ := hs
  have hme := walkRest_me h
  exact ⟨walkRest_canRun h hr, by rw [hme, hu], by rw [hme, hl]⟩

/-! ### What decodes to an S-word -/

/-- A word of the scalar stream. -/
def IsWord (i : Instr) : Prop := (encodeS i).isSome = true

/-- What a decoder gives, if anything, is an S-word. -/
def Words (e : Except DecodeError Instr) : Prop := ∀ i, e = .ok i → IsWord i

theorem words_ok {i : Instr} (h : IsWord i) : Words (.ok i) := fun _ hi => by cases hi; exact h
theorem words_error (e : DecodeError) : Words (.error e) := fun _ => nofun
theorem words_need {b : Bool} {i : Instr} (h : IsWord i) : Words (need b i) := by
  cases b
  · exact words_error _
  · exact words_ok h
theorem words_orReserved {α : Type} {f : α → Instr} (h : ∀ a, IsWord (f a)) (o : Option α) : Words (orReserved (o.map f)) := by
  cases o with
  | none => exact words_error _
  | some a => exact words_ok (h a)

theorem words_if {c : Prop} [Decidable c] {e e' : Except DecodeError Instr} (h : Words e) (h' : Words e') :
    Words (if c then e else e') := by
  split
  · exact h
  · exact h'
theorem isWord_if {c : Prop} [Decidable c] {i j : Instr} (h : IsWord i) (h' : IsWord j) : IsWord (if c then i else j) := by
  split
  · exact h
  · exact h'

/-- The integer group gives S-words (R179). -/
theorem words_rawInt (d a b : SReg) (fn : BitVec 7) : Words (rawInt d a b fn) := by
  unfold rawInt
  split
  any_goals exact words_ok rfl
  · exact words_need rfl
  · exact words_need rfl
  · exact words_error _

/-- Every op that has a word gives an S-word (R176, R179). The ops with one word each come first, by what they ask of
the word's free bits; then those that are left, in order. -/
theorem words_rawS (x : BitVec 32) : Words (rawS x) := by
  unfold rawS
  dsimp only
  split
  any_goals exact words_ok rfl
  any_goals refine words_need ?_
  any_goals exact rfl
  any_goals exact words_orReserved (by intro a; rfl) _
  · exact words_rawInt _ _ _ _
  · exact words_if (words_orReserved (by intro a; rfl) _) (words_error _)
  · exact words_if (words_orReserved (by intro a; rfl) _) (words_error _)
  · exact words_if (words_orReserved (by intro a; rfl) _) (words_error _)
  · exact words_if (words_if (words_ok rfl) (words_need rfl)) (words_error _)
  · cases WaitCond.ofCode (fld x 3 3) with
    | none => exact words_error _
    | some c => exact words_orReserved (by intro a; rfl) _
  · refine words_if ?_ (words_error _)
    split
    · exact words_need rfl
    · exact words_need rfl
    · exact words_need rfl
    · exact words_ok rfl
    · exact words_ok rfl
    · exact words_error _
  · exact words_if (words_ok rfl) (words_need rfl)
  · exact isWord_if rfl rfl
  · refine words_if ?_ (words_error _)
    split
    · exact words_ok rfl
    · exact words_need rfl
    · exact words_ok rfl
    · exact words_ok rfl
    · exact words_error _
  · exact words_error _

/-! ### Turns -/

theorem decodeS_scalar {x : BitVec 32} {i : Instr} (h : decodeS x = .ok i) : IsWord i := by
  unfold decodeS at h
  split at h
  · cases h
  · next hraw =>
    split at h
    · cases h
      exact words_rawS x _ hraw
    · cases h

/-- Every word and step of a warp that may issue the words of a lane block is without a fault. -/
theorem faultless_exec {s : State} {d : Dispatch} (h : LaneReady s d) (i : Instr) : Faultless (exec i s) := by
  cases hs : (encodeS i).isSome with
  | true => exact faultless_scalar hs h.run
  | false =>
    have hnone : encodeS i = none := by simpa using hs
    cases hf : encodeLFields i with
    | none => exact faultless_step (by simp [encode, hnone, hf]) s
    | some x =>
      obtain ⟨k, body, hx⟩ := exec_lane hf
      rw [hx]
      exact faultless_laneWord h ..

theorem faultless_scalarTurn {s : State} (hr : canRun s = true) : Faultless (scalarTurn s) := by
  have hview := walkRest_fetchUnit s (whoOf s s.cur s.me) s.me.pc
  unfold scalarTurn
  dsimp only
  split
  · unfold pendingTurn
    dsimp only
    split
    · exact faultless_takeScalar ..
    · exact faultless_waits s
  · split
    · exact faultless_scalarWord hr ..
    · next h =>
      rw [h] at hview
      have ht := walkRest_canRun hview hr
      split
      · next hd => exact faultless_scalar (decodeS_scalar hd) ht
      · exact faultless_scalarWord ht ..

theorem faultless_illegalLane {s : State} {d : Dispatch} (h : LaneReady s d) (us : List (BitVec 32)) :
    Faultless (illegalLane d us s) := by
  unfold illegalLane
  split
  · exact faultless_laneWord h ..
  · exact faultless_laneWord h ..
  · exact faultless_raiseLane ..

theorem faultless_laneTurn (s : State) : Faultless (laneTurn s) := by
  unfold laneTurn
  dsimp only
  split
  · exact faultless_waits s
  · next d hl =>
    have hview := walkRest_fetchLane s (whoOf s s.cur s.me) d.addr
    split
    · exact faultless_waits s
    · next hrun =>
      simp only [Bool.or_eq_true, not_or, Bool.not_eq_true, Bool.not_eq_eq_eq_not, Bool.not_true, Bool.not_eq_false] at hrun
      obtain ⟨⟨hu, hr⟩, -⟩ := hrun
      split
      · unfold heldTurn
        split
        · exact faultless_waits s
        · exact faultless_takeLane ..
      · split
        · exact faultless_raiseLane ..
        · next h =>
          rw [h] at hview
          have hready := LaneReady.of_walkRest ⟨hr, hu, hl⟩ hview
          split
          · exact faultless_exec hready _
          · exact faultless_illegalLane hready _

theorem faultless_rawTurn (s : State) (k : Nat) (lane : Bool) : Faultless (rawTurn s k lane) := by
  unfold rawTurn
  dsimp only
  split
  · exact faultless_waits _
  · next hr =>
    split
    · exact faultless_step rfl _
    · split
      · exact faultless_laneTurn _
      · exact faultless_scalarTurn (by simpa using hr)

theorem faultless_payTurn {o : Out} (h : Faultless o) (s : State) (k : Nat) : Faultless (payTurn s k o) := by
  unfold payTurn
  split
  · split
    · exact h
    · split
      · exact faultless_next _
      · exact faultless_waits _
  · exact h
  · exact h

theorem faultless_warpTurn (s : State) (k : Nat) (lane : Bool) : Faultless (warpTurn s k lane) :=
  faultless_payTurn (faultless_rawTurn s k lane) s k

theorem faultless_issueSlot {s : State} {core slot : Nat} {o : Out} (h : issueSlot s core slot = some o) : Faultless o := by
  unfold issueSlot at h
  dsimp only at h
  split at h
  · cases h
  · next k lane _ =>
    have hturn := faultless_warpTurn s k lane
    split at h
    · cases h
      exact faultless_next _
    · cases h
      exact hturn

theorem faultless_issueFirst {s : State} {l : List Nat} {o : Out} (h : issueFirst s l = some o) : Faultless o := by
  induction l generalizing s with
  | nil => cases h
  | cons n r ih =>
    unfold issueFirst at h
    split at h
    · exact ih h
    · split at h
      · next hi =>
        cases h
        exact faultless_issueSlot hi
      · exact ih h

/-! ### Steps -/

/-- A step of the part, which is no word. -/
def IsStep (i : Instr) : Prop := encode i = none

theorem isStep_nil : ∀ i ∈ ([] : List Instr), IsStep i := List.forall_mem_nil _

theorem isStep_cons {x : Instr} {l : List Instr} (hx : IsStep x) (hl : ∀ i ∈ l, IsStep i) : ∀ i ∈ x :: l, IsStep i :=
  List.forall_mem_cons.mpr ⟨hx, hl⟩

theorem isStep_append {l l' : List Instr} (h : ∀ i ∈ l, IsStep i) (h' : ∀ i ∈ l', IsStep i) : ∀ i ∈ l ++ l', IsStep i :=
  List.forall_mem_append.mpr ⟨h, h'⟩

theorem isStep_map {α : Type} {f : α → Instr} (h : ∀ a, IsStep (f a)) (l : List α) : ∀ i ∈ l.map f, IsStep i := by
  intro i hi
  obtain ⟨a, -, rfl⟩ := List.mem_map.mp hi
  exact h a

theorem isStep_flatMap {α : Type} {f : α → List Instr} (h : ∀ a, ∀ i ∈ f a, IsStep i) (l : List α) :
    ∀ i ∈ l.flatMap f, IsStep i := by
  intro i hi
  obtain ⟨a, -, ha⟩ := List.mem_flatMap.mp hi
  exact h a i ha

/-- The steps of the part that may be waiting are no words. -/
theorem isStep_partSteps (s : State) : ∀ i ∈ partSteps s, IsStep i := by
  unfold partSteps
  dsimp only
  repeat' refine isStep_append ?_ ?_
  · exact isStep_cons rfl (isStep_cons rfl isStep_nil)
  · exact isStep_map (by intro a; rfl) _
  · exact isStep_map (by intro a; rfl) _
  · exact isStep_flatMap (by intro a; exact isStep_cons rfl (isStep_cons rfl (isStep_cons rfl (isStep_cons rfl isStep_nil)))) _
  · exact isStep_flatMap (by intro a; exact isStep_map (by intro b; rfl) _) _
  · exact isStep_map (by intro a; rfl) _
  · exact isStep_flatMap (by intro a; exact isStep_map (by intro b; rfl) _) _
  · exact isStep_map (by intro a; rfl) _
  · exact isStep_flatMap (by intro a; exact isStep_map (by intro b; rfl) _) _
  · exact isStep_flatMap (by intro a; exact isStep_cons rfl (isStep_cons rfl (isStep_cons rfl (isStep_cons rfl (isStep_cons rfl
      isStep_nil))))) _
  · exact isStep_flatMap (by intro a; exact isStep_cons rfl (isStep_cons rfl isStep_nil)) _
  · exact isStep_map (by intro a; rfl) _
  · exact isStep_map (by intro a; rfl) _
  · exact isStep_map (by intro a; rfl) _
  · exact isStep_map (by intro a; rfl) _
  · exact isStep_map (by intro a; rfl) _
  · exact isStep_map (by intro a; rfl) _
  · exact isStep_map (by intro a; rfl) _
  · exact isStep_cons rfl isStep_nil
  · exact isStep_map (by intro a; rfl) _

theorem faultless_firstEnabled {s : State} {l : List Instr} (hl : ∀ i ∈ l, IsStep i) {o : Out}
    (h : firstEnabled s l = some o) : Faultless o := by
  induction l with
  | nil => cases h
  | cons i r ih =>
    have hstep := faultless_step (hl i List.mem_cons_self) s
    unfold firstEnabled at h
    split at h
    · exact ih (fun j hj => hl j (List.mem_cons_of_mem i hj)) h
    · cases h
      exact hstep

theorem faultless_ownTurn (s : State) : Faultless (ownTurn s) := by
  unfold ownTurn
  split
  · exact faultless_step rfl s
  · split
    · next h => exact faultless_firstEnabled (isStep_partSteps s) h
    · cases hi : issueFirst s (slotsLeft s) with
      | none => exact faultless_next _
      | some o => exact faultless_issueFirst hi

theorem faultless_takeStep (i : Instr) (s : State) : Faultless (takeStep i s) := by
  unfold takeStep
  split
  · exact faultless_next _
  · next h =>
    have hnone : encode i = none := by simp_all
    split
    · exact faultless_next _
    · exact faultless_step hnone s

theorem faultless_takeInput (x : Input) (s : State) : Faultless (takeInput x s) := by
  cases x with
  | event i => exact faultless_takeStep i s
  | _ => exact faultless_next _

theorem faultless_takeTurn (x : Turn) (s : State) : Faultless (takeTurn x s) := by
  cases x with
  | issue core slot =>
    unfold takeTurn
    dsimp only
    split
    · exact faultless_next _
    · cases hi : issueSlot (s.spend (4 * core + slot)) core slot with
      | none => exact faultless_next _
      | some o => exact faultless_issueSlot hi
  | event i => exact faultless_takeStep i s
  | tick => exact faultless_next _

/-- No step faults, from any state. -/
theorem faultless_machine_step (s : State) : Faultless (step s) := by
  unfold step
  split
  · exact faultless_takeInput ..
  · split
    · exact faultless_takeTurn ..
    · exact faultless_ownTurn _

end Sys2Proof.Machine
namespace Sys2Proof.Certificates
open Sys2Proof.Machine

/-- Settles O31: no step of any state faults, so none of a run does. -/
theorem noStepFaults : Obligations.NoStepFaults := by
  unfold Obligations.NoStepFaults
  intro s t _ f
  exact (faultless_machine_step t).ne_fault f

end Sys2Proof.Certificates
end

section
/-!
The completion of a grid whose counter lies in a line in error (R25, R82).
-/
namespace Sys2Proof.Machine

/-- The machine with one word placed, its grid's only block exited, the grid's counter in the word's own page, and the
counter's line in error (R82). -/
def completingInError : State :=
  let s := State.reset.withFetchWord 32 0
  { s with
    grids := s.grids.map fun g => { g with exited := 1, record := { g.record with ctr := wordVa + 0x800 } }
    poison := [.line (wordPage + 0x800)] }

/-- Where the counter is found. -/
def counterSpot : Option TlbEntry → Spot := .mem (wordPage + 0x800) [] 0

theorem resolve_completingInError :
    ∃ u by_, resolve completingInError (whoPart 0) .rw 8 (wordVa + 0x800) = (u, .ok (counterSpot by_)) ∧ u.memOk ∧
      poisoned u (counterSpot by_) 8 = true ∧ handleKind (u.gridAt 0).record.handle ≠ 1 := by
  have hspot : (resolve completingInError (whoPart 0) .rw 8 (wordVa + 0x800)).2 = .ok (counterSpot
      (tlbLookup (resolve completingInError (whoPart 0) .rw 8 (wordVa + 0x800)).1 (whoPart 0) (wordVa + 0x800).toNat)) := by
    decide +kernel
  have hform : (resolve completingInError (whoPart 0) .rw 8 (wordVa + 0x800)).1.memOk := by
    unfold State.memOk
    decide +kernel
  exact ⟨_, _, Prod.ext rfl hspot, hform, by decide +kernel, by decide +kernel⟩

/-- The update of a counter in a line in error fails, and memory stays as its translation leaves it. -/
theorem counterUpdate_poisoned {s u : State} {w : Who} {ctr : Word} {bit : Option Nat} {pa : Nat} {ds : List Dirty}
    {attr : BitVec 2} {e : Option TlbEntry} (h : resolve s w .rw 8 ctr = (u, .ok (.mem pa ds attr e)))
    (hp : poisoned u (.mem pa ds attr e) 8 = true) : counterUpdate s w ctr bit = .failed u cECC_SCRATCH := by
  simp [counterUpdate, h, hp]

/-- A grid that is no node's has nothing else to do than to be done. -/
theorem finishGrid_mem {s : State} {g : Nat} (h : handleKind (s.gridAt g).record.handle ≠ 1) : (finishGrid s g).mem = s.mem := by
  simp [finishGrid, h]

/-- A grid whose counter fails so completes nevertheless, with memory as the translation leaves it. -/
theorem completeGrid_poisoned {s u : State} {g : Nat}
    (hctr : (s.gridAt g).record.ctr ≠ 0) (hclear : pendOn s (s.gridAt g).ctx (s.gridAt g).record.ctr = false)
    (hup : counterUpdate s (whoPart (s.gridAt g).ctx) (s.gridAt g).record.ctr none = .failed u cECC_SCRATCH)
    (hkind : handleKind (u.gridAt g).record.handle ≠ 1) : (completeGrid s g).mem = u.mem := by
  simp only [completeGrid, if_neg hctr, hclear, Bool.false_eq_true, if_false, hup]
  exact finishGrid_mem hkind

/-- Counting up changes a counter. -/
theorem count_ne (v : Nat) : v ≠ v / 2 ^ 62 * 2 ^ 62 + (v + 1) % 2 ^ 62 := by omega

end Sys2Proof.Machine
namespace Sys2Proof.Certificates
open Sys2Proof.Machine

/-- Refutes O54: a completion counter whose line is in error is not raised (R82). In `completingInError` the counter's
address translates, and the grid completes with memory as it was. -/
theorem not_blockSteps : ¬ Obligations.BlockSteps := by
  unfold Obligations.BlockSteps
  intro h
  obtain ⟨u, e, hres, hform, hbad, hkind⟩ := resolve_completingInError
  obtain ⟨-, -, -, -, hcomplete⟩ := h completingInError
  obtain ⟨t, ht, -, hcount, -⟩ := (hcomplete 0 (by decide) rfl (by decide) (fun p hp => absurd hp List.not_mem_nil)
    (by decide)).2.2 u _ _ e (by decide) (fun p hp => absurd hp List.not_mem_nil) hres hform
  have hmem : (completeGrid completingInError 0).mem = u.mem :=
    completeGrid_poisoned (by decide) rfl (counterUpdate_poisoned hres hbad) hkind
  have hrun : exec (.gridCompletion 0) completingInError = .next (completeGrid completingInError 0) := rfl
  rw [hrun] at ht
  cases ht
  rw [hmem] at hcount
  exact count_ne _ hcount

end Sys2Proof.Certificates
end

section
/-!
Launch queues, launch records, the launch engine and the graph table (R21 to R24, R108 to R110, R126).
-/
namespace Sys2Proof.Machine

/-! ### What the part's own accesses leave -/

theorem walkRest_resolve (s : State) (w : Who) (a : Acc) (n : Nat) (va : Word) :
    walkRest (resolve s w a n va).1 = walkRest s := by
  have htr := walkRest_translate s w a va
  unfold resolve
  split
  · rfl
  · split
    · rfl
    · rfl
    · rfl
    · split
      · next h => rwa [h] at htr
      · next h =>
        rw [h] at htr
        split
        · exact htr
        · exact htr
        · exact htr
        · split
          · exact htr
          · exact htr
        · exact htr

theorem walkRest_spanFrom (w : Who) (a : Acc) (fuel : Nat) (s : State) (va : Word) (n : Nat) :
    walkRest (spanFrom w a fuel s va n).1 = walkRest s := by
  induction fuel generalizing s va n with
  | zero => rfl
  | succ fuel ih =>
    have htr := walkRest_translate s w a va
    unfold spanFrom
    split
    · rfl
    · split
      · rfl
      · split
        · next h => rwa [h] at htr
        · next t pa l h =>
          rw [h] at htr
          dsimp only
          split
          · exact htr
          · split
            · exact htr
            · have hrest := (ih t (va + BitVec.ofNat 64 (min n (16384 - va.toNat % 16384)))
                (n - min n (16384 - va.toNat % 16384))).trans htr
              split
              · next h' => rwa [h'] at hrest
              · next h' => rwa [h'] at hrest

theorem walkRest_span (s : State) (w : Who) (a : Acc) (va : Word) (n : Nat) : walkRest (span s w a va n).1 = walkRest s := by
  have hp := walkRest_spanFrom w a (n / 16384 + 2) s va n
  unfold span pieces
  split
  · next h => rwa [h] at hp
  · next h =>
    rw [h] at hp
    split
    · exact hp
    · exact hp

theorem walkRest_readSpan (s : State) (w : Who) (va : Word) (n : Nat) : walkRest (readSpan s w va n).1 = walkRest s := by
  have hp := walkRest_span s w .read va n
  unfold readSpan readSpanBy
  split
  · next h => rwa [h] at hp
  · next h =>
    rw [h] at hp
    split
    · exact hp
    · exact hp

/-- The grids and the launch queues. -/
def launchView (s : State) := (s.grids, s.lqs)

theorem launchView_walk {s t : State} (h : walkRest t = walkRest s) : launchView t = launchView s := by
  have hg : t.grids = s.grids := (congrArg State.grids h :)
  have hl : t.lqs = s.lqs := (congrArg State.lqs h :)
  rw [launchView, launchView, hg, hl]

theorem launchView_dirtyLog (s : State) (vf gpa : Nat) : launchView (dirtyLog s vf gpa) = launchView s := by
  unfold dirtyLog
  dsimp only
  split
  · rfl
  · split <;> rfl

theorem launchView_dirtySet (s : State) (d : Dirty) : launchView (d.set s) = launchView s := by
  unfold Dirty.set
  dsimp only
  split <;> rfl

theorem launchView_setDirty (s : State) (ds : List Dirty) : launchView (setDirty s ds) = launchView s :=
  (foldl_keeps launchView launchView_dirtySet ds _).trans
    (foldl_keeps launchView (fun _ _ => launchView_dirtyLog ..) (logPages s ds) s)

theorem launchView_pendCounter (s : State) (p : PendCtr) : launchView (pendCounter s p) = launchView s := by
  unfold pendCounter
  dsimp only
  split <;> rfl

/-- The machine that an update of a counter leaves. -/
def CtrOut.state : CtrOut → State
  | .done s => s
  | .page s _ => s
  | .failed s _ => s

theorem launchView_counterUpdate (s : State) (w : Who) (ctr : Word) (bit : Option Nat) :
    launchView (counterUpdate s w ctr bit).state = launchView s := by
  have hres := launchView_walk (walkRest_resolve s w .rw 8 ctr)
  unfold counterUpdate
  split
  · next h =>
    rw [h] at hres
    split
    · exact hres
    · exact hres
  · next h =>
    rw [h] at hres
    dsimp only
    split
    · exact hres
    · split
      · exact hres
      · exact (launchView_setDirty ..).trans hres
  · next h => rwa [h] at hres

/-- Marking a record's counter leaves the grids and the launch queues. -/
theorem launchView_markCounter (s : State) (ctx : Nat) (record ctr : Word) (bit grid : Nat) :
    launchView (markCounter s ctx record ctr bit grid) = launchView s := by
  have hup := launchView_counterUpdate s (whoPart ctx) ctr (some bit)
  unfold markCounter
  split
  · rfl
  · split
    · next h => rwa [h] at hup
    · next h =>
      rw [h] at hup
      exact (launchView_pendCounter ..).trans hup
    · next h =>
      rw [h] at hup
      exact hup

/-! ### Sorting by a key -/

theorem mem_insertKey {α : Type} {k : Nat} {x : α} {l : List (Nat × α)} {p : Nat × α} :
    p ∈ insertKey k x l ↔ p = (k, x) ∨ p ∈ l := by
  induction l with
  | nil => simp [insertKey]
  | cons y r ih =>
    unfold insertKey
    split
    · simp only [List.mem_cons, ih]
      exact or_left_comm
    · simp only [List.mem_cons]

/-- The item of the lowest key heads what an insertion gives. -/
theorem head_insertKey {α : Type} {k : Nat} {x : α} {l : List (Nat × α)} :
    (insertKey k x l).head? = match l.head? with
      | none => some (k, x)
      | some y => if y.1 ≤ k then some y else some (k, x) := by
  cases l with
  | nil => rfl
  | cons y r =>
    simp only [insertKey, List.head?_cons]
    split <;> rfl

/-- What a fold of insertions keeps ahead: the item whose key is below the keys of all others. -/
theorem head_foldl_insertKey {α : Type} {f : α → Nat} {x : α} (xs : List α) (acc : List (Nat × α))
    (hmin : ∀ y ∈ xs, f x < f y ∨ y = x) (hacc : ∀ p, acc.head? = some p → f x < p.1 ∨ p = (f x, x))
    (hx : x ∈ xs ∨ acc.head? = some (f x, x)) :
    (xs.foldl (fun acc y => insertKey (f y) y acc) acc).head? = some (f x, x) := by
  induction xs generalizing acc with
  | nil => simpa using hx
  | cons y xs ih =>
    have hy := hmin y List.mem_cons_self
    refine ih _ (fun z hz => hmin z (List.mem_cons_of_mem y hz)) (fun p hp => ?_) ?_
    · rw [head_insertKey] at hp
      grind
    · rw [head_insertKey]
      grind

/-- The item whose key is below the keys of all others is the first of a list sorted by it. -/
theorem head_sortByKey {α : Type} {f : α → Nat} {x : α} {xs : List α} (hx : x ∈ xs)
    (hmin : ∀ y ∈ xs, f x < f y ∨ y = x) : (sortByKey f xs).head? = some x := by
  rw [sortByKey, List.head?_map, head_foldl_insertKey xs [] hmin (by simp) (.inl hx)]
  rfl

/-! ### Launch queues -/

theorem lqAt_eq (s : State) (q : BitVec 4) : lqAt s q.toNat = s.lqs[q.toNat] := by
  have hq : q.toNat < 16 := q.isLt
  simp [lqAt, List.getD_eq_getElem?_getD, hq]

/-- The machine with launch queue `q` set. -/
def putLq (s : State) (q : BitVec 4) (y : LaunchQ) : State := { s with lqs := s.lqs.set q.toNat y }

theorem setLq_eq (s : State) (q : BitVec 4) (y : LaunchQ) : setLq s q.toNat y = putLq s q y := by
  have hset : s.lqs.setIfInBounds q.toNat y = s.lqs.set q.toNat y :=
    Vector.ext fun i hi => by simp [Vector.getElem_set, Vector.getElem_setIfInBounds]
  rw [setLq, hset, putLq]

theorem putLq_grids (s : State) (q : BitVec 4) (y : LaunchQ) : (putLq s q y).grids = s.grids := rfl

theorem putLq_same (s : State) (q : BitVec 4) (y : LaunchQ) : (putLq s q y).lqs[q.toNat] = y := by
  simp [putLq]

section
variable {s : State} {q : BitVec 4}

/-- A queue's own function and the PF write its TAIL and start events through it (R109, R298). -/
theorem tailWrite_admitted {fn : Nat} (v : Word) (h : fn = 0 ∨ fn = s.lqs[q.toNat].own.toNat) :
    execLaunchQueueTailWrite fn q v s = .next (putLq s q { s.lqs[q.toNat] with
      tail := BitVec.ofNat 16 (match s.lqs[q.toNat].ring with
        | some n => v.toNat % 65536 % n
        | none => v.toNat % 65536) }) := by
  have hfn : ¬ (fn ≠ 0 ∧ fn ≠ s.lqs[q.toNat].own.toNat) := by tauto
  simp only [execLaunchQueueTailWrite, lqAt_eq, if_neg hfn, setLq_eq, BitVec.toNat_setWidth] <;> rfl

theorem tailWrite_other {fn : Nat} (v : Word) (h0 : fn ≠ 0) (h : fn ≠ s.lqs[q.toNat].own.toNat) :
    execLaunchQueueTailWrite fn q v s = .next s := by
  simp [execLaunchQueueTailWrite, lqAt_eq, h0, h]

theorem lqstart_admitted {fn : Nat} (v : Word) (h : fn = 0 ∨ fn = s.lqs[q.toNat].own.toNat) :
    execLqstart fn q v s = .next (deliver s s.lqs[q.toNat].ctx [v.toNat % 65536]) := by
  have hfn : ¬ (fn ≠ 0 ∧ fn ≠ s.lqs[q.toNat].own.toNat) := by tauto
  simp only [execLqstart, lqAt_eq, if_neg hfn, BitVec.toNat_setWidth]

theorem lqstart_other {fn : Nat} (v : Word) (h0 : fn ≠ 0) (h : fn ≠ s.lqs[q.toNat].own.toNat) :
    execLqstart fn q v s = .next s := by
  simp [execLqstart, lqAt_eq, h0, h]

/-- Rejecting a record leaves the grids and the launch queues (R110). -/
theorem launchView_rejectMark (s : State) (ctx : Nat) (addr : Word) (bs : List Byte) :
    launchView (rejectMark s ctx addr bs) = launchView s := launchView_markCounter ..

theorem rejectMark_grids (s : State) (ctx : Nat) (addr : Word) (bs : List Byte) : (rejectMark s ctx addr bs).grids = s.grids :=
  (congrArg Prod.fst (launchView_rejectMark s ctx addr bs) :)

theorem rejectMark_lqs (s : State) (ctx : Nat) (addr : Word) (bs : List Byte) : (rejectMark s ctx addr bs).lqs = s.lqs :=
  (congrArg Prod.snd (launchView_rejectMark s ctx addr bs) :)

/-- The address of the record at the head of a queue, and the queue once it is read (R109). -/
def LaunchQ.headAt (x : LaunchQ) : Nat := x.base.toNat / 128 * 128 + 128 * x.head.toNat
def LaunchQ.moved (x : LaunchQ) (size : Nat) : LaunchQ :=
  { x with head := BitVec.ofNat 16 ((x.head.toNat + 1) % size) }

/-- A queue that is enabled and waits for no grid, with a record at its head. -/
structure LaunchQ.Ready (x : LaunchQ) (size : Nat) : Prop where
  ring : x.ring = some size
  go : (x.en && decide (x.own.toNat ≤ 64) && x.head != x.tail && x.grid.isNone) = true

section
variable {size : Nat} (h : s.lqs[q.toNat].Ready size)
include h

/-- Its record is read and accepted (R21). -/
theorem readQueue_accepts (hrej : rejectReason s (readBytes s.mem s.lqs[q.toNat].headAt 128) = none) :
    exec (.launchRecordRead (.queue q.toNat)) s = .next (putLq (acceptGrid s (.queue q.toNat) s.lqs[q.toNat].ctx
      (BitVec.ofNat 64 s.lqs[q.toNat].headAt) (readBytes s.mem s.lqs[q.toNat].headAt 128)) q
      { s.lqs[q.toNat].moved size with grid := some s.grids.length }) := by
  unfold LaunchQ.headAt at hrej
  simp only [exec, execLaunchRecordRead, if_pos q.isLt, readQueue, lqAt_eq, h.ring, h.go, if_true, setLq_eq, hrej]
  rfl

/-- Its record is read and rejected with a reason (R110). -/
theorem readQueue_rejects {why : Nat} (hrej : rejectReason s (readBytes s.mem s.lqs[q.toNat].headAt 128) = some why) :
    exec (.launchRecordRead (.queue q.toNat)) s = .next (putLq (rejectMark s s.lqs[q.toNat].ctx
      (BitVec.ofNat 64 s.lqs[q.toNat].headAt) (readBytes s.mem s.lqs[q.toNat].headAt 128)) q
      { s.lqs[q.toNat].moved size with
        err := true, reason := BitVec.ofNat 8 why, rejix := s.lqs[q.toNat].head }) := by
  unfold LaunchQ.headAt at hrej
  simp only [exec, execLaunchRecordRead, if_pos q.isLt, readQueue, lqAt_eq, h.ring, h.go, if_true, setLq_eq, hrej,
    rejectMark_lqs]
  rfl
end
end

/-! ### The launch engine -/

/-- A table's entry under a key that does not read as the default is listed. -/
theorem Tbl.get_listed {α : Type} {d : α} {t : Tbl α} {k : Nat} (h : Tbl.get d t k ≠ d) : (k, Tbl.get d t k) ∈ t := by
  induction t with
  | nil => exact absurd rfl h
  | cons e r ih =>
    obtain ⟨j, x⟩ := e
    unfold Tbl.get at h ⊢
    split at h
    · next hj =>
      rw [if_pos hj]
      exact List.mem_cons_of_mem _ (ih h)
    · next hj =>
      rw [if_neg hj]
      split at h
      · next hk =>
        rw [if_pos hk, ← hk]
        exact List.mem_cons_self
      · exact absurd rfl h

/-- The oldest record of a core in the overflow rings is the one with the lowest number (R108). -/
theorem oldestRung_eq {s : State} {core ctx : Nat} {e : RingRec} (he : e ∈ (s.ctxAt ctx).ring) (hc : e.core = core)
    (hmin : ∀ x ∈ s.ctxs, ∀ y ∈ x.2.ring, y.core = core → e.seq < y.seq ∨ (x.1 = ctx ∧ y = e)) :
    oldestRung s core = some (ctx, e) := by
  have hlisted : (ctx, s.ctxAt ctx) ∈ s.ctxs := Tbl.get_listed fun h => by
    rw [show s.ctxAt ctx = Ctx.absent from h] at he
    cases he
  unfold oldestRung
  refine head_sortByKey ?_ ?_
  · simp only [List.mem_flatMap, List.mem_map, List.mem_filter, beq_iff_eq]
    exact ⟨_, hlisted, e, ⟨he, hc⟩, rfl⟩
  · simp only [List.mem_flatMap, List.mem_map, List.mem_filter, beq_iff_eq]
    rintro _ ⟨x, hx, y, ⟨hy, hyc⟩, rfl⟩
    obtain hlt | ⟨rfl, rfl⟩ := hmin x hx y hy hyc
    · exact .inl hlt
    · exact .inr rfl

/-- A grid that is accepted joins those before it, with its record's fields and its source (R119). -/
theorem acceptGrid_joins (s : State) (src : LaunchSrc) (ctx : Nat) (addr : Word) (bs : List Byte) :
    ∃ g, (acceptGrid s src ctx addr bs).grids = s.grids ++ [g] ∧ g.record = recordFields bs ∧ g.src = src :=
  ⟨_, rfl, rfl, rfl⟩

/-- Such a grid has started none of its blocks. -/
theorem acceptGrid_fresh (s : State) (src : LaunchSrc) (ctx : Nat) (addr : Word) (bs : List Byte) :
    ∃ g, (acceptGrid s src ctx addr bs).grids = s.grids ++ [g] ∧ g.record = recordFields bs ∧ g.ctx = ctx ∧ g.next = 0 ∧
      g.exited = 0 ∧ g.done = false :=
  ⟨_, rfl, rfl, rfl, rfl, rfl, rfl⟩

@[simp] theorem acceptGrid_mem (s : State) (src : LaunchSrc) (ctx : Nat) (addr : Word) (bs : List Byte) :
    (acceptGrid s src ctx addr bs).mem = s.mem := rfl

@[simp] theorem acceptGrid_coreAt (s : State) (src : LaunchSrc) (ctx : Nat) (addr : Word) (bs : List Byte) (k : Nat) :
    (acceptGrid s src ctx addr bs).coreAt k = s.coreAt k := rfl

@[simp] theorem acceptGrid_ctxAt (s : State) (src : LaunchSrc) (ctx : Nat) (addr : Word) (bs : List Byte) (k : Nat) :
    (acceptGrid s src ctx addr bs).ctxAt k = s.ctxAt k := rfl

/-- The head of the launch queue leaves it. -/
theorem dropHead_launchQ (s : State) (core : Nat) :
    ((dropHead s core 3).coreAt core).launchQ = (s.coreAt core).launchQ.drop 1 := by
  rw [dropHead, State.coreAt_setCore_same]
  rfl

/-- A record that is accepted: its grid joins the others (R119). -/
theorem passRecord_accepts {s : State} {core ctx : Nat} {addr : Word} {bs : List Byte} (h : rejectReason s bs = none) :
    passRecord s core ctx addr bs = acceptGrid s (.device core) ctx addr bs := by
  simp [passRecord, h]

/-! ### The graph table -/

theorem deliver_cons (s : State) (ctx n : Nat) (ns : List Nat) :
    deliver s ctx (n :: ns) =
      decrements ctx (2 ^ 27 - 1) (ns ++ (decrementNode s ctx n).2) (decrementNode s ctx n).1 := by
  have hfuel : 2 ^ 27 = (2 ^ 27 - 1) + 1 := by norm_num
  rw [deliver, hfuel]
  rfl

/-- The bytes beside a node's status byte are kept. -/
theorem nodeStatus_other (s : State) (at_ : Nat) (bits : BitVec 8) {pa : Nat} (h : pa ≠ at_ + 13) :
    readPhys (nodeStatus s at_ bits).mem pa = readPhys s.mem pa :=
  readPhys_write_other s.mem _ h

section
variable {s : State} {ctx n : Nat}

/-- An event for a node whose counter is zero is recorded as an over-decrement (R22). -/
theorem decrementNode_zero (hv : leNat (readBytes s.mem (nodeAt s ctx n + 8) 2) = 0) :
    decrementNode s ctx n = (nodeStatus s (nodeAt s ctx n) 2, []) := by
  simp only [decrementNode, hv, if_true]

/-- The machine with a node's counter set. -/
def putNode (s : State) (ctx n v : Nat) : State :=
  { s with mem := writeBytes s.mem (nodeAt s ctx n + 8) (leBytes 2 v) }

/-- An event lowers a counter above one, and nothing else. -/
theorem decrementNode_more (hv : 1 < leNat (readBytes s.mem (nodeAt s ctx n + 8) 2)) :
    decrementNode s ctx n = (putNode s ctx n (leNat (readBytes s.mem (nodeAt s ctx n + 8) 2) - 1), []) := by
  have h0 : leNat (readBytes s.mem (nodeAt s ctx n + 8) 2) ≠ 0 := by omega
  have h1 : leNat (readBytes s.mem (nodeAt s ctx n + 8) 2) ≠ 1 := by omega
  simp only [decrementNode, if_neg h0, if_neg h1, putNode]

/-- The event that brings a counter to zero fires the node. -/
theorem decrementNode_last (hv : leNat (readBytes s.mem (nodeAt s ctx n + 8) 2) = 1) :
    decrementNode s ctx n = fireNode (putNode s ctx n 0) ctx n := by
  simp only [decrementNode, hv, one_ne_zero, if_false, if_true, putNode, Nat.sub_self]

theorem putNode_counter (v : Nat) : readBytes (putNode s ctx n v).mem (nodeAt s ctx n + 8) 2 = leBytes 2 v :=
  readBytes_writeBytes_same s.mem (nodeAt s ctx n + 8) (leBytes 2 v)

theorem putNode_other (v : Nat) {pa : Nat} (h : pa < nodeAt s ctx n + 8 ∨ nodeAt s ctx n + 10 ≤ pa) :
    readPhys (putNode s ctx n v).mem pa = readPhys s.mem pa :=
  readPhys_writeBytes_outside s.mem _ _ _ h
end

section
variable {s w z : State} {ctx n : Nat} {r p : List Byte}

/-- A node of no condition, whose entry and record are well-formed, fires: its grid is accepted (R22). -/
theorem fireNode_plain (hok : nodeOk (readBytes s.mem (nodeAt s ctx n) 32) = true) (hat : nodeAt s ctx n % 32 = 0)
    (hr : readSpan s (whoPart ctx) (fieldWord (readBytes s.mem (nodeAt s ctx n) 32) 0) 128 = (w, .ok r))
    (hrej : rejectReason (nodeStatus w (nodeAt s ctx n) 1) r = none)
    (hflag : fieldNat (readBytes s.mem (nodeAt s ctx n) 32) 0x0C 1 = 1) :
    fireNode s ctx n = (acceptGrid (nodeStatus w (nodeAt s ctx n) 1) (.node ctx n) ctx
      (fieldWord (readBytes s.mem (nodeAt s ctx n) 32) 0) r, []) := by
  simp only [fireNode, hok, hat, hr, hrej, hflag, Nat.reduceMod, one_ne_zero, if_false, Bool.not_true, bne_self_eq_false,
    Bool.or_self, Bool.false_eq_true, Option.isSome_none, OfNat.one_ne_ofNat]

section
variable (hok : nodeOk (readBytes s.mem (nodeAt s ctx n) 32) = true) (hat : nodeAt s ctx n % 32 = 0)
  (hr : readSpan s (whoPart ctx) (fieldWord (readBytes s.mem (nodeAt s ctx n) 32) 0) 128 = (w, .ok r))
  (hrej : rejectReason (nodeStatus w (nodeAt s ctx n) 1) r = none)
  (hflag : fieldNat (readBytes s.mem (nodeAt s ctx n) 32) 0x0C 1 = 3)
  (hp : readSpan (nodeStatus w (nodeAt s ctx n) 1) (whoPart ctx) (fieldWord (readBytes s.mem (nodeAt s ctx n) 32) 0x10) 4 =
    (z, .ok p))
include hok hat hr hrej hflag hp

/-- A conditional node whose predicate is not zero fires as one of no condition (R24). -/
theorem fireNode_true (h : leNat p ≠ 0) : fireNode s ctx n =
    (acceptGrid z (.node ctx n) ctx (fieldWord (readBytes s.mem (nodeAt s ctx n) 32) 0) r, []) := by
  simp only [fireNode, hok, hat, hr, hrej, hflag, hp, Nat.reduceMod, one_ne_zero, if_false, if_true, Bool.not_true,
    bne_self_eq_false, Bool.or_self, Bool.false_eq_true, Option.isSome_none, if_pos h]

/-- Where the predicate is zero the node's successors get its completion's events (R24). -/
theorem fireNode_false {z' : State} {l : List Nat} (h : leNat p = 0)
    (hs : nodeSuccessors z ctx (readBytes s.mem (nodeAt s ctx n) 32) = (z', some l)) : fireNode s ctx n = (z', l) := by
  simp only [fireNode, hok, hat, hr, hrej, hflag, hp, Nat.reduceMod, one_ne_zero, if_false, if_true, Bool.not_true,
    bne_self_eq_false, Bool.or_self, Bool.false_eq_true, Option.isSome_none, if_neg (not_not.mpr h), hs]
end

theorem nodeSuccessors_none {bs : List Byte} (h : fieldNat bs 0x0A 2 = 0) : nodeSuccessors s ctx bs = (s, some []) := by
  simp [nodeSuccessors, h]

theorem nodeSuccessors_list {bs l : List Byte} (h : fieldNat bs 0x0A 2 ≠ 0)
    (hl : readSpan s (whoPart ctx) (fieldWord bs 0x18) (2 * fieldNat bs 0x0A 2) = (w, .ok l)) :
    nodeSuccessors s ctx bs = (w, some ((List.range (fieldNat bs 0x0A 2)).map fun i => fieldNat l (2 * i) 2)) := by
  simp [nodeSuccessors, h, hl]

/-- What a node's launch leaves of the grids: the ones before, and its own behind them. -/
theorem launchView_fired {va : Word} {k : Nat} (hr : readSpan s (whoPart ctx) va k = (w, .ok r)) : w.grids = s.grids := by
  have h := walkRest_readSpan s (whoPart ctx) va k
  rw [hr] at h
  exact (congrArg State.grids h :)
end

end Sys2Proof.Machine
namespace Sys2Proof.Certificates
open Sys2Proof.Machine

/-- Settles O53: each step by its own lemma, the grids and queues through the part's own reads by `launchView`. -/
theorem launchSteps : Obligations.LaunchSteps := by
  unfold Obligations.LaunchSteps
  intro s q
  refine ⟨fun fn v h => ⟨tailWrite_admitted v h, lqstart_admitted v h⟩,
    fun fn v h0 h => ⟨tailWrite_other v h0 h, lqstart_other v h0 h⟩, fun size hring hen hown hmore hfree => ?_,
    fun core c bs addr hhead hop hjoin hrej => ?_, fun core ctx e hhead he hc hmin hjoin hrej => ?_,
    fun ctx n ns => deliver_cons s ctx n ns, fun ctx n hmem => ?_⟩
  · have hready : s.lqs[q.toNat].Ready size := ⟨hring, by simp [hen, hown, hmore, hfree]⟩
    refine ⟨fun hrej => ⟨_, readQueue_accepts hready hrej, putLq_same .., acceptGrid_fresh .., rfl⟩,
      fun why hrej => ⟨_, readQueue_rejects hready hrej, putLq_same .., ?_⟩⟩
    exact (putLq_grids ..).trans (rejectMark_grids ..)
  · have hpass := passRecord_accepts (core := core) (ctx := (s.gridOf c.block).ctx) (addr := addr) hrej
    refine ⟨passRecord (dropHead s core 3) core (s.gridOf c.block).ctx addr bs, ?_, ?_⟩
    · simp only [exec, execDeviceLaunchPass, hhead, hop, hjoin, if_true, enabledStep_some]
    · rw [hpass]
      exact ⟨dropHead_launchQ s core, acceptGrid_joins .., rfl⟩
  · have hpass := passRecord_accepts (core := core) (ctx := ctx) (addr := e.addr) hrej
    refine ⟨passRecord (s.setCtx ctx { s.ctxAt ctx with ring := (s.ctxAt ctx).ring.erase e }) core ctx e.addr e.bytes,
      ?_, ?_⟩
    · simp only [exec, execDeviceLaunchPass, hhead, oldestRung_eq he hc hmin, hjoin, if_true, enabledStep_some]
    · rw [hpass]
      exact ⟨acceptGrid_ctxAt .., acceptGrid_joins .., rfl⟩
  · refine ⟨fun hv => ?_, fun hv => ?_, fun w r hv hok hat hr hrej => ?_⟩
    · rw [decrementNode_zero hv]
      exact ⟨readPhys_write_same .., rfl, rfl, fun pa hpa => nodeStatus_other s _ 2 hpa⟩
    · rw [decrementNode_more hv]
      exact ⟨putNode_counter _, rfl, rfl, fun pa hpa => putNode_other _ hpa⟩
    · rw [decrementNode_last hv]
      have hw : w.grids = s.grids := launchView_fired (s := putNode s ctx n 0) hr
      refine ⟨fun hflag => ?_, fun z p hflag hp => ?_⟩
      · rw [fireNode_plain (s := putNode s ctx n 0) hok hat hr hrej hflag]
        exact ⟨rfl, hw ▸ acceptGrid_joins ..⟩
      · have hz : z.grids = s.grids := (launchView_fired (s := nodeStatus w (nodeAt s ctx n) 1) hp).trans hw
        refine ⟨fun hne => ?_, fun h0 hn => ?_, fun z' l h0 hn hl => ?_⟩
        · rw [fireNode_true (s := putNode s ctx n 0) hok hat hr hrej hflag hp hne]
          exact ⟨rfl, hz ▸ acceptGrid_joins ..⟩
        · rw [fireNode_false (s := putNode s ctx n 0) hok hat hr hrej hflag hp h0 (nodeSuccessors_none hn)]
          exact ⟨rfl, rfl⟩
        · rw [fireNode_false (s := putNode s ctx n 0) hok hat hr hrej hflag hp h0 (nodeSuccessors_list hn hl)]
          exact ⟨rfl, rfl⟩

end Sys2Proof.Certificates
end

section
/-!
Saving and restoring, pre-emption, the release of a context and class changes (R171, R174, R175, R283, R299).
-/
namespace Sys2Proof.Machine

/-! ### What saving a block leaves -/

/-- The grids and the domains. -/
def poolView (s : State) := (s.grids, s.domains)

theorem poolView_grids {s t : State} (h : poolView t = poolView s) : t.grids = s.grids := (congrArg Prod.fst h :)

theorem poolView_domainAt {s t : State} (h : poolView t = poolView s) (d : Nat) : t.domainAt d = s.domainAt d := by
  rw [State.domainAt, State.domainAt, show t.domains = s.domains from congrArg Prod.snd h]

theorem poolView_walk {s t : State} (h : walkRest t = walkRest s) : poolView t = poolView s := by
  have hg : t.grids = s.grids := (congrArg State.grids h :)
  have hd : t.domains = s.domains := (congrArg State.domains h :)
  rw [poolView, poolView, hg, hd]

theorem poolView_dirtyLog (s : State) (vf gpa : Nat) : poolView (dirtyLog s vf gpa) = poolView s := by
  unfold dirtyLog
  dsimp only
  split
  · rfl
  · split <;> rfl

theorem poolView_dirtySet (s : State) (d : Dirty) : poolView (d.set s) = poolView s := by
  unfold Dirty.set
  dsimp only
  split <;> rfl

theorem poolView_setDirty (s : State) (ds : List Dirty) : poolView (setDirty s ds) = poolView s :=
  (foldl_keeps poolView poolView_dirtySet ds _).trans
    (foldl_keeps poolView (fun _ _ => poolView_dirtyLog ..) (logPages s ds) s)

theorem poolView_writePieces (ps : List (Nat × Nat × List Dirty)) (s : State) (bs : List Byte) :
    poolView (writePieces s ps bs) = poolView s := by
  induction ps generalizing s bs with
  | nil => rfl
  | cons p ps ih => exact ih _ _

theorem poolView_partWrite {s t : State} {ctx : Nat} {va : Word} {bs : List Byte} (h : partWrite s ctx va bs = some t) :
    poolView t = poolView s := by
  have hspan := poolView_walk (walkRest_span s (whoFrame ctx) .write va bs.length)
  unfold partWrite writeSpan at h
  split at h
  · next u hw =>
    split at hw
    · cases hw
    · next hp =>
      rw [hp] at hspan
      cases hw
      cases h
      exact (poolView_writePieces ..).trans ((poolView_setDirty ..).trans hspan)
  · cases h

theorem poolView_framePool (s : State) (ctx : Nat) : poolView (framePool s ctx).1 = poolView s := by
  have hread := poolView_walk (walkRest_readSpan s (whoFrame ctx) (s.ctxAt ctx).frb 0x210)
  unfold framePool
  split
  · next h => rwa [h] at hread
  · next h => rwa [h] at hread

theorem poolView_putCrew (s : State) (c : Nat) (cr : Crew) : poolView (s.putCrew c cr) = poolView s := by
  refine (foldl_keeps poolView (fun t x => ?_) cr.strokes (s.setCrew c cr)).trans rfl
  dsimp only
  split <;> rfl

theorem poolView_landWrite (s : State) (k : Nat) (x : LWrite) : poolView (landWrite s k x) = poolView s := by
  unfold landWrite
  dsimp only
  split
  · rfl
  · rfl
  · rfl
  · split
    · exact poolView_putCrew ..
    · rfl
  · rfl
  · rfl
  · rfl

theorem poolView_shiftSites (s : State) (k : Nat) (x : LShift) : poolView (s.shiftSites k x) = poolView s := by
  cases x <;> rfl

theorem poolView_landPending (s : State) (k : Nat) (p : Pending) : poolView (landPending s k p) = poolView s :=
  (poolView_shiftSites ..).trans (foldl_keeps poolView (fun t x => poolView_landWrite t k x) p.writes s)

theorem poolView_landAll (s : State) (k : Nat) : poolView (landAll s k) = poolView s :=
  foldl_keeps poolView (fun t p => poolView_landPending t k p) (s.warpAt k).inflight s

theorem poolView_cancelFrom (s : State) (c j : Nat) : poolView (cancelFrom s c j) = poolView s := by
  unfold cancelFrom
  exact foldl_keeps poolView (f := fun (t : State) (x : Stroke) => t.setWarp x.warp Warp.absent) (fun _ _ => by rfl) _ s

theorem poolView_settleBlock (s : State) (b : Nat) : poolView (settleBlock s b) = poolView s := by
  unfold settleBlock
  refine (foldl_keeps poolView (fun (t : State) (e : Nat × Warp) => poolView_landAll t e.1) _ _).trans
    (foldl_keeps poolView (fun t e => ?_) _ s)
  split
  · exact poolView_cancelFrom ..
  · rfl

theorem poolView_freeBlockState (s : State) (b : Nat) : poolView (freeBlockState s b) = poolView s :=
  (foldl_keeps poolView (fun _ _ => by rfl) _ _).trans (foldl_keeps poolView (fun _ _ => by rfl) _ s)

theorem poolView_removeBlock (s : State) (b : Nat) (x : Saved) : poolView (removeBlock s b x) = poolView s :=
  (poolView_freeBlockState ..).trans rfl

theorem poolView_saveBlock {stall : Bool} {b : Nat} {s t : State} (h : saveBlock stall b s = some t) :
    poolView t = poolView s := by
  have hpool := (poolView_framePool (settleBlock s b) ((settleBlock s b).gridOf b).ctx).trans (poolView_settleBlock s b)
  unfold saveBlock at h
  split at h
  · cases h
  · dsimp only at h
    split at h
    · cases h
    · next hp =>
      rw [hp] at hpool
      split at h
      · cases h
      · split at h
        · cases h
        · split at h
          · cases h
          · next hw =>
            split at h
            · cases h
            · next hm =>
              cases h
              exact (poolView_removeBlock ..).trans
                ((poolView_partWrite hm).trans ((poolView_partWrite hw).trans hpool))

theorem poolView_saveBlocks {stall : Bool} {bs : List Nat} {s t : State} (h : saveBlocks stall bs s = some t) :
    poolView t = poolView s := by
  induction bs generalizing s with
  | nil =>
    cases h
    rfl
  | cons b bs ih =>
    unfold saveBlocks at h
    split at h
    · cases h
    · next hb => exact (ih h).trans (poolView_saveBlock hb)

/-- Saving the gangs of a list leaves the grids and the domains. -/
theorem poolView_saveGangs (s : State) (gs : List (Nat × Nat)) : poolView (saveGangs s gs).1 = poolView s := by
  refine foldl_keeps (fun st : State × Bool => poolView st.1) (fun st x => ?_) gs (s, false)
  split
  · next h => exact poolView_saveBlocks h
  · rfl

/-! ### The lower block of a grid -/

theorem mem_foldl_insertKey {α : Type} {f : α → Nat} {p : Nat × α} (xs : List α) (acc : List (Nat × α)) :
    p ∈ xs.foldl (fun acc y => insertKey (f y) y acc) acc ↔ p ∈ acc ∨ ∃ x ∈ xs, p = (f x, x) := by
  induction xs generalizing acc with
  | nil => simp
  | cons y xs ih =>
    rw [List.foldl_cons, ih, mem_insertKey]
    simp only [List.mem_cons, exists_eq_or_imp]
    tauto

theorem mem_sortByKey {α : Type} {f : α → Nat} {x : α} {xs : List α} : x ∈ sortByKey f xs ↔ x ∈ xs := by
  simp only [sortByKey, List.mem_map, mem_foldl_insertKey]
  constructor
  · rintro ⟨_, hp | ⟨y, hy, rfl⟩, rfl⟩
    · cases hp
    · exact hy
  · exact fun hx => ⟨_, .inr ⟨x, hx, rfl⟩, rfl⟩

/-- The head of a fold of insertions has no key above one that was inserted or stood ahead. -/
theorem head_foldl_insertKey_le {α : Type} {f : α → Nat} {q : Nat × α} (xs : List α) (acc : List (Nat × α))
    (hq : (∃ p, acc.head? = some p ∧ p.1 ≤ q.1) ∨ ∃ x ∈ xs, q = (f x, x)) :
    ∃ p, (xs.foldl (fun acc y => insertKey (f y) y acc) acc).head? = some p ∧ p.1 ≤ q.1 := by
  induction xs generalizing acc with
  | nil => simpa using hq
  | cons y xs ih =>
    refine ih _ ?_
    rw [head_insertKey]
    grind

/-- The first of a list sorted by a key is one of its items, and no item has a lower key. -/
theorem head_sortByKey_le {α : Type} {f : α → Nat} {x : α} {xs : List α} (hx : x ∈ xs) :
    ∃ y ∈ xs, (sortByKey f xs).head? = some y ∧ f y ≤ f x := by
  obtain ⟨p, hp, hle⟩ := head_foldl_insertKey_le (q := (f x, x)) xs [] (.inr ⟨x, hx, rfl⟩)
  obtain hnil | ⟨y, hy, rfl⟩ := (mem_foldl_insertKey xs []).mp (List.mem_of_head? hp)
  · cases hnil
  · exact ⟨y, hy, by rw [sortByKey, List.head?_map, hp]; rfl, hle⟩

section
variable {s : State} {g : Nat}

theorem savedFirst_iff : savedFirst s g = true ↔
    ∃ x ∈ s.saved, x.block.grid = g ∧ x.eligible = true ∧ x.block.idx < (s.gridAt g).lowest := by
  simp [savedFirst, and_assoc]

/-- Where a saved block goes first, the lower block of a grid is a saved one. -/
theorem lowerBlock_saved (h : savedFirst s g = true) : lowerBlock s g = lowestSaved s g := by
  simp [lowerBlock, lowestNew, h]

/-- A block that starts again is the lower block where no saved one goes before it. -/
theorem lowerBlock_fresh {i : Nat} {rest : List Nat} (hf : (s.gridAt g).fresh = i :: rest) (hd : (s.gridAt g).done = false)
    (hr : predReady s g = true) (hp : poolClusters s (s.gridAt g).record.cls ≠ []) (hs : savedFirst s g = false) :
    lowerBlock s g = some (i, someCluster s g && (placeGang s g [i]).isNone,
      fun t => (placeGang t g [i]).map fun u => u.setGrid g { u.gridAt g with fresh := rest }) := by
  simp [lowerBlock, lowestNew, hs, hasUnplaced, hd, hf, hr, hp]

/-- A saved block of a grid that may be restored, no lower one going before it. -/
def restorable (s : State) (g : Nat) (x : Saved) : Prop :=
  x ∈ s.saved ∧ x.block.grid = g ∧ (savedGang s x).all Saved.eligible = true ∧ lowerFirst s x = false ∧
    gangAgrees s (savedGang s x) = true

theorem restorable_iff_mem {x : Saved} : restorable s g x ↔ x ∈ s.saved.filter fun x => x.block.grid == g &&
    (savedGang s x).all Saved.eligible && !lowerFirst s x && gangAgrees s (savedGang s x) := by
  simp [restorable, and_assoc]

theorem lowestSaved_of_restorable {x : Saved} (h : restorable s g x) :
    ∃ y full place, lowestSaved s g = some (y, full, place) ∧ y ≤ x.block.idx := by
  obtain ⟨y, -, hhead, hle⟩ := head_sortByKey_le (f := fun x : Saved => x.block.idx) (restorable_iff_mem.mp h)
  exact ⟨_, _, _, by rw [lowestSaved, hhead]; rfl, hle⟩

theorem restorable_of_lowestSaved {i : Nat} {full : Bool} {place : State → Option State}
    (h : lowestSaved s g = some (i, full, place)) : ∃ x, restorable s g x ∧ x.block.idx = i := by
  obtain ⟨x, hx, hi⟩ := Option.map_eq_some_iff.mp h
  exact ⟨x, restorable_iff_mem.mpr (mem_sortByKey.mp (List.mem_of_head? hx)), congrArg Prod.fst hi⟩

theorem execWaitingBlockSwap_saves {low b : Nat} {place : State → Option State} {t : State}
    (ha : admitted s (s.gridAt g).ctx = true) (hl : lowerBlock s g = some (low, true, place))
    (hv : swapVictim s g low = some b) (ht : saveGang s false g (gangIx s b) = some t) :
    execWaitingBlockSwap g s = .next ((place t).getD t) := by
  simp [execWaitingBlockSwap, ha, hl, hv, ht, enabledStep_some]

/-- A lower block that has room needs no swap. -/
theorem execWaitingBlockSwap_room {low : Nat} {place : State → Option State}
    (hl : lowerBlock s g = some (low, false, place)) :
    execWaitingBlockSwap g s = .refused (.notEnabled "WAITING_BLOCK_SWAP") := by
  cases ha : admitted s (s.gridAt g).ctx <;> simp [execWaitingBlockSwap, ha, hl, enabledStep]

theorem execStallSwapOut_saves {gang : Nat} {t : State} (hne : gangOf s g gang ≠ [])
    (hstall : ∀ b ∈ gangOf s g gang, (s.blockAt b).lastMove + 2000 ≤ s.cycle ∧
      ∃ e ∈ blockWarps s b, e.2.stat = .running ∧ e.2.parked.isSome = true)
    (ht : saveGang s true g gang = some t) : execStallSwapOut g gang s = .next t := by
  have hall : (gangOf s g gang).all (stalled s) = true := List.all_eq_true.mpr fun b hb => by
    obtain ⟨hmove, e, he, hrun, hpark⟩ := hstall b hb
    simp only [stalled, Bool.and_eq_true, List.any_eq_true, decide_eq_true_eq]
    exact ⟨⟨e, he, by simp [hrun, hpark]⟩, hmove⟩
  simp [execStallSwapOut, hne, hall, ht, enabledStep_some]

end

/-! ### Restoring a saved gang -/

section
variable {s : State} {ctx frame : Nat} {x : Saved}

theorem execBlockRestore_gang {t : State} (hx : savedAt s ctx frame = some x) (ha : admitted s ctx = true)
    (hl : lowerFirst s x = false) (he : ∀ y ∈ savedGang s x, y.eligible = true)
    (hh : ∀ y ∈ savedGang s x, headerAgrees s y = some true) (ht : restoreGang s x = some t) :
    execBlockRestore ctx frame s = .next t := by
  have hall : (savedGang s x).all Saved.eligible = true := List.all_eq_true.mpr he
  have hagree : gangAgrees s (savedGang s x) = true := List.all_eq_true.mpr fun y hy => by simp [hh y hy]
  have hfind : (savedGang s x).find? (fun y => headerAgrees s y == some false) = none :=
    List.find?_eq_none.mpr fun y hy => by simp [hh y hy]
  simp only [execBlockRestore, hx, ha, hl, hall, hfind, hagree, ht, Bool.not_true, Bool.or_self, if_true, if_false,
    Bool.false_eq_true, enabledStep_some]

theorem execBlockRestore_kills {before after : List Saved} {y : Saved} {t : State} (hx : savedAt s ctx frame = some x)
    (ha : admitted s ctx = true) (hl : lowerFirst s x = false) (he : ∀ y ∈ savedGang s x, y.eligible = true)
    (hg : savedGang s x = before ++ y :: after) (hb : ∀ z ∈ before, headerAgrees s z ≠ some false)
    (hy : headerAgrees s y = some false) (ht : killSaved s y = some t) : execBlockRestore ctx frame s = .next t := by
  have hall : (savedGang s x).all Saved.eligible = true := List.all_eq_true.mpr he
  have hfind : (savedGang s x).find? (fun y => headerAgrees s y == some false) = some y := by
    rw [hg, List.find?_append, List.find?_eq_none.mpr fun z hz => by simpa using hb z hz, Option.none_or,
      List.find?_cons_of_pos (by simp [hy])]
  simp only [execBlockRestore, hx, ha, hl, hall, hfind, ht, Bool.not_true, Bool.or_self, if_false,
    Bool.false_eq_true, enabledStep_some]

end

/-! ### The reset of a context -/

/-- A grid of a reset context: every block has exited. -/
def Grid.wiped (gr : Grid) : Grid := { gr with next := gr.record.blocks, exited := gr.record.blocks, fresh := [] }

theorem releaseQueue_grids (s : State) (g : Nat) : (releaseQueue s g).grids = s.grids := by
  unfold releaseQueue
  dsimp only
  split
  · split <;> rfl
  · rfl
  · rfl

theorem gridAt_congr {s t : State} (h : t.grids = s.grids) (g : Nat) : t.gridAt g = s.gridAt g := by
  rw [State.gridAt, State.gridAt, h]

theorem resetGrid_grids (ctx : Nat) (s : State) (g : Nat) : (resetGrid ctx s g).grids =
    if (s.gridAt g).ctx = ctx ∧ (s.gridAt g).done = false then s.grids.set g (s.gridAt g).wiped else s.grids := by
  have hmark : (markCounter s ctx (s.gridAt g).addr (s.gridAt g).record.ctr 62 g).grids = s.grids :=
    congrArg Prod.fst (launchView_markCounter ..)
  unfold resetGrid
  by_cases h : (s.gridAt g).ctx = ctx ∧ (s.gridAt g).done = false
  · rw [if_pos (by simpa using h), if_pos h, releaseQueue_grids, State.setGrid_grids, hmark, gridAt_congr hmark]
    rfl
  · rw [if_neg (by simpa using h), if_neg h]

theorem resetGrid_other (ctx : Nat) (s : State) {g h : Nat} (hne : h ≠ g) :
    (resetGrid ctx s g).gridAt h = s.gridAt h := by
  unfold State.gridAt
  rw [resetGrid_grids]
  split
  · rw [List.getD_eq_getElem?_getD, List.getD_eq_getElem?_getD, List.getElem?_set_ne (Ne.symm hne)]
  · rfl

theorem resetGrid_same {ctx : Nat} {s : State} {g : Nat} (hg : g < s.grids.length) (hc : (s.gridAt g).ctx = ctx)
    (hd : (s.gridAt g).done = false) : (resetGrid ctx s g).gridAt g = (s.gridAt g).wiped := by
  conv_lhs => unfold State.gridAt
  rw [resetGrid_grids, if_pos ⟨hc, hd⟩]
  simp [hg]

theorem foldl_resetGrid_other (ctx : Nat) {g : Nat} (l : List Nat) (s : State) (h : g ∉ l) :
    (l.foldl (resetGrid ctx) s).gridAt g = s.gridAt g := by
  induction l generalizing s with
  | nil => rfl
  | cons a l ih =>
    rw [List.mem_cons, not_or] at h
    rw [List.foldl_cons, ih _ h.2, resetGrid_other ctx s h.1]

theorem resetGrid_length (ctx : Nat) (s : State) (g : Nat) : (resetGrid ctx s g).grids.length = s.grids.length := by
  rw [resetGrid_grids]
  split
  · exact List.length_set
  · rfl

/-- Every uncompleted grid of the context that is met has exited all its blocks. -/
theorem foldl_resetGrid_same {ctx g : Nat} (l : List Nat) (s : State) (hl : l.Nodup) (hgl : g ∈ l) (hg : g < s.grids.length)
    (hc : (s.gridAt g).ctx = ctx) (hd : (s.gridAt g).done = false) :
    (l.foldl (resetGrid ctx) s).gridAt g = (s.gridAt g).wiped := by
  induction l generalizing s with
  | nil => cases hgl
  | cons a l ih =>
    obtain ⟨ha, hl⟩ := List.nodup_cons.mp hl
    rw [List.foldl_cons]
    by_cases hga : g = a
    · subst hga
      rw [foldl_resetGrid_other ctx l _ ha, resetGrid_same hg hc hd]
    · have hsame := resetGrid_other ctx s hga
      rw [ih _ hl ((List.mem_cons.mp hgl).resolve_left hga) (by rwa [resetGrid_length]) (by rwa [hsame]) (by rwa [hsame]),
        hsame]

theorem poolView_discardBlock (s : State) (b : Nat) : poolView (discardBlock s b) = poolView s :=
  (poolView_freeBlockState ..).trans rfl

/-- The machine once the blocks of a context are discarded and its grids are wiped. -/
def cleared (ctx : Nat) (s : State) : State :=
  (List.range ((ctxBlocks s ctx).foldl discardBlock s).grids.length).foldl (resetGrid ctx)
    ((ctxBlocks s ctx).foldl discardBlock s)

/-- The machine after the reset of a context. -/
def afterReset (ctx : Nat) (s : State) : State :=
  State.setCtx { cleared ctx s with saved := (cleared ctx s).saved.filter fun x => x.ctx != ctx } ctx
    { (cleared ctx s).ctxAt ctx with stage := .reset }

/-- The part resets a context at its deadline; firmware does so once none of its blocks is resident. -/
theorem execContextReset_due {s : State} {ctx from_ : Nat}
    (hst : (s.ctxAt ctx).stage = .drain from_ ∨ (s.ctxAt ctx).stage = .saved from_)
    (hdue : from_ + (s.ctxAt ctx).deadline ≤ s.cycle ∨ ctxBlocks s ctx = []) :
    execContextReset ctx s = .next (afterReset ctx s) := by
  have hgo : ((ctxBlocks s ctx).isEmpty || decide (from_ + (s.ctxAt ctx).deadline ≤ s.cycle)) = true := by
    rw [Bool.or_eq_true, List.isEmpty_iff, decide_eq_true_eq]
    exact hdue.symm
  rcases hst with h | h <;> simp only [execContextReset, h, hgo, Bool.not_true, Bool.false_eq_true, if_false] <;> rfl

theorem afterReset_ctxAt (ctx : Nat) (s : State) : ((afterReset ctx s).ctxAt ctx).stage = .reset := by
  rw [afterReset, State.ctxAt_setCtx_same]

theorem afterReset_saved {ctx : Nat} {s : State} {x : Saved} (hx : x ∈ (afterReset ctx s).saved) : x.ctx ≠ ctx := by
  have hx := (List.mem_filter.mp hx).2
  simpa using hx

theorem afterReset_exited {ctx g : Nat} {s : State} (hg : g < s.grids.length) (hc : (s.gridAt g).ctx = ctx)
    (hd : (s.gridAt g).done = false) : ((afterReset ctx s).gridAt g).exited = (s.gridAt g).record.blocks := by
  have hgone : ((ctxBlocks s ctx).foldl discardBlock s).grids = s.grids :=
    poolView_grids (foldl_keeps poolView poolView_discardBlock _ s)
  have hsame := gridAt_congr hgone g
  have hwiped : (cleared ctx s).gridAt g = (s.gridAt g).wiped := by
    rw [cleared, foldl_resetGrid_same _ _ List.nodup_range (by rwa [List.mem_range, hgone]) (by rwa [hgone])
      (by rwa [hsame]) (by rwa [hsame]), hsame]
  exact congrArg Grid.exited hwiped

/-! ### The other steps of a context and of a class -/

section
variable {s : State} {ctx : Nat}

theorem execPreemptionSave_drain {from_ : Nat} (h : (s.ctxAt ctx).stage = .drain from_)
    (hg : from_ + (s.ctxAt ctx).grace ≤ s.cycle) :
    ∃ t, execPreemptionSave ctx s = .next t ∧ (t.ctxAt ctx).stage = .saved from_ := by
  let t := (saveGangs s (residentGangs s (ofCtx s ctx))).1
  refine ⟨t.setCtx ctx { t.ctxAt ctx with stage := .saved from_ }, ?_, by rw [State.ctxAt_setCtx_same]⟩
  simp only [execPreemptionSave, h, if_pos hg, enabledStep_some]
  rfl

/-- A cluster whose vault is a context's is free, with every entry invalid. -/
def Cluster.release (ctx : Nat) (c : Cluster) : Cluster :=
  if c.owner == some ctx then { c with owner := none, vault := [] } else c

theorem Tbl.get_map {α : Type} {d : α} {f : α → α} (hd : f d = d) (t : Tbl α) (k : Nat) :
    Tbl.get d (t.map fun e => (e.1, f e.2)) k = f (Tbl.get d t k) := by
  induction t with
  | nil => exact hd.symm
  | cons e r ih =>
    rw [List.map_cons, Tbl.get, Tbl.get, ih]
    split
    · rfl
    · split
      · rfl
      · exact hd.symm

/-- The machine after the release of a context. -/
def afterRelease (ctx : Nat) (s : State) : State :=
  State.setCtx { s with clusters := s.clusters.map fun e => (e.1, e.2.release ctx) } ctx { s.ctxAt ctx with dir := [] }

theorem execContextRelease_waits (h : (s.ctxAt ctx).stage = .reset) (hg : ∃ g ∈ s.grids, g.ctx = ctx ∧ g.done = false) :
    execContextRelease ctx s = .refused (.notEnabled "CONTEXT_RELEASE") := by
  obtain ⟨g, hm, hc, hd⟩ := hg
  have hany : s.grids.any (fun g => g.ctx == ctx && !g.done) = true := List.any_eq_true.mpr ⟨g, hm, by simp [hc, hd]⟩
  simp only [execContextRelease, if_pos (And.intro h hany)]
  rfl

theorem execContextRelease_frees (h : (s.ctxAt ctx).stage ≠ .reset ∨ ∀ g ∈ s.grids, g.ctx = ctx → g.done = true) :
    execContextRelease ctx s = .next (afterRelease ctx s) := by
  have hno : ¬ ((s.ctxAt ctx).stage = .reset ∧ s.grids.any (fun g => g.ctx == ctx && !g.done) = true) := by
    rintro ⟨hr, hany⟩
    obtain ⟨g, hm, hg⟩ := List.any_eq_true.mp hany
    obtain ⟨hc, hd⟩ : g.ctx = ctx ∧ g.done = false := by simpa using hg
    exact absurd (h.resolve_left (fun hne => hne hr) g hm hc) (by simp [hd])
  simp only [execContextRelease, if_neg hno]
  rfl

theorem afterRelease_clusterAt {u : Nat} (h : (s.clusterAt u).owner = some ctx) :
    ((afterRelease ctx s).clusterAt u).owner = none ∧ ((afterRelease ctx s).clusterAt u).vault = [] := by
  have hu : (afterRelease ctx s).clusterAt u = (s.clusterAt u).release ctx := Tbl.get_map rfl s.clusters u
  simp [hu, Cluster.release, h]

theorem execClassChange_pends {d : Nat} {cls : BitVec 2} (h : (s.domainAt d).pend ≠ none ∨ (s.domainAt d).cls ≠ cls) :
    ∃ t, execClassChange d cls s = .next t ∧ (t.domainAt d).pend = some cls ∧
      (t.domainAt d).cls = (s.domainAt d).cls := by
  have hno : ((s.domainAt d).pend.isNone && (s.domainAt d).cls == cls) = false := by
    rw [Bool.and_eq_false_iff, Option.isNone_eq_false_iff, Option.isSome_iff_ne_none, beq_eq_false_iff_ne]
    exact h
  let t := s.setDomain d { s.domainAt d with pend := some cls }
  have hkeep := poolView_domainAt (poolView_saveGangs t (residentGangs t (classSaves t d))) d
  refine ⟨(saveGangs t (residentGangs t (classSaves t d))).1, ?_, ?_, ?_⟩
  · simp only [execClassChange, hno, Bool.false_eq_true, if_false]
    rfl
  · rw [hkeep, State.domainAt_setDomain_same]
  · rw [hkeep, State.domainAt_setDomain_same]

theorem execClassChangeEffect_takes {d : Nat} {cls : BitVec 2} (h : (s.domainAt d).pend = some cls)
    (hb : ∀ e ∈ s.blocks, e.2.live = true → domainOf (blockCore e.1) ≠ d) (hn : bound s d = false) :
    execClassChangeEffect d s = .next (s.setDomain d { s.domainAt d with cls := cls, pend := none }) := by
  have hno : s.blocks.any (fun e => e.2.live && inDomain d e.1) = false := List.any_eq_false.mpr fun e he => by
    simpa [inDomain] using hb e he
  simp only [execClassChangeEffect, h, hno, hn, Bool.false_eq_true, if_false, enabledStep_some]

end

end Sys2Proof.Machine
namespace Sys2Proof.Certificates
open Sys2Proof.Machine

/-- Settles O58: each step by its own lemma; that saving leaves a domain's class is `poolView_saveGangs`. -/
theorem saveSteps : Obligations.SaveSteps := by
  intro s
  refine ⟨fun g gang t hne hstall ht => execStallSwapOut_saves hne hstall ht,
    fun g low place b t ha hl hv ht => execWaitingBlockSwap_saves ha hl hv ht,
    fun g low place hl => execWaitingBlockSwap_room hl, ?_, ?_, ?_, ?_, ?_, ?_⟩
  · intro g i rest hf hd hr hp hsaved
    have hlow : (s.gridAt g).lowest = i := by rw [Grid.lowest, hf, List.headD_cons]
    have hs : savedFirst s g = false := Bool.eq_false_iff.mpr fun h => by
      obtain ⟨x, hx, hg, he, hlt⟩ := savedFirst_iff.mp h
      exact absurd (hsaved x hx hg he) (by omega)
    have hfull : someCluster s g = decide (clusterOrder s (s.gridAt g).ctx (s.gridAt g).record ≠ []) := by
      rw [Bool.eq_iff_iff]
      simp [someCluster]
    exact ⟨_, hfull ▸ lowerBlock_fresh hf hd hr hp hs, fun t u hu => by rw [hu]; rfl⟩
  · intro g x hx hg he hlt hl hgang
    rw [lowerBlock_saved (savedFirst_iff.mpr ⟨x, hx, hg, he, hlt⟩)]
    exact lowestSaved_of_restorable ⟨hx, hg, List.all_eq_true.mpr fun y hy => (hgang y hy).1, hl,
      List.all_eq_true.mpr fun y hy => by simp [(hgang y hy).2]⟩
  · intro g i full place hs h
    rw [lowerBlock_saved hs] at h
    obtain ⟨x, ⟨hx, hg, -, hl, -⟩, hi⟩ := restorable_of_lowestSaved h
    exact ⟨x, hx, hg, hi, hl⟩
  · intro ctx frame x hx ha hl he
    exact ⟨fun t hh ht => execBlockRestore_gang hx ha hl he hh ht,
      fun before y after t hg hb hy ht => execBlockRestore_kills hx ha hl he hg hb hy ht⟩
  · intro ctx
    refine ⟨fun h => ?_, fun h => ?_, fun from_ h hg => execPreemptionSave_drain h hg, fun from_ hst hdue => ?_,
      fun h hg => execContextRelease_waits h hg, fun h => ?_⟩
    · simp only [exec, execPreemptionRequest, if_pos h, enabledStep_some]
    · simp only [exec, execContextReadmission, if_neg h, enabledStep_some]
    · exact ⟨_, execContextReset_due hst hdue, afterReset_ctxAt ctx s, fun x hx => afterReset_saved hx,
        fun g hg hc hd => afterReset_exited hg hc hd⟩
    · exact ⟨_, execContextRelease_frees h, by rw [afterRelease, State.ctxAt_setCtx_same], rfl,
        fun u hu => afterRelease_clusterAt hu⟩
  · intro d cls
    refine ⟨fun hp hc => ?_, fun h => execClassChange_pends h, fun hp hb hn => execClassChangeEffect_takes hp hb hn⟩
    simp [exec, execClassChange, hp, hc]

end Sys2Proof.Certificates
end

section
/-!
REGROUP: the fusion of two warps, the partner that is found, and the end of a wait (R19, R20, R268).
-/
namespace Sys2Proof.Machine

/-! ### Tables of rows -/

/-- A table in canonical form whose values are mapped, what becomes the default being dropped. -/
theorem Tbl.get_filter_map {α : Type} [DecidableEq α] [BEq α] [LawfulBEq α] {d : α} {f : α → α} (hd : f d = d) {t : Tbl α} (lo : Option Nat)
    (h : Tbl.wfFrom d lo t = true) (k : Nat) :
    Tbl.get d ((t.map fun e => (e.1, f e.2)).filter fun e => e.2 != d) k = f (Tbl.get d t k) ∧
      ∀ l, lo = some l → k ≤ l → Tbl.get d t k = d := by
  induction t generalizing lo with
  | nil => exact ⟨hd.symm, fun _ _ _ => rfl⟩
  | cons e r ih =>
    obtain ⟨j, x⟩ := e
    obtain ⟨hlo, -, hr⟩ := (Tbl.wfFrom_cons ..).mp h
    obtain ⟨hmap, hlow⟩ := ih (some j) hr
    refine ⟨?_, fun l hl hk => ?_⟩
    · by_cases hx : f x = d
      · simp only [List.map_cons, List.filter_cons, hx, bne_self_eq_false, Bool.false_eq_true, if_false, Tbl.get]
        rw [hmap]
        split
        · rfl
        · next hj =>
          rw [hlow j rfl (by omega), hd]
          split
          · exact hx.symm
          · exact hd.symm
      · have hx' : (f x != d) = true := by simpa using hx
        simp only [List.map_cons, List.filter_cons, hx', if_true, Tbl.get, hmap]
        split
        · rfl
        · split
          · rfl
          · exact hd.symm
    · have hlj := hlo l hl
      rw [Tbl.get, if_neg (by omega), if_neg (by omega)]

/-- Values put at the first keys. -/
theorem Tbl.get_foldl_put {α : Type} [DecidableEq α] {d : α} (g : Nat → α) (t : Tbl α) (n k : Nat) :
    Tbl.get d ((List.range n).foldl (fun t i => Tbl.put d t i (g i)) t) k = if k < n then g k else Tbl.get d t k := by
  induction n with
  | zero => simp
  | succ n ih =>
    rw [List.range_succ, List.foldl_append, List.foldl_cons, List.foldl_nil]
    by_cases hk : k = n
    · subst hk
      rw [Tbl.get_put_same, if_pos (Nat.lt_succ_self k)]
    · rw [Tbl.get_put_other _ _ _ hk, ih]
      have hlt : k < n + 1 ↔ k < n := by omega
      simp only [hlt]

/-! ### Lanes written one after another -/

section
variable {σ β : Type} {get : σ → LaneIx → β} {f : σ → LaneIx × LaneIx → σ} {val : LaneIx × LaneIx → β}
  (hf : ∀ s x i, get (f s x) i = if i = x.1 then val x else get s i)
include hf

/-- A lane that no write names keeps what it holds. -/
theorem foldl_lane_other {l : LaneIx} (ps : List (LaneIx × LaneIx)) (s : σ) (h : ∀ q, (l, q) ∉ ps) :
    get (ps.foldl f s) l = get s l := by
  induction ps generalizing s with
  | nil => rfl
  | cons x ps ih =>
    have hne : l ≠ x.1 := fun hl => h x.2 (by rw [hl]; exact List.mem_cons_self)
    rw [List.foldl_cons, ih _ fun q hq => h q (List.mem_cons_of_mem x hq), hf, if_neg hne]

/-- A lane that one write names holds its value. -/
theorem foldl_lane_same {e : LaneIx × LaneIx} (ps : List (LaneIx × LaneIx)) (s : σ) (hn : (ps.map (·.1)).Nodup)
    (he : e ∈ ps) : get (ps.foldl f s) e.1 = val e := by
  induction ps generalizing s with
  | nil => cases he
  | cons x ps ih =>
    obtain ⟨hx, hn⟩ := List.nodup_cons.mp hn
    rw [List.foldl_cons]
    obtain rfl | he := List.mem_cons.mp he
    · rw [foldl_lane_other hf ps _ fun q hq => hx (List.mem_map.mpr ⟨_, hq, rfl⟩), hf, if_pos rfl]
    · exact ih _ hn he

end

theorem map_fst_zip_sublist {α β : Type} (l : List α) (r : List β) : ((l.zip r).map (·.1)).Sublist l := by
  induction l generalizing r with
  | nil => simp
  | cons a l ih =>
    cases r with
    | nil => simp
    | cons b r => simpa using ih r

theorem nodup_fusePairs (r d : Warp) : ((fusePairs r d).map (·.1)).Nodup :=
  (map_fst_zip_sublist ..).nodup ((List.nodup_finRange 32).filter _)

/-! ### The receiver of a fusion -/

theorem lane_moveLane (dst src : Lanes) (x : LaneIx × LaneIx) (i : LaneIx) :
    lane (moveLane dst src x.1 x.2) i = if i = x.1 then lane src x.2 else lane dst i := by
  simp [moveLane, lane, mkLanes]

@[simp] theorem lane_zeroLanes (i : LaneIx) : lane zeroLanes i = 0 := by
  simp [lane, zeroLanes]

@[simp] theorem lane_clearLanes (m : Mask) (v : Lanes) (i : LaneIx) :
    lane (clearLanes m v) i = if inMask m i then 0 else lane v i := by
  simp [clearLanes]

theorem clearLanes_zeroLanes (m : Mask) : clearLanes m zeroLanes = zeroLanes := by
  refine Vector.ext fun i hi => ?_
  have h := lane_clearLanes m zeroLanes ⟨i, hi⟩
  rw [lane_zeroLanes, ite_self] at h
  exact h.trans (lane_zeroLanes ⟨i, hi⟩).symm

theorem getLsbD_orBit (m : Mask) (i j : LaneIx) :
    (m ||| (1#32 <<< i.val)).getLsbD j.val = if j = i then true else m.getLsbD j.val := by
  have hbit : (1#32 <<< i.val).getLsbD j.val = decide (j = i) := by revert i j; decide
  rw [BitVec.getLsbD_or, hbit]
  by_cases h : j = i <;> simp [h]

theorem getLsbD_clearBit (m : Mask) (i j : LaneIx) :
    (m &&& ~~~(1#32 <<< i.val)).getLsbD j.val = if j = i then false else m.getLsbD j.val := by
  have hbit : (~~~(1#32 <<< i.val)).getLsbD j.val = !decide (j = i) := by revert i j; decide
  rw [BitVec.getLsbD_and, hbit]
  by_cases h : j = i <;> simp [h]

/-- The mask of the lanes that a fusion fills. -/
def fuseMask (ps : List (LaneIx × LaneIx)) : Mask := ps.foldl (fun acc x => acc ||| (1#32 <<< x.1.val)) 0#32

theorem inMask_fuseMask (ps : List (LaneIx × LaneIx)) (i : LaneIx) :
    inMask (fuseMask ps) i = true ↔ ∃ q, (i, q) ∈ ps := by
  suffices h : ∀ m : Mask, inMask (ps.foldl (fun acc x => acc ||| (1#32 <<< x.1.val)) m) i = true ↔
      inMask m i = true ∨ ∃ q, (i, q) ∈ ps by simpa [fuseMask, inMask] using h 0#32
  induction ps with
  | nil => simp
  | cons x ps ih =>
    intro m
    have hone : inMask (m ||| (1#32 <<< x.1.val)) i = true ↔ inMask m i = true ∨ i = x.1 := by
      rw [inMask, getLsbD_orBit, ← inMask]
      by_cases h : i = x.1 <;> simp [h]
    rw [List.foldl_cons, ih, hone, or_assoc]
    refine or_congr_right ?_
    simp only [List.mem_cons, Prod.ext_iff]
    constructor
    · rintro (h | ⟨q, hq⟩)
      · exact ⟨x.2, .inl ⟨h, rfl⟩⟩
      · exact ⟨q, .inr hq⟩
    · rintro ⟨q, ⟨h, -⟩ | hq⟩
      · exact .inl h
      · exact .inr ⟨q, hq⟩

section
variable {r d : Warp} {n : Nat}

theorem fuse_exm_iff (i : LaneIx) : inMask (fuse r d n).exm i = true ↔ inMask r.exm i = true ∨ ∃ q, (i, q) ∈ fusePairs r d := by
  rw [← inMask_fuseMask]
  show (r.exm ||| fuseMask (fusePairs r d)).getLsbD i.val = true ↔ _
  rw [BitVec.getLsbD_or, Bool.or_eq_true]
  rfl

/-- A main-file register of the receiver: the donor's lanes where it lies below the operand, zero there where not. -/
theorem fuse_v_get (hw : Tbl.wf zeroLanes r.v = true) (i : Nat) : Tbl.get zeroLanes (fuse r d n).v i =
    if i < n then (fusePairs r d).foldl (fun v x => moveLane v (Tbl.get zeroLanes d.v i) x.1 x.2) (Tbl.get zeroLanes r.v i)
    else clearLanes (fuseMask (fusePairs r d)) (Tbl.get zeroLanes r.v i) := by
  rw [← (Tbl.get_filter_map (clearLanes_zeroLanes (fuseMask (fusePairs r d))) none hw i).1]
  exact Tbl.get_foldl_put _ _ n i

theorem fuse_host_get (hw : Tbl.wf zeroLanes r.host = true) (i : Nat) : Tbl.get zeroLanes (fuse r d n).host i =
    clearLanes (fuseMask (fusePairs r d)) (Tbl.get zeroLanes r.host i) :=
  (Tbl.get_filter_map (clearLanes_zeroLanes (fuseMask (fusePairs r d))) none hw i).1

/-- Predicate `j` of the receiver, lane by lane. -/
def fusePred (d : Warp) (j : Fin 12) (b : BitVec 32) (x : LaneIx × LaneIx) : BitVec 32 :=
  if (d.p[j]).getLsbD x.2.val then b ||| (1#32 <<< x.1.val) else b &&& ~~~(1#32 <<< x.1.val)

theorem getLsbD_fusePred (d : Warp) (j : Fin 12) (b : BitVec 32) (x : LaneIx × LaneIx) (i : LaneIx) :
    (fusePred d j b x).getLsbD i.val = if i = x.1 then (d.p[j]).getLsbD x.2.val else b.getLsbD i.val := by
  unfold fusePred
  split
  · next h => rw [getLsbD_orBit, h]
  · next h => rw [getLsbD_clearBit, Bool.eq_false_iff.mpr h]

theorem fuse_p_get (j : Fin 12) : (fuse r d n).p[j] =
    if j.val = 0 then r.p[j] else (fusePairs r d).foldl (fusePred d j) r.p[j] := by
  simp only [fuse, Fin.getElem_fin, Vector.getElem_ofFn]
  rfl

/-- The origin of one lane moves. -/
def fuseOrig (d : Warp) (o : Vector (BitVec 16) 32) (x : LaneIx × LaneIx) : Vector (BitVec 16) 32 :=
  o.set x.1.val d.orig[x.2.val]

theorem fuseOrig_get (d : Warp) (o : Vector (BitVec 16) 32) (x : LaneIx × LaneIx) (i : LaneIx) :
    (fuseOrig d o x)[i.val] = if i = x.1 then d.orig[x.2.val] else o[i.val] := by
  rw [fuseOrig, Vector.getElem_set]
  simp only [Fin.ext_iff, eq_comm]

theorem fuse_orig : (fuse r d n).orig = (fusePairs r d).foldl (fuseOrig d) r.orig := rfl

theorem fuse_o_get (i : Fin 8) : (fuse r d n).o[i] = clearLanes (fuseMask (fusePairs r d)) r.o[i] := by
  simp only [fuse, Fin.getElem_fin, Vector.getElem_map]
  rfl

end

/-- What the receiver is after its REGROUP: `names` is the donor's operand, `dest` the receiver's status register. -/
structure Merged (w rw dw : Warp) (names dest : Nat) : Prop where
  pc : w.pc = rw.pc + 4
  wait : w.wait = .none
  status : w.sreg (BitVec.ofNat 6 dest) = 0
  exm : ∀ i, inMask w.exm i = true ↔ inMask rw.exm i = true ∨ ∃ q, (i, q) ∈ fusePairs rw dw
  filled : Tbl.wf zeroLanes rw.v = true → Tbl.wf zeroLanes rw.host = true → ∀ e ∈ fusePairs rw dw,
    (∀ i, lane (Tbl.get zeroLanes w.v i) e.1 = if i < names then lane (Tbl.get zeroLanes dw.v i) e.2 else 0) ∧
    (∀ i : Fin 12, i.val ≠ 0 → w.p[i].getLsbD e.1.val = dw.p[i].getLsbD e.2.val) ∧
    w.orig[e.1.val] = dw.orig[e.2.val] ∧ (∀ i : Fin 8, lane w.o[i] e.1 = 0) ∧ lane w.l0 e.1 = 0 ∧
    lane w.l1 e.1 = 0 ∧ ∀ i, lane (Tbl.get zeroLanes w.host i) e.1 = 0
  kept : Tbl.wf zeroLanes rw.v = true → ∀ l, (∀ q, (l, q) ∉ fusePairs rw dw) →
    (∀ i, lane (Tbl.get zeroLanes w.v i) l = lane (Tbl.get zeroLanes rw.v i) l) ∧
    (∀ i : Fin 12, w.p[i].getLsbD l.val = rw.p[i].getLsbD l.val) ∧ w.orig[l.val] = rw.orig[l.val] ∧
    (∀ i : Fin 8, lane w.o[i] l = lane rw.o[i] l) ∧ lane w.l0 l = lane rw.l0 l ∧ lane w.l1 l = lane rw.l1 l

theorem sreg_setS (w : Warp) (r : SReg) (x : Word) : (w.setS r x).sreg r = if r = 0 then 0 else x := by
  unfold Warp.sreg Warp.setS
  split
  · rfl
  · simp

/-- A status in a warp whose word completes. -/
def Warp.regrouped (w : Warp) (dest : Nat) (status : Word) : Warp :=
  (w.setS (BitVec.ofNat 6 dest) status).retired (w.pc + 4)

/-- A scalar register apart, what a status leaves of a warp. -/
theorem regrouped_eq (w : Warp) (dest : Nat) (x : Word) : ∃ s, w.regrouped dest x = ({ w with s := s } : Warp).retired (w.pc + 4) := by
  unfold Warp.regrouped Warp.setS
  split
  · exact ⟨w.s, rfl⟩
  · exact ⟨_, rfl⟩

theorem merged_fuse (rw dw : Warp) (names dest : Nat) : Merged ((fuse rw dw names).regrouped dest 0) rw dw names dest := by
  have hstatus : ((fuse rw dw names).regrouped dest 0).sreg (BitVec.ofNat 6 dest) = 0 :=
    (sreg_setS (fuse rw dw names) (BitVec.ofNat 6 dest) 0).trans (ite_self 0)
  obtain ⟨s, hs⟩ := regrouped_eq (fuse rw dw names) dest 0
  have hn := nodup_fusePairs rw dw
  rw [hs] at hstatus ⊢
  refine ⟨rfl, rfl, hstatus, fuse_exm_iff (n := names), fun hv hh e he => ?_, fun hv l hl => ?_⟩
  · have hm : inMask (fuseMask (fusePairs rw dw)) e.1 = true := (inMask_fuseMask ..).mpr ⟨e.2, he⟩
    have hclear : ∀ v : Lanes, lane (clearLanes (fuseMask (fusePairs rw dw)) v) e.1 = 0 := fun v => by simp [hm]
    refine ⟨fun i => ?_, fun j hj => ?_, ?_, fun i => ?_, hclear _, hclear _, fun i => ?_⟩
    · refine (congrArg (lane · e.1) (fuse_v_get (n := names) hv i)).trans ?_
      split
      · exact foldl_lane_same (get := lane) (val := fun x => lane (Tbl.get zeroLanes dw.v i) x.2)
          (fun v x k => lane_moveLane v _ x k) _ _ hn he
      · exact hclear _
    · refine (congrArg (BitVec.getLsbD · e.1.val) ((fuse_p_get (n := names) j).trans (if_neg hj))).trans ?_
      exact foldl_lane_same (get := fun (b : BitVec 32) i => b.getLsbD i.val) (getLsbD_fusePred dw j) _ _ hn he
    · exact foldl_lane_same (get := fun (o : Vector (BitVec 16) 32) (i : LaneIx) => o[i.val]) (fuseOrig_get dw) _ _ hn he
    · exact (congrArg (lane · e.1) (fuse_o_get (n := names) i)).trans (hclear _)
    · exact (congrArg (lane · e.1) (fuse_host_get (n := names) hh i)).trans (hclear _)
  · have hm : inMask (fuseMask (fusePairs rw dw)) l = false := Bool.eq_false_iff.mpr fun h =>
      (inMask_fuseMask ..).mp h |>.elim hl
    have hclear : ∀ v : Lanes, lane (clearLanes (fuseMask (fusePairs rw dw)) v) l = lane v l := fun v => by simp [hm]
    refine ⟨fun i => ?_, fun j => ?_, ?_, fun i => ?_, hclear _, hclear _⟩
    · refine (congrArg (lane · l) (fuse_v_get (n := names) hv i)).trans ?_
      split
      · exact foldl_lane_other (get := lane) (val := fun x => lane (Tbl.get zeroLanes dw.v i) x.2)
          (fun v x k => lane_moveLane v _ x k) _ _ hl
      · exact hclear _
    · refine (congrArg (BitVec.getLsbD · l.val) (fuse_p_get (n := names) j)).trans ?_
      split
      · rfl
      · exact foldl_lane_other (get := fun (b : BitVec 32) i => b.getLsbD i.val) (getLsbD_fusePred dw j) _ _ hl
    · exact foldl_lane_other (get := fun (o : Vector (BitVec 16) 32) (i : LaneIx) => o[i.val]) (fuseOrig_get dw) _ _ hl
    · exact (congrArg (lane · l) (fuse_o_get (n := names) i)).trans (hclear _)

/-! ### The fusion in the machine -/

theorem regroupEnds_eq {s : State} {k since n d : Nat} (h : (s.warpAt k).wait = .regroup since n d) (x : Word) :
    regroupEnds s k x = s.setWarp k ((s.warpAt k).regrouped d x) := by
  simp only [regroupEnds, h, Warp.regrouped]

/-- The machine once the donor `dk` has moved into the receiver `rk`, the receiver's word still to complete. -/
def fusedInto (s : State) (rk dk n : Nat) : State :=
  let core := s.coreAt (coreOf dk)
  let rename := fun (l : List Cmd) => l.map fun c => if c.warp = dk then { c with warp := noWarpKey } else c
  let t : State := ({ s with poison := s.poison ++ s.poison.filterMap (fuseSite rk dk n
    (fusePairs (s.warpAt rk) (s.warpAt dk))) } : State)
  let t := (t.setWarp rk (fuse (s.warpAt rk) (s.warpAt dk) n)).setWarp dk Warp.absent
  let t := t.setCore (coreOf dk) { core with
    copyQ := rename core.copyQ, matrixQ := rename core.matrixQ
    stateQ := rename core.stateQ, launchQ := rename core.launchQ }
  let b := (s.warpAt dk).block
  t.setBlock b { s.blockAt b with donors := (s.blockAt b).donors + 1 }

section
variable {s : State} {rk dk : Nat}

/-- The warp of lower WID receives. -/
theorem regroupFuse_eq {x y since n d : Nat} (h : (if (s.warpAt x).wid < (s.warpAt y).wid then (x, y) else (y, x)) = (rk, dk))
    (hw : (s.warpAt dk).wait = .regroup since n d) : regroupFuse s x y = regroupEnds (fusedInto s rk dk n) rk 0 := by
  simp only [regroupFuse, h, hw]
  rfl

theorem fusedInto_warps (s : State) (rk dk n : Nat) : (fusedInto s rk dk n).warps =
    ((s.setWarp rk (fuse (s.warpAt rk) (s.warpAt dk) n)).setWarp dk Warp.absent).warps := rfl

theorem warpAt_congr {s t : State} (h : t.warps = s.warps) (k : Nat) : t.warpAt k = s.warpAt k := by
  rw [State.warpAt, State.warpAt, h]

theorem fusedInto_receiver {n : Nat} (hne : rk ≠ dk) :
    (fusedInto s rk dk n).warpAt rk = fuse (s.warpAt rk) (s.warpAt dk) n := by
  rw [warpAt_congr (fusedInto_warps ..), State.warpAt_setWarp_other _ _ hne, State.warpAt_setWarp_same]

theorem fusedInto_donor {n : Nat} : (fusedInto s rk dk n).warpAt dk = Warp.absent := by
  rw [warpAt_congr (fusedInto_warps ..), State.warpAt_setWarp_same]

theorem fusedInto_other {n m : Nat} (hr : m ≠ rk) (hd : m ≠ dk) : (fusedInto s rk dk n).warpAt m = s.warpAt m := by
  rw [warpAt_congr (fusedInto_warps ..), State.warpAt_setWarp_other _ _ hd, State.warpAt_setWarp_other _ _ hr]

/-- What the fusion of two waiting warps leaves: the receiver merged, the donor's slot free, the rest as it was. -/
theorem regroupFuse_merges {x y since n d since' n' d' : Nat}
    (h : (if (s.warpAt x).wid < (s.warpAt y).wid then (x, y) else (y, x)) = (rk, dk)) (hne : rk ≠ dk)
    (hd : (s.warpAt dk).wait = .regroup since n d) (hr : (s.warpAt rk).wait = .regroup since' n' d') :
    (regroupFuse s x y).warpAt dk = Warp.absent ∧ (regroupFuse s x y).mem = s.mem ∧
      (∀ m, m ≠ rk → m ≠ dk → (regroupFuse s x y).warpAt m = s.warpAt m) ∧
      Merged ((regroupFuse s x y).warpAt rk) (s.warpAt rk) (s.warpAt dk) n d' := by
  have hwait : ((fusedInto s rk dk n).warpAt rk).wait = .regroup since' n' d' := by
    rw [fusedInto_receiver hne]
    exact hr
  rw [regroupFuse_eq h hd, regroupEnds_eq hwait, fusedInto_receiver hne]
  refine ⟨?_, rfl, fun m hmr hmd => ?_, ?_⟩
  · rw [State.warpAt_setWarp_other _ _ hne.symm, fusedInto_donor]
  · rw [State.warpAt_setWarp_other _ _ hmr, fusedInto_other hmr hmd]
  · rw [State.warpAt_setWarp_same]
    exact merged_fuse ..

end

/-! ### The partner -/

/-- Whether an entry of the warps may be the partner of the warp in slot `k`. -/
def regroupFits (s : State) (k : Nat) (e : Nat × Warp) : Bool :=
  e.1 != k && (match e.2.wait with
    | .regroup since _ _ => decide (s.cycle < since + Config.regroupCycles)
    | _ => false) && !e.2.interrupted && e.2.pc == (s.warpAt k).pc && decide (popBits e.2.exm + popBits (s.warpAt k).exm ≤ 32)

/-- The entries of the warps that may be its partner. -/
def regroupFitting (s : State) (k : Nat) : List (Nat × Warp) :=
  (blockWarps s (s.warpAt k).block).filter (regroupFits s k)

theorem regroupPartner_eq (s : State) (k : Nat) :
    regroupPartner s k = ((sortByKey (fun e => e.2.wid) (regroupFitting s k)).head?).map (·.1) := rfl

theorem mem_regroupFitting {s : State} {k : Nat} {e : Nat × Warp} : e ∈ regroupFitting s k ↔
    e ∈ s.warps ∧ e.1 ≠ k ∧ e.2.block = (s.warpAt k).block ∧ e.2.stat ≠ .absent ∧ e.2.pc = (s.warpAt k).pc ∧
      (∃ since n d, e.2.wait = .regroup since n d ∧ s.cycle < since + 256) ∧ (e.2.async = [] ∨ e.2.sup = true) ∧
      popBits e.2.exm + popBits (s.warpAt k).exm ≤ 32 := by
  have hwait : (match e.2.wait with
      | .regroup since _ _ => decide (s.cycle < since + Config.regroupCycles)
      | _ => false) = true ↔ ∃ since n d, e.2.wait = .regroup since n d ∧ s.cycle < since + 256 := by
    cases e.2.wait <;> simp [Config.regroupCycles]
  have hint : (!e.2.interrupted) = true ↔ e.2.async = [] ∨ e.2.sup = true := by
    cases hs : e.2.sup <;> simp [Warp.interrupted, hs]
  simp only [regroupFitting, blockWarps, List.mem_filter, regroupFits, Bool.and_eq_true, hwait, hint, bne_iff_ne, beq_iff_eq,
    decide_eq_true_eq]
  tauto

/-- Where an entry fits, one of lowest WID is the partner. -/
theorem regroupPartner_of_fits {s : State} {k : Nat} {e : Nat × Warp} (h : e ∈ regroupFitting s k) :
    ∃ p ∈ regroupFitting s k, regroupPartner s k = some p.1 ∧ p.2.wid ≤ e.2.wid := by
  obtain ⟨p, hp, hhead, hle⟩ := head_sortByKey_le (f := fun e : Nat × Warp => e.2.wid) h
  exact ⟨p, hp, by rw [regroupPartner_eq, hhead]; rfl, hle⟩

theorem regroupPartner_lowest {s : State} {k j : Nat} (h : regroupPartner s k = some j) :
    ∃ w, (j, w) ∈ regroupFitting s k ∧ ∀ e ∈ regroupFitting s k, w.wid ≤ e.2.wid := by
  rw [regroupPartner_eq] at h
  obtain ⟨p, hp, rfl⟩ := Option.map_eq_some_iff.mp h
  refine ⟨p.2, mem_sortByKey.mp (List.mem_of_head? hp), fun e he => ?_⟩
  obtain ⟨q, -, hq, hle⟩ := head_sortByKey_le (f := fun e : Nat × Warp => e.2.wid) he
  rw [hp] at hq
  cases hq
  exact hle

/-- A change under one key leaves the entries under the others. -/
theorem Tbl.filter_set {α : Type} (t : Tbl α) {k : Nat} (x : α) {f : Nat × α → Bool} (hf : ∀ e, f e = true → e.1 ≠ k) :
    (Tbl.set t k x).filter f = t.filter f := by
  have hk : ∀ y, f (k, y) = false := fun y => Bool.eq_false_iff.mpr fun h => hf _ h rfl
  induction t with
  | nil => simp [Tbl.set, hk]
  | cons e r ih =>
    obtain ⟨j, y⟩ := e
    unfold Tbl.set
    split
    · rw [List.filter_cons, List.filter_cons, ih]
    · split
      · next hj =>
        subst hj
        simp [hk]
      · simp [List.filter_cons, hk]

/-- A warp that begins a wait inside its word. -/
def Warp.begins (w : Warp) (x : WaitSt) : Warp := { w.counted false with wait := x, openRgn := false }

theorem beginWait_warps (s : State) (x : WaitSt) : (beginWait s x).warps = Tbl.set s.warps s.cur (s.me.begins x) := rfl

theorem beginWait_me (s : State) (x : WaitSt) : (beginWait s x).warpAt s.cur = s.me.begins x := by
  rw [State.warpAt, beginWait_warps, Tbl.get_set_same]

theorem beginWait_other (s : State) (x : WaitSt) {j : Nat} (h : j ≠ s.cur) : (beginWait s x).warpAt j = s.warpAt j := by
  rw [State.warpAt, beginWait_warps, Tbl.get_set_other _ _ _ h, State.warpAt]

/-- The wait of the acting warp changes none of the entries that may be its partner. -/
theorem regroupFitting_beginWait (s : State) (x : WaitSt) :
    regroupFitting (beginWait s x) s.cur = regroupFitting s s.cur := by
  have hfits : regroupFits (beginWait s x) s.cur = regroupFits s s.cur := by
    funext e
    unfold regroupFits
    rw [beginWait_me]
    rfl
  have hblock : ((beginWait s x).warpAt s.cur).block = (s.warpAt s.cur).block := by
    rw [beginWait_me]
    rfl
  rw [regroupFitting, regroupFitting, blockWarps, blockWarps, hfits, hblock, beginWait_warps, List.filter_filter,
    List.filter_filter]
  refine Tbl.filter_set s.warps _ fun e he => ?_
  simp only [regroupFits, Bool.and_eq_true, bne_iff_ne] at he
  exact he.1.1.1.1.1

theorem regroupPartner_beginWait (s : State) (x : WaitSt) :
    regroupPartner (beginWait s x) s.cur = regroupPartner s s.cur := by
  rw [regroupPartner_eq, regroupFitting_beginWait, regroupPartner_eq]

/-! ### REGROUP at issue -/

section
variable {s : State} {k a : SReg}

/-- What the issue of REGROUP asks: the warp may issue, its lane blocks are done, it waits in no REGROUP, it is no stroke,
and its operand is within its own names. -/
structure Regroups (s : State) (a : SReg) : Prop where
  ready : Ready s [a]
  drained : s.me.sup = true ∨ s.me.dispatch = []
  fresh : ∀ since n d, s.me.wait ≠ .regroup since n d
  host : s.me.stroke = none
  names : (s.sreg a).toNat ≤ privNames s s.me

/-- The wait that REGROUP begins. -/
def regroupWait (s : State) (k a : SReg) : WaitSt := .regroup s.cycle (s.sreg a).toNat k.toNat

theorem execRegroup_acts (h : Regroups s a) : execRegroup k a s = Did.out true s
    (if regroupRefused s.me then .done (s.setS k 1) none
    else match regroupPartner (beginWait s (regroupWait s k a)) s.cur with
      | none => .stops (beginWait s (regroupWait s k a))
      | some j => .stops (regroupFuse (beginWait s (regroupWait s k a)) s.cur j)) := by
  have hill : ¬ (s.me.stroke.isSome = true ∨ privNames s s.me < (s.sreg a).toNat) := by
    simp [h.host, Nat.not_lt.mpr h.names]
  rw [execRegroup, scalarWord_acts h.ready (fun _ => rfl) (by simp) fun _ => h.drained]
  refine congrArg (Did.out true s) ?_
  dsimp only
  cases hw : s.me.wait
  case regroup => exact absurd hw (h.fresh _ _ _)
  all_goals
    simp only [if_neg hill] <;> rfl

theorem execRegroup_refused (h : Regroups s a) (hr : regroupRefused s.me = true) :
    execRegroup k a s = .next (issued s (s.withReg k 1) (s.me.pc + 4) true) := by
  rw [execRegroup_acts h, if_pos hr, out_done, setS_eq]
  simp

theorem execRegroup_waits (h : Regroups s a) (hr : regroupRefused s.me = false)
    (hp : regroupPartner (beginWait s (regroupWait s k a)) s.cur = none) :
    execRegroup k a s = .next (beginWait s (regroupWait s k a)) := by
  rw [execRegroup_acts h, if_neg (by simp [hr]), hp, out_stops]

theorem execRegroup_fuses (h : Regroups s a) (hr : regroupRefused s.me = false) {j : Nat}
    (hp : regroupPartner (beginWait s (regroupWait s k a)) s.cur = some j) :
    execRegroup k a s = .next (regroupFuse (beginWait s (regroupWait s k a)) s.cur j) := by
  rw [execRegroup_acts h, if_neg (by simp [hr]), hp, out_stops]

/-- A wait of 256 cycles ends with status 1. -/
theorem execRegroupTimeout_ends {j since n d : Nat} (hw : (s.warpAt j).wait = .regroup since n d)
    (ha : (s.warpAt j).async = [] ∨ (s.warpAt j).sup = true) (hc : since + 256 ≤ s.cycle) :
    execRegroupTimeout j s = .next (s.setWarp j ((s.warpAt j).regrouped d 1)) := by
  have hint : (s.warpAt j).interrupted = false := by rcases ha with h | h <;> simp [Warp.interrupted, h]
  have hc : since + Config.regroupCycles ≤ s.cycle := hc
  simp only [execRegroupTimeout, hw, hint, Bool.not_false, Bool.true_and, decide_eq_true hc, if_true, enabledStep_some,
    regroupEnds_eq hw]

/-- The fusion of the acting warp with a partner, whichever of them receives. -/
theorem regroupFuse_beginWait {j since n d : Nat} (hw : (s.warpAt j).wait = .regroup since n d) (hne : j ≠ s.cur)
    (low : Bool) (hlow : low = decide (s.me.wid < (s.warpAt j).wid)) :
    let t := regroupFuse (beginWait s (regroupWait s k a)) s.cur j
    let r := if low then s.cur else j
    let dn := if low then j else s.cur
    t.warpAt dn = Warp.absent ∧ t.mem = s.mem ∧ (∀ m, m ≠ r → m ≠ dn → t.warpAt m = s.warpAt m) ∧
      Merged (t.warpAt r) (s.warpAt r) (s.warpAt dn) (if low then n else (s.sreg a).toNat) (if low then k.toNat else d) := by
  have hme := beginWait_me s (regroupWait s k a)
  have hj := beginWait_other s (regroupWait s k a) hne
  have hmw : ((beginWait s (regroupWait s k a)).warpAt s.cur).wait = .regroup s.cycle (s.sreg a).toNat k.toNat := by
    rw [hme]
    rfl
  have hjw : ((beginWait s (regroupWait s k a)).warpAt j).wait = .regroup since n d := by rw [hj, hw]
  have hother : ∀ m, m ≠ s.cur → (beginWait s (regroupWait s k a)).warpAt m = s.warpAt m := fun m hm =>
    beginWait_other _ _ hm
  have hwid : ((beginWait s (regroupWait s k a)).warpAt s.cur).wid < ((beginWait s (regroupWait s k a)).warpAt j).wid ↔
      s.me.wid < (s.warpAt j).wid := by
    rw [hme, hj]
    rfl
  cases low with
  | true =>
    have hlt := of_decide_eq_true hlow.symm
    obtain ⟨hfree, hmem, hkeep, hmerged⟩ := regroupFuse_merges (if_pos (hwid.mpr hlt)) hne.symm hjw hmw
    rw [hme, hj] at hmerged
    exact ⟨hfree, hmem, fun m hr hd => (hkeep m hr hd).trans (hother m hr),
      ⟨hmerged.pc, hmerged.wait, hmerged.status, hmerged.exm, hmerged.filled, hmerged.kept⟩⟩
  | false =>
    have hlt := of_decide_eq_false hlow.symm
    obtain ⟨hfree, hmem, hkeep, hmerged⟩ := regroupFuse_merges (if_neg (hwid.not.mpr hlt)) hne hmw hjw
    rw [hme, hj] at hmerged
    exact ⟨hfree, hmem, fun m hr hd => (hkeep m hr hd).trans (hother m hd),
      ⟨hmerged.pc, hmerged.wait, hmerged.status, hmerged.exm, hmerged.filled, hmerged.kept⟩⟩

end

end Sys2Proof.Machine
namespace Sys2Proof.Certificates
open Sys2Proof.Machine

/-- Settles O39: the fusion lane by lane (`merged_fuse`), the partner as the head of the sorted candidates. -/
theorem regrouping : Obligations.Regrouping := by
  intro s k a hready hdrained hfresh hstroke hnames
  have h : Regroups s a := ⟨hready, hdrained, hfresh, hstroke, hnames⟩
  refine ⟨fun hr => execRegroup_refused h hr, fun hr => ?_, ⟨fun j hj => ?_, ?_⟩, fun j since n d hw ha hc => ?_⟩
  · refine ⟨beginWait s (regroupWait s k a), congrArg Warp.wait (beginWait_me ..), (congrArg Warp.pc (beginWait_me s (regroupWait s k a)) :),
      rfl, regroupPartner_beginWait .., fun hp => execRegroup_waits h hr hp, fun j since n d hp hw hne => ?_⟩
    obtain ⟨hfree, hmem, hkeep, hmerged⟩ := regroupFuse_beginWait (k := k) (a := a) hw hne _ rfl
    exact ⟨_, execRegroup_fuses h hr hp, hfree, hmem, hkeep, hmerged.pc, hmerged.wait, hmerged.status, hmerged.exm,
      hmerged.filled, hmerged.kept⟩
  · obtain ⟨w, hfit, hmin⟩ := regroupPartner_lowest hj
    exact ⟨w, mem_regroupFitting.mp hfit, fun i v hv => hmin (i, v) (mem_regroupFitting.mpr hv)⟩
  · rintro ⟨j, w, hfit⟩
    obtain ⟨p, -, hp, -⟩ := regroupPartner_of_fits (e := (j, w)) (mem_regroupFitting.mpr hfit)
    exact ⟨p.1, hp⟩
  · have hstatus := sreg_setS (s.warpAt j) (BitVec.ofNat 6 d) 1
    obtain ⟨r, hr⟩ := regrouped_eq (s.warpAt j) d 1
    have ht : (s.setWarp j ((s.warpAt j).regrouped d 1)).warpAt j = (s.warpAt j).regrouped d 1 := State.warpAt_setWarp_same ..
    refine ⟨_, execRegroupTimeout_ends hw ha hc, ?_, ?_, ?_, rfl⟩
    · rw [ht, hr]
      rfl
    · rw [ht, hr]
      rfl
    · rw [ht]
      exact hstatus

end Sys2Proof.Certificates
end

section
/-!
A lane store of an uncommitted stroke whose crew lists the acting warp under a higher stroke as well (R43, R218).
-/
namespace Sys2Proof.Machine

/-- A store of one lane to the scratchpad of its own block. -/
def ownStore : Instr := .vst ⟨0, 0, false, 0, none⟩ (.v 1) (.v 2) ⟨0, 0, .warp, 0⟩ 0 0

/-- Warp 0 is the uncommitted stroke 0 of crew 0, which lists it as the warp of stroke 1 too and holds stores of that
stroke in every entry of the speculative store buffer. -/
def selfCancelling : State :=
  let s := State.reset.withFetchWord 96 0
  (s.setWarp 0 { s.warpAt 0 with
    stroke := some (0, 0), exm := 1, pc := 4
    dispatch := [⟨wordVa, 0, false, Vector.replicate 8 0xFE00_0000_0000_0000, 0, false, none, none⟩] }).setCrew 0
    { Crew.absent with
      live := true, next := 2
      record := { CrewRec.none with breakable := true, regs8 := 4, s := 1, w := 2 }
      strokes := [⟨1, 0, false, false, false, true⟩]
      held := [⟨1, [], [], Config.specEntries, [], false⟩] }

/-- The store finds the buffer full, and the cancellation of stroke 1 that makes room for it empties the warp's own slot. -/
theorem exec_selfCancelling : ∃ t, exec ownStore selfCancelling = .next t ∧ t.me.iret = 1 ∧ t.me.pc = 0 :=
  ⟨_, rfl, rfl, rfl⟩

end Sys2Proof.Machine
namespace Sys2Proof.Certificates
open Sys2Proof.Machine

/-- Refutes O50: the statement speaks of every state, also of one whose crew lists the acting warp under a stroke above
its own. In `selfCancelling` a store of an uncommitted stroke issues, and its warp's pc is not what it was (R43). -/
theorem not_laneFrame : ¬ Obligations.LaneFrame := by
  unfold Obligations.LaneFrame
  rintro ⟨h, -⟩
  obtain ⟨t, ht, hiret, hpc⟩ := exec_selfCancelling
  have hcount : t.me.iret.toNat = selfCancelling.me.iret.toNat + 1 := by
    rw [hiret]
    rfl
  obtain ⟨hregs, -⟩ := (h ownStore _ _ selfCancelling t rfl ht hcount).2 rfl
  obtain ⟨-, -, -, -, -, -, -, -, -, -, hsame, -⟩ := hregs
  rw [hpc] at hsame
  exact absurd hsame (by decide)

end Sys2Proof.Certificates
end

section
/-!
Loads and stores of the acting warp (R42, R43, R79, R197, R198): what resolving an address leaves, what a load gets and
what a store leaves, and the scalar words made of them.
-/
namespace Sys2Proof.Machine

/-! ### What a translation leaves of the machine -/

section
variable {s t : State} (h : walkRest t = walkRest s)
include h

theorem walkRest_cur : t.cur = s.cur := (congrArg State.cur h :)
theorem walkRest_mem : t.mem = s.mem := (congrArg State.mem h :)
theorem walkRest_crews : t.crews = s.crews := (congrArg State.crews h :)
theorem walkRest_crewAt (c : Nat) : t.crewAt c = s.crewAt c := by rw [State.crewAt, walkRest_crews h, ← State.crewAt]

/-- Whether the acting warp's stroke is committed, and whether it holds a fence, is no matter of the walker. -/
theorem walkRest_uncommitted : uncommitted t t.me = uncommitted s s.me := by
  simp only [uncommitted, walkRest_me h, walkRest_crewAt h]
end

theorem resolve_rest {s u : State} {w : Who} {a : Acc} {n : Nat} {va : Word} {x : Except Raise Spot}
    (h : resolve s w a n va = (u, x)) : walkRest u = walkRest s := by
  simpa only [h] using walkRest_resolve s w a n va

/-! ### One access of the acting warp -/

section
variable {s u t : State} {va : Word} {n : Nat} {p : Spot}

theorem loadAt_answers {a : Acc} (h : resolve s (whoOf s s.cur s.me) a n va = (u, .ok p)) (ha : answers u p n) :
    loadAt s a va n = (u, .ok (p, seeBytes u u.me p n)) := by
  obtain ⟨hp, hu⟩ := ha
  simp only [loadAt, h, hp, hu, Bool.or_self, Bool.false_eq_true, if_false]

theorem storeAt_answers (h : resolve s (whoOf s s.cur s.me) .write n va = (u, .ok p)) (hu : unanswered u u.cur p = false) :
    storeAt s va n = (u, .ok p) := by
  simp only [storeAt, h, hu, Bool.false_eq_true, if_false]

/-- A held store that the buffer has room for enters its crew's list (R43). -/
theorem holdStore_room {core c fuel : Nat} {x : Held} (freed : Bool) (hr : specUsed s core + x.units ≤ 256) :
    holdStore core c x (fuel + 1) freed s =
      .done (s.setCrew c { s.crewAt c with held := (s.crewAt c).held ++ [x] }) := by
  rw [holdStore, if_pos (show specUsed s core + x.units ≤ Config.specEntries from hr)]

/-- The stores of a word are performed or held as the statements have it. -/
theorem storeWord_storesTo {units : Nat} {ws : List (Spot × List Byte)} (hw : walkRest u = walkRest s)
    (h : StoresTo s u units ws t) : storeWord u (coreOf u.cur) u.me units ws = .done t := by
  rw [storeWord, walkRest_uncommitted hw]
  obtain ⟨hc, hlog, rfl⟩ | ⟨c, k, hc, hroom, rfl⟩ := h
  · simp only [hc, hlog]
  · simp only [hc]
    exact holdStore_room false hroom

theorem storeBytes_storesTo {units : Nat} {ws : List (Spot × List Byte)} (hw : walkRest u = walkRest s)
    (h : StoresTo s u units ws t) (k : State → Did) : storeBytes u units ws k = k t := by
  rw [storeBytes, storeWord_storesTo hw h]
end

/-! ### The words -/

section
variable {s u t : State} {d a : SReg} {n : Nat} {p : Spot}

theorem loadWord_held (hr : Ready s [a]) (hf : fenceHeld s s.me = true) (i : BitVec 13) (ext : Nat → Word) :
    loadWord d a i n ext s = .next { s with waited := true } := by
  rw [loadWord, scalarWord_plain_acts hr, if_pos hf, out_waits]

theorem loadWord_reads {i : BitVec 13} (hr : Ready s [a]) (hf : fenceHeld s s.me = false)
    (h : resolve s (whoOf s s.cur s.me) .read n (s.sreg a + i.signExtend 64) = (u, .ok p) ∧ answers u p n)
    (ext : Nat → Word) : loadWord d a i n ext s =
      .next (issued u (u.withReg d (ext (leNat (seeBytes u u.me p n)))) (s.me.pc + 4) false) := by
  rw [loadWord, scalarWord_plain_acts hr]
  simp only [simm, hf, loadAt_answers h.1 h.2, Bool.false_eq_true, if_false, out_done, setS_eq, State.setMe_eq,
    State.me_setWarp_cur, issued_setWarp, Option.getD_none]

/-- A store at an address, its sources without error. -/
theorem storeWordAt_writes {srcs : List SReg} {va : State → Word} (hr : Ready s srcs)
    (hres : resolve s (whoOf s s.cur s.me) .write n (va s) = (u, .ok p)) (hu : unanswered u u.cur p = false)
    (h : StoresTo s u 1 [(p, leBytes n (s.sreg d).toNat)] t) :
    storeWordAt srcs va d n s = .next (issued t t.me (s.me.pc + 4) false) := by
  rw [storeWordAt, scalarWord_plain_acts hr]
  simp only [storeAt_answers hres hu, storeBytes_storesTo (resolve_rest hres) h, out_done, Option.getD_none]

theorem execLda_held {size : BitVec 2} {sc : Scope} {rmt : Bool} (ho : remoteOk rmt sc = true) (hr : Ready s [a])
    (hf : fenceHeld s s.me = true) : execLda d a size sc rmt s = .next { s with waited := true } := by
  rw [execLda, legalWord, if_pos ho, scalarWord_plain_acts hr, if_pos hf, out_waits]

theorem execLda_reads {size : BitVec 2} {sc : Scope} {rmt : Bool} (ho : remoteOk rmt sc = true) (hr : Ready s [a])
    (hf : fenceHeld s s.me = false)
    (hres : resolve s (whoOf s s.cur s.me) .read (2 ^ size.toNat) (s.sreg a) = (u, .ok p)) (ha : answers u p (2 ^ size.toNat)) :
    execLda d a size sc rmt s = .next (issued u
      (u.withReg d (BitVec.ofNat 64 (leNat (seeBytes u u.me p (2 ^ size.toNat))))) (s.me.pc + 4) false) := by
  rw [execLda, legalWord, if_pos ho, scalarWord_plain_acts hr]
  simp only [hf, loadAt_answers hres ha, Bool.false_eq_true, if_false, out_done, setS_eq, State.setMe_eq,
    State.me_setWarp_cur, issued_setWarp, Option.getD_none, zextB]

theorem execStl_writes {size : BitVec 2} {sc : Scope} {rmt : Bool} (ho : remoteOk rmt sc = true) (hr : Ready s [d, a])
    (hres : resolve s (whoOf s s.cur s.me) .write (2 ^ size.toNat) (s.sreg a) = (u, .ok p))
    (hu : unanswered u u.cur p = false) (h : StoresTo s u 1 [(p, leBytes (2 ^ size.toNat) (s.sreg d).toNat)] t) :
    execStl d a size sc rmt s = .next (issued t t.me (s.me.pc + 4) false) := by
  rw [execStl, legalWord, if_pos ho]
  exact storeWordAt_writes hr hres hu h
end

end Sys2Proof.Machine
namespace Sys2Proof.Certificates
open Sys2Proof.Machine

/-- Settles O7, word by word: the loads by `loadWord_reads`, the stores by `storeWordAt_writes`. -/
theorem scalarLoadsAndStores : Obligations.ScalarLoadsAndStores := by
  unfold Obligations.ScalarLoadsAndStores
  refine ⟨fun s u d a imm p hr => ⟨fun hf => ?_, fun hf => ⟨fun h => ⟨?_, ?_⟩, fun h => ⟨?_, ?_⟩, fun h => ⟨?_, ?_⟩, fun h => ?_⟩⟩,
    fun s u t d a imm p hr => ?_, fun s u d a size sc rmt p ho => ⟨fun hr hf => ?_, fun hr hf hres ha => ?_, fun hr hres hu t h => ?_⟩⟩
  · have held := fun n ext => loadWord_held (d := d) (n := n) hr hf imm ext
    exact ⟨held _ _, held _ _, held _ _, held _ _, held _ _, held _ _, held _ _⟩
  · exact loadWord_reads hr hf h _
  · exact loadWord_reads hr hf h _
  · exact loadWord_reads hr hf h _
  · exact loadWord_reads hr hf h _
  · exact loadWord_reads hr hf h _
  · exact loadWord_reads hr hf h _
  · exact loadWord_reads hr hf h _
  · have writes := fun (n : Nat) (h : resolve s (whoOf s s.cur s.me) .write n (s.sreg a + simm imm) = (u, .ok p) ∧
        unanswered u u.cur p = false ∧ StoresTo s u 1 [(p, leBytes n (s.sreg d).toNat)] t) =>
      storeWordAt_writes (va := fun s => s.sreg a + simm imm) hr h.1 h.2.1 h.2.2
    exact ⟨writes 1, writes 2, writes 4, writes 8⟩
  · exact execLda_held ho hr hf
  · exact execLda_reads ho hr hf hres ha
  · exact execStl_writes ho hr hres hu h

end Sys2Proof.Certificates
end

section
/-!
Where a cause meets a warp: supervisor mode, a stroke that is not committed, dispatched lane blocks, a source in error
(R42, R82, R130, R162, R165, R167).
-/
namespace Sys2Proof.Machine

/-! ### The mark of a killed block's counter -/

/-- The machine but for what an update of a completion counter may change: what a walk does, memory, the dirty logs with
their messages, the counters that wait. -/
def counterRest (s : State) : State := { walkRest s with mem := [], fns := [], boot := Boot.reset, pend := [] }

theorem counterRest_walk {s t : State} (h : walkRest t = walkRest s) : counterRest t = counterRest s := by
  rw [counterRest, counterRest, h]

theorem counterRest_log (s : State) (ctx : Nat) (e : LogEntry) : counterRest (s.log ctx e) = counterRest s := rfl

theorem counterRest_dirtyLog (s : State) (vf gpa : Nat) : counterRest (dirtyLog s vf gpa) = counterRest s := by
  unfold dirtyLog
  dsimp only
  split
  · rfl
  · split <;> rfl

theorem counterRest_dirtySet (s : State) (d : Dirty) : counterRest (d.set s) = counterRest s := by
  unfold Dirty.set
  dsimp only
  split <;> rfl

theorem counterRest_setDirty (s : State) (ds : List Dirty) : counterRest (setDirty s ds) = counterRest s :=
  (foldl_keeps counterRest counterRest_dirtySet ds _).trans
    (foldl_keeps counterRest (fun _ _ => counterRest_dirtyLog ..) (logPages s ds) s)

theorem counterRest_pendCounter (s : State) (p : PendCtr) : counterRest (pendCounter s p) = counterRest s := by
  unfold pendCounter
  dsimp only
  split <;> rfl

theorem counterRest_counterUpdate (s : State) (w : Who) (ctr : Word) (bit : Option Nat) :
    counterRest (counterUpdate s w ctr bit).state = counterRest s := by
  have hres := counterRest_walk (walkRest_resolve s w .rw 8 ctr)
  unfold counterUpdate
  split
  · next h =>
    rw [h] at hres
    split <;> exact hres
  · next h =>
    rw [h] at hres
    dsimp only
    split
    · exact hres
    · split
      · exact hres
      · exact (counterRest_setDirty ..).trans hres
  · next h => rwa [h] at hres

theorem counterRest_markCounter (s : State) (ctx : Nat) (record ctr : Word) (bit grid : Nat) :
    counterRest (markCounter s ctx record ctr bit grid) = counterRest s := by
  have hup := counterRest_counterUpdate s (whoPart ctx) ctr (some bit)
  unfold markCounter
  split
  · rfl
  · split
    · next h => rwa [h] at hup
    · next h =>
      rw [h] at hup
      exact (counterRest_pendCounter ..).trans hup
    · next h =>
      rw [h] at hup
      exact hup

/-- A block that is killed stops; no register of a warp changes (R130). -/
theorem killBlock_stops {s : State} {b : Nat} (hb : (s.blockAt b).killed = false) (cause : Cause) (epc : Word)
    (addr : Option Word) :
    let t := killBlock s b cause epc addr
    (t.blockAt b).killed = true ∧ (t.blockAt b).stopped = true ∧ ∀ k, t.warpAt k = s.warpAt k := by
  intro t
  have ht : ∃ v, t.blocks = (stopBlock s b false).blocks ∧ t.warps = v ∧ v = s.warps := by
    have hmark : ∀ ctx record ctr grid (v : State), counterRest v = counterRest (stopBlock s b false) →
        (markCounter v ctx record ctr 62 grid).blocks = (stopBlock s b false).blocks ∧
        (markCounter v ctx record ctr 62 grid).warps = s.warps := fun ctx record ctr grid v hv => by
      have h := (counterRest_markCounter v ctx record ctr 62 grid).trans hv
      exact ⟨(congrArg State.blocks h :), (congrArg State.warps h :)⟩
    refine ⟨_, ?_, rfl, ?_⟩
    all_goals simp only [t, killBlock, hb, Bool.false_eq_true, if_false]
    · exact (hmark _ _ _ _ _ (counterRest_log ..)).1
    · exact (hmark _ _ _ _ _ (counterRest_log ..)).2
  obtain ⟨v, hblocks, hwarps, rfl⟩ := ht
  have hblk : t.blockAt b = { s.blockAt b with stopped := true, killed := true, relaunch := false } := by
    rw [State.blockAt, hblocks]
    exact State.blockAt_setBlock_same ..
  exact ⟨by rw [hblk], by rw [hblk], fun k => by rw [State.warpAt, hwarps, ← State.warpAt]⟩

/-! ### A scalar cause by the state of its warp -/

section
variable {s : State}

theorem raised_supervisor (hu : s.me.sup = true) (r : Raise) :
    raised s r = .next (killBlock s s.me.block r.cause s.me.pc none) := by
  simp only [raised, raiseScalar, hu, if_true]

/-- A word that a handler may not run kills its block (R167). -/
theorem scalarWord_userOnly_supervisor (hr : canRun s = true) (hu : s.me.sup = true) (srcs : List SReg)
    (body : State → Did) : scalarWord .userOnly srcs body s =
      .next (killBlock s s.me.block (s.me.cause.extractLsb' 0 8) s.me.pc none) := by
  simp [scalarWord, hr, hu]

/-- The cause of the word at the pc, pending (R42, R165). -/
def pendingFault (s : State) (r : Raise) : ScalarFault :=
  ⟨r.cause, r.addr, r.second, s.me.pc, [], (uncommitted s s.me).isSome, false⟩

theorem raised_pends (hu : s.me.sup = false) (hw : (uncommitted s s.me).isSome = true ∨ s.me.dispatch ≠ []) (r : Raise) :
    raised s r = .next (if s.me.fault = some (pendingFault s r) then { s with waited := true }
      else s.setMe { s.me with
        fault := some (pendingFault s r), pass := 0, lastLane := false, yielded := false, waitFrom := none }) := by
  have hpend : ((uncommitted s s.me).isSome || (!false && !s.me.dispatch.isEmpty)) = true := by
    obtain h | h := hw
    · rw [h, Bool.true_or]
    · simp [h]
  have hraise : raised s r = if s.me.fault = some (pendingFault s r) then waits s
      else .next (s.setMe { s.me.counted false with fault := some (pendingFault s r) }) := by
    rw [raised, raiseScalar]
    dsimp only
    rw [if_neg (by simp [hu]), if_pos hpend]
    rfl
  rw [hraise, apply_ite Host.Outcome.next]
  rfl

theorem scalarTurn_pending {x : ScalarFault} (h : s.me.fault = some x) : scalarTurn s = pendingTurn s x := by
  simp only [scalarTurn, h]

theorem pendingTurn_waits {x : ScalarFault}
    (hw : (uncommitted s s.me).isSome = true ∨ (x.atOnce = false ∧ s.me.dispatch ≠ [])) :
    pendingTurn s x = .next { s with waited := true } := by
  refine if_neg ?_
  obtain h | ⟨h, hd⟩ := hw
  · simp [Option.isNone_eq_false_iff.mpr h]
  · simp [h, hd]

theorem pendingTurn_takes {x : ScalarFault} (h : TakesNow s) (hx : x.regs = []) :
    pendingTurn s x = raiseScalar s s ⟨x.cause, x.addr, 0, x.second⟩ x.resume [] false := by
  obtain ⟨hu, hc, hd, -, -⟩ := h
  have hy : x.trap s.me s.cur false =
      (⟨x.cause, x.addr, x.second, x.resume, [], false, false⟩ : ScalarFault).trap s.me s.cur false := by
    simp only [ScalarFault.trap, hx]
  simp only [pendingTurn, raiseScalar, hu, hc, hd, Option.isNone_none, Option.isSome_none, List.isEmpty_nil, Bool.or_true,
    Bool.and_self, Bool.not_true, Bool.and_false, Bool.or_self, Bool.false_eq_true, if_true, if_false, takeScalar, hy, siteRegs,
    List.filterMap_nil]

/-- A plain word first checks the storage of its sources (R82, R162). -/
theorem scalarWord_bad {srcs : List SReg} (hr : canRun s = true) (hb : badSources s srcs ≠ []) (body : State → Did) :
    scalarWord .plain srcs body s = raiseScalar s s (.plain cECC_REG) s.me.pc (badSources s srcs) false := by
  simp [scalarWord, hr, hb]

theorem execAdd_bad {d a b : SReg} (hr : canRun s = true) (hb : badSources s [a, b] ≠ []) : exec (.add d a b) s =
    raiseScalar s s (.plain cECC_REG) s.me.pc (badSources s [a, b]) false := by
  rw [exec, execAdd, alu, scalarWord_bad hr hb]

/-- A register that is repaired reads zero and is no more in error (R162). -/
theorem repair_sreg (s : State) (k : Nat) {r : Nat} (h : r < 64) :
    ((repair s (.sreg k r)).warpAt k).s[r] = 0 ∧ EccSite.sreg k r ∉ (repair s (.sreg k r)).poison := by
  simp [repair]
end

end Sys2Proof.Machine
namespace Sys2Proof.Certificates
open Sys2Proof.Machine

/-- Settles O23, by the mode and the streams of the warp that meets the cause. -/
theorem causesMet : Obligations.CausesMet := by
  unfold Obligations.CausesMet
  refine ⟨fun s r hu hb => ⟨_, raised_supervisor hu r, killBlock_stops hb ..⟩, fun s a b k imm uns size q hr hu => ?_,
    fun s r hu hw => raised_pends hu hw r, fun s x hx => ⟨fun hw => ?_, fun ht hregs => ?_⟩,
    fun s d a b hr hb => ⟨execAdd_bad hr hb, fun k r h => repair_sreg s k h⟩⟩
  · have kills := scalarWord_userOnly_supervisor hr hu
    simp only [List.forall_mem_cons]
    refine ⟨?_, ?_, ?_, ?_, ?_, ?_, ?_, ?_, by rw [exec, execBqt, branchBq]; exact kills _ _,
      by rw [exec, execBqf, branchBq]; exact kills _ _, List.forall_mem_nil _⟩
    all_goals
      rw [exec]
      exact kills _ _
  · rw [scalarTurn_pending hx, pendingTurn_waits hw]
  · rw [scalarTurn_pending hx, pendingTurn_takes ht hregs]

end Sys2Proof.Certificates
end

section
/-!
The crew's words (R34, R36, R44, R45, R51, R266, R267): CREW with its record, CREWW, BREAK, GO and SREL.
-/
namespace Sys2Proof.Machine

/-! ### What a scalar word that has completed leaves -/

@[simp] theorem issued_me (s : State) (w : Warp) (pc : Word) (closes : Bool) : (issued s w pc closes).me = { w with
    pc := pc, iret := w.iret + 1, pass := 0, lastLane := false, yielded := false, waitFrom := none, wait := .none
    fault := none, openRgn := w.openRgn && !closes } := by
  simp [issued]
@[simp] theorem issued_mem (s : State) (w : Warp) (pc : Word) (closes : Bool) : (issued s w pc closes).mem = s.mem := rfl
@[simp] theorem issued_crewAt (s : State) (w : Warp) (pc : Word) (closes : Bool) (c : Nat) :
    (issued s w pc closes).crewAt c = s.crewAt c := rfl

theorem withReg_eq (s : State) (d : SReg) (x : Word) : s.withReg d x = s.me.setS d x := by
  simp only [State.withReg, Warp.setS]

theorem setS_hosts (w : Warp) (d : SReg) (x : Word) : (w.setS d x).hosts = w.hosts := by
  unfold Warp.setS
  split <;> rfl

/-- A word that writes a scalar register reads it back (R49). -/
theorem sreg_issued_withReg (s : State) (d : SReg) (x pc : Word) (closes : Bool) :
    (issued s (s.withReg d x) pc closes).sreg d = if d = 0 then 0 else x := by
  rw [State.sreg, issued_me, withReg_eq]
  exact sreg_setS s.me d x

theorem loadAt_rest {s u : State} {a : Acc} {va : Word} {n : Nat} {x : Except Raise (Spot × List Byte)}
    (h : loadAt s a va n = (u, x)) : walkRest u = walkRest s := by
  have hres := walkRest_resolve s (whoOf s s.cur s.me) a n va
  unfold loadAt at h
  split at h
  · next hr =>
    rw [hr] at hres
    cases h
    exact hres
  · next hr =>
    rw [hr] at hres
    split at h <;> (cases h; exact hres)

/-! ### A crew but for its window -/

/-- A crew but for the contents and the presence of its window. -/
def Crew.unslotted (c : Crew) : Crew := { c with slots := [], pres := [] }

theorem unslotted_fillStroke (c : Crew) (k : Nat) : (c.fillStroke k).unslotted = c.unslotted := by
  refine foldl_keeps Crew.unslotted (fun _ _ => ?_) _ c
  rfl

theorem unslotted_fillAll (c : Crew) : c.fillAll.unslotted = { c with fill := [] }.unslotted :=
  congrArg (fun x : Crew => { x with fill := [] }) (foldl_keeps Crew.unslotted unslotted_fillStroke c.fill c)

theorem putCrew_mem (s : State) (c : Nat) (cr : Crew) : (s.putCrew c cr).mem = s.mem := by
  refine (foldl_keeps State.mem (fun t x => ?_) cr.strokes (s.setCrew c cr)).trans rfl
  dsimp only
  split <;> rfl

/-! ### CREW -/

section
variable {s u : State} {a b : SReg} {bs : List Byte} {r : CrewRec}

/-- What CREW asks before it reads its record: no lane block dispatched, a grid with crews, a warp that is no stroke and
hosts none, an aligned record, a count in range. -/
structure Hosts (s : State) (a b : SReg) : Prop where
  ready : Ready s [a, b]
  drained : s.me.sup = true ∨ s.me.dispatch = []
  crews : (recordOf s s.me).crew = true
  noStroke : s.me.stroke = none
  noCrew : s.me.hosts = none
  aligned : (s.sreg a).toNat % 64 = 0
  count : (s.sreg b).toNat ≤ 2 ^ 62

/-- The record that CREW finds: kept since it was read, or read now (R117). -/
def Finds (s u : State) (a : SReg) (bs : List Byte) : Prop :=
  (s.me.wait = .record bs ∧ u = s) ∨ (s.me.wait = .none ∧ ∃ p, loadAt s .read (s.sreg a) 64 = (u, .ok (p, bs)))

theorem Finds.rest (h : Finds s u a bs) : walkRest u = walkRest s := by
  obtain ⟨-, rfl⟩ | ⟨-, p, hl⟩ := h
  · rfl
  · exact loadAt_rest hl

theorem Finds.crewRecord (h : Finds s u a bs) : crewRecord s (s.sreg a) = (u, .ok bs) := by
  obtain ⟨hw, rfl⟩ | ⟨hw, p, hl⟩ := h
  · simp only [Machine.crewRecord, hw]
  · simp only [Machine.crewRecord, hw, hl]

/-- CREW waits with the record it has read: the wait begins, or goes on. -/
def crewHolds (s u : State) (bs : List Byte) : Did :=
  if s.me.wait = .none then .stops (holdRecord u bs) else .waits

theorem execCrew_acts (h : Hosts s a b) (hf : Finds s u a bs) (hr : crewRecOf bs = some r)
    (hz : (s.sreg b).toNat = 0 → r.breakable = true ∧ r.d = 1) : execCrew a b s = Did.out true s
    (match freeCrew u (coreOf u.cur) with
      | none => crewHolds s u bs
      | some c => if freeRows u (coreOf u.cur) < r.w then crewHolds s u bs
        else .done (startCrew u c r (s.sreg b).toNat) none) := by
  have hill : ¬ ((!(recordOf s s.me).crew) = true ∨ s.me.stroke.isSome = true ∨ s.me.hosts.isSome = true ∨
      (s.sreg a).toNat % 64 ≠ 0 ∨ 2 ^ 62 < (s.sreg b).toNat) := by
    simpa [h.crews, h.noStroke, h.noCrew, h.aligned] using h.count
  have hzero : ¬ ((s.sreg b).toNat = 0 ∧ (!(r.breakable && r.d == 1)) = true) := fun ⟨h0, hne⟩ => by
    simp [hz h0] at hne
  rw [execCrew, scalarWord_acts h.ready (fun _ => rfl) (by simp) fun _ => h.drained]
  refine congrArg (Did.out true s) ?_
  dsimp only
  rw [if_neg hill, hf.crewRecord]
  simp only [hr, if_neg hzero]
  rfl

theorem execCrew_starts (h : Hosts s a b) (hf : Finds s u a bs) (hr : crewRecOf bs = some r)
    (hz : (s.sreg b).toNat = 0 → r.breakable = true ∧ r.d = 1) {c : Nat} (hc : freeCrew u (coreOf u.cur) = some c)
    (hw : r.w ≤ freeRows u (coreOf u.cur)) :
    let t := startCrew u c r (s.sreg b).toNat
    execCrew a b s = .next (issued t t.me (s.me.pc + 4) true) := by
  intro t
  rw [execCrew_acts h hf hr hz, hc]
  dsimp only
  rw [if_neg (Nat.not_lt.mpr hw), out_done, Option.getD_none]

theorem execCrew_lacks (h : Hosts s a b) (hf : Finds s u a bs) (hr : crewRecOf bs = some r)
    (hz : (s.sreg b).toNat = 0 → r.breakable = true ∧ r.d = 1)
    (hl : freeCrew u (coreOf u.cur) = none ∨ freeRows u (coreOf u.cur) < r.w) :
    execCrew a b s = (crewHolds s u bs).out true s := by
  rw [execCrew_acts h hf hr hz]
  refine congrArg (Did.out true s) ?_
  obtain hc | hw := hl
  · rw [hc]
  · cases freeCrew u (coreOf u.cur) with
    | none => rfl
    | some c => exact if_pos hw

theorem startCrew_me (u : State) (c : Nat) (r : CrewRec) (n : Nat) : (startCrew u c r n).me = { u.me with
    hosts := some c, slide := BitVec.ofNat 64 r.s, win := BitVec.ofNat 64 r.w, depth := BitVec.ofNat 64 r.d
    trip := BitVec.ofNat 64 n, host := [], groups := [] } := State.me_setWarp_cur ..

theorem startCrew_crewAt (u : State) (c : Nat) (r : CrewRec) (n : Nat) : (startCrew u c r n).crewAt c = { Crew.absent with
    live := true, host := u.cur, record := r, seed := seedOf u.me, n := n, slots := seedWindow u.me r
    pres := (List.range r.w).map fun j => (j, 0xFFFF_FFFF#32) } := State.crewAt_setCrew_same ..

theorem holdRecord_me (u : State) (bs : List Byte) : (holdRecord u bs).me =
    { u.me.counted false with wait := .record bs } := State.me_setWarp_cur ..
end

/-! ### CREWW -/

section
variable {s : State} {k : SReg} {c : Nat}

/-- The host of a crew that has finished has the window's names; the crew number is free (R36, R51). -/
def crewReturned (s : State) (c : Nat) : State :=
  let t := s.setMe { s.me with hosts := none, host := hostNames (s.crewAt c) }
  { t with poison := t.poison.filterMap (sitesToHost t.cur c (s.crewAt c)) }.setCrew c Crew.absent

theorem crewReturned_hosts (s : State) (c : Nat) : (crewReturned s c).me.hosts = none :=
  congrArg Warp.hosts (State.me_setWarp_cur s _)

theorem execCreww_acts (hr : Ready s []) (hh : s.me.hosts = some c) : execCreww k s = Did.out false s
    (if !(s.crewAt c).finished then .waits
      else .done ((crewReturned s c).setS k (BitVec.ofNat 64 (s.crewAt c).result.1)) none) := by
  rw [execCreww, scalarWord_plain_acts hr]
  simp only [hh]
  rfl

theorem execCreww_waits (hr : Ready s []) (hh : s.me.hosts = some c) (hf : (s.crewAt c).finished = false) :
    execCreww k s = .next { s with waited := true } := by
  rw [execCreww_acts hr hh, hf, Bool.not_false, if_pos rfl, out_waits]

theorem execCreww_returns (hr : Ready s []) (hh : s.me.hosts = some c) (hf : (s.crewAt c).finished = true) :
    execCreww k s = .next (issued (crewReturned s c)
      ((crewReturned s c).withReg k (BitVec.ofNat 64 (s.crewAt c).result.1)) (s.me.pc + 4) false) := by
  rw [execCreww_acts hr hh, hf, Bool.not_true, if_neg (by decide), out_done, setS_eq]
  simp only [State.setMe_eq, State.me_setWarp_cur, issued_setWarp, Option.getD_none]

theorem result_number (cr : Crew) : BitVec.ofNat 64 cr.result.1 =
    match cr.broke with
    | some n => BitVec.ofNat 64 n
    | none => BitVec.ofNat 64 (cr.n + cr.record.d - 1) := by
  unfold Crew.result
  cases cr.broke <;> rfl
end

/-! ### BREAK, GO, SREL -/

section
variable {s : State} {c k : Nat} {x : Stroke} {body : State → Nat → Nat → Stroke → Did}

theorem strokeWord_acts (hr : Ready s []) (hd : s.me.sup = true ∨ s.me.dispatch = []) (hs : s.me.stroke = some (c, k))
    (hx : (s.crewAt c).strokes.find? (·.k == k) = some x) : strokeWord body s = (body s c k x).out true s := by
  rw [strokeWord, scalarWord_acts hr (fun _ => rfl) (by simp) fun _ => hd]
  simp only [hs, hx]

/-- A BREAK leaves the strokes up to its own, their held stores, and memory as it is (R44). -/
theorem breakAt_leaves (s : State) (c b : Nat) :
    ((breakAt s c b).crewAt c).broke = some b ∧ (∀ y ∈ ((breakAt s c b).crewAt c).strokes, y.k ≤ b) ∧
    (∀ h ∈ ((breakAt s c b).crewAt c).held, h.stroke ≤ b) ∧ (breakAt s c b).mem = s.mem := by
  have hmem : ((((s.crewAt c).strokes.filter fun x => decide (b < x.k)).foldl
      (fun s x => s.setWarp x.warp Warp.absent) s).mem = s.mem) := by
    refine foldl_keeps State.mem (fun _ _ => ?_) _ s
    rfl
  have hfilled : ∀ cr : Crew, cr.fillAll.broke = cr.broke ∧ cr.fillAll.strokes = cr.strokes ∧ cr.fillAll.held = cr.held :=
    fun cr => ⟨(congrArg Crew.broke (unslotted_fillAll cr) :), (congrArg Crew.strokes (unslotted_fillAll cr) :),
      (congrArg Crew.held (unslotted_fillAll cr) :)⟩
  have hstrokes : ∀ l : List Stroke, ∀ y ∈ l.filter (fun x => decide (x.k ≤ b)), y.k ≤ b := fun l y hy =>
    of_decide_eq_true (List.mem_filter.mp hy).2
  have hheld : ∀ l : List Held, ∀ h ∈ l.filter (fun h => decide (h.stroke ≤ b)), h.stroke ≤ b := fun l h hh =>
    of_decide_eq_true (List.mem_filter.mp hh).2
  unfold breakAt
  dsimp only
  split
  · simp only [crewAt_putCrew, putCrew_mem, hfilled]
    exact ⟨trivial, hstrokes _, hheld _, hmem⟩
  · simp only [crewAt_putCrew, putCrew_mem, Crew.unfill]
    exact ⟨trivial, hstrokes _, hheld _, hmem⟩
end

end Sys2Proof.Machine
namespace Sys2Proof.Certificates
open Sys2Proof.Machine

/-- Settles O38: CREW by what it finds, CREWW by whether its crew has finished, the words of a stroke by its entry. -/
theorem crewWords : Obligations.CrewWords := by
  unfold Obligations.CrewWords
  refine ⟨fun s a b k => ⟨fun u p bs r hready hdrained hcrew hstroke hhosts ha hb hfind hr hz => ?_, fun c hready hh => ?_⟩,
    fun s c k x hready hdrained hs hx => ?_⟩
  · have h : Hosts s a b := ⟨hready, hdrained, hcrew, hstroke, hhosts, ha, hb⟩
    have hf : Finds s u a bs := hfind.imp id (And.imp_right fun hl => ⟨p, hl⟩)
    have hcur := walkRest_cur hf.rest
    have hme := walkRest_me hf.rest
    refine ⟨fun c hc hw => ⟨_, execCrew_starts h hf hr hz hc hw, ?_⟩, fun hl => ⟨fun hw => ?_, fun hw => ?_⟩⟩
    · simp only [issued_me, issued_mem, issued_crewAt, startCrew_me, startCrew_crewAt, hcur, BitVec.ofNat_toNat,
        BitVec.setWidth_eq]
      exact ⟨trivial, trivial, trivial, trivial, rfl, rfl, trivial, trivial, trivial, trivial, trivial, trivial, trivial, rfl⟩
    · refine ⟨holdRecord u bs, by
        rw [exec, execCrew_lacks h hf hr hz hl, crewHolds, if_pos hw, out_stops], ?_, ?_, rfl, rfl⟩
      · rw [holdRecord_me]
      · rw [holdRecord_me, hme]
        rfl
    · rw [exec, execCrew_lacks h hf hr hz hl, crewHolds, if_neg hw, out_waits]
  · refine ⟨fun hf => execCreww_waits hready hh hf, fun hf => ⟨_, execCreww_returns hready hh hf, ?_, ?_, ?_, ?_, ?_⟩⟩
    · rw [issued_me, withReg_eq]
      exact (setS_hosts ..).trans (crewReturned_hosts s c)
    · rw [issued_crewAt, crewReturned, State.crewAt_setCrew_same]
      rfl
    · exact (sreg_issued_withReg ..).trans (congrArg (fun x => if k = 0 then 0 else x) (result_number (s.crewAt c)))
    · rw [issued_me]
    · rfl
  · have acts := fun body => strokeWord_acts (body := body) hready hdrained hs hx
    refine ⟨?_, ?_, fun hb hg hbr => ?_, fun hb hg hbr _ => ?_, fun hb => ?_⟩
    · rw [exec, execSrel, acts, out_done]
      rfl
    · rw [exec, execGoStroke, acts]
      by_cases hgo : (s.crewAt c).record.breakable = true ∧ x.broke = false
      · simp only [hgo.1, hgo.2, Bool.not_true, Bool.or_self, Bool.false_eq_true, if_false, out_done]
        rfl
      · have : (!(s.crewAt c).record.breakable || x.broke) = true := by
          cases hb : (s.crewAt c).record.breakable <;> simp_all
        rw [if_neg hgo, if_pos this, out_done]
        rfl
    · rw [exec, execBreakCrew, acts]
      simp only [hb, hg, hbr, Bool.not_true, Bool.or_self, Bool.false_eq_true, if_false, if_true, out_done]
      rfl
    · obtain ⟨hbroke, hstrokes, hheld, hmem⟩ := breakAt_leaves s c k
      refine ⟨issued (breakAt s c k) (breakAt s c k).me (s.me.pc + 4) true, ?_, hbroke, hstrokes, hheld, hmem, by rw [issued_me]⟩
      rw [exec, execBreakCrew, acts]
      simp only [hb, hg, hbr, Bool.not_true, Bool.or_self, Bool.false_eq_true, if_false, out_done, Option.getD_none]
    · have : (!(s.crewAt c).record.breakable || x.going) = true := by
        rcases hb with h | h <;> simp [h]
      rw [exec, execBreakCrew, acts, if_pos this, out_raises]

end Sys2Proof.Certificates
end

section
/-!
The steps of the cox (R35 to R46, R75, R79, R136): launch, template copies, retirement, release, commit.
-/
namespace Sys2Proof.Machine

/-! ### Window reads that wait -/

/-- A warp whose waiting reads have taken what a crew's window holds. -/
def Warp.fed (cr : Crew) (w : Warp) : Warp := { w with reads := w.reads.map (WinRead.feed cr) }

theorem blend_zero (x y : Lanes) : blend 0 x y = y := by
  apply Vector.ext
  intro i hi
  simp [blend, mkLanes, inMask, lane]

/-- The lanes that a read still takes. -/
def WinRead.takes (cr : Crew) (x : WinRead) : Mask := x.need &&& Tbl.get 0 cr.pres x.slot &&& ~~~x.got

/-- A read takes each lane once (R39). -/
theorem feed_feed (cr : Crew) (x : WinRead) : (x.feed cr).feed cr = x.feed cr := by
  have hnone : (x.feed cr).takes cr = 0 := by
    apply BitVec.eq_of_getLsbD_eq
    intro i _
    have honce : ∀ need pres got within : Bool,
        (need && pres && (within && !(got || need && pres && (within && !got)))) = false := by decide
    simp only [WinRead.takes, WinRead.feed, BitVec.getLsbD_and, BitVec.getLsbD_or, BitVec.getLsbD_not]
    rw [honce]
    simp
  have hfeed : ∀ y : WinRead, y.feed cr =
      { y with got := y.got ||| y.takes cr, vals := blend (y.takes cr) (Tbl.get zeroLanes cr.slots y.slot) y.vals } := fun _ => rfl
  rw [hfeed (x.feed cr), hnone, blend_zero, show (x.feed cr).got ||| (0 : Mask) = (x.feed cr).got from BitVec.or_zero ..]

theorem fed_fed (cr : Crew) (w : Warp) : (w.fed cr).fed cr = w.fed cr := by
  simp [Warp.fed, Function.comp_def, feed_feed]

theorem fed_nil {cr : Crew} {w : Warp} (h : w.reads = []) : w.fed cr = w := by
  obtain ⟨⟩ := w
  cases h
  rfl

/-- A crew's window that changes feeds the warps of its strokes and changes no other. -/
theorem putCrew_warpAt (s : State) (c : Nat) (cr : Crew) (j : Nat) : (s.putCrew c cr).warpAt j =
    if j ∈ cr.strokes.map (·.warp) then (s.warpAt j).fed cr else s.warpAt j := by
  let feeds := fun (t : State) (x : Stroke) =>
    let w := t.warpAt x.warp
    if w.reads.isEmpty then t else t.setWarp x.warp { w with reads := w.reads.map (WinRead.feed cr) }
  have hstep : ∀ t x, (feeds t x).warpAt j = if j = x.warp then (t.warpAt j).fed cr else t.warpAt j := by
    intro t x
    by_cases hj : j = x.warp
    · subst hj
      simp only [feeds, if_true]
      split
      · next h => exact (fed_nil (List.isEmpty_iff.mp h)).symm
      · exact State.warpAt_setWarp_same ..
    · simp only [feeds, if_neg hj]
      split
      · rfl
      · exact State.warpAt_setWarp_other _ _ hj
  have hfold : ∀ (l : List Stroke) (t : State), (l.foldl feeds t).warpAt j =
      if j ∈ l.map (·.warp) then (t.warpAt j).fed cr else t.warpAt j := by
    intro l
    induction l with
    | nil => intro t; simp
    | cons x l ih =>
      intro t
      rw [List.foldl_cons, ih, hstep]
      by_cases hx : j = x.warp <;> by_cases hl : j ∈ l.map (·.warp) <;> simp [hx, hl, fed_fed]
  exact hfold cr.strokes (s.setCrew c cr)

theorem putCrew_reads (s : State) (c : Nat) (cr : Crew) (j : Nat) :
    ∃ rs, (s.putCrew c cr).warpAt j = { s.warpAt j with reads := rs } := by
  rw [putCrew_warpAt]
  split
  · exact ⟨_, rfl⟩
  · exact ⟨_, rfl⟩

/-- A read of a slot whose every lane is present has all it needs, and keeps what it had (R39, R45). -/
theorem feed_present {cr : Crew} {x : WinRead} (h : Tbl.get 0 cr.pres x.slot = 0xFFFF_FFFF) :
    (x.feed cr).slot = x.slot ∧ (x.feed cr).got = x.got ||| x.need ∧ ∀ l : LaneIx, lane (x.feed cr).vals l =
      if inMask x.got l = false ∧ inMask x.need l = true then lane (Tbl.get zeroLanes cr.slots x.slot) l
      else lane x.vals l := by
  have htakes : x.takes cr = x.need &&& ~~~x.got := by
    rw [WinRead.takes, h, show (0xFFFF_FFFF : Mask) = BitVec.allOnes 32 from rfl, BitVec.and_allOnes]
  refine ⟨rfl, ?_, fun l => ?_⟩
  · show x.got ||| x.takes cr = _
    rw [htakes]
    apply BitVec.eq_of_getLsbD_eq
    intro i hi
    simp only [BitVec.getLsbD_and, BitVec.getLsbD_or, BitVec.getLsbD_not, hi]
    cases x.got.getLsbD i <;> simp
  · show lane (blend (x.takes cr) _ x.vals) l = _
    rw [htakes, lane_blend]
    simp [inMask, and_comm]

/-! ### Out-slots -/

/-- A table after the same value has been put at some keys. -/
theorem Tbl.get_foldl_put_const {α : Type} [DecidableEq α] {d v : α} {f : Nat → Nat} (l : List Nat) (t : Tbl α) (k : Nat) :
    Tbl.get d (l.foldl (fun t i => Tbl.put d t (f i) v) t) k = if k ∈ l.map f then v else Tbl.get d t k := by
  induction l generalizing t with
  | nil => simp
  | cons i l ih =>
    rw [List.foldl_cons, ih]
    by_cases hk : k = f i
    · subst hk
      simp
    · simp [hk]

/-- One out-slot of a stroke as its release leaves it (R40). -/
def Crew.releaseOut (k : Nat) (c : Crew) (i : Nat) : Crew :=
  let slot := slotOf c.record k i
  { c with
    slots := Tbl.put zeroLanes c.slots slot
      (blend (Tbl.get 0 c.pres slot) (Tbl.get zeroLanes c.slots slot) ((vacantValue c k i).getD zeroLanes))
    pres := Tbl.put 0 c.pres slot 0xFFFF_FFFF }

theorem release_eq (c : Crew) (k : Nat) :
    c.release k = { (List.range c.record.s).foldl (Crew.releaseOut k) c with relMark := k + 1 } := rfl

theorem unslotted_release (c : Crew) (k : Nat) : (c.release k).unslotted = { c with relMark := k + 1 }.unslotted := by
  refine congrArg (fun x : Crew => { x with relMark := k + 1 })
    (foldl_keeps Crew.unslotted (f := Crew.releaseOut k) (fun _ _ => ?_) _ c)
  rfl

theorem releaseOut_pres (k : Nat) (c : Crew) (i : Nat) :
    (c.releaseOut k i).pres = Tbl.put 0 c.pres (slotOf c.record k i) 0xFFFF_FFFF := rfl

/-- A release makes every lane of the stroke's out-slots present (R40). -/
theorem release_pres {c : Crew} {i : Nat} (k : Nat) (hi : i < c.record.s) :
    Tbl.get 0 (c.release k).pres (slotOf c.record k i) = 0xFFFF_FFFF := by
  have hfold : ∀ (l : List Nat) (x : Crew), x.record = c.record → (l.foldl (Crew.releaseOut k) x).pres =
      l.foldl (fun t i => Tbl.put 0 t (slotOf c.record k i) 0xFFFF_FFFF) x.pres := by
    intro l
    induction l with
    | nil => exact fun _ _ => rfl
    | cons j l ih =>
      intro x hx
      rw [List.foldl_cons, ih (x.releaseOut k j) hx, releaseOut_pres, hx, List.foldl_cons]
  rw [release_eq]
  show Tbl.get 0 ((List.range c.record.s).foldl (Crew.releaseOut k) c).pres _ = _
  rw [hfold _ c rfl, Tbl.get_foldl_put_const, if_pos (List.mem_map_of_mem (List.mem_range.mpr hi))]

theorem afterRelease_unslotted (c : Crew) (k : Nat) :
    (c.afterRelease k).unslotted = c.unslotted ∨ (c.afterRelease k).unslotted = { c with fill := [] }.unslotted := by
  unfold Crew.afterRelease
  split
  · exact .inr (unslotted_fillAll c)
  · exact .inl rfl

theorem afterRelease_relMark (c : Crew) (k : Nat) : (c.afterRelease k).relMark = c.relMark := by
  obtain h | h := afterRelease_unslotted c k <;> exact (congrArg Crew.relMark h :)

/-! ### Launch -/

section
variable {s : State} {c slot : Nat}

theorem execStrokeLaunch_next (hl : (s.crewAt c).live = true)
    (hs : (s.blockAt (s.warpAt (s.crewAt c).host).block).stopped = false) (hb : (s.crewAt c).broke = none)
    (hruns : (s.crewAt c).runs (s.crewAt c).next = true)
    (hlead : (s.crewAt c).next < (s.crewAt c).oldest + (s.crewAt c).record.lead)
    (hrows : 8 * (s.crewAt c).record.regs8 + hvRows (s.gridOf (s.warpAt (s.crewAt c).host).block).record ≤ freeRows s (c / 64))
    (hwarps : 1 ≤ freeWarps s (c / 64)) (ht : (s.crewAt c).record.tmpl = true → (s.crewAt c).next < (s.crewAt c).tissued)
    (hspec : (s.crewAt c).high ≤ (s.crewAt c).next ∨ specUsed s (c / 64) < 256) (hslot : freeSlot s (c / 64) = some slot) :
    execStrokeLaunch c s = .next (launchStroke s c slot) := by
  have htmpl : (!(s.crewAt c).record.tmpl || decide ((s.crewAt c).next < (s.crewAt c).tissued)) = true := by
    cases h : (s.crewAt c).record.tmpl
    · rfl
    · simpa using ht h
  have hroom : (decide ((s.crewAt c).high ≤ (s.crewAt c).next) || decide (specUsed s (c / 64) < Config.specEntries)) = true := by
    simpa [Config.specEntries] using hspec
  simp only [execStrokeLaunch, hl, hs, hb, hruns, hlead, hrows, hwarps, htmpl, hroom, hslot, decide_true, Option.isNone_none,
    Bool.not_false, Bool.and_self, if_true, Option.map_some, enabledStep_some]

/-- The warp of a stroke at its launch (R35, R38, R75). -/
def strokeWarp (s : State) (c : Nat) : Warp :=
  let cr := s.crewAt c
  let h := s.warpAt cr.host
  { Warp.absent with
    stat := .running, block := h.block, wid := h.wid, stroke := some (c, cr.next), s := cr.seed.s.set 0 0
    pc := cr.record.body, ab := cr.seed.ab, lcb := cr.seed.lcb, fcsr := cr.seed.fcsr, chk := cr.seed.chk
    ltile := cr.seed.ltile, orig := origOf h.wid, iter := BitVec.ofNat 64 cr.next, slide := BitVec.ofNat 64 cr.record.s
    win := BitVec.ofNat 64 cr.record.w, depth := BitVec.ofNat 64 cr.record.d, trip := BitVec.ofNat 64 cr.n
    ctxid := (s.ctxAt (s.gridOf h.block).ctx).ctxid }

theorem launchStroke_warpAt (s : State) (c slot : Nat) : (launchStroke s c slot).warpAt slot = strokeWarp s c :=
  State.warpAt_setWarp_same ..
theorem launchStroke_other (s : State) (c slot : Nat) {k : Nat} (h : k ≠ slot) :
    (launchStroke s c slot).warpAt k = s.warpAt k := State.warpAt_setWarp_other s _ h
theorem launchStroke_crewAt (s : State) (c slot : Nat) : (launchStroke s c slot).crewAt c = { s.crewAt c with
    next := (s.crewAt c).next + 1, high := max (s.crewAt c).high ((s.crewAt c).next + 1)
    commit := (s.crewAt c).markAt (s.crewAt c).next
    pres := (List.range (s.crewAt c).record.s).foldl (fun p i =>
      Tbl.put 0 p (slotOf (s.crewAt c).record (s.crewAt c).next i) 0) (s.crewAt c).pres
    strokes := (s.crewAt c).strokes ++ [⟨(s.crewAt c).next, slot, false, false, false, false⟩] } :=
  State.crewAt_setCrew_same ..

theorem markAt_eq (cr : Crew) (k : Nat) : cr.markAt k =
    if cr.record.breakable = false ∨ k = 0 then max cr.commit (k + 1) else cr.commit := by
  simp only [Crew.markAt, Bool.or_eq_true, Bool.not_eq_true', beq_iff_eq]

/-! ### Template copies -/

/-- The template command of a crew's next stroke (R46, R123). -/
def templateCmd (s : State) (c : Nat) : Cmd :=
  let cr := s.crewAt c
  let r := cr.record
  let glob := r.tbase + BitVec.ofNat 64 cr.tissued * r.tstep
  { op := .tmpl glob (r.tflags.getLsbD 3) r.shape (cr.tissued % r.f) (r.tflags.getLsbD 8)
      (r.tflags.extractLsb' 4 4 : BitVec 4).toNat
    warp := cr.host, block := (s.warpAt cr.host).block, pc := cr.seed.pc, word := 0, a := glob, b := 0, k := 0
    scope := r.tflags.extractLsb' 0 3, ctr := r.tctr, seq := s.seq, sup := false, started := false, flags := 0
    status := none, copy := none, emul := false, pageVa := none, copies := [], moves := [], dirs := none
    drawn := [], home := none }

theorem execTemplateCopyIssue_next (hl : (s.crewAt c).live = true) (ht : (s.crewAt c).record.tmpl = true)
    (hs : (s.blockAt (s.warpAt (s.crewAt c).host).block).stopped = false) (hb : (s.crewAt c).broke = none)
    (hruns : (s.crewAt c).runs (s.crewAt c).tissued = true) (hf : (s.crewAt c).tout.length < (s.crewAt c).record.f)
    (hq : queueRoom s (c / 64) 0 = true) : execTemplateCopyIssue c s =
      .next ((pushCmd s (c / 64) 0 (templateCmd s c)).setCrew c { s.crewAt c with
        tissued := (s.crewAt c).tissued + 1, tout := (s.crewAt c).tout ++ [(s.crewAt c).tissued] }) := by
  simp only [execTemplateCopyIssue, hl, ht, hs, hb, hruns, hf, hq, decide_true, Option.isNone_none, Bool.not_false,
    Bool.and_self, if_true, enabledStep_some]
  rfl

theorem pushCmd_copyQ (s : State) (core : Nat) (x : Cmd) :
    ((pushCmd s core 0 x).coreAt core).copyQ = (s.coreAt core).copyQ ++ [x] :=
  congrArg Core.copyQ (State.coreAt_setCore_same s core _)

/-! ### Retirement and release -/

/-- The crew of a stroke that retires, once the stroke has released. -/
def releasedBy (cr : Crew) (k : Nat) : Crew := if cr.relMark ≤ k then cr.release k else cr

theorem releasedBy_relMark (cr : Crew) (k : Nat) : k < (releasedBy cr k).relMark := by
  unfold releasedBy
  split
  · exact Nat.lt_succ_self k
  · omega

theorem execStrokeRetire_next {x : Stroke} (hl : (s.crewAt c).live = true)
    (hx : (s.crewAt c).strokes.find? (·.k == (s.crewAt c).oldest) = some x) (he : x.exited = true)
    (hc : (s.crewAt c).record.breakable = false ∨ x.k < (s.crewAt c).commit) :
    ∃ u : State, execStrokeRetire c s = .next ((u.setWarp x.warp Warp.absent).putCrew c
      (let cr := (releasedBy (s.crewAt c) x.k).afterRelease x.k
       { cr with
        oldest := x.k + 1, strokes := cr.strokes.filter fun y => y.k != x.k, tout := cr.tout.filter (· != x.k) })) := by
  have hcommit : (s.crewAt c).committed x.k = true := by simpa [Crew.committed] using hc
  simp only [execStrokeRetire, hx, hl, he, hcommit, Bool.and_self, if_true, enabledStep_some]
  exact ⟨_, rfl⟩

/-- A released crew: its out-slots present, its strokes as before. -/
theorem execOutSlotRelease_next {x : Stroke} (hl : (s.crewAt c).live = true) (hx : x ∈ (s.crewAt c).strokes)
    (hk : x.k = (s.crewAt c).relMark) (hr : x.relReq = true) (hb : (s.crewAt c).broke = none) :
    execOutSlotRelease c s = .next ((s.releaseSites c (s.crewAt c) (s.crewAt c).relMark).putCrew c
      ((s.crewAt c).release (s.crewAt c).relMark)) := by
  have hany : ((s.crewAt c).strokes.any fun x => x.k == (s.crewAt c).relMark && x.relReq) = true :=
    List.any_eq_true.mpr ⟨x, hx, by simp [hk, hr]⟩
  have hbroke : ((s.crewAt c).release (s.crewAt c).relMark).broke = none :=
    (congrArg Crew.broke (unslotted_release (s.crewAt c) (s.crewAt c).relMark) :).trans hb
  simp only [execOutSlotRelease, hl, hany, Bool.and_self, if_true, enabledStep_some, State.afterSites, hb, Crew.afterRelease,
    hbroke, reduceCtorEq, if_false]

/-! ### Commit -/

theorem execStrokeCommit_next (hl : (s.crewAt c).live = true) (h1 : 1 ≤ (s.crewAt c).commit)
    (hb : (s.crewAt c).record.breakable = true)
    (hbelow : ((s.crewAt c).commit ≤ (s.crewAt c).oldest ∧ (s.crewAt c).broke ≠ some ((s.crewAt c).commit - 1)) ∨
      ∃ x ∈ (s.crewAt c).strokes, x.k + 1 = (s.crewAt c).commit ∧ x.going = true)
    (hlog : logShort s (((s.crewAt c).held.filter fun h => h.stroke == (s.crewAt c).commit).flatMap (·.dirty)) = none) :
    let u := performHeld s ((s.crewAt c).held.filter fun h => h.stroke == (s.crewAt c).commit)
    execStrokeCommit c s = .next (u.setCrew c { u.crewAt c with
      commit := (s.crewAt c).commit + 1, held := (u.crewAt c).held.filter fun h => h.stroke != (s.crewAt c).commit }) := by
  have hgo : ((decide ((s.crewAt c).commit ≤ (s.crewAt c).oldest) && (s.crewAt c).broke != some ((s.crewAt c).commit - 1)) ||
      (s.crewAt c).strokes.any fun x => x.k + 1 == (s.crewAt c).commit && x.going) = true := by
    simpa only [Bool.or_eq_true, Bool.and_eq_true, decide_eq_true_eq, bne_iff_ne, List.any_eq_true, beq_iff_eq] using hbelow
  simp only [execStrokeCommit, hl, hb, h1, hgo, hlog, decide_true, Bool.and_self, Bool.not_true, Bool.false_eq_true, if_false,
    Option.isSome_none, enabledStep_some]
end

end Sys2Proof.Machine
namespace Sys2Proof.Certificates
open Sys2Proof.Machine

/-- Settles O55, step by step; what a release does to the reads that wait by `putCrew_warpAt` and `feed_present`. -/
theorem coxSteps : Obligations.CoxSteps := by
  unfold Obligations.CoxSteps
  intro s c hl
  refine ⟨fun slot hs hb hruns hlead hrows hwarps ht hspec hslot => ?_, fun ht hs hb hruns hf hq => ?_, fun x hx he hc => ?_,
    fun x hx hk hr hb => ?_, fun m hm h1 hb hbelow hlog => ?_⟩
  · refine ⟨_, execStrokeLaunch_next hl hs hb hruns hlead hrows hwarps ht hspec hslot, ?_⟩
    simp only [launchStroke_crewAt, launchStroke_warpAt]
    refine ⟨trivial, rfl, markAt_eq .., fun i hi => ?_, ⟨rfl, rfl, rfl, rfl, rfl, fun i => ?_, rfl, rfl, rfl, rfl, rfl, rfl⟩,
      fun k hk => launchStroke_other s c slot hk⟩
    · rw [Tbl.get_foldl_put_const, if_pos (List.mem_map_of_mem (List.mem_range.mpr hi))]
    · show ((s.crewAt c).seed.s.set 0 0)[i.val] = _
      rw [Vector.getElem_set]
      simp only [eq_comm]
      rfl
  · refine ⟨_, templateCmd s c, execTemplateCopyIssue_next hl ht hs hb hruns hf hq, ?_, ?_, rfl, rfl, ?_⟩
    · rw [State.crewAt_setCrew_same]
    · rw [State.coreAt_setCrew, pushCmd_copyQ]
    · simp only [templateCmd, BitVec.extractLsb'_toNat, Nat.shiftRight_eq_div_pow]
  · obtain ⟨u, hu⟩ := execStrokeRetire_next hl hx he hc
    refine ⟨_, hu, ?_, ?_, ?_, ?_⟩
    · rw [putCrew_warpAt, State.warpAt_setWarp_same, fed_nil rfl, ite_self]
    · rw [crewAt_putCrew]
    · rw [crewAt_putCrew]
      intro y hy
      simpa using (List.mem_filter.mp hy).2
    · rw [crewAt_putCrew]
      exact (releasedBy_relMark ..).trans_eq (afterRelease_relMark ..).symm
  · have hrel := unslotted_release (s.crewAt c) (s.crewAt c).relMark
    refine ⟨_, execOutSlotRelease_next hl hx hk hr hb, ?_, putCrew_mem .., fun k => putCrew_reads .., fun i hi => ?_⟩
    · rw [crewAt_putCrew]
      rfl
    · have hpres := release_pres (s.crewAt c).relMark hi
      rw [crewAt_putCrew]
      refine ⟨hpres, fun y hy r hreads hslot => ?_⟩
      have hstrokes : ((s.crewAt c).release (s.crewAt c).relMark).strokes = (s.crewAt c).strokes :=
        (congrArg Crew.strokes hrel :)
      have hmem : y.warp ∈ ((s.crewAt c).release (s.crewAt c).relMark).strokes.map (·.warp) :=
        List.mem_map_of_mem (hstrokes ▸ hy)
      obtain ⟨h1, h2, h3⟩ := feed_present (cr := (s.crewAt c).release (s.crewAt c).relMark) (x := r) (by rw [hslot, hpres])
      refine ⟨r.feed ((s.crewAt c).release (s.crewAt c).relMark), ?_, h1.trans hslot, h2, fun l => by rw [h3 l, hslot]⟩
      rw [putCrew_warpAt, if_pos hmem]
      show ((s.warpAt y.warp).reads.map _) = _
      rw [hreads]
      rfl
  · subst hm
    exact execStrokeCommit_next hl h1 hb hbelow hlog

end Sys2Proof.Certificates
end

section
/-!
Lane memory (R125, R238 to R241): how a lane word that acts may end, the check of its lanes' addresses, its loads, stores
and atomics, and TIDX.
-/
namespace Sys2Proof.Machine

/-! ### How a lane word that acts ends -/

section
variable {α β : Type} {st t : LSt}

theorem run_bind_error {m : LM α} {x : LStop} (f : α → LM β) (h : m.run st = .error x) : (m >>= f).run st = .error x := by
  rw [StateT.run_bind, h]
  rfl

@[simp] theorem run_wait : (wait : LM α).run st = .error (.waits st.s.me.reads) := rfl

theorem sync_eq_ok {u : Unit} (h : sync.run st = .ok (u, t)) : t = st ∧ st.blocked = false := by
  simp only [sync, run_get_bind] at h
  split at h
  · cases h
  · next hb =>
    cases h
    exact ⟨rfl, by simpa using hb⟩

theorem settle_eq_ok {u : Unit} (h : settle.run st = .ok (u, t)) : t = st ∧ st.cand = none := by
  rw [settle] at h
  obtain ⟨_, v, hs, hend⟩ := run_bind_eq_ok h
  obtain ⟨rfl, -⟩ := sync_eq_ok hs
  rw [run_get_bind] at hend
  cases hc : v.cand with
  | some x => rw [hc] at hend; cases hend
  | none =>
    rw [hc] at hend
    dsimp only at hend
    split at hend
    · cases hend
    · cases hend
      exact ⟨rfl, rfl⟩

/-- A word that raises its first cause, with nothing to wait for. -/
theorem run_fail {r : Raise} (hr : r.lanes ≠ 0) (hc : st.cand = none) (hb : st.blocked = false) :
    (fail r).run st = .error (.raises st.s r [] st.popped) := by
  rw [fail, run_bind_ok _ (run_note_first hr hc)]
  exact run_settle_raises rfl hb
end

section
variable {s : State} {c : LCtl} {d : Dispatch} {act e : Mask} {k : LKind} {body : LM Unit}

theorem laneWord_waits {reads : List WinRead} (h : LaneActs s c d act e) (hk : k.commits = true → uncommitted s s.me = none)
    (hb : body.run (started s c d act e) = .error (.waits reads)) :
    laneWord k c true body s = .next { s.setMe { s.me with reads := reads } with waited := true } := by
  simp only [laneWord, laneIssue_acts h hk, hb]
  rfl

theorem laneWord_raises {u : State} {r : Raise} {sites : List EccSite} {popped : List (Nat × DqEntry)}
    (h : LaneActs s c d act e) (hk : k.commits = true → uncommitted s s.me = none)
    (hb : body.run (started s c d act e) = .error (.raises u r sites popped)) :
    laneWord k c true body s = raiseLane s u d.addr r sites popped := by
  simp only [laneWord, laneIssue_acts h hk, hb]
  rfl
end

/-! ### What a word that stays keeps of the machine -/

section
variable {st t : LSt} (h : Stays st t)
include h

theorem stays_mem : t.s.mem = st.s.mem := by
  obtain h | ⟨w, h⟩ := h.only
  · rw [h]
  · rw [h]
    rfl
theorem stays_cur : t.s.cur = st.s.cur := by
  obtain h | ⟨w, h⟩ := h.only
  · rw [h]
  · rw [h]
    rfl
theorem stays_crewAt (c : Nat) : t.s.crewAt c = st.s.crewAt c := by
  obtain h | ⟨w, h⟩ := h.only
  · rw [h]
  · rw [h]
    rfl
theorem stays_stroke : t.s.me.stroke = st.s.me.stroke := by
  obtain ⟨_, _, _, _, _, hk⟩ := h.kept
  rw [hk]

theorem stays_fenceHeld : fenceHeld t.s t.s.me = fenceHeld st.s st.s.me := by
  simp only [fenceHeld, uncommitted, stays_stroke h, stays_crewAt h]
end

/-! ### The cause that lanes raise -/

/-- The cause chosen is that of one of them. -/
theorem chosen_mem (rs : List (LaneIx × Raise)) (r0 : Raise) :
    rs.foldl (fun (acc : Raise) x => if priority x.2.cause < priority acc.cause then x.2 else acc) r0 = r0 ∨
      ∃ x ∈ rs, rs.foldl (fun (acc : Raise) x => if priority x.2.cause < priority acc.cause then x.2 else acc) r0 = x.2 := by
  induction rs generalizing r0 with
  | nil => exact .inl rfl
  | cons x rs ih =>
    rw [List.foldl_cons]
    split
    · obtain h | ⟨y, hy, h⟩ := ih x.2
      · exact .inr ⟨x, List.mem_cons_self, h⟩
      · exact .inr ⟨y, List.mem_cons_of_mem _ hy, h⟩
    · obtain h | ⟨y, hy, h⟩ := ih r0
      · exact .inl h
      · exact .inr ⟨y, List.mem_cons_of_mem _ hy, h⟩

theorem chooseRaise_none {rs : List (LaneIx × Raise)} (h : chooseRaise rs = none) : rs = [] := by
  cases rs with
  | nil => rfl
  | cons x rs => cases h

/-- A cause that lanes raise has the lanes that raise it. -/
theorem chooseRaise_lanes {rs : List (LaneIx × Raise)} {r : Raise} (h : chooseRaise rs = some r) : r.lanes ≠ 0 := by
  cases rs with
  | nil => cases h
  | cons x0 rs =>
    have hbest : ∃ x ∈ x0 :: rs, (x0 :: rs).foldl
        (fun (acc : Raise) x => if priority x.2.cause < priority acc.cause then x.2 else acc) x0.2 = x.2 := by
      obtain h | h := chosen_mem (x0 :: rs) x0.2
      · exact ⟨x0, List.mem_cons_self, h⟩
      · exact h
    obtain ⟨x, hx, hbest⟩ := hbest
    obtain ⟨i0, r0⟩ := x0
    rw [chooseRaise] at h
    dsimp only at h hbest
    rw [hbest] at h
    cases h
    intro h0
    have hi := inMask_mkMask (fun i => (((i0, r0) :: rs).filter fun y => y.2.cause == x.2.cause).any fun y => y.1 == i) x.1
    dsimp only at h0
    have hany : ((((i0, r0) :: rs).filter fun y => y.2.cause == x.2.cause).any fun y => y.1 == x.1) = true :=
      List.any_eq_true.mpr ⟨x, List.mem_filter.mpr ⟨hx, beq_self_eq_true x.2.cause⟩, beq_self_eq_true x.1⟩
    rw [h0, hany] at hi
    simp [inMask] at hi

/-! ### The check of the lanes' addresses (R239) -/

section
variable {a : Acc} {n : Nat} {addr : LaneIx → Word} {refuse : Spot → Bool}

/-- The check of one lane's address after those before it: the lanes with a spot, those with a cause. -/
def checkLane (a : Acc) (n : Nat) (addr : LaneIx → Word) (refuse : Spot → Bool) (w : Warp)
    (acc : State × List (LaneIx × Spot) × List (LaneIx × Raise)) (i : LaneIx) :
    State × List (LaneIx × Spot) × List (LaneIx × Raise) :=
  match resolve acc.1 (whoOf acc.1 acc.1.cur w) a n (addr i) with
  | (s, .error r) => (s, acc.2.1, acc.2.2 ++ [(i, r)])
  | (s, .ok p) =>
    if refuse p then (s, acc.2.1, acc.2.2 ++ [(i, .at cPROT (addr i))])
    else if (a != .write && poisoned s p n) || unanswered s s.cur p then
      (s, acc.2.1, acc.2.2 ++ [(i, .at cECC_SCRATCH (addr i))])
    else (s, acc.2.1 ++ [(i, p)], acc.2.2)

/-- A lane has its spot or its cause. -/
theorem checkLane_cases (w : Warp) (acc : State × List (LaneIx × Spot) × List (LaneIx × Raise)) (i : LaneIx) :
    walkRest (checkLane a n addr refuse w acc i).1 = walkRest acc.1 ∧
    ((∃ p, (checkLane a n addr refuse w acc i).2 = (acc.2.1 ++ [(i, p)], acc.2.2)) ∨
      ∃ r, (checkLane a n addr refuse w acc i).2 = (acc.2.1, acc.2.2 ++ [(i, r)])) := by
  have hres := walkRest_resolve acc.1 (whoOf acc.1 acc.1.cur w) a n (addr i)
  unfold checkLane
  split
  · next h =>
    rw [h] at hres
    exact ⟨hres, .inr ⟨_, rfl⟩⟩
  · next h =>
    rw [h] at hres
    split
    · exact ⟨hres, .inr ⟨_, rfl⟩⟩
    · split
      · exact ⟨hres, .inr ⟨_, rfl⟩⟩
      · exact ⟨hres, .inl ⟨_, rfl⟩⟩

/-- Where no lane has a cause every lane has its spot, in order. -/
theorem checkLane_foldl (w : Warp) (l : List LaneIx) (acc : State × List (LaneIx × Spot) × List (LaneIx × Raise)) :
    walkRest (l.foldl (checkLane a n addr refuse w) acc).1 = walkRest acc.1 ∧
    ((l.foldl (checkLane a n addr refuse w) acc).2.2 = [] → acc.2.2 = [] ∧
      (l.foldl (checkLane a n addr refuse w) acc).2.1.map (·.1) = acc.2.1.map (·.1) ++ l) := by
  induction l generalizing acc with
  | nil => exact ⟨rfl, fun h => ⟨h, (List.append_nil _).symm⟩⟩
  | cons i l ih =>
    obtain ⟨hrest, hcase⟩ := checkLane_cases (a := a) (n := n) (addr := addr) (refuse := refuse) w acc i
    obtain ⟨hih, hspots⟩ := ih (checkLane a n addr refuse w acc i)
    refine ⟨hih.trans hrest, fun h => ?_⟩
    obtain ⟨hbad, hmap⟩ := hspots h
    rw [List.foldl_cons, hmap]
    obtain ⟨p, hp⟩ | ⟨r, hr⟩ := hcase
    · rw [hp] at hbad ⊢
      exact ⟨hbad, by simp⟩
    · rw [hr] at hbad
      simp at hbad

/-- The lanes of E as their addresses are checked. -/
def lanesChecked (a : Acc) (n : Nat) (addr : LaneIx → Word) (refuse : Spot → Bool) (st : LSt) :
    State × List (LaneIx × Spot) × List (LaneIx × Raise) :=
  (maskLanes st.e).foldl (checkLane a n addr refuse st.s.me) (st.s, [], [])

/-- The check notes the cause that some of the lanes raised, and settles. -/
theorem run_checkLanes (st : LSt) : (checkLanes a n addr refuse).run st =
    (match chooseRaise (lanesChecked a n addr refuse st).2.2 with
      | some r => (do note r []; settle; pure (lanesChecked a n addr refuse st).2.1 : LM _)
      | none => (do settle; pure (lanesChecked a n addr refuse st).2.1 : LM _)).run
      { st with s := (lanesChecked a n addr refuse st).1 } := rfl

/-- No lane has a cause where the check goes on. -/
theorem checkLanes_quiet {st t : LSt} {spots : List (LaneIx × Spot)}
    (h : (checkLanes a n addr refuse).run st = .ok (spots, t)) : (lanesChecked a n addr refuse st).2.2 = [] ∧
      spots = (lanesChecked a n addr refuse st).2.1 ∧ t = { st with s := (lanesChecked a n addr refuse st).1 } := by
  rw [run_checkLanes] at h
  cases hb : chooseRaise (lanesChecked a n addr refuse st).2.2 with
  | some r =>
    simp only [hb] at h
    obtain ⟨_, v, hn, h⟩ := run_bind_eq_ok h
    obtain ⟨_, w, hs, h⟩ := run_bind_eq_ok h
    obtain ⟨x, hx⟩ := run_note_some (sites := []) (chooseRaise_lanes hb)
    rw [hx] at hn
    cases hn
    cases (settle_eq_ok hs).2
  | none =>
    simp only [hb] at h
    obtain ⟨_, w, hs, h⟩ := run_bind_eq_ok h
    cases h
    exact ⟨chooseRaise_none hb, rfl, (settle_eq_ok hs).1⟩

/-- Addresses that are checked give every lane of E its spot, by rising lane, and change nothing but what a walk
does. -/
theorem checkLanes_eq_ok {st t : LSt} {spots : List (LaneIx × Spot)}
    (h : (checkLanes a n addr refuse).run st = .ok (spots, t)) :
    walkRest t.s = walkRest st.s ∧ spots.map (·.1) = maskLanes st.e := by
  obtain ⟨hbad, rfl, rfl⟩ := checkLanes_quiet h
  obtain ⟨hrest, hspots⟩ := checkLane_foldl (a := a) (n := n) (addr := addr) (refuse := refuse) st.s.me (maskLanes st.e)
    (st.s, [], [])
  exact ⟨hrest, by simpa [lanesChecked] using (hspots hbad).2⟩
end

/-! ### Lanes and their values -/

theorem nodup_maskLanes (m : Mask) : (maskLanes m).Nodup := (List.nodup_finRange 32).filter _

/-- Where each lane stands once, a lane's result is the value it got. -/
theorem laneResult_of_mem {rs : List (LaneIx × BitVec 64)} (hn : (rs.map (·.1)).Nodup) {l : LaneIx} {v : BitVec 64}
    (h : (l, v) ∈ rs) : laneResult rs l = v := by
  induction rs with
  | nil => cases h
  | cons x rs ih =>
    rw [List.map_cons, List.nodup_cons] at hn
    obtain rfl | h := List.mem_cons.mp h
    · simp [laneResult]
    · have hne : x.1 ≠ l := fun hx => hn.1 (hx ▸ List.mem_map_of_mem h)
      rw [← ih hn.2 h]
      simp [laneResult, hne]

theorem accessSize_eq (ty : BitVec 4) (size : BitVec 2) :
    (if size = 1 then 1 else if size = 2 then 2 else if ty = 8 then 8 else 4) = accessSize ty size := by
  simp [accessSize]

section
variable {s : State} {c : LCtl} {disp : Dispatch} {act e : Mask} {st : LSt}

/-- Spots of every lane of E, by rising lane, in memory as it was. -/
theorem checked_whole {a : Acc} {n : Nat} {addr : LaneIx → Word} {refuse : Spot → Bool} {u : LSt}
    {spots : List (LaneIx × Spot)} (hs : Stays (started s c disp act e) u)
    (h : (checkLanes a n addr refuse).run u = .ok (spots, st)) : st.s.mem = s.mem ∧ spots.map (·.1) = maskLanes e := by
  obtain ⟨hrest, hspots⟩ := checkLanes_eq_ok h
  exact ⟨(walkRest_mem hrest).trans (stays_mem hs), by rw [hspots, hs.e]; rfl⟩
end

/-! ### Loads -/

section
variable {s : State} {c : LCtl} {disp : Dispatch} {act e : Mask} (ha : LaneActs s c disp act e)
variable {d a : Opnd} {m : LAddr} {dst : Dst} {ix : Vals} {spots : List (LaneIx × Spot)} {st : LSt}

/-- The operands of a load, with nothing to wait for. -/
def loadOps (pair : Bool) (d a : Opnd) : LM (Dst × Vals) := do
  let dst ← prepare pair d
  let ix ← readE false a
  sync
  pure (dst, ix)

theorem loadOps_eq_ok {pair : Bool} {u v : LSt} (h : (loadOps pair d a).run u = .ok ((dst, ix), v)) :
    Stays u v ∧ ∃ w, (prepare pair d).run u = .ok (dst, w) ∧ (readE false a).run w = .ok (ix, v) ∧
      sync.run v = .ok ((), v) := by
  obtain ⟨dst', w, hd, h⟩ := run_bind_eq_ok h
  obtain ⟨ix', w', hx, h⟩ := run_bind_eq_ok h
  obtain ⟨_, w'', hy, h⟩ := run_bind_eq_ok h
  cases h
  obtain ⟨rfl, hb⟩ := sync_eq_ok hy
  exact ⟨stays_trans (keeps_prepare _ _ _ _ _ hd) (keeps_readE _ _ _ _ _ hx), w, hd, hx, run_sync_ok hb⟩

include ha

/-- A load whose lanes' addresses are checked gives each lane what its spot holds (R239). -/
theorem execVld_reads {size : BitVec 2} {off : BitVec 9} {u : LSt}
    (ho : (loadOps (isPair c.ty) d a).run (started s c disp act e) = .ok ((dst, ix), u))
    (hc : (checkLanes .read (accessSize c.ty size) (laneAddr disp m.base m.scale ix (off.signExtend 64))
      fun _ => false).run u = .ok (spots, st))
    (hw : (Instr.vld c d a m size off).wf = true) (hf : fenceHeld s s.me = false) :
    exec (.vld c d a m size off) s = .next (laneFinish .memory c (emitted st c.ty dst (laneResult (spots.map fun x =>
      (x.1, loadedValue c.ty (accessSize c.ty size) (seeBytes st.s st.s.me x.2 (accessSize c.ty size))))))) := by
  obtain ⟨hs, v, hd, hx, hy⟩ := loadOps_eq_ok ho
  have hfence := (stays_fenceHeld hs).trans hf
  rw [exec, execVld, hw]
  refine laneWord_done ha (by simp) ?_
  rw [run_bind_ok _ hd, run_bind_ok _ hx, run_bind_ok _ hy, run_get_bind, hfence, hs.disp]
  refine (run_bind_ok _ hc).trans ?_
  rw [run_get_bind, run_emit]

/-- A load waits for a fence that its stroke holds (R200). -/
theorem execVld_held {size : BitVec 2} {off : BitVec 9} {u : LSt}
    (ho : (loadOps (isPair c.ty) d a).run (started s c disp act e) = .ok ((dst, ix), u))
    (hw : (Instr.vld c d a m size off).wf = true) (hf : fenceHeld s s.me = true) :
    exec (.vld c d a m size off) s = .next { s.setMe { s.me with reads := u.s.me.reads } with waited := true } := by
  obtain ⟨hs, v, hd, hx, hy⟩ := loadOps_eq_ok ho
  have hfence := (stays_fenceHeld hs).trans hf
  rw [exec, execVld, hw]
  refine laneWord_waits ha (by simp) ?_
  rw [run_bind_ok _ hd, run_bind_ok _ hx, run_bind_ok _ hy, run_get_bind, hfence]
  rfl
end

/-! ### Stores -/

/-- The stores of a lane word are performed or held (R42, R43, R240). -/
theorem run_laneStore {st : LSt} {units : Nat} {ws : List (Spot × List Byte)} {t : State} (h : StoresTo st.s st.s units ws t) :
    (laneStore units ws).run st = .ok ((), { st with s := t }) := by
  rw [laneStore, run_get_bind, storeWord_storesTo rfl h]
  rfl

/-! ### Atomics -/

theorem two_pow_bytes (n : Nat) : 2 ^ (8 * n) = 256 ^ n := by rw [Nat.pow_mul]

/-- The new value of an atomic of `n` bytes, as a number (R199). -/
theorem atomNew_toNat {n : Nat} (signed : Bool) (op : AtomOp) (old x y : BitVec (8 * n)) :
    (atomNew signed op old x y).map BitVec.toNat = laneAtom signed n op old.toNat x.toNat y.toNat := by
  have hless : (if signed then old.slt x else old.ult x) = decide
      ((if signed then (BitVec.ofNat (8 * n) old.toNat).toInt else (old.toNat : Int)) <
        if signed then (BitVec.ofNat (8 * n) x.toNat).toInt else (x.toNat : Int)) := by
    cases signed <;> simp [BitVec.slt, BitVec.ult]
  cases op with
  | swap => rfl
  | add => simp [atomNew, laneAtom, two_pow_bytes]
  | and => simp [atomNew, laneAtom]
  | or => simp [atomNew, laneAtom]
  | xor => simp [atomNew, laneAtom]
  | min => simp only [atomNew, laneAtom, hless, decide_eq_true_eq, Option.map_some, apply_ite BitVec.toNat]
  | max => simp only [atomNew, laneAtom, hless, decide_eq_true_eq, Option.map_some, apply_ite BitVec.toNat]
  | cas =>
    simp only [atomNew, laneAtom, ← BitVec.toNat_inj]
    split <;> rfl

theorem leNat_lt (bs : List Byte) : leNat bs < 256 ^ bs.length := by
  induction bs with
  | nil => exact Nat.one_pos
  | cons b bs ih =>
    have := b.isLt
    rw [leNat, List.length_cons, Nat.pow_succ]
    omega

theorem length_seeBytes_le (s : State) (w : Warp) (p : Spot) (n : Nat) : (seeBytes s w p n).length ≤ n := by
  cases p with
  | io off ds attr => exact List.length_take_le _ _
  | mem pa ds attr e => simp [seeBytes]
  | part b off => simp [seeBytes]

theorem leNat_seeBytes_lt (s : State) (w : Warp) (p : Spot) (n : Nat) : leNat (seeBytes s w p n) < 256 ^ n :=
  (leNat_lt _).trans_le (Nat.pow_le_pow_right (by decide) (length_seeBytes_le s w p n))

section
variable {ty : BitVec 4} {n : Nat} {op : AtomOp}

/-- What an atomic of a lane writes over a value, by its two operands. -/
def laneNew (ty : BitVec 4) (n : Nat) (op : AtomOp) (z y : Vals) (l : LaneIx) (old : Nat) : Option Nat :=
  laneAtom (ty != 1) n op old ((z l).toNat % 256 ^ n) ((y l).toNat % 256 ^ n)

/-- One lane's atomic (R199, R239). -/
theorem atomLane_eq (hty : tysWide.contains ty = true) (hn : accessSize ty 0 = n) (z y : Vals) (l : LaneIx) (s : State)
    (p : Spot) : atomLane ty op s p (z l) (y l) =
      match laneNew ty n op z y l (leNat (seeBytes s s.me p n)) with
      | some v => (performStores s [(p.plain, leBytes n v)], BitVec.ofNat 64 (leNat (seeBytes s s.me p n)), some p)
      | none => (s, BitVec.ofNat 64 (leNat (seeBytes s s.me p n)), none) := by
  have htypes : tyWidth ty = 8 * n ∧ (if isPair ty then 8 else 4) = n ∧ (!tyUnsigned ty) = (ty != 1) := by
    subst hn
    obtain rfl | rfl | rfl : ty = 0 ∨ ty = 1 ∨ ty = 8 := by simpa [tysWide] using hty
    all_goals exact ⟨rfl, rfl, rfl⟩
  obtain ⟨hwidth, hsize, hsign⟩ := htypes
  have hlt := leNat_seeBytes_lt s s.me p n
  have hle : 8 * n ≤ 64 := hwidth ▸ (tyWidth_le ty).2
  simp only [atomLane, hsize, hsign, laneNew]
  generalize leNat (seeBytes s s.me p n) = old at hlt ⊢
  generalize tyWidth ty = w at hwidth ⊢
  subst hwidth
  have hnew := atomNew_toNat (ty != 1) op (BitVec.ofNat (8 * n) old) ((z l).setWidth (8 * n)) ((y l).setWidth (8 * n))
  rw [BitVec.toNat_ofNat, BitVec.toNat_setWidth, BitVec.toNat_setWidth, two_pow_bytes, Nat.mod_eq_of_lt hlt] at hnew
  have hold : (BitVec.ofNat (8 * n) old).setWidth 64 = BitVec.ofNat 64 old := by
    apply BitVec.eq_of_toNat_eq
    rw [BitVec.toNat_setWidth, BitVec.toNat_ofNat, BitVec.toNat_ofNat, two_pow_bytes, Nat.mod_eq_of_lt hlt]
  rw [← hnew, hold]
  cases atomNew (ty != 1) op (BitVec.ofNat (8 * n) old) ((z l).setWidth (8 * n)) ((y l).setWidth (8 * n)) <;> rfl

/-- The lanes' atomics, each on what the one before left (R239). -/
theorem atomLanes_eq (hty : tysWide.contains ty = true) (hn : accessSize ty 0 = n) (z y : Vals) (s : State)
    (spots : List (LaneIx × Spot)) : atomLanes ty op z y s spots =
      let t := atomsInOrder n (laneNew ty n op z y) s spots
      (t.1, t.2.1.map fun x => (x.1, BitVec.ofNat 64 x.2), t.2.2) := by
  have hfold : ∀ (l : List (LaneIx × Spot)) (s : State) (rs : List (LaneIx × BitVec 64)) (at_ : List Spot),
      l.foldl (fun acc y' =>
        let (s, old, p) := atomLane ty op acc.1 y'.2 (z y'.1) (y y'.1)
        (s, acc.2.1 ++ [(y'.1, old)], acc.2.2 ++ p.toList)) (s, rs, at_) =
      let t := atomsInOrder n (laneNew ty n op z y) s l
      (t.1, rs ++ t.2.1.map (fun x => (x.1, BitVec.ofNat 64 x.2)), at_ ++ t.2.2) := by
    intro l
    induction l with
    | nil => intro s rs at_; simp [atomsInOrder]
    | cons x l ih =>
      intro s rs at_
      obtain ⟨i, p⟩ := x
      rw [List.foldl_cons]
      rw [atomLane_eq hty hn, atomsInOrder]
      cases hl : laneNew ty n op z y i (leNat (seeBytes s s.me p n)) with
      | none =>
        dsimp only
        rw [ih]
        simp
      | some v =>
        dsimp only
        rw [ih]
        simp
  exact hfold spots s [] []

theorem atomsInOrder_lanes (new : LaneIx → Nat → Option Nat) (s : State) (spots : List (LaneIx × Spot)) :
    (atomsInOrder n new s spots).2.1.map (·.1) = spots.map (·.1) := by
  induction spots generalizing s with
  | nil => rfl
  | cons x spots ih =>
    obtain ⟨i, p⟩ := x
    simp only [atomsInOrder]
    cases new i (leNat (seeBytes s s.me p n)) <;> simp [ih]
end

/-! ### Shape records and TIDX (R125) -/

theorem walkRest_seeSpan (me : Warp) (s : State) (w : Who) (va : Word) (n : Nat) :
    walkRest (seeSpan me s w va n).1 = walkRest s := by
  have hp := walkRest_span s w .read va n
  unfold seeSpan readSpanBy
  split
  · next h => rwa [h] at hp
  · next h =>
    rw [h] at hp
    split <;> exact hp

theorem length_fiveFields (bs : List Byte) (off n : Nat) : (fiveFields bs off n).length = 5 := by
  simp [fiveFields]

theorem fieldNat_lt (bs : List Byte) (off n : Nat) : fieldNat bs off n < 256 ^ n :=
  (leNat_lt _).trans_le (Nat.pow_le_pow_right (by decide) (List.length_take_le _ _))

/-- The extents of a well-formed shape record: one for each dimension, each a field of 32 bits. -/
theorem shapeOf_ext {bs : List Byte} {sh : Shape} (h : shapeOf bs = some sh) :
    sh.ext.length = sh.rank ∧ sh.rank ≤ 5 ∧ ∀ x ∈ sh.ext, x < 2 ^ 32 := by
  unfold shapeOf at h
  dsimp only at h
  split at h
  · next hr =>
    obtain ⟨-, hr, -⟩ := hr
    cases h
    refine ⟨by simp [length_fiveFields, hr], hr, fun x hx => ?_⟩
    obtain ⟨i, -, rfl⟩ := List.mem_map.mp (List.mem_of_mem_take hx)
    exact fieldNat_lt bs _ 4
  · cases h

/-- A read of a shape record is a walk, and what it finds is well-formed. -/
theorem seeShape_eq {s u : State} {table : Word} {ix : Nat} {r : Option Shape} (h : seeShape s table ix = (u, .ok r)) :
    walkRest u = walkRest s ∧ ∀ sh, r = some sh → ∃ bs, shapeOf bs = some sh := by
  have hspan := walkRest_seeSpan s.me s (whoOf s s.cur s.me) (table + BitVec.ofNat 64 (128 * ix)) 128
  simp only [seeShape, shapeIn] at h
  split at h
  · cases h
    exact ⟨rfl, nofun⟩
  · split at h
    · cases h
    · next hb =>
      rw [hb] at hspan
      cases h
      exact ⟨hspan, fun sh hsh => ⟨_, hsh⟩⟩

theorem getD_eq_headD_drop (l : List Nat) (d : Nat) : l.getD d 0 = (l.drop d).headD 0 := by
  rw [List.getD_eq_getElem?_getD, List.headD_eq_head?_getD, List.head?_drop]

/-- A remainder of 32 bits is the same from a difference below zero. -/
theorem toNat_sub_emod {x q ext : Nat} (hq : q < 2 ^ 32) (hext : ext < 2 ^ 32) :
    (((x : Int) - q * ext) % 2 ^ 32).toNat = (x + 2 ^ 64 - q * ext) % 2 ^ 32 := by
  have hm : q * ext < 2 ^ 32 * 2 ^ 32 := Nat.mul_lt_mul'' hq hext
  rw [← Nat.cast_mul]
  generalize q * ext = m at hm ⊢
  omega

section
variable {sh : Shape} {dim : Nat} 

/-- The quotient of an index by the extent of a dimension, by its multiplier and shift (R125). -/
def extQuot (sh : Shape) (d x : Nat) : Nat := (sh.magic.getD d 0 * x / 2 ^ 32 + x) % 2 ^ 33 / 2 ^ sh.shift.getD d 0 % 2 ^ 32

/-- The walk over the dimensions from one of them gives the coordinates from there. -/
theorem tidxCoord_go_eq (hlen : sh.ext.length = sh.rank) (hext : ∀ x ∈ sh.ext, x < 2 ^ 32) (hdim : dim < sh.rank)
    (n d x : Nat) (hd : d ≤ dim) (hn : sh.rank ≤ d + n) : tidxCoord.go sh dim (extQuot sh) n d x =
      (coordsOf (sh.ext.drop d) (sh.magic.drop d) (sh.shift.drop d) x).getD (dim - d) 0 := by
  induction n generalizing d x with
  | zero => omega
  | succ n ih =>
    have hlt : d < sh.ext.length := by omega
    rw [List.drop_eq_getElem_cons hlt, tidxCoord.go.eq_def]
    dsimp only
    by_cases hlast : d + 1 = sh.rank
    · rw [if_pos hlast, List.drop_eq_nil_of_le (by omega), coordsOf, show dim - d = 0 by omega, List.getD_cons_zero]
    · rw [if_neg hlast, List.drop_eq_getElem_cons (show d + 1 < sh.ext.length by omega), coordsOf,
        ← List.drop_eq_getElem_cons, List.tail_drop, List.tail_drop, ← getD_eq_headD_drop, ← getD_eq_headD_drop]
      · by_cases hhere : d = dim
        · subst hhere
          rw [if_pos rfl, Nat.sub_self, List.getD_cons_zero, List.getD_eq_getElem _ _ hlt]
          exact (toNat_sub_emod (Nat.mod_lt _ (by decide)) (hext _ (List.getElem_mem _))).symm
        · rw [if_neg hhere, ih (d + 1) _ (by omega) (by omega), show dim - d = (dim - (d + 1)) + 1 by omega, List.getD_cons_succ]
          rfl
      · exact nofun

/-- The coordinate of TIDX is that of the list. -/
theorem tidxCoord_eq (hlen : sh.ext.length = sh.rank) (hrank : sh.rank ≤ 5) (hext : ∀ x ∈ sh.ext, x < 2 ^ 32)
    (hdim : dim < sh.rank) (x : Nat) : tidxCoord sh dim x = (coordsOf sh.ext sh.magic sh.shift x).getD dim 0 :=
  tidxCoord_go_eq hlen hext hdim 5 0 x (Nat.zero_le _) (by omega)
end

/-! ### The words -/

/-- Each lane of a list of lanes' results has its own. -/
theorem laneResult_map {β : Type} {e : Mask} {rs : List (LaneIx × β)} (f : LaneIx × β → BitVec 64)
    (hrs : rs.map (·.1) = maskLanes e) {l : LaneIx} {v : β} (h : (l, v) ∈ rs) :
    laneResult (rs.map fun x => (x.1, f x)) l = f (l, v) := by
  refine laneResult_of_mem ?_ (List.mem_map.mpr ⟨(l, v), h, rfl⟩)
  rw [List.map_map]
  exact hrs ▸ nodup_maskLanes e

theorem shapeOf_fields {s u : State} {table : Word} {ix : Nat} {sh : Shape}
    (h : seeShape s table ix = (u, .ok (some sh))) : sh.ext.length = sh.rank ∧ sh.rank ≤ 5 ∧ ∀ x ∈ sh.ext, x < 2 ^ 32 := by
  obtain ⟨bs, hbs⟩ := (seeShape_eq h).2 sh rfl
  exact shapeOf_ext hbs

/-- A walk leaves the rows of a core's main file. -/
theorem short_walkRest {st : LSt} {u : State} (h : walkRest u = walkRest st.s) :
    ({ st with s := u } : LSt).short = st.short := by
  have hrows : freeRows u (coreOf u.cur) = freeRows st.s (coreOf st.s.cur) :=
    (congrArg (fun x => freeRows x (coreOf x.cur)) h :)
  simp only [LSt.short, hrows]

section
variable {s : State} {c : LCtl} {disp : Dispatch} {act e : Mask} (ha : LaneActs s c disp act e)
variable {d a cc : Opnd} {m : LAddr} {dst : Dst} {ix x y z : Vals} {spots : List (LaneIx × Spot)} {st : LSt}

/-- The operands of a store, with nothing to wait for. -/
def storeOps (pair : Bool) (a cc : Opnd) : LM (Vals × Vals) := do
  let ix ← readE false a
  let z ← readE pair cc
  sync
  pure (ix, z)

theorem storeOps_eq_ok {pair : Bool} {u v : LSt} (h : (storeOps pair a cc).run u = .ok ((ix, z), v)) :
    Stays u v ∧ ∃ w, (readE false a).run u = .ok (ix, w) ∧ (readE pair cc).run w = .ok (z, v) ∧
      sync.run v = .ok ((), v) := by
  obtain ⟨ix', w, hx, h⟩ := run_bind_eq_ok h
  obtain ⟨z', w', hz, h⟩ := run_bind_eq_ok h
  obtain ⟨_, w'', hy, h⟩ := run_bind_eq_ok h
  cases h
  obtain ⟨rfl, hb⟩ := sync_eq_ok hy
  exact ⟨stays_trans (keeps_readE _ _ _ _ _ hx) (keeps_readE _ _ _ _ _ hz), w, hx, hz, run_sync_ok hb⟩

/-- A choice between two values before the same rest. -/
theorem ite_bind_join {α β : Type} {p : Prop} [Decidable p] (a b : LM α) (k : α → LM β) :
    (if p then a >>= k else b >>= k) = (if p then a else b) >>= k := (apply_ite (· >>= k) p a b).symm

/-- The operands of an atomic, with nothing to wait for. -/
def atomOps (pair : Bool) (op : AtomOp) (d a b cc : Opnd) : LM (Dst × Vals × Vals × Vals) := do
  let dst ← prepare pair d
  let ix ← readE false a
  let y ← if op = .cas then readE pair b else pure fun _ => 0
  let z ← readE pair cc
  sync
  pure (dst, ix, y, z)

theorem atomOps_eq_ok {pair : Bool} {op : AtomOp} {b : Opnd} {u v : LSt}
    (h : (atomOps pair op d a b cc).run u = .ok ((dst, ix, y, z), v)) :
    Stays u v ∧ ∃ w₁ w₂ w₃, (prepare pair d).run u = .ok (dst, w₁) ∧ (readE false a).run w₁ = .ok (ix, w₂) ∧
      (if op = .cas then readE pair b else pure fun _ => 0).run w₂ = .ok (y, w₃) ∧ (readE pair cc).run w₃ = .ok (z, v) ∧
      sync.run v = .ok ((), v) := by
  obtain ⟨dst', w₁, hd, h⟩ := run_bind_eq_ok h
  obtain ⟨ix', w₂, hx, h⟩ := run_bind_eq_ok h
  dsimp only at h
  rw [ite_bind_join] at h
  obtain ⟨y', w₃, hy, h⟩ := run_bind_eq_ok h
  obtain ⟨z', w₄, hz, h⟩ := run_bind_eq_ok h
  obtain ⟨_, w₅, hk, h⟩ := run_bind_eq_ok h
  cases h
  obtain ⟨rfl, hb⟩ := sync_eq_ok hk
  have hmid : Stays w₂ w₃ := by
    split at hy
    · exact keeps_readE _ _ _ _ _ hy
    · cases hy
      exact stays_refl _
  exact ⟨stays_trans (stays_trans (stays_trans (keeps_prepare _ _ _ _ _ hd) (keeps_readE _ _ _ _ _ hx)) hmid)
    (keeps_readE _ _ _ _ _ hz), w₁, w₂, w₃, hd, hx, hy, hz, run_sync_ok hb⟩

/-- What a word got is its operands, then the lanes' addresses checked. -/
theorem got_checked_load {pair : Bool} {st0 : LSt} {check : Vals → LM (List (LaneIx × Spot))}
    (h : Got (do let dst ← prepare pair d; let ix ← readE false a; sync; let spots ← check ix; pure (dst, ix, spots))
      st0 (dst, ix, spots) st) :
    ∃ u, (loadOps pair d a).run st0 = .ok ((dst, ix), u) ∧ (check ix).run u = .ok (spots, st) := by
  obtain ⟨_, _, hd, h⟩ := run_bind_eq_ok h.1
  obtain ⟨_, _, hx, h⟩ := run_bind_eq_ok h
  obtain ⟨_, u, hy, h⟩ := run_bind_eq_ok h
  obtain ⟨_, _, hc, h⟩ := run_bind_eq_ok h
  cases h
  refine ⟨u, ?_, hc⟩
  rw [loadOps, run_bind_ok _ hd, run_bind_ok _ hx, run_bind_ok _ hy]
  rfl

theorem got_checked_store {pair : Bool} {st0 : LSt} {check : Vals → LM (List (LaneIx × Spot))}
    (h : Got (do let ix ← readE false a; let z ← readE pair cc; sync; let spots ← check ix; pure (ix, z, spots))
      st0 (ix, z, spots) st) :
    ∃ u, (storeOps pair a cc).run st0 = .ok ((ix, z), u) ∧ (check ix).run u = .ok (spots, st) := by
  obtain ⟨_, _, hx, h⟩ := run_bind_eq_ok h.1
  obtain ⟨_, _, hz, h⟩ := run_bind_eq_ok h
  obtain ⟨_, u, hy, h⟩ := run_bind_eq_ok h
  obtain ⟨_, _, hc, h⟩ := run_bind_eq_ok h
  cases h
  refine ⟨u, ?_, hc⟩
  rw [storeOps, run_bind_ok _ hx, run_bind_ok _ hz, run_bind_ok _ hy]
  rfl

theorem got_checked_atom {pair : Bool} {op : AtomOp} {b : Opnd} {st0 : LSt}
    {check : LSt → Vals → LM (List (LaneIx × Spot))}
    (h : Got (do
        let dst ← prepare pair d
        let ix ← readE false a
        let y ← if op = .cas then readE pair b else pure fun _ => 0
        let z ← readE pair cc
        sync
        let now ← get
        let spots ← check now ix
        pure (dst, ix, y, z, spots)) st0 (dst, ix, y, z, spots) st) :
    ∃ u, (atomOps pair op d a b cc).run st0 = .ok ((dst, ix, y, z), u) ∧ (check u ix).run u = .ok (spots, st) := by
  obtain ⟨_, _, hd, h⟩ := run_bind_eq_ok h.1
  obtain ⟨_, _, hx, h⟩ := run_bind_eq_ok h
  dsimp only at h
  rw [ite_bind_join] at h
  obtain ⟨_, _, hy, h⟩ := run_bind_eq_ok h
  obtain ⟨_, _, hz, h⟩ := run_bind_eq_ok h
  obtain ⟨_, u, hk, h⟩ := run_bind_eq_ok h
  rw [run_get_bind] at h
  obtain ⟨_, _, hc, h⟩ := run_bind_eq_ok h
  cases h
  refine ⟨u, ?_, hc⟩
  rw [atomOps, run_bind_ok _ hd, run_bind_ok _ hx]
  dsimp only
  rw [ite_bind_join, run_bind_ok _ hy, run_bind_ok _ hz, run_bind_ok _ hk]
  rfl

include ha

/-- A store whose lanes' addresses are checked stores the lanes' values, or holds them (R239, R240). -/
theorem execVst_writes {size : BitVec 2} {off : BitVec 9} {u : LSt} {t : State}
    (ho : (storeOps (isPair c.ty) a cc).run (started s c disp act e) = .ok ((ix, z), u))
    (hc : (checkLanes .write (accessSize c.ty size) (laneAddr disp m.base m.scale ix (off.signExtend 64))
      fun _ => false).run u = .ok (spots, st))
    (hw : (Instr.vst c a cc m size off).wf = true)
    (ht : StoresTo st.s st.s (if isPair c.ty then 2 else 1)
      (spots.map fun x => (x.2, leBytes (accessSize c.ty size) (z x.1).toNat)) t) :
    exec (.vst c a cc m size off) s = .next (laneFinish .memory c { st with s := t }) := by
  obtain ⟨hs, v, hx, hz, hy⟩ := storeOps_eq_ok ho
  rw [exec, execVst, hw]
  refine laneWord_done ha (by simp) ?_
  rw [run_bind_ok _ hx, run_bind_ok _ hz, run_bind_ok _ hy, run_get_bind, hs.disp]
  refine (run_bind_ok _ hc).trans ?_
  exact run_laneStore ht

/-- The atomics of the lanes whose addresses are checked are performed in order, after the dirty bits of the spots they
write (R79, R239). -/
theorem execVatom_performs {b : Opnd} {op : AtomOp} {off : BitVec 8} {u : LSt} {n : Nat} (hu : uncommitted s s.me = none)
    (hn : accessSize c.ty 0 = n)
    (ho : (atomOps (isPair c.ty) op d a b cc).run (started s c disp act e) = .ok ((dst, ix, y, z), u))
    (hc : (checkLanes .rw n (laneAddr disp m.base m.scale ix (off.signExtend 64)) fun p =>
      atomRefused u.s p op).run u = .ok (spots, st))
    (hw : (Instr.vatom c d a b cc m op off).wf = true)
    (hl : logShort st.s (storeDirty ((atomsInOrder n (laneNew c.ty n op z y) st.s spots).2.2.map fun p => (p, []))) = none) :
    let t := atomsInOrder n (laneNew c.ty n op z y) (setDirty st.s
      (storeDirty ((atomsInOrder n (laneNew c.ty n op z y) st.s spots).2.2.map fun p => (p, [])))) spots
    exec (.vatom c d a b cc m op off) s = .next (laneFinish ⟨none, true, true⟩ c (emitted { st with s := t.1 } c.ty dst
      (laneResult (t.2.1.map fun x => (x.1, BitVec.ofNat 64 x.2))))) := by
  obtain ⟨hs, w₁, w₂, w₃, hd, hx, hy, hz, hk⟩ := atomOps_eq_ok ho
  have hty : tysWide.contains c.ty = true := by
    simp only [Instr.wf, Bool.and_eq_true] at hw
    obtain ⟨⟨⟨⟨⟨hty, -⟩, -⟩, -⟩, -⟩, -⟩ := hw
    exact hty
  have hsize : (if isPair c.ty then 8 else 4) = n := hn
  rw [exec, execVatom, hw]
  refine laneWord_done ha (fun _ => hu) ?_
  rw [run_bind_ok _ hd, run_bind_ok _ hx]
  dsimp only
  rw [ite_bind_join, run_bind_ok _ hy, run_bind_ok _ hz, run_bind_ok _ hk, run_get_bind, hs.disp, hsize]
  refine (run_bind_ok _ hc).trans ?_
  rw [run_get_bind]
  rw [atomLanes_eq hty hn, atomLanes_eq hty hn, hl]
  dsimp only
  rw [run_bind_ok _ (run_set _), run_emit]

variable {shape : BitVec 8} {dim : BitVec 3}
variable (hg : Got (loadOps false d a) (started s c disp act e) (dst, x) st) (hw : (Instr.tidx c d a shape dim).wf = true)
include hg hw

omit ha hg in
theorem tidx_ty : c.ty ≠ 8 := by
  simp only [Instr.wf, Bool.and_eq_true, beq_iff_eq] at hw
  obtain ⟨⟨⟨⟨hty, -⟩, -⟩, -⟩, -⟩ := hw
  rw [hty]
  decide

/-- TIDX with no lane reads no record. -/
theorem execTidx_empty (he : e = 0) :
    exec (.tidx c d a shape dim) s = .next (laneFinish (.fixed 8) c (emitted st c.ty dst fun _ => 0)) := by
  obtain ⟨hs, v, hd, hx, hy⟩ := loadOps_eq_ok hg.1
  rw [exec, execTidx, hw]
  refine laneWord_done ha (by simp) ?_
  rw [run_bind_ok _ hd, run_bind_ok _ hx, run_bind_ok _ hy, run_get_bind, if_pos (hs.e.trans he), run_bind_ok _ hg.settle,
    run_emit_single (tidx_ty hw)]

/-- TIDX waits for a fence that its stroke holds. -/
theorem execTidx_held (he : e ≠ 0) (hf : fenceHeld s s.me = true) : exec (.tidx c d a shape dim) s =
    .next { s.setMe { s.me with reads := st.s.me.reads } with waited := true } := by
  obtain ⟨hs, v, hd, hx, hy⟩ := loadOps_eq_ok hg.1
  have hfence := (stays_fenceHeld hs).trans hf
  rw [exec, execTidx, hw]
  refine laneWord_waits ha (by simp) ?_
  rw [run_bind_ok _ hd, run_bind_ok _ hx, run_bind_ok _ hy, run_get_bind, if_neg (hs.e.symm ▸ he), hfence]
  rfl

variable {u : State} (he : e ≠ 0) (hf : fenceHeld s s.me = false)
include he hf

theorem execTidx_finds {sh : Shape} (hdim : dim.toNat < sh.rank)
    (h : seeShape st.s (recordOf st.s st.s.me).shapes shape.toNat = (u, .ok (some sh))) :
    exec (.tidx c d a shape dim) s = .next (laneFinish (.fixed 8) c (emitted { st with s := u } c.ty dst fun l =>
      BitVec.ofNat 64 ((coordsOf sh.ext sh.magic sh.shift ((x l).toNat % 2 ^ 32)).getD dim.toNat 0))) := by
  obtain ⟨hs, v, hd, hx, hy⟩ := loadOps_eq_ok hg.1
  obtain ⟨hlen, hrank, hext⟩ := shapeOf_fields h
  have hfence := (stays_fenceHeld hs).trans hf
  have hsettle : settle.run { st with s := u } = .ok ((), { st with s := u }) :=
    run_settle_ok hg.2.1 hg.2.2.1 ((short_walkRest (seeShape_eq h).1).trans hg.2.2.2)
  rw [exec, execTidx, hw]
  refine laneWord_done ha (by simp) ?_
  rw [run_bind_ok _ hd, run_bind_ok _ hx, run_bind_ok _ hy, run_get_bind, if_neg (hs.e.symm ▸ he), hfence]
  simp only [h, if_neg (Nat.not_le.mpr hdim), Bool.false_eq_true, if_false]
  rw [run_bind_ok _ (run_set _)]
  refine (run_bind_ok _ hsettle).trans ?_
  rw [run_emit_single (tidx_ty hw)]
  simp only [tidxCoord_eq hlen hrank hext hdim, BitVec.toNat_setWidth]

theorem execTidx_raises {r : Option Shape} (hr : ∀ sh, r = some sh → sh.rank ≤ dim.toNat)
    (h : seeShape st.s (recordOf st.s st.s.me).shapes shape.toNat = (u, .ok r)) :
    exec (.tidx c d a shape dim) s = raiseLane s u disp.addr ⟨cENGINE, 0, e, false⟩ [] st.popped := by
  obtain ⟨hs, v, hd, hx, hy⟩ := loadOps_eq_ok hg.1
  have hfence := (stays_fenceHeld hs).trans hf
  have hest : e = st.e := hs.e.symm
  have hfail : (fail ⟨cENGINE, 0, st.e, false⟩ : LM Unit).run { st with s := u } =
      .error (.raises u ⟨cENGINE, 0, st.e, false⟩ [] st.popped) := run_fail (hest ▸ he) hg.2.1 hg.2.2.1
  rw [exec, execTidx, hw, hest]
  refine laneWord_raises ha (by simp) ?_
  rw [run_bind_ok _ hd, run_bind_ok _ hx, run_bind_ok _ hy, run_get_bind, if_neg (hs.e.symm ▸ he), hfence]
  cases r with
  | none =>
    simp only [h, Bool.false_eq_true, if_false]
    exact hfail
  | some sh =>
    simp only [h, if_pos (hr sh rfl), Bool.false_eq_true, if_false]
    exact hfail
end

end Sys2Proof.Machine
namespace Sys2Proof.Certificates
open Sys2Proof.Machine

/-- Settles O48: the addresses that are checked by `checked_whole`, then word by word. -/
theorem laneMemory : Obligations.LaneMemory := by
  unfold Obligations.LaneMemory
  intro s c disp act e d a m ha st0 addr bytes whole
  have hbytes : bytes = accessSize c.ty := funext (accessSize_eq c.ty)
  rw [hbytes]
  refine ⟨fun size off dst ix spots st hg hw hf => ?_, fun size off dst ix st hg hw hf => ?_,
    fun cc size off ix z spots st hg hw => ?_, fun b cc op off dst ix y z spots st hu hg hw hl => ?_,
    fun shape dim dst x st hg hw => ⟨fun he => ?_, fun he hf => ?_, fun u r he hf h => ⟨fun sh hr hdim => ?_, fun hr => ?_⟩⟩⟩
  · obtain ⟨v, hops, hcheck⟩ := got_checked_load hg
    have hwhole := checked_whole (loadOps_eq_ok hops).1 hcheck
    exact ⟨hwhole, _, execVld_reads ha hops hcheck hw hf, fun l p hp => laneResult_map _ hwhole.2 hp⟩
  · exact ⟨_, execVld_held ha hg.1 hw hf⟩
  · obtain ⟨v, hops, hcheck⟩ := got_checked_store hg
    refine ⟨checked_whole (storeOps_eq_ok hops).1 hcheck, fun t ht => execVst_writes ha hops hcheck hw ?_⟩
    simpa only [isPair, beq_iff_eq] using ht
  · obtain ⟨v, hops, hcheck⟩ := got_checked_atom (check := fun now ix =>
      checkLanes .rw (accessSize c.ty 0) (addr ix (off.signExtend 64)) fun p => atomRefused now.s p op) hg
    have hwhole := checked_whole (atomOps_eq_ok hops).1 hcheck
    exact ⟨hwhole, _, execVatom_performs ha hu rfl hops hcheck hw hl,
      fun l old hold => laneResult_map _ ((atomsInOrder_lanes _ _ _).trans hwhole.2) hold⟩
  · exact execTidx_empty ha hg hw he
  · exact ⟨_, execTidx_held ha hg hw he hf⟩
  · exact execTidx_finds ha hg hw he hf hdim (hr ▸ h)
  · exact execTidx_raises ha hg hw he hf hr h

end Sys2Proof.Certificates
end

section
/-!
Hypervectors (R242 to R249): their bits, counters and rows, the nearest entry of a vault, and the words.
-/
namespace Sys2Proof.Machine

/-! ### Numbers written in a base -/

/-- The digits of a number are the values it was put together from. -/
theorem foldr_digit {α : Type} {b : Nat} (f : α → Nat) (hf : ∀ a, f a < b) (l : List α) (i : Nat) (hi : i < l.length) :
    l.foldr (fun v acc => f v + b * acc) 0 / b ^ i % b = f l[i] := by
  induction l generalizing i with
  | nil => cases hi
  | cons a l ih =>
    have hb : 0 < b := (Nat.zero_le _).trans_lt (hf a)
    rw [List.foldr_cons]
    cases i with
    | zero => rw [Nat.pow_zero, Nat.div_one, Nat.add_mul_mod_self_left, Nat.mod_eq_of_lt (hf a), List.getElem_cons_zero]
    | succ i =>
      rw [Nat.pow_succ', ← Nat.div_div_eq_div_mul, Nat.add_mul_div_left _ _ hb, Nat.div_eq_of_lt (hf a), Nat.zero_add,
        ih i (Nat.lt_of_succ_lt_succ hi), List.getElem_cons_succ]

theorem extractLsb'_ofNat {w n k len : Nat} (h : k + len ≤ w) :
    (BitVec.ofNat w n).extractLsb' k len = BitVec.ofNat len (n / 2 ^ k) := by
  refine BitVec.eq_of_getLsbD_eq fun i hi => ?_
  have hlt : k + i < w := by omega
  rw [BitVec.getLsbD_extractLsb', BitVec.getLsbD_ofNat, BitVec.getLsbD_ofNat, Nat.testBit_div_two_pow, decide_eq_true hi,
    decide_eq_true hlt, Nat.add_comm k i, Bool.true_and, Bool.true_and]

/-- A hypervector put together from its bits. -/
theorem getLsbD_ofBits (f : Nat → Bool) {i : Nat} (hi : i < 4096) :
    (BitVec.ofNat 4096 ((List.range 4096).foldr (fun i acc => (f i).toNat + 2 * acc) 0)).getLsbD i = f i := by
  have hdigit := foldr_digit (b := 2) (fun i => (f i).toNat) (fun i => Bool.toNat_lt (f i)) (List.range 4096) i (by simpa using hi)
  rw [List.getElem_range] at hdigit
  rw [BitVec.getLsbD_ofNat, decide_eq_true hi, Bool.true_and, Nat.testBit_eq_decide_div_mod_eq, hdigit]
  cases f i <;> rfl

/-- An accumulator put together from its counters. -/
theorem counter_ofCounters (f : Nat → Int × Bool) (hf : ∀ i, -127 ≤ (f i).1 ∧ (f i).1 ≤ 127) {i : Nat} (hi : i < 4096) :
    counter (BitVec.ofNat 32768 (((List.range 4096).map f).foldr (fun v acc => (v.1 % 256).toNat + 256 * acc) 0)) i =
      (f i).1 := by
  have hdigit := foldr_digit (b := 256) (fun v : Int × Bool => (v.1 % 256).toNat) (fun v => by omega)
    ((List.range 4096).map f) i (by simpa using hi)
  rw [List.getElem_map, List.getElem_range] at hdigit
  obtain ⟨hl, hh⟩ := hf i
  rw [counter, extractLsb'_ofNat (by omega), BitVec.toInt_eq_toNat_cond, BitVec.toNat_ofNat, Nat.pow_mul,
    show (2 : Nat) ^ 8 = 256 from rfl, hdigit]
  split <;> omega

theorem bundleStep_eq (k : Bundle) (h : HVec) (wt : BitVec 3) (neg : Bool) (i : Nat) :
    let t := counter k i + (if h.getLsbD i != neg then (wt.toNat : Int) else -(wt.toNat : Int))
    bundleStep k h wt neg i = (max (-127) (min 127 t), decide (127 < t ∨ t < -127)) := by
  intro t
  have hclamp : clampInt (-127) 127 t = max (-127) (min 127 t) := by
    unfold clampInt
    split
    · omega
    · split <;> omega
  have hne : (clampInt (-127) 127 t != t) = decide (127 < t ∨ t < -127) := by
    rw [hclamp, Bool.eq_iff_iff, bne_iff_ne, decide_eq_true_eq]
    omega
  exact Prod.ext hclamp hne

theorem getLsbD_rotateLeft_mod (x : HVec) (amt : BitVec 12) {i : Nat} (hi : i < 4096) :
    (x.rotateLeft amt.toNat).getLsbD ((i + amt.toNat) % 4096) = x.getLsbD i := by
  have hamt : amt.toNat < 4096 := amt.isLt
  rw [BitVec.getLsbD_rotateLeft, Nat.mod_eq_of_lt hamt]
  by_cases hwrap : i + amt.toNat < 4096
  · rw [Nat.mod_eq_of_lt hwrap, decide_eq_false (by omega), decide_eq_true hwrap, Nat.add_sub_cancel,
      cond_false, Bool.true_and]
  · rw [show (i + amt.toNat) % 4096 = i + amt.toNat - 4096 by omega, decide_eq_true (by omega), cond_true]
    rw [show 4096 - amt.toNat + (i + amt.toNat - 4096) = i by omega]

/-! ### Rows of a hypervector -/

theorem leNat_append (a b : List Byte) : leNat (a ++ b) = leNat a + 256 ^ a.length * leNat b := by
  induction a with
  | nil => simp [leNat]
  | cons x a ih => rw [List.cons_append, leNat, leNat, ih, List.length_cons]; ring

theorem leNat_lanes (l : List Lane) :
    leNat (l.flatMap fun x => leBytes 4 x.toNat) = l.foldr (fun x acc => x.toNat + 2 ^ 32 * acc) 0 := by
  induction l with
  | nil => rfl
  | cons x l ih =>
    rw [List.flatMap_cons, leNat_append, length_leBytes, leNat_leBytes, ih, Nat.mod_eq_of_lt (show x.toNat < 256 ^ 4 from x.isLt)]
    rfl

/-- The lanes of rows, row by row. -/
def rowLanes (rows : List Lanes) : List Lane := rows.flatMap fun v => v.toList

/-- A bit of a hypervector is one of a lane of its rows. -/
theorem getLsbD_rowsToHv (rows : List Lanes) {k i : Nat} (hk : k < (rowLanes rows).length) (hi : i < 32)
    (h : 32 * k + i < 4096) : (rowsToHv rows).getLsbD (32 * k + i) = (rowLanes rows)[k].getLsbD i := by
  have hdigit := foldr_digit (b := 2 ^ 32) (fun x : Lane => x.toNat) (fun x => x.isLt) (rowLanes rows) k hk
  rw [rowsToHv, ← List.flatMap_assoc, leNat_lanes, BitVec.getLsbD_ofNat, decide_eq_true h, Bool.true_and,
    ← BitVec.testBit_toNat, ← hdigit, ← Nat.pow_mul, Nat.testBit_mod_two_pow, decide_eq_true hi, Bool.true_and, Nat.testBit_div_two_pow,
    Nat.add_comm]
  rfl

theorem getLsbD_fourRows (v0 v1 v2 v3 : Lanes) (l : LaneIx) {i : Nat} (hi : i < 32) :
    let r := rowsToHv [v0, v1, v2, v3]
    r.getLsbD (32 * l.val + i) = (lane v0 l).getLsbD i ∧ r.getLsbD (1024 + 32 * l.val + i) = (lane v1 l).getLsbD i ∧
    r.getLsbD (2048 + 32 * l.val + i) = (lane v2 l).getLsbD i ∧
    r.getLsbD (3072 + 32 * l.val + i) = (lane v3 l).getLsbD i := by
  intro r
  have hl := l.isLt
  have hbit := fun k hk h => getLsbD_rowsToHv [v0, v1, v2, v3] (k := k) hk hi h
  have hlen : (rowLanes [v0, v1, v2, v3]).length = 128 := by simp [rowLanes]
  refine ⟨?_, ?_, ?_, ?_⟩
  · rw [hbit l.val (by omega) (by omega)]
    simp [lane, rowLanes]
  · rw [show 1024 + 32 * l.val + i = 32 * (32 + l.val) + i by ring, hbit (32 + l.val) (by omega) (by omega)]
    simp [lane, rowLanes]
  · rw [show 2048 + 32 * l.val + i = 32 * (64 + l.val) + i by ring, hbit (64 + l.val) (by omega) (by omega)]
    simp [lane, rowLanes, List.getElem_append, show ¬ 64 + l.val < 32 by omega, show 64 + l.val - 32 = 32 + l.val by omega]
  · rw [show 3072 + 32 * l.val + i = 32 * (96 + l.val) + i by ring, hbit (96 + l.val) (by omega) (by omega)]
    simp [lane, rowLanes, List.getElem_append, show ¬ 96 + l.val < 32 by omega, show 96 + l.val - 32 = 64 + l.val by omega,
      show ¬ 64 + l.val < 32 by omega, show 64 + l.val - 32 = 32 + l.val by omega]

/-! ### The nearest entry -/

theorem nearest_append (q : HVec) (es : List (Nat × HVec)) (v : Nat × HVec) : nearest q (es ++ [v]) =
    match nearest q es with
    | some (i, best) => if popBits (q ^^^ v.2) < best then some (v.1, popBits (q ^^^ v.2)) else some (i, best)
    | none => some (v.1, popBits (q ^^^ v.2)) := by
  rw [nearest, List.foldl_append]
  rfl

/-- Of entries by rising index the search finds the nearest. -/
theorem nearest_spec (q : HVec) (es : List (Nat × HVec)) (hs : (es.map (·.1)).Pairwise (· < ·)) :
    (es = [] ∧ nearest q es = none) ∨ ∃ v, Nearest q es v ∧ nearest q es = some (v.1, popBits (q ^^^ v.2)) := by
  induction es using List.reverseRecOn with
  | nil => exact .inl ⟨rfl, rfl⟩
  | append_singleton es v ih =>
    right
    rw [List.map_append, List.pairwise_append] at hs
    obtain ⟨hes, -, hlast⟩ := hs
    have hbelow : ∀ u ∈ es, u.1 < v.1 := fun u hu => hlast u.1 (List.mem_map_of_mem hu) v.1 (by simp)
    rw [nearest_append]
    obtain ⟨rfl, hn⟩ | ⟨b, ⟨hb, hmin⟩, hn⟩ := ih hes
    · rw [hn]
      exact ⟨v, ⟨by simp, by simp⟩, rfl⟩
    · rw [hn]
      dsimp only
      split
      · next hlt =>
        refine ⟨v, ⟨by simp, fun u hu => ?_⟩, rfl⟩
        obtain hu | hu := List.mem_append.mp hu
        · have := hmin u hu
          omega
        · rw [List.mem_singleton.mp hu]
          exact .inr ⟨rfl, le_rfl⟩
      · next hge =>
        refine ⟨b, ⟨List.mem_append_left _ hb, fun u hu => ?_⟩, rfl⟩
        obtain hu | hu := List.mem_append.mp hu
        · exact hmin u hu
        · rw [List.mem_singleton.mp hu]
          have := hbelow b hb
          omega

theorem popBits_eq {n : Nat} (x : BitVec n) : popBits x = ((List.range n).filter fun i => x.getLsbD i).length :=
  List.countP_eq_length_filter

/-! ### How a hypervector word ends -/

theorem wfHv_ty {c : LCtl} (h : wfHv c = true) : c.ty ≠ 8 := by
  simp only [wfHv, Bool.and_eq_true, beq_iff_eq] at h
  rw [h.1]
  decide

section
variable {s : State} {c : LCtl} {disp : Dispatch} {act e : Mask} (ha : LaneActs s c disp act e)
variable (hv : (recordOf s s.me).hv = true)
variable {k : LKind} {i : Instr} {body : LM Unit} (hk : k.commits = true → uncommitted s s.me = none) (hw : i.wf = true)

include hv in
theorem run_needHv : needHv.run (started s c disp act e) = .ok ((), started s c disp act e) := by
  rw [needHv, run_get_bind, if_pos (show (recordOf (started s c disp act e).s (started s c disp act e).s.me).hv = true from hv)]
  rfl

include ha hv hk hw

theorem hvWord_done {t : LSt} (hb : body.run (started s c disp act e) = .ok ((), t)) :
    hvWord k i c body s = .next (laneFinish k c t) := by
  rw [hvWord, hw]
  exact laneWord_done ha hk ((run_bind_ok _ (run_needHv hv)).trans hb)

theorem hvWord_waits {reads : List WinRead} (hb : body.run (started s c disp act e) = .error (.waits reads)) :
    hvWord k i c body s = .next { s.setMe { s.me with reads := reads } with waited := true } := by
  rw [hvWord, hw]
  exact laneWord_waits ha hk ((run_bind_ok _ (run_needHv hv)).trans hb)

theorem hvWord_raises {u : State} {r : Raise} {sites : List EccSite} {popped : List (Nat × DqEntry)}
    (hb : body.run (started s c disp act e) = .error (.raises u r sites popped)) :
    hvWord k i c body s = raiseLane s u disp.addr r sites popped := by
  rw [hvWord, hw]
  exact laneWord_raises ha hk ((run_bind_ok _ (run_needHv hv)).trans hb)
end

/-! ### The words on registers -/

section
variable {s : State} {c : LCtl} {disp : Dispatch} {act e : Mask} (acts : LaneActs s c disp act e)
variable (hv : (recordOf s s.me).hv = true) {ha hb hd : BitVec 3} {k : BitVec 1} {x y : HVec} {b : Bundle} {st st1 : LSt}

theorem run_fourNames {n : Nat} (h : n + 3 < privNames st.s st.s.me) (hn : n < 256) :
    (fourNames n).run st = .ok ((), st) := by
  rw [fourNames, run_get_bind, if_pos ⟨h, hn⟩]
  rfl

include acts hv

theorem execHxor_acts (h : Got (do let x ← readHv ha; let y ← readHv hb; pure (x, y)) (started s c disp act e) (x, y) st)
    (hw : (Instr.hxor c hd ha hb).wf = true) : exec (.hxor c hd ha hb) s =
      .next (laneFinish (.fixed 4) c { st with writes := st.writes ++ [.hv hd.toNat (x ^^^ y)] }) := by
  obtain ⟨u, hx, hy⟩ := got_two h
  rw [exec, execHxor]
  refine hvWord_done acts hv (by simp) hw ?_
  rw [run_bind_ok _ hx, run_bind_ok _ hy, run_bind_ok _ h.settle]
  rfl

theorem execHdist_acts {d : Opnd} {dst : Dst}
    (h : Got (do let dst ← prepare false d; let x ← readHv ha; let y ← readHv hb; pure (dst, x, y))
      (started s c disp act e) (dst, x, y) st)
    (hw : (Instr.hdist c d ha hb).wf = true) : exec (.hdist c d ha hb) s =
      .next (laneFinish (.fixed 8) c (emitted st c.ty dst fun _ =>
        BitVec.ofNat 64 ((List.range 4096).filter fun i => (x ^^^ y).getLsbD i).length)) := by
  obtain ⟨_, _, hp, h'⟩ := run_bind_eq_ok h.1
  obtain ⟨_, _, hx, h'⟩ := run_bind_eq_ok h'
  obtain ⟨_, _, hy, h'⟩ := run_bind_eq_ok h'
  cases h'
  have hty : c.ty ≠ 8 := wfHv_ty (Bool.and_eq_true_iff.mp hw).1
  rw [exec, execHdist]
  refine hvWord_done acts hv (by simp) hw ?_
  rw [run_bind_ok _ hp, run_bind_ok _ hx, run_bind_ok _ hy, run_bind_ok _ h.settle, run_emit_single hty, popBits_eq]

theorem execHrot_acts {amt : BitVec 12} (h : Got (readHv ha) (started s c disp act e) x st)
    (hw : (Instr.hrot c hd ha amt).wf = true) : exec (.hrot c hd ha amt) s =
      .next (laneFinish (.fixed 4) c { st with writes := st.writes ++ [.hv hd.toNat (x.rotateLeft amt.toNat)] }) := by
  rw [exec, execHrot]
  refine hvWord_done acts hv (by simp) hw ?_
  rw [run_bind_ok _ h.1, run_bind_ok _ h.settle]
  rfl

/-- The accumulator after a step of HBUN (R246). -/
def bundled (b : Bundle) (x : HVec) (wt : BitVec 3) (neg : Bool) : Bundle :=
  BitVec.ofNat 32768 (((List.range 4096).map (bundleStep b x wt neg)).foldr (fun v acc => (v.1 % 256).toNat + 256 * acc) 0)

/-- Where the tie of HTHR stands, its bit; elsewhere the counter's sign (R246). -/
def thresholdBit (b : Bundle) (x : HVec) (i : Nat) : Bool :=
  if 0 < counter b i then true else if counter b i < 0 then false else x.getLsbD i

theorem execHbun_acts {wt : BitVec 3} {neg : Bool} (hx : Got (readHv ha) (started s c disp act e) x st)
    (hy : Got (readBun k) st b st1) (hw : (Instr.hbun c ha k wt neg).wf = true) : exec (.hbun c ha k wt neg) s =
      .next (laneFinish (.fixed 6) c { st1 with
        writes := st1.writes ++ [.bun k.toNat (bundled b x wt neg)]
        flags := if ((List.range 4096).map (bundleStep b x wt neg)).any (·.2) then st1.flags ||| fHSAT else st1.flags }) := by
  rw [exec, execHbun]
  refine hvWord_done acts hv (by simp) hw ?_
  rw [run_bind_ok _ hx.1, run_bind_ok _ hy.1, run_bind_ok _ hy.settle]
  dsimp only
  split
  · rw [run_bind_ok _ (run_raiseFlags _)]
    rfl
  · rfl

theorem execHthr_acts (hx : Got (readHv ha) (started s c disp act e) x st) (hy : Got (readBun k) st b st1)
    (hw : (Instr.hthr c hd ha k).wf = true) : exec (.hthr c hd ha k) s =
      .next (laneFinish (.fixed 6) c { st1 with writes := st1.writes ++ [.hv hd.toNat (BitVec.ofNat 4096
        ((List.range 4096).foldr (fun i acc => (thresholdBit b x i).toNat + 2 * acc) 0))] }) := by
  rw [exec, execHthr]
  refine hvWord_done acts hv (by simp) hw ?_
  rw [run_bind_ok _ hx.1, run_bind_ok _ hy.1, run_bind_ok _ hy.settle]
  rfl

theorem execHkclr_acts (hw : (Instr.hkclr c k).wf = true) : exec (.hkclr c k) s =
    .next (laneFinish (.fixed 4) c { started s c disp act e with
      writes := (started s c disp act e).writes ++ [.bun k.toNat 0] }) := by
  rw [exec, execHkclr]
  refine hvWord_done acts hv (by simp) hw ?_
  rw [run_bind_ok _ (run_settle_ok rfl rfl rfl)]
  rfl

theorem execHfromv_acts {n : BitVec 11} {v0 v1 v2 v3 : Lanes} (hn : n.toNat + 3 < privNames s s.me) (hn' : n.toNat < 256)
    (h : Got (do
      let need ← needWhole
      let v0 ← readName n.toNat need
      let v1 ← readName (n.toNat + 1) need
      let v2 ← readName (n.toNat + 2) need
      let v3 ← readName (n.toNat + 3) need
      pure (v0, v1, v2, v3)) (started s c disp act e) (v0, v1, v2, v3) st)
    (hw : (Instr.hfromv c (.v n) hd).wf = true) : exec (.hfromv c (.v n) hd) s =
      .next (laneFinish (.fixed 4) c { st with writes := st.writes ++ [.hv hd.toNat (rowsToHv [v0, v1, v2, v3])] }) := by
  obtain ⟨_, _, hneed, h'⟩ := run_bind_eq_ok h.1
  obtain ⟨_, _, h0, h'⟩ := run_bind_eq_ok h'
  obtain ⟨_, _, h1, h'⟩ := run_bind_eq_ok h'
  obtain ⟨_, _, h2, h'⟩ := run_bind_eq_ok h'
  obtain ⟨_, _, h3, h'⟩ := run_bind_eq_ok h'
  cases h'
  rw [exec, execHfromv]
  refine hvWord_done acts hv (by simp) hw ?_
  dsimp only [mainIx]
  rw [run_bind_ok _ (run_fourNames hn hn'), run_bind_ok _ hneed, run_bind_ok _ h0, run_bind_ok _ h1, run_bind_ok _ h2,
    run_bind_ok _ h3, run_bind_ok _ h.settle]
  rfl

theorem execHtov_acts {n : BitVec 11} (hn : n.toNat + 3 < privNames s s.me) (hn' : n.toNat < 256)
    (h : Got (readHv ha) (started s c disp act e) x st) (hw : (Instr.htov c (.v n) ha).wf = true) :
    exec (.htov c (.v n) ha) s = .next (laneFinish (.fixed 4) c { st with
      writes := st.writes ++ (List.range 4).map fun r => .vec (.main (n.toNat + r)) 0xFFFF_FFFF (hvRow x r)
      shift := .one e (hvRow x 0) }) := by
  have he : st.e = e := (keeps_readHv ha _ _ _ h.1).e
  rw [exec, execHtov]
  refine hvWord_done acts hv (by simp) hw ?_
  dsimp only [mainIx]
  rw [run_bind_ok _ (run_fourNames hn hn'), run_bind_ok _ h.1, run_bind_ok _ h.settle, run_modify, he]
end

/-! ### The words that access memory and the vault -/

section
variable {s : State} {c : LCtl} {disp : Dispatch} {act e : Mask} (acts : LaneActs s c disp act e)
variable (hv : (recordOf s s.me).hv = true)
variable {a : Opnd} {base : BitVec 3} {scale : BitVec 2} {h : BitVec 3} {off : BitVec 13} {ix : Vals} {x q : HVec}
variable {spots : List Spot} {st u : LSt}
include acts hv

theorem execHld_reads (hx : (readE false a).run (started s c disp act e) = .ok (ix, u)) (hy : sync.run u = .ok ((), u))
    (hc : (hvSpots .read (hvAddr disp base scale ix e off)).run u = .ok (spots, st))
    (hw : (Instr.hld c a base scale h off).wf = true) (hf : fenceHeld s s.me = false) :
    exec (.hld c a base scale h off) s = .next (laneFinish .memory c { st with writes := st.writes ++ [.hv h.toNat
      (BitVec.ofNat 4096 (leNat (spots.flatMap fun p => seeBytes st.s st.s.me p 4)))] }) := by
  have hs : Stays (started s c disp act e) u := keeps_readE _ _ _ _ _ hx
  have hfence := (stays_fenceHeld hs).trans hf
  rw [exec, execHld]
  refine hvWord_done acts hv (by simp) hw ?_
  rw [run_bind_ok _ hx, run_bind_ok _ hy, run_get_bind, hfence, hs.disp, hs.e]
  refine (run_bind_ok _ hc).trans ?_
  rfl

theorem execHld_held (hx : (readE false a).run (started s c disp act e) = .ok (ix, u)) (hy : sync.run u = .ok ((), u))
    (hw : (Instr.hld c a base scale h off).wf = true) (hf : fenceHeld s s.me = true) : exec (.hld c a base scale h off) s =
      .next { s.setMe { s.me with reads := u.s.me.reads } with waited := true } := by
  have hs : Stays (started s c disp act e) u := keeps_readE _ _ _ _ _ hx
  have hfence := (stays_fenceHeld hs).trans hf
  rw [exec, execHld]
  refine hvWord_waits acts hv (by simp) hw ?_
  rw [run_bind_ok _ hx, run_bind_ok _ hy, run_get_bind, hfence]
  rfl

theorem execHst_writes {v : LSt} {t : State} (hx : (readE false a).run (started s c disp act e) = .ok (ix, v))
    (hh : (readHv h).run v = .ok (x, u)) (hy : sync.run u = .ok ((), u))
    (hc : (hvSpots .write (hvAddr disp base scale ix e off)).run u = .ok (spots, st))
    (hw : (Instr.hst c a base scale h off).wf = true)
    (ht : StoresTo st.s st.s 4 (spots.zipIdx.map fun w => (w.1, leBytes 4 (x.extractLsb' (32 * w.2) 32 : Lane).toNat)) t) :
    exec (.hst c a base scale h off) s = .next (laneFinish .memory c { st with s := t }) := by
  have hs : Stays (started s c disp act e) u :=
    stays_trans (keeps_readE _ _ _ _ _ hx) (keeps_readHv _ _ _ _ hh)
  rw [exec, execHst]
  refine hvWord_done acts hv (by simp) hw ?_
  rw [run_bind_ok _ hx, run_bind_ok _ hh, run_bind_ok _ hy, run_get_bind, hs.disp, hs.e]
  refine (run_bind_ok _ hc).trans ?_
  exact run_laneStore ht

/-- The operands of HNEAR. -/
def nearOps (d a : Opnd) (b : BSrc) (h : BitVec 3) : LM (Dst × Vals × Vals × HVec) := do
  let dst ← prepare false d
  let x ← readE false a
  let n ← readB false b
  let q ← readHv h
  pure (dst, x, n, q)

omit acts hv in
theorem nearOps_eq_ok {d : Opnd} {b : BSrc} {dst : Dst} {ix n : Vals}
    (hg : (nearOps d a b h).run u = .ok ((dst, ix, n, q), st)) :
    Stays u st ∧ ∃ v₁ v₂ v₃, (prepare false d).run u = .ok (dst, v₁) ∧ (readE false a).run v₁ = .ok (ix, v₂) ∧
      (readB false b).run v₂ = .ok (n, v₃) ∧ (readHv h).run v₃ = .ok (q, st) := by
  obtain ⟨_, _, hd, hg⟩ := run_bind_eq_ok hg
  obtain ⟨_, _, hx, hg⟩ := run_bind_eq_ok hg
  obtain ⟨_, _, hn, hg⟩ := run_bind_eq_ok hg
  obtain ⟨_, _, hq, hg⟩ := run_bind_eq_ok hg
  cases hg
  exact ⟨stays_trans (stays_trans (stays_trans (keeps_prepare _ _ _ _ _ hd) (keeps_readE _ _ _ _ _ hx))
    (keeps_readB _ _ _ _ _ hn)) (keeps_readHv _ _ _ _ hq), _, _, _, hd, hx, hn, hq⟩

variable {d : Opnd} {b : BSrc} {dst : Dst} {n : Vals}

/-- The entries of the vault from `lo` up to, not including, `hi` (R248). -/
def vaultRange (s : State) (lo hi : Nat) : List (Nat × HVec) :=
  (s.clusterAt (clusterOf (coreOf s.cur))).vault.filter fun v => decide (lo ≤ v.1 ∧ v.1 < hi)

/-- The four lanes of HNEAR: the nearest entry and its distance, the distance of the second and its entry (R248). -/
def nearLanes (q : HVec) (es : List (Nat × HVec)) : List Nat :=
  let first := nearest q es
  let second := nearest q (es.filter fun e => (first.map (·.1)) != some e.1)
  [(first.map (·.1)).getD 0xFFFF_FFFF, (first.map (·.2)).getD 4097, (second.map (·.2)).getD 4097,
    (second.map (·.1)).getD 0xFFFF_FFFF]

theorem execHnear_held (hg : Got (nearOps d a b h) (started s c disp act e) (dst, ix, n, q) st)
    (hw : (Instr.hnear c d a b h).wf = true) (hf : fenceHeld s s.me = true) : exec (.hnear c d a b h) s =
      .next { s.setMe { s.me with reads := st.s.me.reads } with waited := true } := by
  obtain ⟨hs, v₁, v₂, v₃, hd, hx, hn, hq⟩ := nearOps_eq_ok hg.1
  have hfence := (stays_fenceHeld hs).trans hf
  rw [exec, execHnear]
  refine hvWord_waits acts hv (by simp) hw ?_
  rw [run_bind_ok _ hd, run_bind_ok _ hx, run_bind_ok _ hn, run_bind_ok _ hq, run_bind_ok _ (run_sync_ok hg.2.2.1),
    run_get_bind, hfence]
  rfl

theorem execHnear_finds (hg : Got (nearOps d a b h) (started s c disp act e) (dst, ix, n, q) st)
    (hw : (Instr.hnear c d a b h).wf = true) (hf : fenceHeld s s.me = false) :
    let lo := (ix (lowest e)).toNat % 2 ^ 32
    exec (.hnear c d a b h) s = .next (laneFinish .memory c (emitted st c.ty dst fun i =>
      BitVec.ofNat 64 ((nearLanes q (vaultRange s lo (lo + (n (lowest e)).toNat % 2 ^ 32))).getD i.val 0))) := by
  obtain ⟨hs, v₁, v₂, v₃, hd, hx, hn, hq⟩ := nearOps_eq_ok hg.1
  have hfence := (stays_fenceHeld hs).trans hf
  have hty : c.ty ≠ 8 := by
    simp only [Instr.wf, Bool.and_eq_true] at hw
    obtain ⟨⟨⟨hword, -⟩, -⟩, -⟩ := hw
    exact wfHv_ty hword
  have hvault : (st.s.clusterAt (clusterOf (coreOf st.s.cur))).vault = (s.clusterAt (clusterOf (coreOf s.cur))).vault := by
    obtain h | ⟨w, h⟩ := hs.only <;> rw [h] <;> rfl
  rw [exec, execHnear]
  refine hvWord_done acts hv (by simp) hw ?_
  rw [run_bind_ok _ hd, run_bind_ok _ hx, run_bind_ok _ hn, run_bind_ok _ hq, run_bind_ok _ (run_sync_ok hg.2.2.1),
    run_get_bind, hfence, hs.e, hvault]
  refine (run_bind_ok _ hg.settle).trans ?_
  rw [run_emit_single hty]
  simp only [BitVec.toNat_setWidth]
  rfl

/-- The operands of HPUT. -/
def putOps (b : BSrc) (h : BitVec 3) : LM (Vals × HVec) := do
  let n ← readB false b
  let x ← readHv h
  pure (n, x)

variable (hu : uncommitted s s.me = none) (hg : Got (putOps b h) (started s c disp act e) (n, x) st)
variable (hw : (Instr.hput c b h).wf = true)
include hu hg hw

omit acts hv hu hw in
theorem putOps_got : Stays (started s c disp act e) st ∧
    ∃ v, (readB false b).run (started s c disp act e) = .ok (n, v) ∧ (readHv h).run v = .ok (x, st) := by
  obtain ⟨v, hn, hx⟩ := got_two hg
  exact ⟨stays_trans (keeps_readB _ _ _ _ _ hn) (keeps_readHv _ _ _ _ hx), v, hn, hx⟩

variable {i cl : Nat} (hi : (n (lowest e)).toNat % 2 ^ 32 = i) (hcl : clusterOf (coreOf st.s.cur) = cl)
include hi hcl

theorem execHput_puts (hlt : i < 8192) (hf : st.s.fenced.contains (.vaultEntry cl i) = false)
    (ht : st.s.testing.contains (.vaultEntry cl i) = false) :
    exec (.hput c b h) s = .next (laneFinish ⟨none, false, true⟩ c { st with
      s := st.s.setCluster cl { st.s.clusterAt cl with vault := Tbl.set (st.s.clusterAt cl).vault i x } }) := by
  obtain ⟨hs, v, hn, hx⟩ := putOps_got hg
  have hopen : (decide (Config.vaultEntries ≤ i) || vaultFenced st.s cl i) = false := by
    rw [vaultFenced, hf, Bool.or_false, decide_eq_false_iff_not]
    exact Nat.not_le.mpr hlt
  rw [exec, execHput]
  refine hvWord_done acts hv (fun _ => hu) hw ?_
  rw [run_bind_ok _ hn, run_bind_ok _ hx, run_bind_ok _ (run_sync_ok hg.2.2.1), run_get_bind, show st.e = e from hs.e]
  simp only [BitVec.toNat_setWidth, hi, hcl, hopen, ht, Bool.false_eq_true, if_false]
  exact run_bind_ok _ hg.settle

/-- An entry under a self-test is waited for (R305; DEDUCED, log entry 66). -/
theorem execHput_waits (hlt : i < 8192) (hf : st.s.fenced.contains (.vaultEntry cl i) = false)
    (ht : st.s.testing.contains (.vaultEntry cl i) = true) :
    exec (.hput c b h) s = .next { s.setMe { s.me with reads := st.s.me.reads } with waited := true } := by
  obtain ⟨hs, v, hn, hx⟩ := putOps_got hg
  have hopen : (decide (Config.vaultEntries ≤ i) || vaultFenced st.s cl i) = false := by
    rw [vaultFenced, hf, Bool.or_false, decide_eq_false_iff_not]
    exact Nat.not_le.mpr hlt
  rw [exec, execHput]
  refine hvWord_waits acts hv (fun _ => hu) hw ?_
  rw [run_bind_ok _ hn, run_bind_ok _ hx, run_bind_ok _ (run_sync_ok hg.2.2.1), run_get_bind, show st.e = e from hs.e]
  simp only [BitVec.toNat_setWidth, hi, hcl, hopen, ht, Bool.false_eq_true, if_false, if_true]
  exact run_bind_ok _ hg.settle

theorem execHput_raises (h8 : 8192 ≤ i ∨ st.s.fenced.contains (.vaultEntry cl i) = true) :
    exec (.hput c b h) s =
      raiseLane s st.s disp.addr ⟨cENGINE, 0, 1#32 <<< (lowest e).val, false⟩ [] st.popped := by
  obtain ⟨hs, v, hn, hx⟩ := putOps_got hg
  have hshut : (decide (Config.vaultEntries ≤ i) || vaultFenced st.s cl i) = true := by
    rwa [vaultFenced, Bool.or_eq_true, decide_eq_true_eq]
  have hlead : 1#32 <<< (lowest e).val ≠ 0 := by
    intro h0
    have hbit := shift_one_bit (lowest e) (lowest e)
    rw [h0] at hbit
    simp at hbit
  rw [exec, execHput]
  refine hvWord_raises acts hv (fun _ => hu) hw ?_
  rw [run_bind_ok _ hn, run_bind_ok _ hx, run_bind_ok _ (run_sync_ok hg.2.2.1), run_get_bind, show st.e = e from hs.e]
  simp only [BitVec.toNat_setWidth, hi, hcl, hshut, if_true]
  refine (run_bind_ok _ (run_note_first hlead hg.2.1)).trans ?_
  exact run_bind_error _ (run_settle_raises rfl hg.2.2.1)
end

/-! ### What HNEAR finds -/

theorem nearLanes_nil (q : HVec) : nearLanes q [] = [0xFFFF_FFFF, 4097, 4097, 0xFFFF_FFFF] := rfl

/-- The nearest entry, then the nearest of the others. -/
theorem nearLanes_spec (q : HVec) {es : List (Nat × HVec)} (hs : (es.map (·.1)).Pairwise (· < ·)) (hne : es ≠ []) :
    ∃ v, Nearest q es v ∧ let rest := es.filter fun u => u.1 != v.1
      (rest = [] ∧ nearLanes q es = [v.1, popBits (q ^^^ v.2), 4097, 0xFFFF_FFFF]) ∨
      ∃ u, rest ≠ [] ∧ Nearest q rest u ∧ nearLanes q es = [v.1, popBits (q ^^^ v.2), popBits (q ^^^ u.2), u.1] := by
  obtain ⟨h, -⟩ | ⟨v, hv, hn⟩ := nearest_spec q es hs
  · exact absurd h hne
  have hothers : (es.filter fun u => (some v.1) != some u.1) = es.filter fun u => u.1 != v.1 :=
    List.filter_congr fun u _ => by
      rw [Bool.eq_iff_iff, bne_iff_ne, bne_iff_ne, ne_eq, Option.some.injEq]
      exact not_congr eq_comm
  refine ⟨v, hv, ?_⟩
  have hrest : ((es.filter fun u => u.1 != v.1).map (·.1)).Pairwise (· < ·) := hs.sublist (List.filter_sublist.map _)
  simp only [nearLanes, hn, Option.map_some, hothers]
  obtain ⟨h, hm⟩ | ⟨u, hu, hm⟩ := nearest_spec q _ hrest
  · exact .inl ⟨h, by simp only [hm, Option.map_none, Option.getD_none, Option.getD_some]⟩
  · exact .inr ⟨u, List.ne_nil_of_mem hu.1, hu, by simp only [hm, Option.map_some, Option.getD_some]⟩

end Sys2Proof.Machine
namespace Sys2Proof.Certificates
open Sys2Proof.Machine

/-- Settles O49, word by word: the bits by `getLsbD_ofBits`, `counter_ofCounters` and `getLsbD_fourRows`, HNEAR by
`nearLanes_spec`. -/
theorem hypervectors : Obligations.Hypervectors := by
  unfold Obligations.Hypervectors
  intro s c disp act e acts hv st0 ends writes
  refine ⟨fun ha hb x y st hg => ⟨fun hd hw => execHxor_acts acts hv hg hw, fun d dst st1 hg hw => execHdist_acts acts hv hg hw⟩,
    fun ha x st hx => ⟨fun hd amt => ?_, fun k y st1 wt neg hy => ?_, fun k y st1 hd hy => ?_⟩,
    fun k hw => execHkclr_acts acts hv hw, fun n hn hn' => ⟨fun h v0 v1 v2 v3 st hg => ?_, fun h x st hg hw => ?_⟩,
    fun a base scale h off ix => ⟨fun spots st hg hw hf => ?_, fun st hg hw hf => ?_, fun x spots st hg hw t ht => ?_⟩,
    fun d a b h dst x n q st hg hw => ⟨fun hf => ?_, ?_⟩, fun b h n x st hu hg hw => ⟨?_, ?_, ?_⟩⟩
  · exact ⟨_, fun i hi => getLsbD_rotateLeft_mod x amt hi, fun hw => execHrot_acts acts hv hx hw⟩
  · refine ⟨bundled y x wt neg, fun i hi => ?_, fun hw => ?_⟩
    · refine (counter_ofCounters _ (fun i => ?_) hi).trans (congrArg Prod.fst (bundleStep_eq y x wt neg i))
      rw [bundleStep_eq]
      omega
    · have hany : (((List.range 4096).map (bundleStep y x wt neg)).any (·.2) = true) = ∃ i ∈ List.range 4096,
          127 < counter y i + (if x.getLsbD i != neg then (wt.toNat : Int) else -(wt.toNat : Int)) ∨
            counter y i + (if x.getLsbD i != neg then (wt.toNat : Int) else -(wt.toNat : Int)) < -127 := by
        simp only [List.any_map, List.any_eq_true, Function.comp_apply, bundleStep_eq, decide_eq_true_eq]
      rw [execHbun_acts acts hv hx hy hw]
      simp only [hany]
  · exact ⟨_, fun i hi => getLsbD_ofBits (thresholdBit y x) hi, fun hw => execHthr_acts acts hv hx hy hw⟩
  · exact ⟨_, fun l i hi => getLsbD_fourRows v0 v1 v2 v3 l hi, fun hw => execHfromv_acts acts hv hn hn' hg hw⟩
  · exact execHtov_acts acts hv hn hn' hg hw
  · obtain ⟨_, _, hx, h'⟩ := run_bind_eq_ok hg.1
    obtain ⟨_, _, hy, h'⟩ := run_bind_eq_ok h'
    obtain ⟨_, _, hc, h'⟩ := run_bind_eq_ok h'
    cases h'
    have hblocked := sync_eq_ok hy
    obtain ⟨rfl, -⟩ := hblocked
    exact execHld_reads acts hv hx hy hc hw hf
  · obtain ⟨_, _, hx, h'⟩ := run_bind_eq_ok hg.1
    obtain ⟨_, _, hy, h'⟩ := run_bind_eq_ok h'
    cases h'
    obtain ⟨rfl, -⟩ := sync_eq_ok hy
    exact ⟨_, execHld_held acts hv hx hy hw hf⟩
  · obtain ⟨_, _, hx, h'⟩ := run_bind_eq_ok hg.1
    obtain ⟨_, _, hh, h'⟩ := run_bind_eq_ok h'
    obtain ⟨_, _, hy, h'⟩ := run_bind_eq_ok h'
    obtain ⟨_, _, hc, h'⟩ := run_bind_eq_ok h'
    cases h'
    obtain ⟨rfl, -⟩ := sync_eq_ok hy
    exact execHst_writes acts hv hx hh hy hc hw ht
  · exact ⟨_, execHnear_held acts hv hg hw hf⟩
  · intro lo hi vault es hs hf
    refine ⟨_, execHnear_finds acts hv hg hw hf, fun h0 => ?_, fun hne => ?_, fun l hl => ?_⟩
    · show BitVec.ofNat 64 ((nearLanes q es).getD 0 0) = _ ∧ BitVec.ofNat 64 ((nearLanes q es).getD 1 0) = _ ∧
        BitVec.ofNat 64 ((nearLanes q es).getD 2 0) = _ ∧ BitVec.ofNat 64 ((nearLanes q es).getD 3 0) = _
      rw [h0, nearLanes_nil]
      exact ⟨rfl, rfl, rfl, rfl⟩
    · obtain ⟨v, hv, hrest⟩ := nearLanes_spec q (hs.sublist (List.filter_sublist.map _)) hne
      refine ⟨v, hv, ?_⟩
      show BitVec.ofNat 64 ((nearLanes q es).getD 0 0) = _ ∧ BitVec.ofNat 64 ((nearLanes q es).getD 1 0) = _ ∧
        (_ → BitVec.ofNat 64 ((nearLanes q es).getD 2 0) = _ ∧ BitVec.ofNat 64 ((nearLanes q es).getD 3 0) = _) ∧
        (_ → ∃ u, _ ∧ BitVec.ofNat 64 ((nearLanes q es).getD 2 0) = _ ∧ BitVec.ofNat 64 ((nearLanes q es).getD 3 0) = _)
      obtain ⟨hnone, hl⟩ | ⟨u, hsome, hu, hl⟩ := hrest
      · rw [hl]
        simp only [List.getD_cons_succ, List.getD_cons_zero]
        exact ⟨trivial, trivial, fun _ => ⟨rfl, rfl⟩, fun h => absurd hnone h⟩
      · rw [hl]
        simp only [List.getD_cons_succ, List.getD_cons_zero]
        exact ⟨trivial, trivial, fun h => absurd h hsome, fun _ => ⟨u, hu, rfl, rfl⟩⟩
    · show BitVec.ofNat 64 ((nearLanes q es).getD l.val 0) = 0
      rw [List.getD_eq_default _ _ (show (nearLanes q es).length ≤ l.val from hl)]
      rfl
  · exact fun hlt hf ht => execHput_puts acts hv hu hg hw rfl rfl hlt hf ht
  · exact fun hlt hf ht => ⟨_, execHput_waits acts hv hu hg hw rfl rfl hlt hf ht⟩
  · exact fun h8 => execHput_raises acts hv hu hg hw rfl rfl h8

end Sys2Proof.Certificates
end

section
/-!
One lane word from its operands to its landed result (R37 to R40, R51 to R54, R100): what an operand of each kind reads with
nothing in flight and no storage in error, and VADD.i32.
-/
namespace Sys2Proof.Machine

/-! ### Reading with nothing in flight and no storage in error -/

section
variable {α : Type} {st : LSt} {need : Need}

theorem mask_zero_and (m : Mask) : (0 : Mask) &&& m = 0 := BitVec.zero_and

theorem run_noteEcc_nil (r : LReg) (row : Option (Nat × Nat)) (hb : need.blame 0 = 0) :
    (noteEcc r row need []).run st = .ok ((), st) := by
  refine run_note_zero (st := st) ?_
  show need.blame (0 &&& need.lanes) = 0
  rw [mask_zero_and, hb]

theorem run_checkEcc_clean (r : LReg) (row : Option (Nat × Nat)) (hclean : st.s.poison = []) (hb : need.blame 0 = 0) :
    (checkEcc r row need).run st = .ok ((), st) := by
  rw [checkEcc, run_get_bind, hclean]
  exact run_noteEcc_nil r row hb

theorem run_take_ready (x : α) (hb : need.blame 0 = 0) : (take need (.ready x)).run st = .ok (x, st) := by
  refine run_take_ok (x := .ready x) (mask_zero_and _) fun _ => ?_
  rw [show (Seen.ready x).early &&& need.lanes = 0 from mask_zero_and _, hb]

theorem run_settle_blocked (hb : st.blocked = true) : settle.run st = .error (.waits st.s.me.reads) := by
  simp [settle, sync, hb]
  rfl

theorem inMask_of_and_not {m p : Mask} (h : m &&& ~~~p = 0) {l : LaneIx} (hl : inMask m l = true) : inMask p l = true := by
  have hbit := congrArg (fun x : Mask => x.getLsbD l.val) h
  simp only [inMask] at hl ⊢
  simpa [hl, l.isLt] using hbit

variable (hclean : st.s.poison = []) (hidle : st.s.me.inflight = []) (hb : need.blame 0 = 0)
include hclean hidle hb

theorem run_readOper (i : Nat) : (readOper i need).run st = .ok (st.s.me.o.toList.getD i zeroLanes, st) := by
  rw [readOper, run_get_bind, run_bind_ok _ (run_checkEcc_clean _ _ hclean hb), hidle]
  exact run_take_ready _ hb

theorem run_readLast (i : Nat) : (readLast i need).run st = .ok (if i = 0 then st.s.me.l0 else st.s.me.l1, st) := by
  have hdue : st.s.dueShifts st.s.cur = st.s := by
    rw [State.dueShifts, show (st.s.warpAt st.s.cur).inflight = [] from hidle]
    rfl
  rw [readLast, run_get_bind, hdue, hclean, run_bind_ok _ (run_noteEcc_nil _ _ hb), hidle]
  dsimp only [seeLast]
  rw [← apply_ite Seen.ready]
  exact run_take_ready _ hb

theorem run_readName_main {i : Nat} (hi : i < 256) (hp : i < privNames st.s st.s.me) :
    (readName i need).run st = .ok (Tbl.get zeroLanes st.s.me.v i, st) := by
  rw [readName, run_get_bind]
  dsimp only
  rw [if_pos hi, if_pos hp, run_bind_ok _ (run_checkEcc_clean _ _ hclean hb), hidle]
  exact run_take_ready _ hb

theorem run_readName_host {i : Nat} (hi : 256 ≤ i) (hc : (recordOf st.s st.s.me).crew = true) (hs : st.s.me.stroke = none)
    (hh : st.s.me.hosts = none) : (readName i need).run st = .ok (Tbl.get zeroLanes st.s.me.host (i - 256), st) := by
  rw [readName, run_get_bind]
  dsimp only
  rw [if_neg (Nat.not_lt.mpr hi)]
  simp only [hc, hs, hh, Bool.not_true, Bool.false_eq_true, if_false, Option.isSome_none]
  rw [run_bind_ok _ (run_checkEcc_clean _ _ hclean hb), hidle]
  exact run_take_ready _ hb

omit hclean hidle hb in
/-- In a stroke a window name is read as the crew has it. -/
theorem run_readName_window {i c k : Nat} (hi : 256 ≤ i) (hc : (recordOf st.s st.s.me).crew = true)
    (hs : st.s.me.stroke = some (c, k)) : (readName i need).run st = (readWindow c k (i - 256) need).run st := by
  rw [readName, run_get_bind]
  dsimp only
  rw [if_neg (Nat.not_lt.mpr hi)]
  simp only [hc, hs, Bool.not_true, Bool.false_eq_true, if_false]

/-! ### Window slots (R38 to R40) -/

variable {c k j : Nat} (hj : j < (st.s.crewAt c).record.w)
include hj

/-- A stroke's own out-slot, its lanes needed present. -/
theorem run_readWindow_own (hown : j < (st.s.crewAt c).record.s)
    (hpres : need.lanes &&& ~~~(Tbl.get 0 (st.s.crewAt c).pres (slotOf (st.s.crewAt c).record k j)) = 0) :
    ∃ x, (readWindow c k j need).run st = .ok (x, st) ∧ ∀ l, inMask need.lanes l = true →
      lane x l = lane (Tbl.get zeroLanes (st.s.crewAt c).slots (slotOf (st.s.crewAt c).record k j)) l := by
  rw [readWindow, run_get_bind]
  dsimp only
  rw [if_neg (Nat.not_le.mpr hj), run_bind_ok _ (run_checkEcc_clean _ _ hclean hb), if_pos hown, hidle]
  generalize Tbl.get zeroLanes (st.s.crewAt c).slots (slotOf (st.s.crewAt c).record k j) = held
  generalize Tbl.get 0 (st.s.crewAt c).pres (slotOf (st.s.crewAt c).record k j) = pres at hpres ⊢
  have htake : ∃ x, (take need (match vacantValue (st.s.crewAt c) k j with
        | some v => Seen.ready (blend pres held v)
        | none => ⟨held, 0, ~~~pres⟩)).run st = .ok (x, st) ∧
      ∀ l, inMask need.lanes l = true → lane x l = lane held l := by
    split
    · refine ⟨_, run_take_ready _ hb, fun l hl => ?_⟩
      rw [lane_blend, if_pos (inMask_of_and_not hpres hl)]
    · refine ⟨held, run_take_ok (x := ⟨held, 0, ~~~pres⟩) ?_ fun _ => ?_, fun _ _ => rfl⟩
      · rwa [BitVec.and_comm]
      · rw [show (⟨held, 0, ~~~pres⟩ : Seen Lanes).early &&& need.lanes = 0 from mask_zero_and _, hb]
  obtain ⟨x, hx, hl⟩ := htake
  refine ⟨x, ?_, hl⟩
  split
  · rw [run_bind_ok _ (run_checkEcc_clean (need := ⟨need.lanes &&& ~~~pres, need.blame⟩) _ _ hclean hb)]
    exact hx
  · exact hx

omit hidle in
theorem run_readWindow_launched (hother : (st.s.crewAt c).record.s ≤ j)
    (hl : (st.s.crewAt c).launched ((k : Int) - (j / (st.s.crewAt c).record.s : Nat) +
      ((st.s.crewAt c).record.w / (st.s.crewAt c).record.s : Nat)) = true) : (readWindow c k j need).run st =
        .ok (Tbl.get zeroLanes (st.s.crewAt c).slots (slotOf (st.s.crewAt c).record k j), st) := by
  rw [readWindow, run_get_bind]
  dsimp only
  rw [if_neg (Nat.not_le.mpr hj), run_bind_ok _ (run_checkEcc_clean _ _ hclean hb), if_neg (Nat.not_lt.mpr hother), if_pos hl]
  rfl

omit hidle in
theorem run_readWindow_present (hother : (st.s.crewAt c).record.s ≤ j)
    (hl : (st.s.crewAt c).launched ((k : Int) - (j / (st.s.crewAt c).record.s : Nat) +
      ((st.s.crewAt c).record.w / (st.s.crewAt c).record.s : Nat)) = false) : (readWindow c k j need).run st =
        (readPresent (st.s.crewAt c) (slotOf (st.s.crewAt c).record k j) need).run st := by
  rw [readWindow, run_get_bind]
  dsimp only
  rw [if_neg (Nat.not_le.mpr hj), run_bind_ok _ (run_checkEcc_clean _ _ hclean hb), if_neg (Nat.not_lt.mpr hother), hl]
  rfl
end

/-! ### Waiting reads and pops -/

section
variable {st : LSt} {need : Need}

/-- A read of a window slot with the lanes that it still needs. -/
def readOf (w : Warp) (slot : Nat) (need : Need) : WinRead :=
  let old := (w.reads.find? (·.slot == slot)).getD ⟨slot, 0, 0, zeroLanes⟩
  { old with need := old.need ||| need.lanes }

/-- The warp with a read of a window slot among those that wait. -/
def Warp.reading (w : Warp) (cr : Crew) (slot : Nat) (need : Need) : Warp :=
  { w with reads := (readOf w slot need).feed cr :: w.reads.filter (·.slot != slot) }

theorem run_readPresent (cr : Crew) (slot : Nat) : (readPresent cr slot need).run st =
    .ok (((readOf st.s.me slot need).feed cr).vals, { st with
      s := st.s.setMe (st.s.me.reading cr slot need)
      blocked := st.blocked || need.lanes &&& ~~~((readOf st.s.me slot need).feed cr).got != 0 }) := by
  have hset : (set { st with s := st.s.setMe (st.s.me.reading cr slot need) } : LM PUnit).run st =
      .ok (⟨⟩, { st with s := st.s.setMe (st.s.me.reading cr slot need) }) := rfl
  rw [readPresent, run_get_bind]
  refine (run_bind_ok _ hset).trans ?_
  dsimp only
  split
  · next h =>
    have hwaits : (need.lanes &&& ~~~((readOf st.s.me slot need).feed cr).got != 0) = true := bne_iff_ne.mpr h
    rw [run_bind_ok _ run_block, hwaits, Bool.or_true]
    rfl
  · next h =>
    have hall : (need.lanes &&& ~~~((readOf st.s.me slot need).feed cr).got != 0) = false :=
      bne_eq_false_iff_eq.mpr (not_not.mp h)
    rw [hall, Bool.or_false]
    rfl

theorem run_popDq {q : Nat} {v : Lanes} {w : Warp} (h : st.s.me.nextEntry q = some (⟨v, none⟩, w)) :
    (popDq q).run st = .ok (v, { st with s := st.s.setMe w, popped := st.popped ++ [(q, ⟨v, none⟩)] }) := by
  simp only [popDq, run_get_bind, h]
  rfl

theorem run_popDq_waits {q : Nat} (h : st.s.me.nextEntry q = none) (hs : st.s.me.streaming q = true) :
    (popDq q).run st = .ok (zeroLanes, { st with blocked := true }) := by
  simp only [popDq, run_get_bind, h, hs]
  rfl

theorem takeHeld_none {q : Nat} {l : List (Nat × DqEntry)} (h : ∀ y ∈ l, y.1 ≠ q) : takeHeld q l = none := by
  induction l with
  | nil => rfl
  | cons x l ih =>
    rw [takeHeld, if_neg (h x List.mem_cons_self), ih fun y hy => h y (List.mem_cons_of_mem x hy)]
    rfl

theorem takeHeld_append {q : Nat} {x : DqEntry} {before after : List (Nat × DqEntry)} (h : ∀ y ∈ before, y.1 ≠ q) :
    takeHeld q (before ++ (q, x) :: after) = some (x, before ++ after) := by
  induction before with
  | nil => simp [takeHeld]
  | cons y l ih =>
    rw [List.cons_append, takeHeld, if_neg (h y List.mem_cons_self), ih fun z hz => h z (List.mem_cons_of_mem y hz)]
    rfl

theorem nextEntry_held {w : Warp} {q : Nat} {x : DqEntry} {before after : List (Nat × DqEntry)}
    (hw : w.held = before ++ (q, x) :: after) (h : ∀ y ∈ before, y.1 ≠ q) :
    w.nextEntry q = some (x, { w with held := before ++ after }) := by
  simp only [Warp.nextEntry, hw, takeHeld_append h]

theorem nextEntry_queue {w : Warp} (q : BitVec 2) {x : DqEntry} {rest : List DqEntry} (hw : ∀ y ∈ w.held, y.1 ≠ q.toNat)
    (h : w.dq[q.toNat].entries = x :: rest) : w.nextEntry q.toNat =
      some (x, { w with dq := w.dq.set q.toNat { w.dq[q.toNat] with entries := rest } }) := by
  have hq : w.dq.toList.getD q.toNat ⟨[], none⟩ = w.dq[q.toNat] := by
    rw [List.getD_eq_getElem?_getD]
    simp [q.isLt]
  simp only [Warp.nextEntry, takeHeld_none hw, hq, h]
  have hset : w.dq.setIfInBounds q.toNat { w.dq[q.toNat] with entries := rest } =
      w.dq.set q.toNat { w.dq[q.toNat] with entries := rest } :=
    Vector.ext fun i hi => by rw [Vector.getElem_setIfInBounds, Vector.getElem_set]
  rw [← hset]

theorem nextEntry_empty {w : Warp} (q : BitVec 2) {x : Stream} (hw : ∀ y ∈ w.held, y.1 ≠ q.toNat)
    (h : w.dq[q.toNat] = ⟨[], some x⟩) : w.nextEntry q.toNat = none ∧ w.streaming q.toNat = true := by
  have hq : w.dq.toList.getD q.toNat ⟨[], none⟩ = ⟨[], some x⟩ := by
    rw [List.getD_eq_getElem?_getD, ← h]
    simp [q.isLt]
  simp only [Warp.nextEntry, takeHeld_none hw, Warp.streaming, hq]
  exact ⟨trivial, rfl⟩
end

/-! ### A machine in which a word reads its operands -/

/-- What a waiting read has taken of a crew's window is what the window holds. -/
def WinRead.sound (slots : Tbl Lanes) (r : WinRead) : Prop :=
  ∀ l, inMask r.got l = true → lane r.vals l = lane (Tbl.get zeroLanes slots r.slot) l

section
variable {cr : Crew} {w : Warp} {slot : Nat} {need : Need}

theorem sound_feed {r : WinRead} (h : r.sound cr.slots) : (r.feed cr).sound cr.slots := by
  intro l hl
  show lane (blend _ _ r.vals) l = _
  rw [lane_blend]
  split
  · rfl
  · next hm =>
    refine h l ?_
    simp only [WinRead.feed, inMask, BitVec.getLsbD_or, Bool.or_eq_true] at hl hm
    exact hl.resolve_right hm

theorem readOf_slot : (readOf w slot need).slot = slot := by
  unfold readOf
  cases h : w.reads.find? (·.slot == slot) with
  | none => rfl
  | some r => exact beq_iff_eq.mp (List.find?_some h :)

theorem sound_readOf (h : ∀ r ∈ w.reads, r.sound cr.slots) : (readOf w slot need).sound cr.slots := by
  unfold readOf
  cases hf : w.reads.find? (·.slot == slot) with
  | none =>
    intro l hl
    simp [inMask] at hl
  | some r => exact h r (List.mem_of_find?_eq_some hf)

theorem sound_reading (h : ∀ r ∈ w.reads, r.sound cr.slots) : ∀ r ∈ (w.reading cr slot need).reads, r.sound cr.slots := by
  intro r hr
  obtain rfl | hr := List.mem_cons.mp hr
  · exact sound_feed (sound_readOf h)
  · exact h r (List.mem_filter.mp hr).1

theorem readOf_feed_got : ((readOf w slot need).feed cr).got = (readOf w slot need).got |||
    ((readOf w slot need).need &&& Tbl.get 0 cr.pres slot &&& ~~~(readOf w slot need).got) := by
  show _ ||| (_ &&& Tbl.get 0 cr.pres (readOf w slot need).slot &&& _) = _
  rw [readOf_slot]

/-- A read takes every lane it needs where all are present. -/
theorem readOf_feed_all (h : need.lanes &&& ~~~(Tbl.get 0 cr.pres slot) = 0) :
    need.lanes &&& ~~~((readOf w slot need).feed cr).got = 0 := by
  rw [readOf_feed_got, show (readOf w slot need).need =
    ((w.reads.find? (·.slot == slot)).getD ⟨slot, 0, 0, zeroLanes⟩).need ||| need.lanes from rfl]
  generalize Tbl.get 0 cr.pres slot = pres at h ⊢
  apply BitVec.eq_of_getLsbD_eq
  intro i hi
  have hbit := congrArg (fun m : Mask => m.getLsbD i) h
  simp only [BitVec.getLsbD_and, BitVec.getLsbD_or, BitVec.getLsbD_not, hi] at hbit ⊢
  cases hn : need.lanes.getLsbD i
  · simp
  · have hp : pres.getLsbD i = true := by simpa [hn] using hbit
    cases (readOf w slot need).got.getLsbD i <;> simp [hp]

/-- A read that begins takes no lane that is not present. -/
theorem readOf_feed_waits (hw : w.reads = []) (h : need.lanes &&& ~~~(Tbl.get 0 cr.pres slot) ≠ 0) :
    need.lanes &&& ~~~((readOf w slot need).feed cr).got ≠ 0 := by
  have hfresh : readOf w slot need = ⟨slot, 0 ||| need.lanes, 0, zeroLanes⟩ := by rw [readOf, hw]; rfl
  intro h0
  refine h ?_
  rw [readOf_feed_got, hfresh] at h0
  apply BitVec.eq_of_getLsbD_eq
  intro i hi
  have hbit := congrArg (fun m : Mask => m.getLsbD i) h0
  simp only [BitVec.getLsbD_and, BitVec.getLsbD_or, BitVec.getLsbD_not, hi] at hbit ⊢
  cases hn : need.lanes.getLsbD i
  · simp
  · simpa [hn] using hbit
end

/-- The machine as a word reads its operands, the warp `v` so far: its waiting reads may have taken lanes. -/
structure Reads (s : State) (v : Warp) (t : State) : Prop where
  only : t = s ∨ ∃ w, t = s.setMe w
  me : ∃ rs, t.me = { v with reads := rs } ∧ ∀ c k, v.stroke = some (c, k) → ∀ r ∈ rs, r.sound (s.crewAt c).slots

namespace Reads
variable {s t : State} {v : Warp} (h : Reads s v t)
include h

theorem crewAt (c : Nat) : t.crewAt c = s.crewAt c := by
  obtain rfl | ⟨w, rfl⟩ := h.only <;> rfl
theorem poison : t.poison = s.poison := by
  obtain rfl | ⟨w, rfl⟩ := h.only <;> rfl
theorem mem : t.mem = s.mem := by
  obtain rfl | ⟨w, rfl⟩ := h.only <;> rfl
theorem cur : t.cur = s.cur := by
  obtain rfl | ⟨w, rfl⟩ := h.only <;> rfl
theorem record : recordOf t t.me = recordOf s v := by
  obtain ⟨rs, hme, -⟩ := h.me
  rw [hme]
  obtain rfl | ⟨w, rfl⟩ := h.only <;> rfl
theorem privNames : privNames t t.me = Machine.privNames s v := by
  have hrec := h.record
  obtain ⟨rs, hme, -⟩ := h.me
  rw [hme] at hrec ⊢
  simp only [Machine.privNames, h.crewAt, hrec]

theorem setMe {u w : Warp} (hw : ∃ rs, w = { u with reads := rs } ∧ ∀ c k, u.stroke = some (c, k) →
    ∀ r ∈ rs, r.sound (s.crewAt c).slots) : Reads s u (t.setMe w) := by
  refine ⟨?_, by rwa [State.setMe_eq, State.me_setWarp_cur]⟩
  obtain rfl | ⟨u, rfl⟩ := h.only
  · exact .inr ⟨w, rfl⟩
  · exact .inr ⟨w, by simp⟩
end Reads

/-- A lane word in the lanes `on` that has found nothing to wait for and no cause so far. -/
def reader (t : State) (disp : Dispatch) (on : Mask) (popped : List (Nat × DqEntry)) : LSt :=
  ⟨t, disp, on, on, false, popped, none, [], .none, 0, false, []⟩

/-- What a word needs of an operand: its active lanes. -/
def Need.active (on : Mask) : Need := ⟨on, fun m => m &&& on⟩

theorem blame_active (on : Mask) : (Need.active on).blame 0 = 0 := mask_zero_and on

/-! ### What each operand reads -/

section
variable {s t : State} {v v' : Warp} {disp : Dispatch} {on : Mask} {x : Lanes}

omit x in
theorem readPresent_source (hr : Reads s v t) (popped : List (Nat × DqEntry)) {c k slot : Nat} (hs : v.stroke = some (c, k))
    (hpres : on &&& ~~~(Tbl.get 0 (s.crewAt c).pres slot) = 0) : ∃ y t',
    (readPresent (s.crewAt c) slot (.active on)).run (reader t disp on popped) = .ok (y, reader t' disp on popped) ∧
      Reads s v t' ∧ ∀ l, inMask on l = true → lane y l = lane (Tbl.get zeroLanes (s.crewAt c).slots slot) l := by
  obtain ⟨rs, hme, hsound⟩ := hr.me
  have hall := readOf_feed_all (w := t.me) (need := .active on) hpres
  have hold : ∀ r ∈ t.me.reads, r.sound (s.crewAt c).slots := by
    rw [hme]
    exact hsound c k hs
  refine ⟨((readOf t.me slot (.active on)).feed (s.crewAt c)).vals, t.setMe (t.me.reading (s.crewAt c) slot (.active on)), ?_,
    hr.setMe ⟨(t.me.reading (s.crewAt c) slot (.active on)).reads, by simp only [Warp.reading, hme], fun c' k' hs' => ?_⟩,
    fun l hon => ?_⟩
  · rw [run_readPresent]
    simp only [reader, hall, bne_self_eq_false, Bool.or_self]
  · obtain ⟨rfl, rfl⟩ : c = c' ∧ k = k' := by simpa [hs] using hs'
    exact sound_reading hold
  · rw [sound_feed (sound_readOf hold) l (inMask_of_and_not hall hon)]
    show lane (Tbl.get zeroLanes (s.crewAt c).slots (readOf t.me slot (.active on)).slot) l = _
    rw [readOf_slot]

variable (hclean : s.poison = []) (hidle : v.inflight = []) (hr : Reads s v t) (popped : List (Nat × DqEntry))
include hclean hidle hr

omit hidle in
theorem Reads.clean : (reader t disp on popped).s.poison = [] := hr.poison.trans hclean

omit hclean in
theorem Reads.idle : (reader t disp on popped).s.me.inflight = [] := by
  obtain ⟨rs, hme, -⟩ := hr.me
  show t.me.inflight = []
  rw [hme]
  exact hidle

/-- The name of a window slot of a stroke (R37 to R40). -/
theorem readWindow_source {c k j : Nat} (hs : v.stroke = some (c, k)) (hj : j < (s.crewAt c).record.w)
    (hlanes : on &&& ~~~(Tbl.get 0 (s.crewAt c).pres (slotOf (s.crewAt c).record k j)) = 0 ∨
      ((s.crewAt c).record.s ≤ j ∧ (s.crewAt c).launched ((k : Int) - (j / (s.crewAt c).record.s : Nat) +
        ((s.crewAt c).record.w / (s.crewAt c).record.s : Nat)) = true)) : ∃ y t',
    (readWindow c k j (.active on)).run (reader t disp on popped) = .ok (y, reader t' disp on popped) ∧ Reads s v t' ∧
      ∀ l, inMask on l = true →
        lane y l = lane (Tbl.get zeroLanes (s.crewAt c).slots (slotOf (s.crewAt c).record k j)) l := by
  have hclean := hr.clean (disp := disp) (on := on) hclean popped
  have hidle := hr.idle (disp := disp) (on := on) hidle popped
  have hb := blame_active on
  have hcr : (reader t disp on popped).s.crewAt c = s.crewAt c := hr.crewAt c
  have hj' : j < ((reader t disp on popped).s.crewAt c).record.w := hcr ▸ hj
  by_cases hown : j < (s.crewAt c).record.s
  · have hpres := hlanes.resolve_right fun h => Nat.not_le.mpr hown h.1
    obtain ⟨y, hy, hl⟩ := run_readWindow_own (k := k) (need := .active on) hclean hidle hb hj' (hcr ▸ hown) (hcr ▸ hpres)
    exact ⟨y, t, hy, hr, fun l hon => (hl l hon).trans (by rw [hcr])⟩
  · have hother := Nat.not_lt.mp hown
    cases hlaunch : (s.crewAt c).launched ((k : Int) - (j / (s.crewAt c).record.s : Nat) +
        ((s.crewAt c).record.w / (s.crewAt c).record.s : Nat)) with
    | true =>
      refine ⟨_, t, run_readWindow_launched hclean hb hj' (hcr ▸ hother) (hcr ▸ hlaunch), hr, fun l _ => ?_⟩
      rw [hcr]
    | false =>
      have hpres := hlanes.resolve_right fun h => by rw [hlaunch] at h; cases h.2
      rw [run_readWindow_present hclean hb hj' (hcr ▸ hother) (hcr ▸ hlaunch), hcr]
      exact readPresent_source hr popped hs hpres

/-- The name of a register or of a window slot. -/
theorem readName_source {n : BitVec 11} (h : sourceIs s on v (.op (.v n)) x v') : ∃ y t',
    (readName n.toNat (.active on)).run (reader t disp on popped) = .ok (y, reader t' disp on popped) ∧ Reads s v' t' ∧
      ∀ l, inMask on l = true → lane y l = lane x l := by
  have hclean' := hr.clean (disp := disp) (on := on) hclean popped
  have hidle' := hr.idle (disp := disp) (on := on) hidle popped
  have hb := blame_active on
  have hrec := hr.record
  have hpriv := hr.privNames
  obtain ⟨rs, hme, -⟩ := hr.me
  obtain ⟨rfl, ⟨hi, hp, rfl⟩ | ⟨hi, hcrew, hwin⟩⟩ := h
  · refine ⟨_, t, run_readName_main hclean' hidle' hb hi (hpriv ▸ hp), hr, fun l _ => ?_⟩
    show lane (Tbl.get zeroLanes t.me.v _) l = _
    rw [hme]
  · have hcrew' : (recordOf t t.me).crew = true := hrec ▸ hcrew
    obtain ⟨hs, hh, rfl⟩ | ⟨c, k, hs, hj, rfl, hlanes⟩ := hwin
    · have hs' : t.me.stroke = none := by rw [hme]; exact hs
      have hh' : t.me.hosts = none := by rw [hme]; exact hh
      refine ⟨_, t, run_readName_host hclean' hidle' hb hi hcrew' hs' hh', hr, fun l _ => ?_⟩
      show lane (Tbl.get zeroLanes t.me.host _) l = _
      rw [hme]
    · have hs' : t.me.stroke = some (c, k) := by rw [hme]; exact hs
      rw [run_readName_window (st := reader t disp on popped) hi hcrew' hs']
      exact readWindow_source hclean hidle hr popped hs hj hlanes

omit hclean hidle in
/-- A pop of a dq: a held entry, else the queue's oldest (R100, R163). -/
theorem popDq_source {q : BitVec 2} (h : sourceIs s on v (.op (.dq q)) x v') : ∃ t' popped',
    (popDq q.toNat).run (reader t disp on popped) = .ok (x, reader t' disp on popped') ∧ Reads s v' t' := by
  obtain ⟨rs, hme, hsound⟩ := hr.me
  obtain ⟨before, after, hheld, hbefore, rfl⟩ | ⟨hheld, rest, hdq, rfl⟩ := h
  · have hnext : t.me.nextEntry q.toNat = some (⟨x, none⟩, { t.me with held := before ++ after }) :=
      nextEntry_held (by rw [hme]; exact hheld) hbefore
    exact ⟨_, _, run_popDq (st := reader t disp on popped) hnext, hr.setMe ⟨rs, by rw [hme], hsound⟩⟩
  · have hnext : t.me.nextEntry q.toNat = some (⟨x, none⟩,
        { t.me with dq := t.me.dq.set q.toNat { t.me.dq[q.toNat] with entries := rest } }) :=
      nextEntry_queue q (by rw [hme]; exact hheld) (by rw [hme]; exact hdq)
    exact ⟨_, _, run_popDq (st := reader t disp on popped) hnext, hr.setMe ⟨rs, by rw [hme], hsound⟩⟩

theorem readOp_source {o : Opnd} (h : sourceIs s on v (.op o) x v') : ∃ X t' popped',
    (readOp false o (.active on)).run (reader t disp on popped) = .ok (X, reader t' disp on popped') ∧ Reads s v' t' ∧
      ∀ l, inMask on l = true → X l = single x l := by
  have hclean' := hr.clean (disp := disp) (on := on) hclean popped
  have hidle' := hr.idle (disp := disp) (on := on) hidle popped
  have hb := blame_active on
  obtain ⟨rs, hme, -⟩ := hr.me
  cases o with
  | v n =>
    obtain ⟨y, t', hy, hr', hl⟩ := readName_source hclean hidle hr popped h
    refine ⟨single y, t', popped, ?_, hr', fun l hon => by rw [single, single, hl l hon]⟩
    rw [readOp, run_bind_ok _ hy]
    rfl
  | o i =>
    obtain ⟨rfl, rfl⟩ := h
    have hreg : t.me.o.toList.getD i.toNat zeroLanes = v'.o[i.toNat] := by
      rw [hme, List.getD_eq_getElem?_getD]
      simp [i.isLt]
    refine ⟨single v'.o[i.toNat], t, popped, ?_, hr, fun l _ => rfl⟩
    rw [readOp, run_bind_ok _ (run_readOper hclean' hidle' hb _), ← hreg]
    rfl
  | l i =>
    obtain ⟨rfl, rfl⟩ := h
    have hreg : (if i.toNat = 0 then t.me.l0 else t.me.l1) = if i = 0 then v'.l0 else v'.l1 := by
      rw [hme]
      simp only [← BitVec.toNat_inj]
      rfl
    refine ⟨single (if i = 0 then v'.l0 else v'.l1), t, popped, ?_, hr, fun l _ => rfl⟩
    rw [readOp, run_bind_ok _ (run_readLast hclean' hidle' hb _), ← hreg]
    rfl
  | dq q =>
    obtain ⟨t', popped', hx, hr'⟩ := popDq_source hr popped h
    refine ⟨single x, t', popped', ?_, hr', fun _ _ => rfl⟩
    rw [readOp, run_bind_ok _ hx]
    rfl
  | xq => exact h.elim
  | zero =>
    obtain ⟨rfl, rfl⟩ := h
    exact ⟨_, t, popped, rfl, hr, fun l _ => by simp [single, lane, zeroLanes]⟩

theorem readB_source {b : BSrc} (h : sourceIs s on v b x v') : ∃ X t' popped',
    (readB false b).run (reader t disp on popped) = .ok (X, reader t' disp on popped') ∧ Reads s v' t' ∧
      ∀ l, inMask on l = true → X l = single x l := by
  cases b with
  | op o =>
    rw [readB, readE, run_bind_ok _ run_needActive]
    exact readOp_source hclean hidle hr popped h
  | imm i =>
    obtain ⟨rfl, rfl⟩ := h
    exact ⟨_, t, popped, rfl, hr, fun l _ => by simp [single, lane]⟩
end

theorem sourceIs_rest {s : State} {on : Mask} {v v' : Warp} {b : BSrc} {x : Lanes} (h : sourceIs s on v b x v') :
    ∃ held dq, v' = { v with held := held, dq := dq } := by
  cases b with
  | imm i =>
      obtain ⟨-, rfl⟩ := h
      exact ⟨_, _, rfl⟩
  | op o =>
    cases o with
    | v n =>
      obtain ⟨rfl, -⟩ := h
      exact ⟨_, _, rfl⟩
    | o i =>
      obtain ⟨-, rfl⟩ := h
      exact ⟨_, _, rfl⟩
    | l i =>
      obtain ⟨-, rfl⟩ := h
      exact ⟨_, _, rfl⟩
    | dq q =>
      obtain ⟨before, after, -, -, h⟩ | ⟨-, rest, -, h⟩ := h
      · exact ⟨before ++ after, v.dq, h⟩
      · exact ⟨v.held, _, h⟩
    | xq => exact h.elim
    | zero =>
      obtain ⟨-, rfl⟩ := h
      exact ⟨_, _, rfl⟩

/-! ### A result that lands -/

/-- One write of the main file with its shift, landed. -/
theorem landAll_single {s : State} {k n : Nat} {p : Pending} {m : Mask} {v : Lanes} (hp : (s.warpAt k).inflight = [p])
    (hw : p.writes = [.vec (.main n) m v]) (hs : p.shift = .one m v) (hf : p.flags = 0) :
    (landAll s k).warpAt k = { s.warpAt k with
      v := Tbl.put zeroLanes (s.warpAt k).v n (blend m v (Tbl.get zeroLanes (s.warpAt k).v n))
      l1 := blend m (s.warpAt k).l0 (s.warpAt k).l1, l0 := blend m v (s.warpAt k).l0, inflight := [] } := by
  have hshift : ∀ (u : State) (x : LShift), (u.shiftSites k x).warpAt k = u.warpAt k := by
    intro u x
    cases x <;> rfl
  rw [landAll, hp, State.warpAt_setWarp_same]
  simp only [List.foldl_cons, List.foldl_nil, landPending, hw, hs, hf, landWrite, State.warpAt_setWarp_same, hshift,
    Warp.shiftL]
  simp

theorem landAll_cur (s : State) (k : Nat) : (landAll s k).cur = s.cur := by
  have hput : ∀ (u : State) (c : Nat) (cr : Crew), (u.putCrew c cr).cur = u.cur := fun u c cr => by
    refine (foldl_keeps State.cur (fun t x => ?_) cr.strokes (u.setCrew c cr)).trans rfl
    dsimp only
    split <;> rfl
  have hwrite : ∀ (u : State) (x : LWrite), (landWrite u k x).cur = u.cur := fun u x => by
    unfold landWrite
    dsimp only
    split
    · rfl
    · rfl
    · rfl
    · split
      · exact hput ..
      · rfl
    · rfl
    · rfl
    · rfl
  have hpend : ∀ (u : State) (p : Pending), (landPending u k p).cur = u.cur := fun u p => by
    have hshift : ∀ (t : State) (x : LShift), (t.shiftSites k x).cur = t.cur := fun t x => by cases x <;> rfl
    exact (hshift _ _).trans (foldl_keeps State.cur hwrite p.writes u)
  exact (foldl_keeps State.cur hpend _ s :)

/-- A word of fixed latency with one write puts it in flight. -/
theorem laneFinish_single {n : Nat} {c : LCtl} {st : LSt} {x : LWrite} (hw : st.writes = [x]) (hi : st.s.me.inflight = [])
    (hr : st.rows = []) : (laneFinish (.fixed n) c st).me = { st.s.me.laneIssued c st.s.cycle with
      inflight := [⟨st.disp.seq, st.s.cycle + n, false, [x], st.shift, st.flags⟩] } := by
  simp only [laneFinish, hw, hi, hr]
  exact State.me_setWarp_cur ..

theorem perElem_add (x y : Lanes) (l : LaneIx) :
    (perElem 0 (fun _ p q => p + q) (single x l) (single y l)).setWidth 32 = lane x l + lane y l := by
  show (0 ||| ((((single x l).extractLsb' (32 * 0) 32 + (single y l).extractLsb' (32 * 0) 32 : BitVec 32).setWidth 64 : BitVec 64)
    <<< (32 * 0))).setWidth 32 = _
  have hlow : ∀ z : Lane, (z.setWidth 64).extractLsb' 0 32 = z := fun z => by
    apply BitVec.eq_of_toNat_eq
    simpa using z.isLt
  simp [single, hlow]


@[simp] theorem lane_mkLanes (f : LaneIx → Lane) (l : LaneIx) : lane (mkLanes f) l = f l := by simp [lane, mkLanes]

/-! ### VADD.i32 -/

/-- A word with neither guard nor mask acts in the lanes of EXM (R17, R184). -/
theorem laneActs_always {s : State} {c : LCtl} {disp : Dispatch} (hrun : canRun s = true) (hsup : s.me.sup = false)
    (hblock : s.me.laneBlock = some disp) (hat : s.me.laneAt ≤ s.cycle) (hg : c.g = 0) (hpfx : c.pfx = none)
    (hon : disp.mask s.me ≠ 0) : LaneActs s c disp (disp.mask s.me) (disp.mask s.me) := by
  refine ⟨hrun, hsup, hblock, hat, hon, ⟨0xFFFF_FFFF, ⟨?_, rfl, rfl, rfl⟩, ?_⟩, by rw [hpfx]⟩
  · rw [hg]
    exact readPred_true
  · exact (BitVec.and_allOnes (x := disp.mask s.me)).symm

theorem started_reader {s : State} {c : LCtl} {disp : Dispatch} {on : Mask} (hpfx : c.pfx = none) :
    started s c disp on on = reader s disp on [] := by
  rw [started, hpfx]
  rfl

section
variable {s : State} {c : LCtl} {disp : Dispatch} {on : Mask} {d : BitVec 11} {a : Opnd} {b : BSrc}
variable (ha : LaneActs s c disp on on) (hty : c.ty = 0) (hpfx : c.pfx = none) (hd : d.toNat < 256)
variable (hp : d.toNat < privNames s s.me) (hw : (Instr.vadd c (.v d) a b).wf = true)
include hd hp

theorem run_prepare_main : (prepare false (.v d)).run (reader s disp on []) =
    .ok (.vec (some (.main d.toNat)) none, reader s disp on []) := by
  have hname : (nameTarget d.toNat).run (reader s disp on []) = .ok (some (.main d.toNat), reader s disp on []) := by
    rw [nameTarget, run_get_bind]
    dsimp only
    rw [if_pos hd, if_pos (show d.toNat < privNames (reader s disp on []).s (reader s disp on []).s.me from hp)]
    rfl
  rw [prepare, run_bind_ok _ hname]
  rfl

include ha hty hpfx hw

/-- VADD.i32 from its operands to its issue. -/
theorem execVadd_issues (hclean : s.poison = []) (hidle : s.me.inflight = []) (hreads : s.me.reads = []) {x y : Lanes}
    {v₁ v₂ : Warp} (hx : sourceIs s on s.me (.op a) x v₁) (hy : sourceIs s on v₁ b y v₂) : ∃ val T popped, Reads s v₂ T ∧
      (∀ l, inMask on l = true → (val l).setWidth 32 = lane x l + lane y l) ∧
      exec (.vadd c (.v d) a b) s = .next (laneFinish (.fixed 4) c
        (emitted (reader T disp on popped) 0 (.vec (some (.main d.toNat)) none) val)) := by
  have h₀ : Reads s s.me s := ⟨.inl rfl, [], by rw [← hreads], fun _ _ _ _ h => nomatch h⟩
  obtain ⟨X, t₁, p₁, hX, hr₁, hxl⟩ := readOp_source (disp := disp) hclean hidle h₀ [] hx
  obtain ⟨held, dq, hv₁⟩ := sourceIs_rest hx
  have hidle₁ : v₁.inflight = [] := by rw [hv₁]; exact hidle
  obtain ⟨Y, t₂, p₂, hY, hr₂, hyl⟩ := readB_source (disp := disp) hclean hidle₁ hr₁ p₁ hy
  refine ⟨fun l => perElem 0 (fun _ p q => p + q) (X l) (Y l), t₂, p₂, hr₂, fun l hl => ?_, ?_⟩
  · dsimp only
    rw [hxl l hl, hyl l hl, perElem_add]
  · have hsettle : settle.run (reader t₂ disp on p₂) = .ok ((), reader t₂ disp on p₂) := run_settle_ok rfl rfl rfl
    have hX' : (readE false a).run (reader s disp on []) = .ok (X, reader t₁ disp on p₁) := by
      rw [readE, run_bind_ok _ run_needActive]
      exact hX
    rw [exec, execVadd, laneBin, hw, hty, show isPair 0 = false from rfl]
    refine laneWord_done ha (by simp) ?_
    rw [started_reader hpfx, run_bind_ok _ (run_prepare_main hd hp), run_bind_ok _ hX', run_bind_ok _ hY,
      run_bind_ok _ hsettle, run_emit_single (by decide)]

theorem execVadd_waits {i : BitVec 16} {X : Vals} {t : LSt} (hb : b = .imm i)
    (hX : (readOp false a (.active on)).run (reader s disp on []) = .ok (X, t)) (ht : t.blocked = true) :
    exec (.vadd c (.v d) a b) s = .next { s.setMe { s.me with reads := t.s.me.reads } with waited := true } := by
  subst hb
  have hX' : (readE false a).run (reader s disp on []) = .ok (X, t) := by
    rw [readE, run_bind_ok _ run_needActive]
    exact hX
  have hY : (readB false (.imm i)).run t = .ok (fun _ => (i.signExtend 32).setWidth 64, t) := rfl
  rw [exec, execVadd, laneBin, hw, hty, show isPair 0 = false from rfl]
  refine laneWord_waits ha (by simp) ?_
  rw [started_reader hpfx, run_bind_ok _ (run_prepare_main hd hp), run_bind_ok _ hX', run_bind_ok _ hY]
  exact run_bind_error _ (run_settle_blocked ht)

omit ha hty hpfx hd hp hw in
/-- A window name of distance 1 or more that is absent in an active lane, its slot's next stroke not launched (R38, R39). -/
theorem readOp_absent {n : BitVec 11} {k cr : Nat} (hclean : s.poison = []) (hreads : s.me.reads = []) (hi : 256 ≤ n.toNat)
    (hcrew : (recordOf s s.me).crew = true) (hs : s.me.stroke = some (cr, k)) (hj : n.toNat - 256 < (s.crewAt cr).record.w)
    (hother : (s.crewAt cr).record.s ≤ n.toNat - 256)
    (hnext : ((s.crewAt cr).next : Int) ≤ (k : Int) - ((n.toNat - 256) / (s.crewAt cr).record.s : Nat) +
      ((s.crewAt cr).record.w / (s.crewAt cr).record.s : Nat))
    (hpres : on &&& ~~~(Tbl.get 0 (s.crewAt cr).pres (slotOf (s.crewAt cr).record k (n.toNat - 256))) ≠ 0) :
    let w := s.me.reading (s.crewAt cr) (slotOf (s.crewAt cr).record k (n.toNat - 256)) (.active on)
    let slot := slotOf (s.crewAt cr).record k (n.toNat - 256)
    (readOp false (.v n) (.active on)).run (reader s disp on []) =
      .ok (single ((readOf s.me slot (.active on)).feed (s.crewAt cr)).vals, { reader s disp on [] with
        s := s.setMe w, blocked := true }) := by
  intro w slot
  have hlaunch : (s.crewAt cr).launched ((k : Int) - ((n.toNat - 256) / (s.crewAt cr).record.s : Nat) +
      ((s.crewAt cr).record.w / (s.crewAt cr).record.s : Nat)) = false := by
    rw [Crew.launched, decide_eq_false (Int.not_lt.mpr hnext), Bool.false_and]
  have hwaits : ((Need.active on).lanes &&& ~~~((readOf s.me slot (.active on)).feed (s.crewAt cr)).got != 0) = true :=
    bne_iff_ne.mpr (readOf_feed_waits (need := .active on) hreads hpres)
  have hname : (readName n.toNat (.active on)).run (reader s disp on []) =
      .ok (((readOf s.me slot (.active on)).feed (s.crewAt cr)).vals, { reader s disp on [] with
        s := s.setMe w, blocked := true }) := by
    rw [run_readName_window (st := reader s disp on []) hi hcrew hs,
      run_readWindow_present (st := reader s disp on []) hclean (blame_active on) hj hother hlaunch, run_readPresent]
    exact congrArg (fun blocked : Bool => (Except.ok (((readOf s.me slot (.active on)).feed (s.crewAt cr)).vals,
      { reader s disp on [] with s := s.setMe w, blocked := blocked }) : Except LStop (Lanes × LSt))) hwaits
  rw [readOp, run_bind_ok _ hname]
  rfl

omit ha hty hpfx hd hp hw in
/-- VADD.i32 landed: its warp's registers (R52, R53, R218). -/
theorem landed_single {T : State} {v : Warp} {popped : List (Nat × DqEntry)} {val : Vals} {n : Nat} (hr : Reads s v T)
    (hidle : v.inflight = []) :
    let t := laneFinish (.fixed 4) c (emitted (reader T disp on popped) 0 (.vec (some (.main n)) none) val)
    let low := mkLanes fun i => if inMask on i then (val i).setWidth 32 else 0
    t.mem = s.mem ∧ ∃ u : Warp, (landAll t t.cur).me = { u with
        v := Tbl.put zeroLanes v.v n (blend on low (Tbl.get zeroLanes v.v n))
        l1 := blend on v.l0 v.l1, l0 := blend on low v.l0 } ∧
      u.dq = v.dq ∧ u.s = v.s ∧ u.p = v.p ∧ u.o = v.o ∧ u.h = v.h ∧ u.k = v.k ∧ u.fcsr = v.fcsr := by
  intro t low
  obtain ⟨rs, hme, -⟩ := hr.me
  have hflight : (emitted (reader T disp on popped) 0 (.vec (some (.main n)) none) val).s.me.inflight = [] := by
    show T.me.inflight = []
    rw [hme]
    exact hidle
  have hissued : t.warpAt t.cur = { T.me.laneIssued c T.cycle with
      inflight := [⟨disp.seq, T.cycle + 4, false, [.vec (.main n) on low], .one on low, 0⟩] } :=
    laneFinish_single (st := emitted (reader T disp on popped) 0 (.vec (some (.main n)) none) val) rfl hflight rfl
  have hland := landAll_single (s := t) (k := t.cur) (n := n) (m := on) (v := low) (by rw [hissued]) rfl rfl rfl
  refine ⟨hr.mem, { t.warpAt t.cur with inflight := [] }, ?_, ?_⟩
  · rw [State.me, landAll_cur, hland, hissued, hme]
    rfl
  · dsimp only
    rw [hissued, hme]
    exact ⟨rfl, rfl, rfl, rfl, rfl, rfl, rfl⟩
end

end Sys2Proof.Machine
namespace Sys2Proof.Certificates
open Sys2Proof.Machine

/-- Settles O51: the operands by `readOp_source` and `readB_source`, the result by `landed_single`; a word that waits by the
operand it waits for. -/
theorem laneAddResult : Obligations.LaneAddResult := by
  unfold Obligations.LaneAddResult
  intro s disp c d a b hrun hsup hblock hat hidle hreads hclean hg hty hpfx hon hd hp hw w on
  have ha := laneActs_always hrun hsup hblock hat hg hpfx hon
  refine ⟨fun x y v₁ v₂ hx hy => ?_, fun n i cr k hn hb hs hi hcrew hj hother hnext hpres => ?_,
    fun q i z hq hb hheld hdq => ?_⟩
  · obtain ⟨val, T, popped, hr, hval, hexec⟩ := execVadd_issues ha hty hpfx hd hp hw hclean hidle hreads hx hy
    obtain ⟨held₁, dq₁, hv₁⟩ := sourceIs_rest hx
    obtain ⟨held₂, dq₂, hv₂⟩ := sourceIs_rest hy
    have hv : v₂ = { s.me with held := held₂, dq := dq₂ } := by rw [hv₂, hv₁]
    have hidle₂ : v₂.inflight = [] := by rw [hv]; exact hidle
    obtain ⟨hmem, u, hu, hdq, hregs, hpreds, hopers, hhvs, hbuns, hflags⟩ := landed_single (c := c) (disp := disp) (on := on)
      (popped := popped) (val := val) (n := d.toNat) hr hidle₂
    refine ⟨_, hexec, ?_⟩
    dsimp only
    rw [hu]
    have hlow : ∀ l, inMask on l = true →
        lane (mkLanes fun i => if inMask on i then (val i).setWidth 32 else 0) l = lane x l + lane y l := fun l hl => by
      rw [lane_mkLanes, if_pos hl, hval l hl]
    refine ⟨fun l => ?_, fun n hn => ?_, fun l hl => ⟨?_, ?_⟩, fun l hl => ⟨?_, ?_⟩, hdq, ?_, ?_, ?_, ?_, ?_, ?_, hmem⟩
    · dsimp only
      rw [Tbl.get_put_same, lane_blend]
      split
      · next hl => exact hlow l hl
      · rw [hv]
    · dsimp only
      rw [Tbl.get_put_other _ _ _ hn, hv]
    · dsimp only
      rw [Tbl.get_put_same, lane_blend, lane_blend, if_pos hl, if_pos hl]
    · dsimp only
      rw [lane_blend, if_pos hl, hv]
    · dsimp only
      rw [lane_blend, hl, if_neg (by decide), hv]
    · dsimp only
      rw [lane_blend, hl, if_neg (by decide), hv]
    · exact hregs.trans (by rw [hv])
    · exact hpreds.trans (by rw [hv])
    · exact hopers.trans (by rw [hv])
    · exact hhvs.trans (by rw [hv])
    · exact hbuns.trans (by rw [hv])
    · exact hflags.trans (by rw [hv])
  · subst hn
    exact ⟨_, execVadd_waits ha hty hpfx hd hp hw hb (readOp_absent hclean hreads hi hcrew hs hj hother hnext hpres) rfl⟩
  · subst hq
    obtain ⟨hnone, hstream⟩ := nextEntry_empty q hheld hdq
    have hread : (readOp false (.dq q) (.active on)).run (reader s disp on []) =
        .ok (single zeroLanes, { reader s disp on [] with blocked := true }) := by
      rw [readOp, run_bind_ok _ (run_popDq_waits (st := reader s disp on []) hnone hstream)]
      rfl
    exact ⟨_, execVadd_waits ha hty hpfx hd hp hw hb hread rfl⟩

end Sys2Proof.Certificates
end

section
/-!
The special registers (R57 to R60, R210): the index table and the registers it assigns, what an SRD and an SWR do by the
mode and the lanes, and what each register reads and keeps; s0, and what reset leaves.
-/
namespace Sys2Proof.Machine

/-! ### The index table (R57) -/

/-- The index that R57 assigns to a register: `SpReg.ofIndex` the other way (`ofIndex_index`, `index_of_ofIndex`). -/
def SpReg.index : SpReg → BitVec 13
  | .wid => 0x000 | .blk => 0x001 | .nblk => 0x002 | .nw => 0x003 | .core => 0x004 | .iter => 0x005 | .exm => 0x006
  | .ltile => 0x007 | .rgn => 0x008 | .cause => 0x009 | .epc => 0x00A | .fcsr => 0x00B | .chk => 0x00C | .lcb => 0x00D
  | .args => 0x00E | .ctr => 0x00F | .ab i => BitVec.ofNat 13 (0x010 + i.val) | .freq => 0x020 | .tband => 0x021
  | .boost => 0x022 | .slope => 0x023 | .opcls => 0x024 | .crewid => 0x030 | .slide => 0x031 | .win => 0x032
  | .depth => 0x033 | .trip => 0x034 | .cycle => 0x040 | .iret => 0x041 | .ptb => 0x100 | .ctxid => 0x101 | .tvb => 0x102
  | .frb => 0x103 | .sdtb => 0x104 | .purse i => BitVec.ofNat 13 (0x110 + i.val)

@[simp] theorem SpReg.ofIndex_index (r : SpReg) : SpReg.ofIndex r.index = some r := by
  cases r with
  | ab i => revert i; decide
  | purse i => revert i; decide
  | _ => rfl

theorem SpReg.index_of_ofIndex {i : BitVec 13} {r : SpReg} (h : SpReg.ofIndex i = some r) : i = r.index := by
  apply BitVec.eq_of_toNat_eq
  unfold SpReg.ofIndex at h
  dsimp only at h
  split at h
  · cases h
    simp only [SpReg.index, BitVec.toNat_ofNat]
    omega
  · split at h
    · cases h
      simp only [SpReg.index, BitVec.toNat_ofNat]
      omega
    · split at h <;> cases h <;> assumption

theorem SpReg.assigned_index (r : SpReg) : assigned r.index := by
  cases r with
  | ab i => revert i; unfold assigned; decide
  | purse i => revert i; unfold assigned; decide
  | _ => unfold assigned; decide

/-- 0x116 is the index after the last one assigned. -/
theorem SpReg.ofIndex_isSome_below :
    ∀ n < 0x116, assigned (BitVec.ofNat 13 n) → (SpReg.ofIndex (BitVec.ofNat 13 n)).isSome = true := by
  unfold assigned
  decide +kernel

theorem SpReg.exists_of_assigned {i : BitVec 13} (h : assigned i) : ∃ r : SpReg, i = r.index := by
  have hi : BitVec.ofNat 13 i.toNat = i := by simp
  have hlt : i.toNat < 0x116 := by
    unfold assigned at h
    omega
  have hsome := SpReg.ofIndex_isSome_below i.toNat hlt
  rw [hi] at hsome
  obtain ⟨r, hr⟩ := Option.isSome_iff_exists.mp (hsome h)
  exact ⟨r, SpReg.index_of_ofIndex hr⟩

theorem SpReg.ofIndex_unassigned {i : BitVec 13} (h : ¬ assigned i) : SpReg.ofIndex i = none := by
  cases hr : SpReg.ofIndex i with
  | none => rfl
  | some r => exact absurd (SpReg.index_of_ofIndex hr ▸ r.assigned_index) h

/-- R60's indices are those of the registers that user mode may not read. -/
theorem SpReg.privileged_index_iff (r : SpReg) : privileged r.index ↔ r.privRead = true := by
  cases r with
  | ab i => revert i; unfold privileged; decide
  | purse i => revert i; unfold privileged; decide
  | _ => unfold privileged; decide

theorem SpReg.exists_of_privileged {i : BitVec 13} (h : privileged i) : ∃ r : SpReg, i = r.index :=
  SpReg.exists_of_assigned (.inr (.inr (.inr (.inr h))))

theorem SpReg.privWrite_iff {r : SpReg} : r.privWrite = true ↔ r.privRead = true ∨ r = .slope := by
  simp [SpReg.privWrite]

theorem SpReg.waitsLanes_iff (r : SpReg) :
    r.waitsLanes = true ↔ r.index = 0x006 ∨ r.index = 0x007 ∨ r.index = 0x00B := by
  cases r with
  | ab i => revert i; decide
  | purse i => revert i; decide
  | _ => decide

/-! ### SRD and SWR by the mode and the lanes (R17, R59, R60, R210) -/

theorem drained_iff {s : State} : drained s = true ↔ s.me.sup = true ∨ s.me.dispatch = [] := by
  simp [drained]

theorem Ready.nil {s : State} {srcs : List SReg} (h : Ready s srcs) : Ready s [] :=
  ⟨h.1, by simp [badSources]⟩

theorem issued_setMe (s : State) (w : Warp) (pc : Word) (c : Bool) :
    issued (s.setMe w) (s.setMe w).me pc c = issued s w pc c := by
  rw [State.setMe_eq, State.me_setWarp_cur, issued_setWarp]

/-- The mode admits an access that only supervisor mode may make, and the lanes are drained where it waits for them. -/
structure Admits (s : State) (priv waits : Bool) : Prop where
  mode : priv = true → s.me.sup = true
  lanes : waits = true → s.me.sup = true ∨ s.me.dispatch = []

section
variable {s : State} {priv waits : Bool}

theorem Admits.mode_eq (h : Admits s priv waits) : (priv && !s.me.sup) = false := by
  cases priv with
  | false => rfl
  | true => simp [h.mode rfl]

theorem Admits.lanes_eq (h : Admits s priv waits) : (waits && !drained s) = false := by
  cases waits with
  | false => rfl
  | true => simp [drained_iff.mpr (h.lanes rfl)]

theorem Admits.of_sup (h : s.me.sup = true) : Admits s priv waits := ⟨fun _ => h, fun _ => .inl h⟩

theorem Admits.free : Admits s false false := ⟨nofun, nofun⟩

theorem Admits.drained (h : s.me.sup = true ∨ s.me.dispatch = []) : Admits s false true := ⟨nofun, fun _ => h⟩

end

section
variable {s : State} {d : SReg} {r : SpReg}

theorem srd_reads (hr : Ready s []) (ha : Admits s r.privRead r.waitsLanes) :
    exec (.srd d r.index) s = .next (wrote s d (r.read s s.cur)) := by
  simp only [exec, execSrd, scalarWord_plain_acts hr, SpReg.ofIndex_index, ha.mode_eq, ha.lanes_eq, Bool.false_eq_true,
    if_false, out_done, Option.getD_none, setS_eq, issued_setMe]
  rfl

theorem srd_denied (hr : Ready s []) (hu : s.me.sup = false) (hp : r.privRead = true) :
    exec (.srd d r.index) s = raised s (.plain cPRIV) := by
  simp [exec, execSrd, scalarWord_plain_acts hr, hu, hp]

theorem srd_waits (hr : Ready s []) (hu : s.me.sup = false) (hd : s.me.dispatch ≠ []) (hp : r.privRead = false)
    (hl : r.waitsLanes = true) : exec (.srd d r.index) s = .next { s with waited := true } := by
  simp [exec, execSrd, scalarWord_plain_acts hr, drained, hu, hd, hp, hl]

theorem srd_unassigned {idx : BitVec 13} (hr : Ready s []) (h : ¬ assigned idx) :
    exec (.srd d idx) s = raised s (.plain cILLEGAL) := by
  simp [exec, execSrd, scalarWord_plain_acts hr, SpReg.ofIndex_unassigned h]
end

section
variable {s t : State} {a : SReg} {r : SpReg}

theorem swr_writes (hr : Ready s [a]) (ha : Admits s r.privWrite r.waitsLanes) (hw : r.write s (s.sreg a) = some t) :
    exec (.swr a r.index) s = .next (issued t t.me (s.me.pc + 4) false) := by
  simp only [exec, execSwr, scalarWord_plain_acts hr, SpReg.ofIndex_index, ha.mode_eq, ha.lanes_eq, hw,
    Bool.false_eq_true, if_false, out_done, Option.getD_none]

theorem swr_sets {w : Warp} (hr : Ready s [a]) (ha : Admits s r.privWrite r.waitsLanes)
    (hw : r.write s (s.sreg a) = some (s.setMe w)) : exec (.swr a r.index) s = .next (issued s w (s.me.pc + 4) false) := by
  rw [swr_writes hr ha hw, issued_setMe]

theorem swr_refused (hr : Ready s [a]) (ha : Admits s r.privWrite r.waitsLanes) (hw : r.write s (s.sreg a) = none) :
    exec (.swr a r.index) s = raised s (.plain cILLEGAL) := by
  simp only [exec, execSwr, scalarWord_plain_acts hr, SpReg.ofIndex_index, ha.mode_eq, ha.lanes_eq, hw,
    Bool.false_eq_true, if_false, out_raises]

theorem swr_denied (hr : Ready s [a]) (hu : s.me.sup = false) (hp : r.privWrite = true) :
    exec (.swr a r.index) s = raised s (.plain cPRIV) := by
  simp [exec, execSwr, scalarWord_plain_acts hr, hu, hp]

theorem swr_waits (hr : Ready s [a]) (hu : s.me.sup = false) (hd : s.me.dispatch ≠ []) (hp : r.privWrite = false)
    (hl : r.waitsLanes = true) : exec (.swr a r.index) s = .next { s with waited := true } := by
  simp [exec, execSwr, scalarWord_plain_acts hr, drained, hu, hd, hp, hl]

theorem swr_unassigned {idx : BitVec 13} (hr : Ready s [a]) (h : ¬ assigned idx) :
    exec (.swr a idx) s = raised s (.plain cILLEGAL) := by
  simp [exec, execSwr, scalarWord_plain_acts hr, SpReg.ofIndex_unassigned h]
end

/-! ### What the registers read (R57) -/

/-- The registers of user mode, in the order in which the statement lists their values. -/
def userSpRegs : List SpReg :=
  (List.finRange 8).map .ab ++ [.wid, .blk, .nblk, .nw, .core, .iter, .exm, .ltile, .rgn, .cause, .epc, .fcsr, .chk, .lcb,
    .args, .ctr, .freq, .tband, .boost, .slope, .opcls, .crewid, .slide, .win, .depth, .trip, .cycle, .iret]

theorem userSpRegs_privRead : ∀ r ∈ userSpRegs, r.privRead = false := by decide

theorem toNat_append_eq_add {m n : Nat} (x : BitVec m) (y : BitVec n) : (x ++ y).toNat = x.toNat * 2 ^ n + y.toNat := by
  rw [BitVec.toNat_append, ← Nat.shiftLeft_add_eq_or_of_lt y.isLt, Nat.shiftLeft_eq]

/-- CTR's four fields of 16 bits, one for each engine queue. -/
theorem ctrOf_eq (s : State) (k : Nat) :
    let n := fun q => (((s.coreAt (coreOf k)).queue q).filter fun x => x.warp == k && !x.emul).length % 65536
    ctrOf s k = BitVec.ofNat 64 (n 0 + 2 ^ 16 * n 1 + 2 ^ 32 * n 2 + 2 ^ 48 * n 3) := by
  apply BitVec.eq_of_toNat_eq
  simp only [ctrOf, toNat_append_eq_add, BitVec.toNat_ofNat]
  omega

/-- NW counts running warps, so that an absent one need not be left out first. -/
theorem blockNW_eq (s : State) (b : Nat) :
    blockNW s b = (s.warps.filter fun e => e.2.block == b && e.2.stat == .running && e.2.stroke == none).length := by
  rw [blockNW, blockWarps, List.filter_filter]
  congr 1
  refine List.filter_congr fun e _ => ?_
  have hrun : (e.2.stat == .running && e.2.stat != .absent) = (e.2.stat == .running) := by cases e.2.stat <;> rfl
  conv_rhs => rw [← hrun]
  ac_rfl

theorem userRegs_eq (s : State) : userRegs s = userSpRegs.map fun r => (r.index, r.read s s.cur) := by
  have hctr : SpReg.ctr.read s s.cur = ctrOf s s.cur := rfl
  have hnw : SpReg.nw.read s s.cur = BitVec.ofNat 64 (blockNW s s.me.block) := rfl
  simp only [userSpRegs, List.map_append, List.map_map, List.map_cons, List.map_nil, hctr, hnw, ctrOf_eq, blockNW_eq]
  rfl

/-- CTXID reads the identifier below its generation (R75). -/
theorem read_ctxid (s : State) : SpReg.ctxid.read s s.cur =
    BitVec.ofNat 64 (s.me.ctxid.toNat + 65536 * (Tbl.get 0 s.gens s.me.ctxid.toNat).toNat) := by
  apply BitVec.eq_of_toNat_eq
  have hread : SpReg.ctxid.read s s.cur = zword (Tbl.get 0 s.gens s.me.ctxid.toNat ++ s.me.ctxid : BitVec 24) := rfl
  simp only [hread, zword, BitVec.toNat_setWidth, toNat_append_eq_add, BitVec.toNat_ofNat]
  omega

/-! ### What the registers keep of a write (R57, R58, R210) -/

/-- The registers that are read only, in the order in which the statement lists their indices. -/
def readOnlyRegs : List SpReg :=
  [.wid, .blk, .nblk, .nw, .core, .iter, .rgn, .cause, .epc, .args, .ctr, .freq, .tband, .boost, .opcls, .crewid, .slide,
    .win, .depth, .trip, .cycle, .iret]

theorem write_readOnly {r : SpReg} (h : r ∈ readOnlyRegs) (s : State) (x : Word) : r.write s x = some s := by
  fin_cases h <;> rfl

theorem readOnlyRegs_free : ∀ r ∈ readOnlyRegs, r.privWrite = false ∧ r.waitsLanes = false := by decide

section
variable {s : State} {x : Word}

theorem write_ltile (h : x.toNat % 8 < 5) : SpReg.ltile.write s x = some (s.setMe { s.me with
    ltile := x.setWidth 3, dispatch := s.me.dispatch.map (Dispatch.keepLtile s.me.ltile) }) :=
  if_neg (by rw [BitVec.toNat_setWidth]; omega)

theorem write_ltile_refused (h : ¬ x.toNat % 8 < 5) : SpReg.ltile.write s x = none :=
  if_pos (by rw [BitVec.toNat_setWidth]; omega)

theorem write_fcsr (h : x.toNat % 8 < 6) :
    SpReg.fcsr.write s x = some (s.setMe { s.me with fcsr := x.setWidth 12 &&& 0xFF7 }) :=
  if_neg (by rw [BitVec.toNat_setWidth]; omega)

theorem write_fcsr_refused (h : ¬ x.toNat % 8 < 6) : SpReg.fcsr.write s x = none :=
  if_pos (by rw [BitVec.toNat_setWidth]; omega)
end

/-- Assigning an identifier changes no memory and no warp, whether or not its generation wraps (R75). -/
theorem assignCtxid_frame (s : State) (c : Nat) (id : BitVec 16) : (assignCtxid s c id).mem = s.mem ∧
    (assignCtxid s c id).me = s.me := by
  unfold assignCtxid
  dsimp only
  split <;> exact ⟨rfl, rfl⟩

theorem ctxAt_assignCtxid (s : State) (c : Nat) (id : BitVec 16) : ((assignCtxid s c id).ctxAt c).ctxid = id := by
  simp [assignCtxid]

theorem gens_assignCtxid (s : State) (c : Nat) (id : BitVec 16) :
    Tbl.get 0 (assignCtxid s c id).gens id.toNat = Tbl.get 0 s.gens id.toNat + 1 := by
  have hgens : (assignCtxid s c id).gens = Tbl.put 0 s.gens id.toNat (Tbl.get 0 s.gens id.toNat + 1) := by
    unfold assignCtxid
    dsimp only
    split <;> rfl
  rw [hgens, Tbl.get_put_same]

/-- A write of CTXID: the context, its generation and the warp's own identifier (R75). -/
theorem write_ctxid (s : State) (x : Word) : ∃ t, SpReg.ctxid.write s x = some t ∧
    (t.ctxAt s.myCtx).ctxid = x.setWidth 16 ∧ t.me = { s.me with ctxid := x.setWidth 16 } ∧ t.mem = s.mem ∧
    Tbl.get 0 t.gens (x.toNat % 65536) = Tbl.get 0 s.gens (x.toNat % 65536) + 1 := by
  obtain ⟨hmem, hme⟩ := assignCtxid_frame s s.myCtx (x.setWidth 16)
  have hid : (x.setWidth 16 : BitVec 16).toNat = x.toNat % 65536 := BitVec.toNat_setWidth ..
  refine ⟨_, rfl, ?_, ?_, hmem, ?_⟩
  · exact ctxAt_assignCtxid ..
  · rw [State.setMe_eq, State.me_setWarp_cur, hme]
  · rw [← hid]
    exact gens_assignCtxid s s.myCtx _

/-- What a write that completes leaves as it was. -/
structure WriteFrame (s t : State) : Prop where
  mem : t.mem = s.mem
  regs : t.me.s = s.me.s
  mode : t.me.sup = s.me.sup

theorem WriteFrame.setMe {s : State} {w : Warp} (hs : w.s = s.me.s) (hsup : w.sup = s.me.sup) : WriteFrame s (s.setMe w) := by
  rw [State.setMe_eq]
  exact ⟨rfl, by rw [State.me_setWarp_cur, hs], by rw [State.me_setWarp_cur, hsup]⟩

/-- Every register takes every value, but for LTILE and FCSR. -/
theorem write_completes {s : State} {x : Word} (r : SpReg) (hl : r = .ltile → x.toNat % 8 < 5)
    (hf : r = .fcsr → x.toNat % 8 < 6) : ∃ t, r.write s x = some t ∧ WriteFrame s t := by
  by_cases hr : r ∈ readOnlyRegs
  · exact ⟨s, write_readOnly hr s x, rfl, rfl, rfl⟩
  cases r with
  | exm => exact ⟨_, rfl, .setMe rfl rfl⟩
  | ltile => exact ⟨_, write_ltile (hl rfl), .setMe rfl rfl⟩
  | fcsr => exact ⟨_, write_fcsr (hf rfl), .setMe rfl rfl⟩
  | chk => exact ⟨_, rfl, .setMe rfl rfl⟩
  | lcb => exact ⟨_, rfl, .setMe rfl rfl⟩
  | ab i => exact ⟨_, rfl, .setMe rfl rfl⟩
  | ctxid =>
    obtain ⟨t, ht, -, hme, hmem, -⟩ := write_ctxid s x
    exact ⟨t, ht, hmem, by rw [hme], by rw [hme]⟩
  | slope | ptb | tvb | frb | sdtb | purse i => exact ⟨_, rfl, rfl, rfl, rfl⟩
  | _ => exact absurd (by decide) hr

end Sys2Proof.Machine
namespace Sys2Proof.Certificates
open Sys2Proof.Machine

/-- Settles O15: the values by `userRegs_eq`, each write by what its register keeps of the value. -/
theorem specialRegisters : Obligations.SpecialRegisters := by
  unfold Obligations.SpecialRegisters
  refine ⟨fun s d hr e he hlanes => ?_, fun s a hr => ?_⟩
  · rw [userRegs_eq] at he
    obtain ⟨r, hmem, rfl⟩ := List.mem_map.mp he
    have hpriv := userSpRegs_privRead r hmem
    exact srd_reads hr ⟨fun h => absurd h (by simp [hpriv]), fun h => hlanes (r.waitsLanes_iff.mp h)⟩
  · intro w x put
    refine ⟨fun hd => ⟨?_, ?_, ?_⟩, fun hu hd idx hidx => ?_, ?_, ?_, fun i => ?_, fun idx hidx => ?_⟩
    · exact swr_sets (r := .exm) hr (.drained hd) rfl
    · split
      · next h => exact swr_sets (r := .ltile) hr (.drained hd) (write_ltile h)
      · next h => exact swr_refused (r := .ltile) hr (.drained hd) (write_ltile_refused h)
    · split
      · next h => exact swr_sets (r := .fcsr) hr (.drained hd) (write_fcsr h)
      · next h => exact swr_refused (r := .fcsr) hr (.drained hd) (write_fcsr_refused h)
    · have hwait : ∀ r ∈ [SpReg.exm, .ltile, .fcsr], exec (.swr a r.index) s = .next { s with waited := true } ∧
          exec (.srd a r.index) s = .next { s with waited := true } := fun r h => by
        have hr3 : r.privRead = false ∧ r.privWrite = false ∧ r.waitsLanes = true := by revert r; decide
        obtain ⟨hread, hwrite, hlanes⟩ := hr3
        exact ⟨swr_waits hr hu hd hwrite hlanes, srd_waits hr.nil hu hd hread hlanes⟩
      obtain ⟨r, hmem, rfl⟩ := List.mem_map.mp (show idx ∈ [SpReg.exm, .ltile, .fcsr].map SpReg.index from hidx)
      exact hwait r hmem
    · exact swr_sets (r := .chk) hr .free rfl
    · exact swr_sets (r := .lcb) hr .free rfl
    · exact swr_sets (r := .ab i) hr .free rfl
    · obtain ⟨r, hmem, rfl⟩ := List.mem_map.mp (show idx ∈ readOnlyRegs.map SpReg.index from hidx)
      obtain ⟨hpriv, hlanes⟩ := readOnlyRegs_free r hmem
      exact swr_writes hr (by rw [hpriv, hlanes]; exact .free) (write_readOnly hmem s _)

/-- Settles O16: an index is that of a register or unassigned, and each register is read and written by its kind. -/
theorem privilegedRegisters : Obligations.PrivilegedRegisters := by
  unfold Obligations.PrivilegedRegisters
  refine ⟨fun s r idx => ?_, fun s d a hsup => ?_⟩
  · intro lanes
    refine ⟨fun h => ⟨fun hr => srd_unassigned hr h, fun hr => swr_unassigned hr h⟩, fun hu hp => ?_,
      fun hu hr => swr_denied (r := .slope) hr hu rfl, fun ha hp hlanes => ?_⟩
    · obtain ⟨q, rfl⟩ := SpReg.exists_of_privileged hp
      have hread := q.privileged_index_iff.mp hp
      exact ⟨fun hr => srd_denied hr hu hread, fun hr => swr_denied hr hu (by simp [SpReg.privWrite, hread])⟩
    · obtain ⟨q, rfl⟩ := SpReg.exists_of_assigned ha
      have hread : q.privRead = true → s.me.sup = true := fun h => absurd (q.privileged_index_iff.mpr h) hp
      have hwait : q.waitsLanes = true → s.me.sup = true ∨ s.me.dispatch = [] := fun h => hlanes (q.waitsLanes_iff.mp h)
      refine ⟨fun hr => ⟨_, srd_reads hr ⟨hread, hwait⟩⟩, fun hr hslope hl hf => ?_⟩
      have hwrite : q.privWrite = true → s.me.sup = true := fun h => by
        rcases q.privWrite_iff.mp h with h | rfl
        · exact hread h
        · exact hslope.resolve_right fun h => h rfl
      obtain ⟨t, ht, hmem, hregs, hmode⟩ :=
        write_completes (s := s) (x := s.sreg r) q (fun h => hl (h ▸ rfl)) fun h => hf (h ▸ rfl)
      exact ⟨t, swr_writes hr ⟨hwrite, hwait⟩ ht, hmem, hregs, hmode⟩
  · intro c x core put putCtx
    refine ⟨fun hr => ⟨?_, ?_, ?_, ?_, ?_⟩, fun hr => ⟨?_, ?_, ?_, ?_⟩, fun hr => ?_, fun i => ⟨fun hr => ?_, fun hr => ?_⟩,
      fun hr => ?_⟩
    · exact srd_reads (r := .ptb) hr (.of_sup hsup)
    · exact srd_reads (r := .tvb) hr (.of_sup hsup)
    · exact srd_reads (r := .frb) hr (.of_sup hsup)
    · exact srd_reads (r := .sdtb) hr (.of_sup hsup)
    · rw [← read_ctxid]
      exact srd_reads (r := .ctxid) hr (.of_sup hsup)
    · exact swr_writes (r := .ptb) hr (.of_sup hsup) rfl
    · exact swr_writes (r := .tvb) hr (.of_sup hsup) rfl
    · exact swr_writes (r := .frb) hr (.of_sup hsup) rfl
    · exact swr_writes (r := .sdtb) hr (.of_sup hsup) rfl
    · obtain ⟨t, ht, hctx, hme, hmem, hgen⟩ := write_ctxid s x
      exact ⟨t, swr_writes (r := .ctxid) hr (.of_sup hsup) ht, hctx, by rw [hme], hmem, fun _ => hgen⟩
    · exact srd_reads (r := .purse i) hr (.of_sup hsup)
    · exact swr_writes (r := .purse i) hr (.of_sup hsup) rfl
    · exact swr_writes (r := .slope) hr (.of_sup hsup) rfl

end Sys2Proof.Certificates
namespace Sys2Proof.Machine

/-! ### s0 (R49) -/

/-- What a register reads once a word has written one. -/
theorem sreg_wrote (s : State) (d r : SReg) (x : Word) :
    (wrote s d x).sreg r = if d = r ∧ d ≠ 0 then x else s.sreg r := by
  have hregs : (wrote s d x).sreg r = (s.me.setS d x).sreg r := by
    rw [wrote, State.sreg, issued_me, withReg_eq]
    rfl
  rw [hregs]
  by_cases hd : d = 0
  · rw [if_neg fun h => h.2 hd, Warp.setS, if_pos hd]
    rfl
  · by_cases he : d = r
    · subst he
      rw [sreg_setS, if_neg hd, if_pos ⟨rfl, hd⟩]
    · rw [if_neg fun h => he h.1, Warp.setS, if_neg hd, State.sreg, Warp.sreg, Warp.sreg]
      have hne : d.toNat ≠ r.toNat := fun h => he (BitVec.eq_of_toNat_eq h)
      simp [hne]

end Sys2Proof.Machine
namespace Sys2Proof.Certificates
open Sys2Proof.Machine

/-- Settles O3, by what a register reads after a write. -/
theorem registerZero : Obligations.RegisterZero := by
  unfold Obligations.RegisterZero
  refine fun s d r x => ⟨rfl, ?_, sreg_wrote s d r x⟩
  rw [sreg_wrote, if_neg fun h => h.2 rfl]

/-- Settles O30: the tables of the reset state are empty, so that every entry is the one an absent key reads. -/
theorem resetState : Obligations.ResetState := by
  unfold Obligations.ResetState
  refine ⟨reset_memOk, fun _ => rfl, fun _ => rfl, fun _ => rfl, rfl, fun _ => ⟨rfl, rfl⟩, fun _ => ⟨rfl, rfl, rfl, rfl⟩,
    fun q => ?_, fun _ => ⟨rfl, rfl⟩, rfl, rfl⟩
  have hq : State.reset.lqs[q] = LaunchQ.reset := Vector.getElem_replicate q.isLt
  rw [hq]
  exact ⟨rfl, rfl, rfl, rfl⟩

end Sys2Proof.Certificates
end

section
/-!
The start, the pieces and the completion of an engine's commands: what a step of the head of a queue is once the purses
have paid for it, and while they have not (R106, R140, R250).
-/
namespace Sys2Proof.Machine

/-! ### The purses a command's step asks (R140) -/

section
variable {s u v : State} {core q : Nat} {c x : Cmd} {d : CmdDid} {k : CmdDid → Option State}

theorem payBill_of_paid (h : Paid s u c v) : payBill u (owed u.asked c.drawn) = v := by
  obtain ⟨_, rfl⟩ := h
  simp [payBill, List.isEmpty_iff]

/-- A step that asks nothing is paid for. -/
theorem paid_nothing (h : u.asked = []) : Paid s u c u := by
  simp [Paid, h, owed, billOpen]

theorem gatePurses_paid (hd : d.state = some u) (hb : billOpen s (owed u.asked c.drawn) = true) :
    gatePurses s core q c d k = k (d.paid (owed u.asked c.drawn)) := by
  simp only [gatePurses, hd]
  exact if_pos hb

theorem gatePurses_owing (hd : d.state = some u) (hb : billOpen s (owed u.asked c.drawn) = false) :
    gatePurses s core q c d k =
      (drawOwed s (owed u.asked c.drawn) c.drawn).map fun x => setHead x.1 core q { c with drawn := x.2 } := by
  simp [gatePurses, hd, hb]

theorem afterCmd_goes (h : Paid s u c v) : afterCmd s core q c (.goes u x) = some (setHead v core q { x with drawn := [] }) := by
  rw [afterCmd, gatePurses_paid rfl h.1, CmdDid.paid, payBill_of_paid h]

theorem afterCmd_page (h : Paid s u c v) : afterCmd s core q c (.page u x) = some (setHead v core q { x with drawn := [] }) := by
  rw [afterCmd, gatePurses_paid rfl h.1, CmdDid.paid, payBill_of_paid h]

theorem afterCmd_partly (h : Paid s u c v) :
    afterCmd s core q c (.partly u x) = some (setHead v core q { x with drawn := [] }) := by
  rw [afterCmd, gatePurses_paid rfl h.1, CmdDid.paid, payBill_of_paid h]

theorem afterCmd_fails {cause : Cause} (h : Paid s u c v) :
    afterCmd s core q c (.fails u cause) = some (failCmd v core q c cause) := by
  rw [afterCmd, gatePurses_paid rfl h.1, CmdDid.paid, payBill_of_paid h]

theorem afterCmd_blocked : afterCmd s core q c (.blocked x) = if x = c then none else some (setHead s core q x) := rfl

/-- A step that waits for its purses, in the terms of the statements. -/
theorem owing_afterCmd (m : String) (hd : d.state = some u) :
    Owing s u core q c c (enabledStep m (afterCmd s core q c d)) (.refused (.notEnabled m)) := by
  intro hb
  rw [afterCmd, gatePurses_owing hd hb]
  cases drawOwed s (owed u.asked c.drawn) c.drawn <;> rfl

/-- A step that waits for one purse alone draws what is left of it. -/
theorem Owing.single {home i n : Nat} {o refused : Out} (h : Owing s u core q c x o refused) (hi : i < 8)
    (ha : u.asked = [(8 * home + i, n)]) (hp : purseTakes s home i (n - Tbl.get 0 c.drawn (8 * home + i)) = false) :
    o = if purseLeft s home i = 0 then refused
      else .next (setHead (spendPurse s home i (purseLeft s home i)) core q
        { x with drawn := Tbl.put 0 c.drawn (8 * home + i) (Tbl.get 0 c.drawn (8 * home + i) + purseLeft s home i) }) := by
  have hdiv : (8 * home + i) / 8 = home := by omega
  have hmod : (8 * home + i) % 8 = i := by omega
  have hbill : owed u.asked c.drawn = [(8 * home + i, n - Tbl.get 0 c.drawn (8 * home + i))] := by rw [ha]; rfl
  have ho := h (by rw [hbill]; simp [billOpen, hdiv, hmod, hp])
  rw [hbill] at ho
  rw [ho]
  by_cases hl : purseLeft s home i = 0
  · simp [drawOwed, partBill, hdiv, hmod, hp, hl]
  · simp [drawOwed, partBill, hdiv, hmod, hp, hl, spendBill]

end

/-! ### The head of a queue that may start (R94, R97, R250) -/

@[simp] theorem homed_drawn (s : State) (core : Nat) (c : Cmd) : (c.homed s core).drawn = c.drawn := by
  unfold Cmd.homed
  split <;> rfl

@[simp] theorem homed_op (s : State) (core : Nat) (c : Cmd) : (c.homed s core).op = c.op := by
  unfold Cmd.homed
  split <;> rfl

@[simp] theorem homed_block (s : State) (core : Nat) (c : Cmd) : (c.homed s core).block = c.block := by
  unfold Cmd.homed
  split <;> rfl

@[simp] theorem homed_sup (s : State) (core : Nat) (c : Cmd) : (c.homed s core).sup = c.sup := by
  unfold Cmd.homed
  split <;> rfl

@[simp] theorem homed_copies (s : State) (core : Nat) (c : Cmd) : (c.homed s core).copies = c.copies := by
  unfold Cmd.homed
  split <;> rfl

theorem homed_plain {c : Cmd} (h : c.op.seqs = []) (s : State) (core : Nat) : c.homed s core = c := by
  rw [Cmd.homed, h]

/-- The machine before a step has asked anything. -/
def unasked (s : State) : State := { s with asked := [] }

/-- A command that stands at the head of its queue with nothing to wait for. -/
structure MayStart (s : State) (core : Nat) (q : BitVec 2) (c : Cmd) : Prop where
  head : headCmd s core q.toNat = some c
  fresh : c.started = false
  real : c.emul = false
  noPage : c.pageVa = none
  joins : joinsOpen s core q.toNat c.seq = true
  free : seqBusy s core c = false

section
variable {s u v : State} {core : Nat} {q : BitVec 2} {c : Cmd}

theorem MayStart.start (h : MayStart s core q c) : exec (.engineCommandStart core q) s =
    enabledStep "ENGINE_COMMAND_START" (afterCmd (unasked s) core q.toNat (c.homed (unasked s) core)
      (cmdStart (unasked s) core (c.homed (unasked s) core))) := by
  simp only [exec, execEngineCommandStart, h.head, h.fresh, h.real, h.noPage, h.joins, h.free]
  rfl

theorem start_busy (hh : headCmd s core q.toNat = some c) (hs : c.started = false) (hb : seqBusy s core c = true) :
    exec (.engineCommandStart core q) s = .refused (.notEnabled "ENGINE_COMMAND_START") := by
  simp [exec, execEngineCommandStart, hh, hs, hb, enabledStep]

theorem Paid.homed (h : Paid s u c v) : Paid (unasked s) u (c.homed (unasked s) core) v := by
  rw [Paid, homed_drawn]
  exact h

theorem MayStart.goes (h : MayStart s core q c) {x : Cmd}
    (hd : cmdStart (unasked s) core (c.homed (unasked s) core) = .goes u x) (hp : Paid s u c v) :
    exec (.engineCommandStart core q) s = .next (setHead v core q.toNat { x with drawn := [] }) := by
  rw [h.start, hd, afterCmd_goes hp.homed]
  rfl

theorem MayStart.goes_free (h : MayStart s core q c) {x : Cmd}
    (hd : cmdStart (unasked s) core (c.homed (unasked s) core) = .goes u x) (hu : u.asked = []) :
    exec (.engineCommandStart core q) s = .next (setHead u core q.toNat { x with drawn := [] }) :=
  h.goes hd (paid_nothing hu)

end

end Sys2Proof.Machine
end

section
/-!
The commands of the state store (R128, R270 to R277, R286): what each reads and writes at its start, in the terms of the
statement, and that a state engine leaves no piece of its work out.
-/
namespace Sys2Proof.Machine

/-! ### The pieces of a state engine's work (R286) -/

theorem setPlaces_free (n : Nat) : ∀ (l : List (Place × Byte)) (s : State),
    setPlaces { s with free := n } l = { setPlaces s l with free := n }
  | [], _ => rfl
  | (.phys pa, x) :: l, s => setPlaces_free n l { s with mem := writePhys s.mem pa x }
  | (.part b off, x) :: l, s =>
    setPlaces_free n l (s.setBlock b { s.blockAt b with scratch := Tbl.put 0 (s.blockAt b).scratch off x })

theorem setPlaces_keeps_free : ∀ (l : List (Place × Byte)) (s : State), (setPlaces s l).free = s.free
  | [], _ => rfl
  | (.phys pa, x) :: l, s => setPlaces_keeps_free l { s with mem := writePhys s.mem pa x }
  | (.part b off, x) :: l, s =>
    setPlaces_keeps_free l (s.setBlock b { s.blockAt b with scratch := Tbl.put 0 (s.blockAt b).scratch off x })

theorem now_free (x : MoveSrc) (s : State) (n : Nat) : x.now { s with free := n } = x.now s := by
  cases x with
  | word p => cases p <;> rfl
  | bytes bs => rfl

theorem perform_free (s : State) (m : Move) (n : Nat) : m.perform { s with free := n } = { m.perform s with free := n } := by
  rw [Move.perform, now_free, setPlaces_free]
  rfl

/-- Some pieces are done now, in their order, and the others are left, in theirs. -/
theorem moveSome_splits : ∀ (ms : List Move) (s : State), ∃ now, (moveSome ms s).2.Sublist ms ∧ now.Sublist ms ∧
    (now ++ (moveSome ms s).2).Perm ms ∧ (moveSome ms s).1 = moveAll { s with free := s.free + ms.length } now
  | [], s => ⟨[], List.Sublist.refl _, List.Sublist.refl _, List.Perm.refl _, rfl⟩
  | m :: r, s => by
    have hlen : s.free + 1 + r.length = s.free + (m :: r).length := by simp; omega
    by_cases hm : Config.movesNow s.free = true
    · obtain ⟨now, hrest, hnow, hperm, hstate⟩ := moveSome_splits r (m.perform { s with free := s.free + 1 })
      refine ⟨m :: now, ?_, hnow.cons_cons m, ?_, ?_⟩
      · simpa [moveSome, hm] using hrest.cons m
      · simpa [moveSome, hm] using hperm.cons m
      · have hfree : (m.perform { s with free := s.free + 1 }).free = s.free + 1 := setPlaces_keeps_free ..
        rw [hfree, hlen, ← perform_free] at hstate
        simp only [moveSome, hm, if_true]
        exact hstate
    · obtain ⟨now, hrest, hnow, hperm, hstate⟩ := moveSome_splits r { s with free := s.free + 1 }
      refine ⟨now, ?_, hnow.cons m, ?_, ?_⟩
      · simpa [moveSome, hm] using hrest.cons_cons m
      · simpa [moveSome, hm] using List.perm_middle.trans (hperm.cons m)
      · dsimp only at hstate
        rw [hlen] at hstate
        simpa [moveSome, hm] using hstate

/-! ### The accesses of a command (R71, R140) -/

theorem askEngine_eq (s : State) (core : Nat) (c : Cmd) (n : Nat) : askEngine s core c n = engineAsks s core c n := by
  unfold askEngine engineAsks
  cases c.op.seqs <;> rfl

section
variable {s t u v : State} {core : Nat} {c : Cmd} {va : Word} {n : Nat}

theorem windowOf_outside (h : isWindow va = false) (block : Nat) : windowOf s core block va = none := by
  unfold isWindow at h
  unfold windowOf
  cases ha : addrClass va <;> simp_all

theorem cmdRead_fetches {bs : List Byte} (h : Fetches s core c va n bs u) (k : State → List Byte → CmdDid) :
    cmdRead s core c va n k = k u bs := by
  obtain ⟨hw, hr⟩ := h
  simp [cmdRead, hw, askEngine_eq, hr]

theorem memRead_fetches {bs : List Byte} (h : Fetches s core c va n bs u) (k : State → List Byte → CmdDid) :
    memRead s core c va n k = k u bs := by
  rw [memRead, h.1, if_neg Bool.false_ne_true, cmdRead_fetches h]

theorem memSource_sources {ws : List Place} (h : Sources s core c va n ws u) (k : State → List Place → CmdDid) :
    memSource s core c va n k = k u ws := by
  obtain ⟨hw, ps, hs, hbad, rfl⟩ := h
  have hany : (ps.any fun x => lineBad u x.1 x.2.1) = false := by simpa using hbad
  simp [memSource, hw, askEngine_eq, hs, hany]

theorem memMoves_targets {ws : List (Word × List MoveSrc)} {ms : List Move} (h : Targets s core c ws u ms)
    (k : State → List Move → CmdDid) : memMoves s core c ws k = k u ms := by
  obtain ⟨v, ps, hp, ⟨hlog, rfl⟩, rfl⟩ := h
  simp only [memMoves, askEngine_eq, hp, hlog]
  rfl

theorem ssSource_memory {ws : List Place} (h : Sources s core c va n ws u) (k : State → List Place → CmdDid) :
    ssSource s core c va n k = k u ws := by
  rw [ssSource, windowOf_outside h.1]
  exact memSource_sources h k

theorem ssSource_window {b off : Nat} {bs : List Byte} (hw : windowOf s core c.block va = some (b, off))
    (hb : partBytes s b off n = .ok bs) (k : State → List Place → CmdDid) :
    ssSource s core c va n k = k s (partWords b off n) := by
  simp [ssSource, hw, hb]

/-! ### The sequence of a command (R128) -/

/-- The address of the descriptor of a sequence in a command's context. -/
def descAt (s : State) (c : Cmd) (seq : Nat) : Word := (s.ctxAt (s.gridOf c.block).ctx).sdtb + BitVec.ofNat 64 (128 * seq)

/-- A command that has no copy of a descriptor reads it. -/
theorem readDesc_fetches {seq : Nat} {raw : List Byte} (ha : (descAt s c seq).toNat % 128 = 0)
    (hc : c.copies.find? (fun x => x.1 == descAt s c seq) = none) (h : Fetches s core c (descAt s c seq) 128 raw v)
    (k : State → Cmd → SeqDesc → CmdDid) : readDesc s core c seq k =
      k v { c with copies := c.copies ++ [(descAt s c seq, raw)] } (.of (descAt s c seq) raw) := by
  unfold descAt at *
  simp only [readDesc, ha, hc]
  exact memRead_fetches h _

theorem walkRest_engineAsks (s : State) (core : Nat) (c : Cmd) (n : Nat) : walkRest (engineAsks s core c n) = walkRest s := by
  unfold engineAsks
  dsimp only
  split <;> rfl

theorem gridOf_walkRest (h : walkRest u = walkRest s) (b : Nat) : u.gridOf b = s.gridOf b := by
  have hg : u.grids = s.grids := (congrArg State.grids h :)
  have hb : u.blocks = s.blocks := (congrArg State.blocks h :)
  rw [State.gridOf, State.gridAt, State.blockAt, hg, hb]
  rfl

theorem Sequence.block {seq : Nat} {c' : Cmd} {d : SeqDesc} (h : Sequence s core c seq u c' d) : c'.block = c.block := by
  obtain ⟨_, _, _, _, _, _, _, _, _, _, _, rfl⟩ := h
  rfl

theorem Sequence.at_eq {seq : Nat} {c' : Cmd} {d : SeqDesc} (h : Sequence s core c seq u c' d) : d.at_ = descAt s c seq := by
  obtain ⟨_, _, _, _, _, _, rfl, _, _, _, _, _⟩ := h
  rfl

theorem Sequence.fresh {seq : Nat} {c' : Cmd} {d : SeqDesc} (h : Sequence s core c seq u c' d) : c.copies = [] := by
  obtain ⟨_, _, _, _, hc, _⟩ := h
  exact hc

theorem readSpan_gridOf {r : Except PartErr (List Byte)} {w : Who}
    (h : readSpan (engineAsks s core c n) w va n = (u, r)) (b : Nat) : u.gridOf b = s.gridOf b := by
  refine gridOf_walkRest ?_ b
  have hr := walkRest_readSpan (engineAsks s core c n) w va n
  rw [h] at hr
  exact hr.trans (walkRest_engineAsks ..)

theorem Sequence.gridOf {seq : Nat} {c' : Cmd} {d : SeqDesc} (h : Sequence s core c seq u c' d) (b : Nat) :
    u.gridOf b = s.gridOf b := by
  obtain ⟨_, v, _, _, _, hr, _, _, _, _, rfl, _⟩ := h
  exact (rfl : _ = v.gridOf b).trans (readSpan_gridOf hr b)

theorem withSeq_sequence {seq : Nat} {c' : Cmd} {d : SeqDesc} (h : Sequence s core c seq u c' d)
    (k : State → Cmd → SeqDesc → CmdDid) : withSeq s core c seq k = k u c' d := by
  obtain ⟨raw, v, hal, hw, hc, hr, rfl, hu, hok, hclash, rfl, rfl⟩ := h
  rw [withSeq, readDesc_fetches hal (by rw [hc]; rfl) ⟨hw, hr⟩]
  have hgrid := readSpan_gridOf hr c.block
  unfold descAt
  simp only [hc, hgrid, hu, hok, hclash, Bool.not_true, Bool.or_false, Bool.false_eq_true, if_false, List.nil_append]

/-! ### What each command reads and writes (R272 to R277) -/

section
variable {c' : Cmd} {seq : Nat} {d : SeqDesc} {ms : List Move}

variable (h : Sequence s core c seq u c' d)
include h

theorem ssldStart_memory {off len : Nat} {other : Word} {ws : List Place} (hl : off + len ≤ d.size)
    (hs : Sources u core c' (d.live + BitVec.ofNat 64 off) len ws v) (hw : isWindow other = false)
    (ht : Targets v core c' [(other, ws.map .word)] t ms) : ssldStart s core c seq off other len = ssMoves t c' ms := by
  rw [ssldStart, withSeq_sequence h, if_neg (Nat.not_lt.mpr hl), memSource_sources hs, windowOf_outside hw]
  simp only [hw, Bool.false_eq_true, if_false]
  exact memMoves_targets ht _

theorem ssldStart_window {off len b o : Nat} {other : Word} {ws : List Place} (hl : off + len ≤ d.size)
    (hs : Sources u core c' (d.live + BitVec.ofNat 64 off) len ws v) (hw : windowOf v core c'.block other = some (b, o))
    (hfit : o + len ≤ (v.blockAt b).size) : ssldStart s core c seq off other len =
      ssMoves v c' ((partWords b o len).zipWith (fun p x => ⟨p, .word x⟩) ws) := by
  rw [ssldStart, withSeq_sequence h, if_neg (Nat.not_lt.mpr hl), memSource_sources hs, hw]
  exact if_pos hfit

theorem ssstStart_memory {off len : Nat} {other : Word} {ws : List Place} (hl : off + len ≤ d.size)
    (hs : Sources u core c' other len ws v)
    (ht : Targets v core c' [(d.live + BitVec.ofNat 64 off, ws.map .word)] t ms) :
    ssstStart s core c seq off other len = ssMoves t c' ms := by
  rw [ssstStart, withSeq_sequence h, if_neg (Nat.not_lt.mpr hl), ssSource_memory hs]
  exact memMoves_targets ht _

theorem ssstStart_window {off len b o : Nat} {other : Word} {bs : List Byte} (hl : off + len ≤ d.size)
    (hw : windowOf u core c'.block other = some (b, o)) (hb : partBytes u b o len = .ok bs)
    (ht : Targets u core c' [(d.live + BitVec.ofNat 64 off, (partWords b o len).map .word)] t ms) :
    ssstStart s core c seq off other len = ssMoves t c' ms := by
  rw [ssstStart, withSeq_sequence h, if_neg (Nat.not_lt.mpr hl), ssSource_window hw hb]
  exact memMoves_targets ht _

theorem ssnapStart_pinned {p : Word} (hn : snapSlot d d.depth d.head = none) :
    ssnapStart s core c seq p = .goes u (c'.ends 2) := by
  rw [ssnapStart, withSeq_sequence h, hn]

theorem ssnapStart_copies {p : Word} {i : Nat} {ws : List Place} (hn : snapSlot d d.depth d.head = some i)
    (hs : Sources u core c' d.live d.size ws v)
    (ht : Targets v core c' [(d.slotAt i, ws.map .word), (d.entryAt i, [.bytes (leBytes 8 p.toNat ++ leBytes 8 d.count.toNat)]),
      d.field 0x40 8 (d.count + 1).toNat, d.field 0x30 8 (d.valid ||| 1 <<< i).toNat,
      d.field 0x29 1 ((i + 1) % d.depth), d.field 0x10 8 p.toNat] t ms) :
    ssnapStart s core c seq p = ssMoves t c' ms := by
  rw [ssnapStart, withSeq_sequence h, hn]
  exact (memSource_sources hs _).trans (memMoves_targets ht _)

section
variable {p : Word} {tab : List Byte} (hf : Fetches u core c' d.slots (16 * d.depth) tab v)
include hf

theorem ssrollStart_none (hn : bestSlot d tab p.toNat = none) : ssrollStart s core c seq p = .goes v (c'.ends 1) := by
  rw [ssrollStart, withSeq_sequence h, memRead_fetches hf, hn]

theorem ssrollStart_copies {w : State} {i : Nat} {ws : List Place} (hn : bestSlot d tab p.toNat = some i)
    (hs : Sources v core c' (d.slotAt i) d.size ws w)
    (ht : Targets w core c' [(d.live, ws.map .word), d.field 0x10 8 (slotPos tab i),
      d.field 0x30 8 (dropAbove d tab (slotPos tab i)).toNat] t ms) :
    ssrollStart s core c seq p = ssMoves t c' ms := by
  rw [ssrollStart, withSeq_sequence h, memRead_fetches hf, hn]
  exact (memSource_sources hs _).trans (memMoves_targets ht _)

end

theorem ssdropStart_drops (ht : Targets u core c' [d.field 0x2A 1 0, d.field 0x30 8 0] t ms) :
    ssdropStart s core c seq = ssMoves t { c' with dirs := some (seq, none) } ms := by
  rw [ssdropStart, withSeq_sequence h]
  exact memMoves_targets ht _

/-! SSFORK reads the descriptor of its other sequence, then the slot table and the fork block (R276, R285). -/

section
variable {dst : Nat} {blk : Word} {raw2 : List Byte}
variable (ha : (descAt u c' dst).toNat % 128 = 0) (hne : descAt u c' dst ≠ d.at_)
variable (hf : Fetches u core c' (descAt u c' dst) 128 raw2 v)
include ha hne hf

/-- The command with its copies of both descriptors. -/
def forked (u : State) (c' : Cmd) (dst : Nat) (raw2 : List Byte) : Cmd :=
  { c' with copies := c'.copies ++ [(descAt u c' dst, raw2)] }

omit h ha hne hf in
theorem forked_block : (forked u c' dst raw2).block = c'.block := rfl

omit h ha hne hf in
theorem seqDesc_raw (a : Word) (bs : List Byte) : (SeqDesc.of a bs).raw = bs := rfl

theorem ssforkStart_reads (k : State → Cmd → SeqDesc → CmdDid) : readDesc u core c' dst k =
    k v (forked u c' dst raw2) (.of (descAt u c' dst) raw2) := by
  refine readDesc_fetches ha ?_ hf k
  obtain ⟨raw, v, _, _, _, _, rfl, _, _, _, _, rfl⟩ := h
  simpa using fun he => hne he.symm

theorem ssforkStart_used (hu : (SeqDesc.of (descAt u c' dst) raw2).used = true) :
    ssforkStart s core c seq dst blk = .goes v ((forked u c' dst raw2).ends 3) := by
  rw [ssforkStart, withSeq_sequence h, ssforkStart_reads h ha hne hf]
  exact if_pos hu

variable {ctx : Nat} {tab fb : List Byte} {w x : State} (hctx : (v.gridOf c'.block).ctx = ctx)
variable (hu : (SeqDesc.of (descAt u c' dst) raw2).used = false) (hr : reservedOk raw2 = true)
variable (htab : Fetches (dirSet v ctx dst none) core (forked u c' dst raw2) d.slots (16 * d.depth) tab w)
variable (hfb : Fetches w core (forked u c' dst raw2) blk 64 fb x)
include hctx hu hr htab hfb

theorem ssforkStart_none (hn : bestSlot d tab (fieldNat fb 0 8) = none) :
    ssforkStart s core c seq dst blk = .goes x ((forked u c' dst raw2).ends 1) := by
  rw [ssforkStart, withSeq_sequence h, ssforkStart_reads h ha hne hf]
  simp only [hu, seqDesc_raw, hr, forked_block, hctx, Bool.not_true, Bool.false_eq_true, if_false, memRead_fetches htab, cmdRead_fetches hfb, hn]

theorem ssforkStart_copies {i : Nat} {ws : List Place} {y : State} {regions : Regions}
    (hn : bestSlot d tab (fieldNat fb 0 8) = some i)
    (hreg : regionsOf (fieldWord fb 0x08) d.size (fieldWord fb 0x10) (fieldWord fb 0x18) (fieldNat fb 0x20 1) = regions)
    (hz : zeroBytes fb 0x21 31 = true)
    (hlay : layoutOk (fieldWord fb 0x08) d.size (fieldWord fb 0x10) (fieldWord fb 0x18) (fieldNat fb 0x20 1)
      (SeqDesc.of (descAt u c' dst) raw2).pins = true)
    (hclash : dirClash (x.ctxAt ctx).dir dst regions = false)
    (hs : Sources x core (forked u c' dst raw2) (d.slotAt i) d.size ws y)
    (ht : let other := SeqDesc.of (descAt u c' dst) raw2
      Targets y core (forked u c' dst raw2) [(fieldWord fb 0x08, ws.map .word), other.field 0x00 8 (fieldWord fb 0x08).toNat,
        other.field 0x08 8 d.size, other.field 0x10 8 (slotPos tab i), other.field 0x18 8 (fieldWord fb 0x10).toNat,
        other.field 0x20 8 (fieldWord fb 0x18).toNat, other.field 0x28 1 (fieldNat fb 0x20 1), other.field 0x29 1 0,
        other.field 0x2A 1 (fieldNat raw2 0x2A 1 ||| 1), other.field 0x30 8 0, other.field 0x40 8 0, other.field 0x48 4 seq,
        other.field 0x50 8 (slotPos tab i)] t ms) :
    ssforkStart s core c seq dst blk = ssMoves t { forked u c' dst raw2 with dirs := some (dst, some regions) } ms := by
  subst hreg
  rw [ssforkStart, withSeq_sequence h, ssforkStart_reads h ha hne hf]
  simp only [hu, seqDesc_raw, hr, forked_block, hctx, Bool.not_true, Bool.false_eq_true, if_false, memRead_fetches htab,
    cmdRead_fetches hfb, hn, hz, hlay, hclash, Bool.or_self, memSource_sources hs]
  exact memMoves_targets ht _

end

end

end

/-! ### A started command goes on, and completes (R97, R286) -/

section
variable {s : State} {core : Nat} {q : BitVec 2} {c : Cmd} (hh : headCmd s core q.toNat = some c)

theorem queue_setQueue (k : Core) {q : Nat} (l : List Cmd) (hq : q < 4) : (k.setQueue q l).queue q = l := by
  interval_cases q <;> rfl

theorem headCmd_setHead (s : State) (core : Nat) (q : BitVec 2) (c : Cmd) :
    headCmd (setHead s core q.toNat c) core q.toNat = some c := by
  rw [headCmd, setHead, State.coreAt_setCore_same, queue_setQueue _ _ q.isLt]
  rfl

theorem setPlaces_unasked : ∀ (l : List (Place × Byte)) (s : State), setPlaces (unasked s) l = unasked (setPlaces s l)
  | [], _ => rfl
  | (.phys pa, x) :: l, s => setPlaces_unasked l { s with mem := writePhys s.mem pa x }
  | (.part b off, x) :: l, s =>
    setPlaces_unasked l (s.setBlock b { s.blockAt b with scratch := Tbl.put 0 (s.blockAt b).scratch off x })

theorem now_unasked (x : MoveSrc) (s : State) : x.now (unasked s) = x.now s := by
  cases x with
  | word p => cases p <;> rfl
  | bytes bs => rfl

theorem moveAll_unasked : ∀ (ms : List Move) (s : State), moveAll (unasked s) ms = unasked (moveAll s ms)
  | [], _ => rfl
  | m :: r, s => by
    have hm : m.perform (unasked s) = unasked (m.perform s) := by
      rw [Move.perform, now_unasked, setPlaces_unasked]
      rfl
    rw [moveAll, List.foldl_cons, hm]
    exact moveAll_unasked r _

include hh

/-- A started command makes some more of the pieces of its work. -/
theorem start_goesOn (hs : c.started = true) (hm : c.moves ≠ []) : exec (.engineCommandStart core q) s =
    .next (setHead (moveSome c.moves s).1 core q.toNat { c with moves := (moveSome c.moves s).2 }) := by
  simp [exec, execEngineCommandStart, hh, hs, hm, enabledStep]

/-- A command completes as one whose pieces have all been made. -/
theorem completion_finishes (hm : c.moves ≠ []) (hf : c.finished = true) : exec (.engineCommandCompletion core q) s =
    exec (.engineCommandCompletion core q) (setHead (moveAll s c.moves) core q.toNat { c with moves := [] }) := by
  have hf' : ({ c with moves := [] } : Cmd).finished = true := hf
  have hr : finishMoves (unasked (setHead (moveAll s c.moves) core q.toNat { c with moves := [] })) core q.toNat
      { c with moves := [] } = (unasked (setHead (moveAll s c.moves) core q.toNat { c with moves := [] }), { c with moves := [] }) := rfl
  have hl : finishMoves (unasked s) core q.toNat c =
      (unasked (setHead (moveAll s c.moves) core q.toNat { c with moves := [] }), { c with moves := [] }) := by
    simp only [finishMoves, List.isEmpty_iff, hm, if_false, moveAll_unasked]
    rfl
  simp only [unasked] at hl hr
  simp only [exec, execEngineCommandCompletion, hh, headCmd_setHead, hf, hf', hl, hr]

end

/-! ### The domain that homes a command's region (R71) -/

section
variable {s v : State} {core : Nat} {c : Cmd} {seq : Nat} {rest : List Nat} (hs : c.op.seqs = seq :: rest)
include hs

theorem homed_home : (c.homed s core).home = some (homeDomain s core c seq) := by rw [Cmd.homed, hs]

/-- The accesses of a command on sequences, by the walker of a domain. -/
def walkerFor (s : State) (core : Nat) (c : Cmd) (home : Nat) : Who :=
  ⟨walkerHolder home, (s.gridOf c.block).ctx, c.block, c.sup, none, cmdDeaf s core⟩

theorem whoCmd_walker : whoCmd s core c = walkerFor s core c (c.home.getD (domainOf core)) := by
  simp [whoCmd, Cmd.holder, hs, walkerFor]

theorem homeDomain_read {raw : List Byte} {pa : Nat} {l : Leaf} (hc : c.copies = [])
    (hr : readSpan s (walkerFor s core c (domainOf core)) (descAt s c seq) 128 = (v, .ok raw))
    (ht : (translate s (walkerFor s core c (domainOf core)) .read (fieldWord raw 0)).2 = .ok (pa, l)) :
    (∀ n, paRange pa = .stack n → homeDomain s core c seq = n) ∧
    (paRange pa = .host ∨ paRange pa = .peer → homeDomain s core c seq = domainOf core) := by
  have hw : whoCmd s core { c with home := none } = walkerFor s core c (domainOf core) := whoCmd_walker hs
  have hb : descBytes s (walkerFor s core c (domainOf core)) c (descAt s c seq) = some raw := by
    simp [descBytes, hc, hr, Except.toOption]
  have hd : descBytes s (walkerFor s core c (domainOf core)) c
      ((s.ctxAt (walkerFor s core c (domainOf core)).ctx).sdtb + BitVec.ofNat 64 (128 * seq)) = some raw := hb
  simp only [homeDomain, hw, hd, ht]
  refine ⟨fun n hn => by rw [hn], fun h => ?_⟩
  rcases h with h | h <;> rw [h]

end

end Sys2Proof.Machine
namespace Sys2Proof.Certificates
open Sys2Proof.Machine

/-- Settles O57: the pieces of a command's work by `moveSome_splits`, each command by what its start reads and writes. -/
theorem stateStoreCommands : Obligations.StateStoreCommands := by
  unfold Obligations.StateStoreCommands
  refine ⟨moveSome_splits, fun s u core q c hh => ⟨fun hs hm => ⟨start_goesOn hh hs hm, completion_finishes hh hm⟩, ?_⟩⟩
  intro c' seq d s0 c0 home hfresh hreal hpage hjoins hfree hseq
  have hstart : MayStart s core q c := ⟨hh, hfresh, hreal, hpage, hjoins, hfree⟩
  have hop : c0.op = c.op := homed_op s0 core c
  have hblock : c'.block = c.block := hseq.block.trans (homed_block s0 core c)
  have hgrid : u.gridOf c'.block = s.gridOf c.block := (hseq.gridOf _).trans (congrArg s.gridOf hblock)
  have hdone : ∀ {t x}, cmdStart s0 core c0 = .goes t x → ∀ v, Paid s t c v →
      exec (.engineCommandStart core q) s = .next (setHead v core q.toNat { x with drawn := [] }) :=
    fun hd v => hstart.goes hd
  refine ⟨?_, ?_, ?_⟩
  · intro rest raw pa l v hs who hr ht
    have hat : d.at_ = descAt s0 c seq := by rw [hseq.at_eq, descAt, descAt, homed_block]
    have hcopies : c.copies = [] := (homed_copies s0 core c).symm.trans hseq.fresh
    obtain ⟨hstack, helse⟩ := homeDomain_read hs hcopies (hat ▸ hr) ht
    have hhome : c0.home = some (homeDomain s0 core c seq) := homed_home hs
    exact ⟨fun n hn => by rw [hhome, hstack n hn], fun hn => by rw [hhome, helse hn]⟩
  · intro hs
    obtain ⟨seq', rest, hs⟩ := List.exists_cons_of_ne_nil hs
    rw [whoCmd_walker (c := c0) (hop ▸ hs), walkerFor, homed_block, homed_sup]
  intro leaves moves after field slot ctx
  refine ⟨?_, ?_, ?_, ?_, ?_, ?_, ?_, ?_⟩
  · intro off other len ws v t ms ho hl hsrc hw ht
    refine hdone ?_
    rw [cmdStart, hop, ho]
    exact ssldStart_memory hseq hl hsrc hw ht
  · intro off other len ws v b o ho hl hsrc hw hfit
    refine hdone ?_
    rw [cmdStart, hop, ho]
    exact ssldStart_window hseq hl hsrc (hblock ▸ hw) hfit
  · intro off other len ws v t ms ho hl hsrc ht
    refine hdone ?_
    rw [cmdStart, hop, ho]
    exact ssstStart_memory hseq hl hsrc ht
  · intro off other len bs b o t ms ho hl hw hb ht
    refine hdone ?_
    rw [cmdStart, hop, ho]
    exact ssstStart_window hseq hl (hblock ▸ hw) hb ht
  · intro p ho
    refine ⟨fun hn => hdone ?_, fun i ws v t ms hn hsrc ht => hdone ?_⟩ <;> rw [cmdStart, hop, ho]
    · exact ssnapStart_pinned hseq hn
    · exact ssnapStart_copies hseq hn hsrc ht
  · intro p tab v ho hf
    refine ⟨fun hn => hdone ?_, fun i ws w t ms hn hsrc ht => hdone ?_⟩ <;> rw [cmdStart, hop, ho]
    · exact ssrollStart_none hseq hf hn
    · exact ssrollStart_copies hseq hf hn hsrc ht
  · intro ho t ms ht
    refine hdone ?_
    rw [cmdStart, hop, ho]
    exact ssdropStart_drops hseq ht
  · intro dst blk raw2 v ho at2 ha hne hf other c2
    have hat : at2 = descAt u c' dst := by rw [descAt, hgrid]
    clear_value at2
    subst hat
    have hctx : (v.gridOf c'.block).ctx = ctx := by rw [readSpan_gridOf hf.2, hgrid]
    refine ⟨fun hu => hdone ?_, fun tab w fb x hu hr htab hfb => ⟨fun hn => hdone ?_, ?_⟩⟩
    · rw [cmdStart, hop, ho]
      exact ssforkStart_used hseq ha hne hf hu
    · rw [cmdStart, hop, ho]
      exact ssforkStart_none hseq ha hne hf hctx hu hr htab hfb hn
    · intro i ws y t ms hn live ring slots depth regions hz hlay hclash hsrc put ht
      refine hdone ?_
      rw [cmdStart, hop, ho]
      exact ssforkStart_copies hseq ha hne hf hctx hu hr htab hfb hn rfl hz hlay hclash hsrc ht

end Sys2Proof.Certificates
end

section
/-!
The steps of the engines (R94, R97, R106, R107, R250, R254 to R259): what each matrix command leaves, the landing of a
copy's piece, and how a finished command ends.
-/
namespace Sys2Proof.Tbl
variable {α : Type}

theorem length_range (d : α) (t : Tbl α) : ∀ n k, (range d t k n).length = n
  | 0, _ => rfl
  | n + 1, k => congrArg (· + 1) (length_range d t n (k + 1))

theorem getElem?_range (d : α) (t : Tbl α) : ∀ {n i : Nat} (k : Nat), i < n → (range d t k n)[i]? = some (get d t (k + i))
  | n + 1, 0, _, _ => rfl
  | n + 1, i + 1, k, h => by
    rw [range, List.getElem?_cons_succ, getElem?_range d t (k + 1) (Nat.lt_of_succ_lt_succ h)]
    congr 2
    omega

theorem drop_range (d : α) (t : Tbl α) : ∀ (i n k : Nat), (range d t k (i + n)).drop i = range d t (k + i) n
  | 0, n, k => by simp
  | i + 1, n, k => by
    rw [show i + 1 + n = i + n + 1 by omega, range, List.drop_succ_cons, drop_range d t i n (k + 1)]
    congr 1
    omega

theorem take_range (d : α) (t : Tbl α) : ∀ (m n k : Nat), (range d t k (m + n)).take m = range d t k m
  | 0, _, _ => by simp [range]
  | m + 1, n, k => by
    rw [show m + 1 + n = m + n + 1 by omega, range, List.take_succ_cons, take_range d t m n (k + 1), range]

/-- A part of a run of values. -/
theorem take_drop_range (d : α) (t : Tbl α) {i m n : Nat} (k : Nat) (h : i + m ≤ n) :
    ((range d t k n).drop i).take m = range d t (k + i) m := by
  obtain ⟨r, rfl⟩ := Nat.exists_eq_add_of_le h
  rw [Nat.add_assoc, drop_range, take_range]

theorem get_putAll_inside [DecidableEq α] (d : α) {xs : List α} {i : Nat} (t : Tbl α) (k : Nat) (h : i < xs.length) :
    get d (putAll d t k xs) (k + i) = xs[i] := by
  have hi := getElem?_range d (putAll d t k xs) k h
  rw [range_putAll_same, List.getElem?_eq_getElem h] at hi
  exact (Option.some.inj hi).symm

theorem foldl_put_zipIdx [DecidableEq α] (d : α) : ∀ (xs : List α) (k : Nat) (t : Tbl α),
    (xs.zipIdx k).foldl (fun t (x, i) => put d t i x) t = putAll d t k xs
  | [], _, _ => rfl
  | x :: xs, k, t => foldl_put_zipIdx d xs (k + 1) (put d t k x)

end Sys2Proof.Tbl

namespace Sys2Proof.Machine

/-! ### The head of a queue in its core -/

@[simp] theorem setQueue_acc (k : Core) (q : Nat) (l : List Cmd) : (k.setQueue q l).acc = k.acc := by
  unfold Core.setQueue
  split <;> rfl

@[simp] theorem setQueue_pages (k : Core) (q : Nat) (l : List Cmd) : (k.setQueue q l).pages = k.pages := by
  unfold Core.setQueue
  split <;> rfl

theorem coreAt_setHead (s : State) (core q : Nat) (c : Cmd) :
    (setHead s core q c).coreAt core = (s.coreAt core).setQueue q (c :: ((s.coreAt core).queue q).drop 1) := by
  simp [setHead]

theorem coreAt_dropHead (s : State) (core q : Nat) :
    (dropHead s core q).coreAt core = (s.coreAt core).setQueue q (((s.coreAt core).queue q).drop 1) := by
  simp [dropHead]

/-! ### MXB (R257) -/

section
variable {s : State} {core : Nat} {c : Cmd} {a : Word} {page fmt b off : Nat}

/-- The rows of a B page in the bytes loaded. -/
def rowsOf (bs : List Byte) : List (BitVec 128) := (List.range 512).map fun i => BitVec.ofNat 128 (fieldNat bs (16 * i) 16)

/-- A core whose B page a block has taken and filled with rows. -/
def withPage (k : Core) (page block : Nat) (rows : List (BitVec 128)) : Core :=
  { k with pages := Tbl.set k.pages page ⟨some block, Tbl.putAll 0 [] 0 rows⟩ }

/-- The page's old error is gone once it is filled. -/
def mended (s : State) (x : EccSite) : State := { s with poison := s.poison.filter (· != x) }

theorem mxbStart_fills (hw : windowOf s core c.block a = some (b, off)) (hfit : off + 8192 ≤ (s.blockAt b).size)
    (hp : poisoned s (.part b off) 8192 = false) (hfence : s.fenced.contains (.bpage core page) = false)
    (htest : s.testing.contains (.bpage core page) = false)
    (hown : (Tbl.get BPage.reset (s.coreAt core).pages page).owner = none ∨
      (Tbl.get BPage.reset (s.coreAt core).pages page).owner = some c.block)
    (hfmt : fmtElem (slotFmt (s.gridOf c.block).record fmt) ≠ 0) :
    mxbStart s core c a page fmt = .goes
      ((mended (if blockCore b = core then s else s.askSlots (domainOf core) bpagePurse 16) (.bpage core page)).setCore core
        (withPage (s.coreAt core) page c.block (rowsOf (Tbl.range 0 (s.blockAt b).scratch off 8192))))
      { c with started := true, flags := 0 } := by
  have hread : readWindowBytes s core c a 8192 = .ok (b, Tbl.range 0 (s.blockAt b).scratch off 8192) := by
    simp [readWindowBytes, hw, partBytes, hp, Nat.not_lt.mpr hfit, Except.map]
  have howner : (!((Tbl.get BPage.reset (s.coreAt core).pages page).owner == none ||
      (Tbl.get BPage.reset (s.coreAt core).pages page).owner == some c.block)) = false := by
    rcases hown with h | h <;> simp [h]
  simp only [mxbStart, pageFenced, hfence, htest, howner, hread, beq_false_of_ne hfmt, Bool.false_and, Bool.or_false,
    Bool.false_eq_true, if_false, Tbl.foldl_put_zipIdx]
  rfl

theorem getElem_rowsOf {t : Tbl Byte} {i : Nat} (hi : i < 512) : (rowsOf (Tbl.range 0 t off 8192))[i]? =
    some (BitVec.ofNat 128 (leNat (Tbl.range 0 t (off + 16 * i) 16))) := by
  rw [rowsOf, List.getElem?_map, List.getElem?_range hi, Option.map_some, fieldNat, fieldBytes,
    Tbl.take_drop_range _ _ _ (by omega)]

theorem get_withPage_same {k : Core} {block : Nat} {t : Tbl Byte} {i : Nat} (hi : i < 512) :
    Tbl.get 0 (Tbl.get BPage.reset (withPage k page block (rowsOf (Tbl.range 0 t off 8192))).pages page).rows i =
      BitVec.ofNat 128 (leNat (Tbl.range 0 t (off + 16 * i) 16)) := by
  have hlen : i < (rowsOf (Tbl.range 0 t off 8192)).length := by simpa [rowsOf] using hi
  have hrow := getElem_rowsOf (t := t) (off := off) hi
  rw [List.getElem?_eq_getElem hlen] at hrow
  rw [withPage, Tbl.get_set_same]
  have h := Tbl.get_putAll_inside 0 [] 0 hlen
  rw [Nat.zero_add] at h
  rw [h, Option.some.inj hrow]

end

/-! ### MXA (R158, R258) -/

/-- One accumulator element updated, with the flags of its update. -/
def accStep {ι : Type} (ix : ι → Nat) (f : ι → Lane → Lane × Flags) (st : Tbl Lane × Flags) (a : ι) : Tbl Lane × Flags :=
  (Tbl.put 0 st.1 (ix a) (f a (Tbl.get 0 st.1 (ix a))).1, st.2 ||| (f a (Tbl.get 0 st.1 (ix a))).2)

theorem foldl_accStep_other {ι : Type} {ix : ι → Nat} (f : ι → Lane → Lane × Flags) {j : Nat} : ∀ (l : List ι) (st : Tbl Lane × Flags),
    (∀ a ∈ l, j ≠ ix a) → Tbl.get 0 (l.foldl (accStep ix f) st).1 j = Tbl.get 0 st.1 j
  | [], _, _ => rfl
  | a :: l, st, h => by
    rw [List.foldl_cons, foldl_accStep_other f l _ fun b hb => h b (List.mem_cons_of_mem _ hb), accStep,
      Tbl.get_put_other _ _ _ (h a List.mem_cons_self)]

/-- Elements at distinct places are updated once each, from the values they had. -/
theorem foldl_accStep_same {ι : Type} {ix : ι → Nat} (f : ι → Lane → Lane × Flags) {a : ι} : ∀ (l : List ι) (st : Tbl Lane × Flags),
    (l.map ix).Nodup → a ∈ l → Tbl.get 0 (l.foldl (accStep ix f) st).1 (ix a) = (f a (Tbl.get 0 st.1 (ix a))).1
  | b :: l, st, hl, ha => by
    obtain ⟨hb, hl⟩ := List.nodup_cons.mp hl
    rw [List.foldl_cons]
    rcases List.mem_cons.mp ha with rfl | ha
    · rw [foldl_accStep_other f l _ fun c hc h => hb (List.mem_map.mpr ⟨c, hc, h.symm⟩), accStep, Tbl.get_put_same]
    · have hne : ix a ≠ ix b := fun h => hb (h ▸ List.mem_map_of_mem ha)
      rw [foldl_accStep_same f l _ hl ha, accStep, Tbl.get_put_other _ _ _ hne]

section
variable {s : State} {core : Nat} {c : Cmd} {a : Word} {page bslot aslot rows acc : Nat}

/-- The operands of an MXA whose window holds an image. -/
def mxaArgs (r : LaunchRec) (bslot aslot rows : Nat) (image : List Byte) (page : Tbl (BitVec 128)) : MxaArgs :=
  ⟨fmtElem (slotFmt r aslot), fmtElem (slotFmt r bslot), fmtScale (slotFmt r aslot), fmtScale (slotFmt r bslot),
    fmtBlock (slotFmt r bslot), 512 / fmtBlock (slotFmt r bslot), image, rows, page⟩

/-- The accumulators, and the flags, as an MXA leaves them. -/
def MxaArgs.accumulated (x : MxaArgs) (page acc : Nat) (t : Tbl Lane) : Tbl Lane × Flags :=
  ((List.range x.rows) ×ˢ (List.range (bColumns x.bElem))).foldl
    (accStep (fun p => accIx (acc + p.1) (64 * (page / 8) + p.2)) fun p => x.element p.1 (x.aRow p.1) p.2) (t, 0)

theorem foldl_rows_columns {σ : Type} (f : σ → Nat × Nat → σ) (l m : List Nat) (st : σ) :
    (l ×ˢ m).foldl f st = l.foldl (fun st i => m.foldl (fun st n => f st (i, n)) st) st := by
  simp only [SProd.sprod, List.product, List.foldl_flatMap, List.foldl_map]

theorem mxaStart_accumulates {b : Nat} {image : List Byte} {r : LaunchRec} (hr : (s.gridOf c.block).record = r)
    (hown : (Tbl.get BPage.reset (s.coreAt core).pages page).owner = some c.block)
    (hp : EccSite.bpage core page ∉ s.poison)
    (hblock : fmtScale (slotFmt r aslot) = 3 ∧ fmtScale (slotFmt r bslot) = 3 ∨
      fmtBlock (slotFmt r aslot) = fmtBlock (slotFmt r bslot))
    (hread : readWindowBytes s core c a (rows * (512 * elemBits (fmtElem (slotFmt r aslot)) / 8) +
      rows * (512 / fmtBlock (slotFmt r bslot)) * scaleBytes (fmtScale (slotFmt r aslot)) +
      bColumns (fmtElem (slotFmt r bslot)) * (512 / fmtBlock (slotFmt r bslot)) * scaleBytes (fmtScale (slotFmt r bslot))) =
        .ok (b, image)) :
    let x := mxaArgs r bslot aslot rows image (Tbl.get BPage.reset (s.coreAt core).pages page).rows
    (fmtStrict (slotFmt r aslot) = true → x.aRsv = false ∧ x.aElemRsv = false) →
    (fmtStrict (slotFmt r bslot) = true → x.bRsv = false ∧ x.bElemRsv = false) →
    mxaStart s core c a page bslot aslot rows acc =
      .goes (s.setCore core { s.coreAt core with acc := (x.accumulated page acc (s.coreAt core).acc).1 })
        { c with started := true, flags := (x.accumulated page acc (s.coreAt core).acc).2 } := by
  intro x hsa hsb
  subst hr
  have hstrict : ((fmtStrict (slotFmt (s.gridOf c.block).record aslot) && (x.aRsv || x.aElemRsv)) ||
      (fmtStrict (slotFmt (s.gridOf c.block).record bslot) && (x.bRsv || x.bElemRsv))) = false := by
    simp only [Bool.or_eq_false_iff, Bool.and_eq_false_imp]
    exact ⟨hsa, hsb⟩
  have hgood : ¬((Tbl.get BPage.reset (s.coreAt core).pages page).owner ≠ some c.block ∨
      ((fmtScale (slotFmt (s.gridOf c.block).record aslot) ≠ 3 ∨ fmtScale (slotFmt (s.gridOf c.block).record bslot) ≠ 3) ∧
        fmtBlock (slotFmt (s.gridOf c.block).record aslot) ≠ fmtBlock (slotFmt (s.gridOf c.block).record bslot)) ∨
      s.poison.contains (EccSite.bpage core page) = true) := by
    simp only [hown, List.contains_iff_mem, hp]
    grind
  rw [mxaStart]
  simp only [if_neg hgood, hread, MxaArgs.accumulated, foldl_rows_columns]
  exact if_neg (hstrict ▸ Bool.false_ne_true)

end

end Sys2Proof.Machine
end

section
/-!
The matrix commands that update, store and zero accumulators (R158, R258, R259).
-/
namespace Sys2Proof.Machine

/-! ### The elements of an MXA (R158) -/

theorem accIx_inj {r i j m n : Nat} (hm : m < 512) (hn : n < 512) (h : accIx (r + i) m = accIx (r + j) n) : i = j ∧ m = n := by
  unfold accIx at h
  omega

/-- Each accumulator element of an MXA is updated once, from its old value, and no other is. -/
theorem get_accumulated {x : MxaArgs} {page acc : Nat} (t : Tbl Lane) (hpage : page < 64) :
    (∀ i n, i < x.rows → n < bColumns x.bElem →
      Tbl.get 0 (x.accumulated page acc t).1 (accIx (acc + i) (64 * (page / 8) + n)) =
        (x.element i (x.aRow i) n (Tbl.get 0 t (accIx (acc + i) (64 * (page / 8) + n)))).1) ∧
    ∀ j, (∀ i n, i < x.rows → n < bColumns x.bElem → j ≠ accIx (acc + i) (64 * (page / 8) + n)) →
      Tbl.get 0 (x.accumulated page acc t).1 j = Tbl.get 0 t j := by
  have hcols : bColumns x.bElem ≤ 64 := Nat.div_le_self ..
  refine ⟨fun i n hi hn => ?_, fun j hj => foldl_accStep_other _ _ _ fun p hp => ?_⟩
  · have hmem : (i, n) ∈ List.range x.rows ×ˢ List.range (bColumns x.bElem) := by simp [hi, hn]
    refine foldl_accStep_same (ix := fun p : Nat × Nat => accIx (acc + p.1) (64 * (page / 8) + p.2)) _ _ (t, 0) ?_ hmem
    refine List.Nodup.map_on (fun p hp p' hp' h => ?_) (List.nodup_range.product List.nodup_range)
    obtain ⟨-, hp⟩ := List.mem_product.mp hp
    obtain ⟨-, hp'⟩ := List.mem_product.mp hp'
    rw [List.mem_range] at hp hp'
    obtain ⟨h1, h2⟩ := accIx_inj (by omega) (by omega) h
    exact Prod.ext h1 (Nat.add_left_cancel h2)
  · obtain ⟨hp1, hp2⟩ := List.mem_product.mp hp
    exact hj p.1 p.2 (List.mem_range.mp hp1) (List.mem_range.mp hp2)

/-! ### MXRD and MXZ (R259) -/

theorem runSpots_length {w : Who} {a : Acc} {n : Nat} : ∀ {m : Nat} {s u : State} {va : Word} {ps : List Spot},
    runSpots s w a n m va = (u, .ok ps) → ps.length = m
  | 0, s, u, va, ps, h => by
    simp only [runSpots, Prod.mk.injEq, Except.ok.injEq] at h
    simp [← h.2]
  | m + 1, s, u, va, ps, h => by
    unfold runSpots at h
    split at h
    · simp at h
    · simp at h
    · split at h
      · simp at h
      · split at h
        · simp at h
        next hrun =>
          simp only [Prod.mk.injEq, Except.ok.injEq] at h
          simp [← h.2, runSpots_length hrun]

/-- The rows of accumulators that an MXRD stores. -/
def accRows (t : Tbl Lane) (rows g acc : Nat) : List (List Byte) :=
  (List.range (64 * rows)).map fun i => leBytes 4 (Tbl.get 0 t (accIx (acc + i / 64) (64 * g + i % 64))).toNat

theorem mxrdStart_stores {s u : State} {core : Nat} {c : Cmd} {a : Word} {rows g acc : Nat} {ps : List Spot}
    (h : runSpots s (whoCmd s core c) .write 4 (64 * rows) a = (u, .ok ps))
    (hlog : logShort u (storeDirty (ps.zip (accRows (s.coreAt core).acc rows g acc))) = none) :
    mxrdStart s core c a rows g acc =
      .goes (performStores u (ps.zip (accRows (s.coreAt core).acc rows g acc))) { c with started := true } := by
  unfold accRows at hlog
  simp only [mxrdStart, cmdStore, List.length_map, List.length_range, h, hlog]
  rfl

/-- The entries of a table outside a run of keys. -/
def outside {α : Type} (t : Tbl α) (lo hi : Nat) : Tbl α := t.filter fun e => !(decide (lo ≤ e.1) && decide (e.1 < hi))

theorem get_below {α : Type} [DecidableEq α] (d : α) : ∀ {t : Tbl α} {lo k : Nat}, Tbl.wfFrom d (some lo) t = true → k ≤ lo →
    Tbl.get d t k = d
  | [], _, _, _, _ => rfl
  | (j, x) :: r, lo, k, h, hk => by
    obtain ⟨hj, -, -⟩ := (Tbl.wfFrom_cons ..).mp h
    have hj : lo < j := hj lo rfl
    rw [Tbl.get, if_neg (by omega), if_neg (by omega)]

theorem get_outside {α : Type} [DecidableEq α] (d : α) {lo hi : Nat} : ∀ {t : Tbl α} {m : Option Nat} (k : Nat),
    Tbl.wfFrom d m t = true → Tbl.get d (outside t lo hi) k = if lo ≤ k ∧ k < hi then d else Tbl.get d t k
  | [], _, k, _ => by simp [outside]
  | (j, x) :: r, m, k, h => by
    obtain ⟨-, -, hr⟩ := (Tbl.wfFrom_cons ..).mp h
    have ih := get_outside d (lo := lo) (hi := hi) k hr
    by_cases hj : lo ≤ j ∧ j < hi
    · have hout : outside ((j, x) :: r) lo hi = outside r lo hi := by simp [outside, hj]
      rw [hout, ih]
      by_cases hk : lo ≤ k ∧ k < hi
      · simp [hk]
      · rw [if_neg hk, if_neg hk, Tbl.get]
        rcases Nat.lt_trichotomy j k with hlt | rfl | hgt
        · rw [if_pos hlt]
        · exact absurd hj hk
        · rw [if_neg (by omega), if_neg (by omega), get_below d hr (by omega)]
    · have hout : outside ((j, x) :: r) lo hi = (j, x) :: outside r lo hi := by
        have hkeep : (!(decide (lo ≤ j) && decide (j < hi))) = true := by
          rw [← Bool.decide_and, decide_eq_false hj, Bool.not_false]
        exact List.filter_cons_of_pos hkeep
      rw [hout, Tbl.get, Tbl.get, ih]
      rcases Nat.lt_trichotomy j k with hlt | rfl | hgt
      · simp [hlt]
      · simp [hj]
      · rw [if_neg (by omega), if_neg (by omega)]
        simp [show ¬ j < k by omega]

theorem mxzStart_zeroes (s : State) (core : Nat) (c : Cmd) (rows acc : Nat) : mxzStart s core c rows acc =
    .goes (s.setCore core { s.coreAt core with acc := outside (s.coreAt core).acc (512 * acc) (512 * (acc + rows)) })
      { c with started := true } := rfl

end Sys2Proof.Machine
end

section
/-!
A copy's pieces and the completion of a command (R58, R107, R128, R131, R134, R254, R271).
-/
namespace Sys2Proof.Machine

/-! ### The landing of a piece (R134, R254) -/

theorem cmdRaise_ne_goes {s u : State} {c d : Cmd} {r : Raise} : cmdRaise s c r ≠ .goes u d := by
  unfold cmdRaise
  split <;> simp

theorem awaitLog_ne_goes {s u : State} {c d : Cmd} {ds : List Dirty} : awaitLog s c ds ≠ .goes u d := by
  unfold awaitLog
  split <;> simp

/-- A piece that lands adds its elements to those landed. -/
theorem landPiece_goes {s u : State} {core : Nat} {c d : Cmd} {p : CopyProg} (h : landPiece s core c p = .goes u d) :
    d.copy = some { p with landed := p.landed + p.next } := by
  unfold landPiece at h
  by_cases hgone : p.blocks.any fun t => !(s.blockAt t).live
  · simp [hgone] at h
  rcases hv : pieceSpots s (whoCmd s core c) p p.next p.landed with ⟨v, r | spots⟩ <;>
    simp only [hgone, hv, Bool.false_eq_true, if_false] at h
  · exact absurd h cmdRaise_ne_goes
  · split at h
    · exact (CmdDid.goes.inj h).2 ▸ rfl
    · split at h
      · simp at h
      · split at h
        · simp at h
        · split at h
          · exact absurd h awaitLog_ne_goes
          · exact (CmdDid.goes.inj h).2 ▸ rfl

section
variable {s : State} {core : Nat} {c : Cmd} {p : CopyProg} (hh : headCmd s core 0 = some c) (hc : c.copy = some p)
include hh hc

theorem landing_takes (hs : c.started = true) (hp : c.pageVa = none) (hl : p.landed < p.shape.count)
    (hlate : landsLate s c p = false) : exec (.copyPieceLanding core) s = enabledStep "COPY_PIECE_LANDING"
      (afterCmd (unasked s) core 0 c (landPiece { s with asked := [(8 * domainOf core, 1)] } core c p)) := by
  simp only [exec, execCopyPieceLanding, hh, hs, hp, hc, hl, hlate, decide_true, Bool.not_false, Bool.and_true, if_true]
  rfl

theorem landing_late (hlate : landsLate s c p = true) :
    exec (.copyPieceLanding core) s = .refused (.notEnabled "COPY_PIECE_LANDING") := by
  rw [exec, execCopyPieceLanding, hh]
  rcases hs : c.started <;> rcases hp : c.pageVa <;> simp [hs, hp, hc, hlate, enabledStep]

end

theorem landsLate_reached {s : State} {c : Cmd} {p : CopyProg} {i t : Nat} (hl : c.op.lowers = some i) (ht : t ∈ p.blocks)
    (hr : ∃ arrives, (t, i, arrives) ∈ s.reached) : landsLate s c p = true := by
  obtain ⟨arrives, hr⟩ := hr
  simp only [landsLate, hl, Option.any_some, List.any_eq_true]
  exact ⟨_, hr, by simpa using ht⟩

/-! ### What a completion leaves alone -/

@[simp] theorem payBill_cores (s : State) (bill : Tbl Nat) : (payBill s bill).cores = s.cores := by
  unfold payBill
  split
  · rfl
  · show (spendBill s bill).cores = s.cores
    unfold spendBill
    exact foldl_keeps State.cores (f := fun u e => spendPurse u (e.1 / 8) (e.1 % 8) e.2) (fun _ _ => rfl) bill s

@[simp] theorem orFlags_cores (s : State) (c : Cmd) : (orFlags s c).cores = s.cores := by
  simp only [orFlags, apply_ite State.cores]
  exact ite_self _

@[simp] theorem orFlags_mem (s : State) (c : Cmd) : (orFlags s c).mem = s.mem := by
  simp only [orFlags, apply_ite State.mem]
  exact ite_self _

@[simp] theorem dirDone_cores (s : State) (c : Cmd) : (dirDone s c).cores = s.cores := by
  unfold dirDone
  split <;> rfl

@[simp] theorem dirDone_mem (s : State) (c : Cmd) : (dirDone s c).mem = s.mem := by
  unfold dirDone
  split <;> rfl

@[simp] theorem dirDone_warpAt (s : State) (c : Cmd) (k : Nat) : (dirDone s c).warpAt k = s.warpAt k := by
  unfold dirDone
  split <;> rfl

theorem orFlags_present {s : State} {c : Cmd} (h : (s.warpAt c.warp).stat ≠ .absent) :
    orFlags s c = s.setWarp c.warp { s.warpAt c.warp with fcsr := (s.warpAt c.warp).fcsr ||| c.flags } := if_neg h

/-! ### A finished command completes (R107, R131) -/

/-- A command that has done its work and made every piece of it. -/
structure Done (s : State) (core : Nat) (q : BitVec 2) (c : Cmd) : Prop where
  head : headCmd s core q.toNat = some c
  started : c.started = true
  noPage : c.pageVa = none
  landed : ∀ p, c.copy = some p → p.shape.count ≤ p.landed
  made : c.moves = []


/-- How the queue goes on once the counter of its head is counted, or is not. -/
def counted (core : Nat) (q : BitVec 2) (c : Cmd) : CmdDid → Option State
  | .goes s c => some (dropHead (orFlags (dirDone s c) c) core q.toNat)
  | .fails s cause => some (failCmd (orFlags s c) core q.toNat c cause)
  | .page s c | .partly s c => some (setHead s core q.toNat c)
  | .blocked _ => none

section
variable {s u v : State} {core : Nat} {q : BitVec 2} {c : Cmd}

theorem Done.completion (h : Done s core q c) : exec (.engineCommandCompletion core q) s =
    enabledStep "ENGINE_COMMAND_COMPLETION" (if dirRefused (unasked s) c then
      some (failCmd (orFlags (unasked s) c) core q.toNat c cENGINE)
      else gatePurses (unasked s) core q.toNat c (cmdCount (unasked s) core c) (counted core q c)) := by
  obtain ⟨hh, hs, hp, hl, hm⟩ := h
  have hf : c.finished = true := by
    cases hc : c.copy with
    | none => simp [Cmd.finished, hs, hp, hc]
    | some p => simp [Cmd.finished, hs, hp, hc, hl p hc]
  simp only [exec, execEngineCommandCompletion, hh, hf, finishMoves, hm, Bool.not_true, Bool.false_eq_true, if_false,
    List.isEmpty_nil, if_true]
  congr 2

/-- The directory that a command enters its regions in has come to hold others that overlap them. -/
theorem Done.refused (h : Done s core q c) {seq : Nat} {r : Regions} (hd : c.dirs = some (seq, some r))
    (hc : dirClash (s.ctxAt (s.gridOf c.block).ctx).dir seq r = true) :
    exec (.engineCommandCompletion core q) s = .next (failCmd (orFlags (unasked s) c) core q.toNat c cENGINE) := by
  have href : dirRefused (unasked s) c = true := by
    rw [dirRefused, hd]
    exact hc
  rw [h.completion, href]
  rfl

/-- No region stands against the command's. -/
def Clear (s : State) (c : Cmd) : Prop :=
  ∀ seq r, c.dirs = some (seq, some r) → dirClash (s.ctxAt (s.gridOf c.block).ctx).dir seq r = false

theorem Clear.dirRefused (h : Clear s c) : dirRefused (unasked s) c = false := by
  unfold Machine.dirRefused
  split
  next hd => exact h _ _ hd
  next => rfl

theorem Done.counts (h : Done s core q c) (hc : Clear s c) (hg : cmdCount (unasked s) core c = .goes u c)
    (hp : Paid s u c v) : exec (.engineCommandCompletion core q) s =
      .next (dropHead (orFlags (dirDone v { c with drawn := [] }) { c with drawn := [] }) core q.toNat) := by
  rw [h.completion, hc.dirRefused, hg, gatePurses_paid (s := unasked s) rfl hp.1, CmdDid.paid, payBill_of_paid hp]
  rfl

theorem Done.fails (h : Done s core q c) (hc : Clear s c) {cause : Cause} (hg : cmdCount (unasked s) core c = .fails u cause)
    (hp : Paid s u c v) :
    exec (.engineCommandCompletion core q) s = .next (failCmd (orFlags v c) core q.toNat c cause) := by
  rw [h.completion, hc.dirRefused, hg, gatePurses_paid (s := unasked s) rfl hp.1, CmdDid.paid, payBill_of_paid hp]
  rfl

/-- The memory and the queue once the counter is counted and the step paid. -/
theorem Done.counts_leaves (h : Done s core q c) (hc : Clear s c) (hg : cmdCount (unasked s) core c = .goes u c)
    (hb : billOpen s (owed u.asked c.drawn) = true) : ∃ t, exec (.engineCommandCompletion core q) s = .next t ∧
      t.mem = u.mem ∧ (t.coreAt core).queue q.toNat = ((u.coreAt core).queue q.toNat).drop 1 := by
  have hp : Paid s u c (payBill u (owed u.asked c.drawn)) := ⟨hb, by simp [payBill, List.isEmpty_iff]⟩
  refine ⟨_, h.counts hc hg hp, ?_, ?_⟩
  · exact (orFlags_mem ..).trans ((dirDone_mem ..).trans (payBill_mem ..))
  · rw [coreAt_dropHead, queue_setQueue _ _ q.isLt]
    simp [State.coreAt]

/-! ### The counter and the status (R131, R271) -/

theorem setDirty_nil (s : State) : setDirty s [] = s := rfl

theorem cmdCount_none (h : c.ctr = 0) : cmdCount s core c = .goes s c := if_pos h

/-- A counter that is found, in a line without error and in a package that answers. -/
structure CounterAt (s : State) (core : Nat) (c : Cmd) (u : State) (pa : Nat) : Prop where
  found : ∃ attr e, resolve (engineAsks s core c 8) (whoCmd s core c) .rw 8 c.ctr = (u, .ok (.mem pa [] attr e)) ∧
    poisoned u (.mem pa [] attr e) 8 = false
  answers : cmdDeaf s core = false

/-- A counter counted once, its block touched. -/
def countedAt (u : State) (c : Cmd) (pa : Nat) : State :=
  touchBlock { u with mem := writeBytes u.mem pa (leBytes 8 (countUp (readEntry u.mem pa)).toNat) } c.block

theorem counterUpdate_counts {pa : Nat} (h : CounterAt s core c u pa) :
    counterUpdate (askEngine s core c 8) (whoCmd s core c) c.ctr none =
      .done { u with mem := writeBytes u.mem pa (leBytes 8 (countUp (readEntry u.mem pa)).toNat) } := by
  obtain ⟨⟨attr, e, hr, hp⟩, ha⟩ := h
  have hdeaf : (whoCmd s core c).deaf = false := ha
  simp only [counterUpdate, askEngine_eq, hr, hp, hdeaf, Bool.false_and, Bool.or_false, Bool.false_eq_true, if_false]
  rfl

theorem cmdCount_counts {pa : Nat} (hc : c.ctr ≠ 0) (hs : c.status = none) (h : CounterAt s core c u pa) :
    cmdCount s core c = .goes (countedAt u c pa) c := by
  simp only [cmdCount, if_neg hc, hs, counterUpdate_counts h]
  rfl

theorem cmdCount_poisoned {pa : Nat} {attr : BitVec 2} {e : Option TlbEntry} (hc : c.ctr ≠ 0) (hs : c.status = none)
    (hr : resolve (engineAsks s core c 8) (whoCmd s core c) .rw 8 c.ctr = (u, .ok (.mem pa [] attr e)))
    (hp : poisoned u (.mem pa [] attr e) 8 = true) : cmdCount s core c = .fails u cENGINE := by
  simp only [cmdCount, if_neg hc, hs, counterUpdate, askEngine_eq, hr, hp, Bool.true_or, if_true]

theorem setPlaces_phys (pa : Nat) : ∀ (bs : List Byte) (k : Nat) (s : State),
    setPlaces s ((bs.zipIdx k).map fun x => (Place.plus (.phys pa) x.2, x.1)) = { s with mem := writeBytes s.mem (pa + k) bs }
  | [], _, _ => rfl
  | b :: bs, k, s => setPlaces_phys pa bs (k + 1) { s with mem := writePhys s.mem (pa + k) b }

theorem moveAll_bytes (s : State) (pa : Nat) (bs : List Byte) :
    moveAll s [⟨.phys pa, .bytes bs⟩] = { s with mem := writeBytes s.mem pa bs } := setPlaces_phys pa bs 0 s

/-- A status that stands in one piece is written before the counter counts. -/
theorem cmdCount_status {st : Word} {pa pb : Nat} (hc : c.ctr ≠ 0) (hs : c.status = some st)
    (ht : pieces (engineAsks s core c 8) (whoCmd s core c) .write (c.ctr + 8) 8 = (u, .ok [(pb, 8, [])]))
    (h : CounterAt (moveAll u [⟨.phys pb, .bytes (leBytes 8 st.toNat)⟩]) core c v pa) :
    cmdCount s core c = .goes (countedAt v c pa) c := by
  have htargets : Targets s core c [(c.ctr + 8, [.bytes (leBytes 8 st.toNat)])] u
      [⟨.phys pb, .bytes (leBytes 8 st.toNat)⟩] := by
    refine ⟨u, [([(pb, 8, [])], [.bytes (leBytes 8 st.toNat)])], ?_, ⟨rfl, rfl⟩, rfl⟩
    simp only [probeWrites, List.foldl_cons, List.foldl_nil, List.map_cons, List.map_nil, List.sum_cons, List.sum_nil,
      MoveSrc.size, length_leBytes, Nat.add_zero, ht]
  simp only [cmdCount, if_neg hc, hs, memMoves_targets htargets, counterUpdate_counts h]
  rfl

end

end Sys2Proof.Machine
end

section
/-!
The steps of the engines: the statement, from what each command does and from how its step is paid for.
-/
namespace Sys2Proof.Machine

section
variable {s u v : State} {core : Nat} {q : BitVec 2} {c : Cmd}

theorem MayStart.page (h : MayStart s core q c) {x : Cmd}
    (hd : cmdStart (unasked s) core (c.homed (unasked s) core) = .page u x) (hp : Paid s u c v) :
    exec (.engineCommandStart core q) s = .next (setHead v core q.toNat { x with drawn := [] }) := by
  rw [h.start, hd, afterCmd_page hp.homed]
  rfl

theorem MayStart.partly (h : MayStart s core q c) {x : Cmd}
    (hd : cmdStart (unasked s) core (c.homed (unasked s) core) = .partly u x) (hp : Paid s u c v) :
    exec (.engineCommandStart core q) s = .next (setHead v core q.toNat { x with drawn := [] }) := by
  rw [h.start, hd, afterCmd_partly hp.homed]
  rfl

theorem MayStart.fails (h : MayStart s core q c) {cause : Cause}
    (hd : cmdStart (unasked s) core (c.homed (unasked s) core) = .fails u cause) (hp : Paid s u c v) :
    exec (.engineCommandStart core q) s = .next (failCmd v core q.toNat (c.homed (unasked s) core) cause) := by
  rw [h.start, hd, afterCmd_fails hp.homed]
  rfl

theorem MayStart.waits (h : MayStart s core q c)
    (hd : cmdStart (unasked s) core (c.homed (unasked s) core) = .blocked (c.homed (unasked s) core)) :
    exec (.engineCommandStart core q) s = .refused (.notEnabled "ENGINE_COMMAND_START") := by
  rw [h.start, hd, afterCmd_blocked, if_pos rfl]
  rfl

theorem MayStart.keeps (h : MayStart s core q c) {x : Cmd} (hx : x ≠ c.homed (unasked s) core)
    (hd : cmdStart (unasked s) core (c.homed (unasked s) core) = .blocked x) :
    exec (.engineCommandStart core q) s = .next (setHead (unasked s) core q.toNat x) := by
  rw [h.start, hd, afterCmd_blocked, if_neg hx]
  rfl

theorem MayStart.owing (h : MayStart s core q c)
    (hd : (cmdStart (unasked s) core (c.homed (unasked s) core)).state = some u) :
    Owing (unasked s) u core q.toNat c (c.homed (unasked s) core) (exec (.engineCommandStart core q) s)
      (.refused (.notEnabled "ENGINE_COMMAND_START")) := by
  have ho := owing_afterCmd (s := unasked s) (core := core) (q := q.toNat) (c := c.homed (unasked s) core)
    "ENGINE_COMMAND_START" hd
  rw [← h.start, Owing, homed_drawn] at ho
  exact ho

/-! ### The matrix commands at the head of a queue -/

/-- The slots of a B page that another core's partition holds, paid in part before. -/
theorem paid_bpage {dom drawn : Nat} (hu : u.asked = [(8 * dom + 1, 16)]) (hd : Tbl.get 0 c.drawn (8 * dom + 1) = drawn)
    (hp : purseTakes s dom 1 (16 - drawn) = true) : Paid s u c { spendPurse u dom 1 (16 - drawn) with asked := [] } := by
  have hdiv : (8 * dom + 1) / 8 = dom := by omega
  have hmod : (8 * dom + 1) % 8 = 1 := by omega
  simp [Paid, hu, owed, hd, billOpen, spendBill, hdiv, hmod, hp]

theorem start_mxb {a : Word} {page fmt : Nat} (hop : c.op = .mxb a page fmt) :
    cmdStart s core (c.homed s core) = mxbStart s core c a page fmt := by
  rw [homed_plain (by rw [hop]; rfl), cmdStart, hop]

theorem start_mxa {a : Word} {page bslot aslot rows acc : Nat} (hop : c.op = .mxa a page bslot aslot rows acc) :
    cmdStart s core (c.homed s core) = mxaStart s core c a page bslot aslot rows acc := by
  rw [homed_plain (by rw [hop]; rfl), cmdStart, hop]

theorem start_mxrd {a : Word} {rows g acc : Nat} (hop : c.op = .mxrd a rows g acc) :
    cmdStart s core (c.homed s core) = mxrdStart s core c a rows g acc := by
  rw [homed_plain (by rw [hop]; rfl), cmdStart, hop]

theorem start_mxz {rows acc : Nat} (hop : c.op = .mxz rows acc) :
    cmdStart s core (c.homed s core) = mxzStart s core c rows acc := by
  rw [homed_plain (by rw [hop]; rfl), cmdStart, hop]

/-- An MXA leaves the accumulators it names updated. -/
theorem MayStart.accumulates (h : MayStart s core q c) {a : Word} {page bslot aslot rows acc b : Nat} {image : List Byte}
    {r : LaunchRec} (hop : c.op = .mxa a page bslot aslot rows acc) (hr : (s.gridOf c.block).record = r)
    (hown : (Tbl.get BPage.reset (s.coreAt core).pages page).owner = some c.block)
    (hp : EccSite.bpage core page ∉ s.poison)
    (hblock : fmtScale (slotFmt r aslot) = 3 ∧ fmtScale (slotFmt r bslot) = 3 ∨
      fmtBlock (slotFmt r aslot) = fmtBlock (slotFmt r bslot))
    (hread : readWindowBytes s core c a (rows * (512 * elemBits (fmtElem (slotFmt r aslot)) / 8) +
      rows * (512 / fmtBlock (slotFmt r bslot)) * scaleBytes (fmtScale (slotFmt r aslot)) +
      bColumns (fmtElem (slotFmt r bslot)) * (512 / fmtBlock (slotFmt r bslot)) * scaleBytes (fmtScale (slotFmt r bslot))) =
        .ok (b, image)) :
    let x := mxaArgs r bslot aslot rows image (Tbl.get BPage.reset (s.coreAt core).pages page).rows
    (fmtStrict (slotFmt r aslot) = true → x.aRsv = false ∧ x.aElemRsv = false) →
    (fmtStrict (slotFmt r bslot) = true → x.bRsv = false ∧ x.bElemRsv = false) →
    ∃ t, exec (.engineCommandStart core q) s = .next t ∧ t.mem = s.mem ∧ t.warps = s.warps ∧
      (t.coreAt core).pages = (s.coreAt core).pages ∧ (t.coreAt core).acc = (x.accumulated page acc (s.coreAt core).acc).1 := by
  intro x hsa hsb
  have hd := mxaStart_accumulates (s := unasked s) (acc := acc) hr hown hp hblock hread hsa hsb
  refine ⟨_, h.goes_free ((start_mxa hop).trans hd) rfl, rfl, rfl, ?_⟩
  simp only [coreAt_setHead, setQueue_acc, setQueue_pages, State.coreAt_setCore_same]
  exact ⟨rfl, rfl⟩


/-- The core as an MXB leaves it: its page taken and filled from a partition's bytes, its accumulators as before. -/
def Filled (s t : State) (core page block : Nat) (bytes : Nat → List Byte) : Prop :=
  (t.coreAt core).acc = (s.coreAt core).acc ∧
  (∀ j, j ≠ page → Tbl.get BPage.reset (t.coreAt core).pages j = Tbl.get BPage.reset (s.coreAt core).pages j) ∧
  (Tbl.get BPage.reset (t.coreAt core).pages page).owner = some block ∧
  ∀ i, i < 512 → Tbl.get 0 (Tbl.get BPage.reset (t.coreAt core).pages page).rows i = BitVec.ofNat 128 (leNat (bytes i))

theorem setHead_withPage {page block b off : Nat} {x : Cmd} (hv : v.coreAt core = withPage (s.coreAt core) page block
      (rowsOf (Tbl.range 0 (s.blockAt b).scratch off 8192))) :
    Filled s (setHead v core q.toNat x) core page block fun i => Tbl.range 0 (s.blockAt b).scratch (off + 16 * i) 16 := by
  simp only [Filled, coreAt_setHead, setQueue_acc, setQueue_pages, hv]
  refine ⟨rfl, fun j hj => Tbl.get_set_other _ _ _ hj, ?_, fun i hi => get_withPage_same hi⟩
  rw [withPage, Tbl.get_set_same]

section
variable {a : Word} {page fmt b off : Nat} {x : Cmd} (h : MayStart s core q c) (hop : c.op = .mxb a page fmt)
include h hop

/-- An MXB from a partition of its own core. -/
theorem MayStart.loads_own (hfill : mxbStart (unasked s) core c a page fmt =
      .goes ((mended (unasked s) (.bpage core page)).setCore core
        (withPage (s.coreAt core) page c.block (rowsOf (Tbl.range 0 (s.blockAt b).scratch off 8192)))) x) :
    ∃ t, exec (.engineCommandStart core q) s = .next t ∧ t.mem = s.mem ∧ t.warps = s.warps ∧ t.domains = s.domains ∧
      Filled s t core page c.block fun i => Tbl.range 0 (s.blockAt b).scratch (off + 16 * i) 16 :=
  ⟨_, h.goes_free ((start_mxb hop).trans hfill) rfl, rfl, rfl, rfl, setHead_withPage (State.coreAt_setCore_same ..)⟩

/-- An MXB from another core's partition, its slots paid for. -/
theorem MayStart.loads_other {dom drawn : Nat} (hfill : mxbStart (unasked s) core c a page fmt =
      .goes ((mended ((unasked s).askSlots dom bpagePurse 16) (.bpage core page)).setCore core
        (withPage (s.coreAt core) page c.block (rowsOf (Tbl.range 0 (s.blockAt b).scratch off 8192)))) x)
    (hd : Tbl.get 0 c.drawn (8 * dom + 1) = drawn) (hp : purseTakes s dom 1 (16 - drawn) = true) :
    ∃ t, exec (.engineCommandStart core q) s = .next t ∧ t.mem = s.mem ∧ t.warps = s.warps ∧
      t.domains = (spendPurse s dom 1 (16 - drawn)).domains ∧
      Filled s t core page c.block fun i => Tbl.range 0 (s.blockAt b).scratch (off + 16 * i) 16 := by
  have hpaid := paid_bpage (s := s) (c := c) (u := (mended ((unasked s).askSlots dom bpagePurse 16) (.bpage core page)).setCore core
        (withPage (s.coreAt core) page c.block (rowsOf (Tbl.range 0 (s.blockAt b).scratch off 8192)))) rfl hd hp
  have hgo := h.goes ((start_mxb hop).trans hfill) hpaid
  refine ⟨_, hgo, ?_, ?_, ?_, setHead_withPage (State.coreAt_setCore_same ..)⟩ <;>
    simp [setHead, spendPurse, mended, unasked, State.askSlots, State.domainAt, State.setDomain]

/-- An MXB whose purse has too few slots left draws those. -/
theorem MayStart.loads_later {dom : Nat} {site : EccSite} {k : Core}
    (hfill : mxbStart (unasked s) core c a page fmt =
      .goes ((mended ((unasked s).askSlots dom bpagePurse 16) site).setCore core k) x)
    (hp : purseTakes s dom 1 (16 - Tbl.get 0 c.drawn (8 * dom + 1)) = false) :
    exec (.engineCommandStart core q) s = if purseLeft s dom 1 = 0 then .refused (.notEnabled "ENGINE_COMMAND_START")
      else .next (setHead (spendPurse (unasked s) dom 1 (purseLeft s dom 1)) core q.toNat
        { c with drawn := Tbl.put 0 c.drawn (8 * dom + 1) (Tbl.get 0 c.drawn (8 * dom + 1) + purseLeft s dom 1) }) := by
  have ho := h.owing (congrArg CmdDid.state ((start_mxb hop).trans hfill))
  rw [homed_plain (by rw [hop]; rfl)] at ho
  exact ho.single (by decide) rfl hp

end

theorem MayStart.stores (h : MayStart s core q c) {a : Word} {rows g acc : Nat} {ps : List Spot} (hop : c.op = .mxrd a rows g acc)
    (hrun : runSpots (unasked s) (whoCmd s core c) .write 4 (64 * rows) a = (u, .ok ps))
    (hlog : logShort u (storeDirty (ps.zip (accRows (s.coreAt core).acc rows g acc))) = none)
    (hp : Paid s (performStores u (ps.zip (accRows (s.coreAt core).acc rows g acc))) c v) :
    exec (.engineCommandStart core q) s = .next (setHead v core q.toNat { c with started := true, drawn := [] }) := by
  exact h.goes ((start_mxrd hop).trans (mxrdStart_stores (s := unasked s) hrun hlog)) hp

theorem MayStart.zeroes (h : MayStart s core q c) {rows acc : Nat} (hop : c.op = .mxz rows acc) :
    ∃ t, exec (.engineCommandStart core q) s = .next t ∧ t.mem = s.mem ∧ t.warps = s.warps ∧
      (t.coreAt core).acc = outside (s.coreAt core).acc (512 * acc) (512 * (acc + rows)) := by
  refine ⟨_, h.goes_free ((start_mxz hop).trans (mxzStart_zeroes ..)) rfl, rfl, rfl, ?_⟩
  simp only [coreAt_setHead, setQueue_acc, State.coreAt_setCore_same]
  rfl

/-- A command's rights depend on nothing that a page walk changes. -/
theorem whoCmd_walkRest (h : walkRest u = walkRest s) : whoCmd u core c = whoCmd s core c := by
  have hsilent : u.silent = s.silent := (congrArg State.silent h :)
  rw [whoCmd, whoCmd, gridOf_walkRest h, cmdDeaf, cmdDeaf, hsilent]

/-- A status and a counter written apart from each other. -/
theorem status_count (m : Tbl Byte) (st : Word) {pa pb : Nat} (h : pa + 8 ≤ pb ∨ pb + 8 ≤ pa) :
    let m1 := writeBytes m pb (leBytes 8 st.toNat)
    let m2 := writeBytes m1 pa (leBytes 8 (countUp (readEntry m1 pa)).toNat)
    readBytes m2 pb 8 = leBytes 8 st.toNat ∧ readEntry m2 pa = countUp (readEntry m pa) ∧
      ∀ b, (b < pa ∨ pa + 8 ≤ b) → (b < pb ∨ pb + 8 ≤ b) → readPhys m2 b = readPhys m b := by
  intro m1 m2
  have hold : readEntry m1 pa = readEntry m pa := by
    rw [readEntry, readEntry, readBytes_writeBytes_outside _ _ _ _ _ (by rwa [length_leBytes])]
  refine ⟨?_, by rw [readEntry_writeBytes_same, hold], fun b ha hb => ?_⟩
  · rw [readBytes_writeBytes_outside _ _ _ _ _ (by rw [length_leBytes]; exact h.symm)]
    simpa using readBytes_writeBytes_same m pb (leBytes 8 st.toNat)
  · rw [readPhys_writeBytes_outside _ _ _ _ (by rwa [length_leBytes]),
      readPhys_writeBytes_outside _ _ _ _ (by rwa [length_leBytes])]

/-- A finished command with a counter and a status, in memory that is found and answers. -/
theorem Done.status_counts (h : Done s core q c) (hclear : Clear s c) {pa pb : Nat} {attr : BitVec 2} {e : Option TlbEntry}
    {st : Word} (hc : c.ctr ≠ 0) (hst : c.status = some st)
    (hpieces : pieces (engineAsks (unasked s) core c 8) (whoCmd s core c) .write (c.ctr + 8) 8 = (u, .ok [(pb, 8, [])]))
    (hr : resolve (engineAsks (moveAll u [⟨.phys pb, .bytes (leBytes 8 st.toNat)⟩]) core c 8) (whoCmd s core c) .rw 8 c.ctr =
      (v, .ok (.mem pa [] attr e)))
    (hapart : pa + 8 ≤ pb ∨ pb + 8 ≤ pa) (hp : poisoned v (.mem pa [] attr e) 8 = false) (hdeaf : cmdDeaf s core = false)
    (hb : billOpen s (owed v.asked c.drawn) = true) :
    ∃ t, exec (.engineCommandCompletion core q) s = .next t ∧ readBytes t.mem pb 8 = leBytes 8 st.toNat ∧
      readEntry t.mem pa = countUp (readEntry s.mem pa) ∧
      (∀ b, (b < pa ∨ pa + 8 ≤ b) → (b < pb ∨ pb + 8 ≤ b) → readPhys t.mem b = readPhys s.mem b) ∧
      (t.coreAt core).queue q.toNat = ((v.coreAt core).queue q.toNat).drop 1 := by
  have hu : walkRest u = walkRest s := by
    have h := walkRest_spanFrom (whoCmd s core c) .write (8 / 16384 + 2) (engineAsks (unasked s) core c 8) (c.ctr + 8) 8
    rw [← pieces, hpieces, walkRest_engineAsks] at h
    exact h
  rw [moveAll_bytes] at hr
  have hwho : whoCmd { u with mem := writeBytes u.mem pb (leBytes 8 st.toNat) } core c = whoCmd s core c :=
    (whoCmd_walkRest hu : whoCmd u core c = whoCmd s core c)
  have hv : v.mem = writeBytes s.mem pb (leBytes 8 st.toNat) := by
    have h := (resolve_rest hr).trans (walkRest_engineAsks ..)
    have hvm : v.mem = writeBytes u.mem pb (leBytes 8 st.toNat) := (congrArg State.mem h :)
    have hum : u.mem = s.mem := (congrArg State.mem hu :)
    rw [hvm, hum]
  have hcounter : CounterAt { u with mem := writeBytes u.mem pb (leBytes 8 st.toNat) } core c v pa :=
    ⟨⟨_, _, hwho ▸ hr, hp⟩, (congrArg Who.deaf hwho).trans hdeaf⟩
  obtain ⟨t, ht, hleft, hqueue⟩ :=
    h.counts_leaves hclear (cmdCount_status hc hst hpieces ((moveAll_bytes u pb _).symm ▸ hcounter)) hb
  have htm : t.mem = writeBytes v.mem pa (leBytes 8 (countUp (readEntry v.mem pa)).toNat) := hleft
  rw [hv] at htm
  obtain ⟨hstatus, hcount, hother⟩ := status_count s.mem st hapart
  exact ⟨t, ht, htm ▸ hstatus, htm ▸ hcount, fun b hb hb' => htm ▸ hother b hb hb', hqueue⟩

end

end Sys2Proof.Machine
namespace Sys2Proof.Certificates
open Sys2Proof.Machine

/-- Settles O56: the steps by how they are paid for, the matrix commands by what each start leaves, the completion by how
its counter and its status are written. -/
theorem engineSteps : Obligations.EngineSteps := by
  intro s core q c hh s0 x dom refused
  refine ⟨fun hs hb => start_busy hh hs hb, ?_, ?_, ?_, ?_, ?_⟩
  · intro hfresh hreal hpage hjoins hfree starts draw rec_ k did
    have hstart : MayStart s core q c := ⟨hh, hfresh, hreal, hpage, hjoins, hfree⟩
    have hplain (hseq : c.op.seqs = []) : x = c := homed_plain hseq s0 core
    refine ⟨hplain, ?_, ?_, ?_, ?_, ?_, ?_, ?_, ?_, ?_, ?_⟩
    · rintro u d v (hd | hd | hd) hp
      · exact hstart.goes hd hp
      · exact hstart.page hd hp
      · exact hstart.partly hd hp
    · exact fun u cause v hd hp => hstart.fails hd hp
    · exact fun hd => hstart.waits hd
    · exact fun d hx hd => hstart.keeps hx hd
    · exact fun u hd => hstart.owing hd
    · intro u home i n hd hi ha drawn left hp
      exact Owing.single (hstart.owing hd) hi ha hp
    · intro a page fmt b off hop hw hfit hp hfence htest hown hfmt loads
      have hfill := mxbStart_fills (s := unasked s) hw hfit hp hfence htest hown hfmt
      refine ⟨fun hcore => ?_, fun hcore => ?_⟩
      · rw [if_pos hcore] at hfill
        exact hstart.loads_own hop hfill
      · rw [if_neg hcore] at hfill
        exact ⟨fun hopen => hstart.loads_other hop hfill rfl hopen, fun hshort => hstart.loads_later hop hfill hshort⟩
    · intro a page bslot aslot rows acc b image hop hpage fa fb pg nb cols x hown hp hblock hread hsa hsb ix
      obtain ⟨t, ht, hmem, hwarps, hpages, hacc⟩ := hstart.accumulates hop rfl hown hp hblock hread hsa hsb
      obtain ⟨hsame, hother⟩ := get_accumulated (x := x) (acc := acc) k.acc hpage
      exact ⟨t, ht, hmem, hwarps, hpages, hacc ▸ hsame, hacc ▸ hother⟩
    · exact fun a rows g acc u ps hop hrun hlog v hp => hstart.stores hop hrun hlog hp
    · intro rows acc hop
      obtain ⟨t, ht, hmem, hwarps, hacc⟩ := hstart.zeroes hop
      exact ⟨t, ht, hmem, hwarps, fun hwf i => hacc ▸ get_outside 0 i hwf⟩
  · intro p hq hs hp hc hl hlate did
    subst hq
    have hland := landing_takes hh hc hs hp hl hlate
    refine ⟨fun u d v hd hpaid => ⟨?_, _, landPiece_goes hd, rfl⟩, fun u hu => ?_⟩
    · have hd' : landPiece { s with asked := [(8 * domainOf core, 1)] } core c p = .goes u d := hd
      rw [hland, hd', afterCmd_goes (s := unasked s) hpaid]
      rfl
    · rw [hland]
      exact owing_afterCmd _ hu
  · intro p i t hq hc hl ht hr
    subst hq
    exact landing_late hh hc (landsLate_reached hl ht hr)
  · rintro hs hp hl hm ⟨seq, r, hd, hclash⟩
    exact Done.refused ⟨hh, hs, hp, hl, hm⟩ hd hclash
  · intro hs hp hl hm hclear w ends
    have hdone : Done s core q c := ⟨hh, hs, hp, hl, hm⟩
    refine ⟨?_, ?_, ?_, ?_⟩
    · intro hc hw
      have h := hdone.counts hclear (cmdCount_none hc) (paid_nothing rfl)
      have hpresent : ((dirDone (unasked s) c).warpAt c.warp).stat ≠ .absent := by rw [dirDone_warpAt]; exact hw
      have hflags := orFlags_present (c := c) hpresent
      rw [dirDone_warpAt] at hflags
      exact h.trans (congrArg (fun t => Host.Outcome.next (dropHead t core q.toNat)) hflags)
    · intro u pa attr by_ hc hst hr p hb
      refine ⟨fun hpoison hdeaf => ?_, fun hpoison v hpaid => ?_⟩
      · obtain ⟨t, ht, hmem, hqueue⟩ := hdone.counts_leaves hclear (cmdCount_counts hc hst ⟨⟨_, _, hr, hpoison⟩, hdeaf⟩) hb
        exact ⟨t, ht, hmem, hqueue⟩
      · exact hdone.fails hclear (cmdCount_poisoned hc hst hr hpoison) hpaid
    · intro u v pb pa attr by_ st hc hst hmem hpieces x hr hapart hpoison hdeaf hb
      exact hdone.status_counts hclear hc hst hpieces hr hapart hpoison hdeaf hb
    · exact fun u cause v hd hpaid => hdone.fails hclear hd hpaid

end Sys2Proof.Certificates
end

section
/-!
Where an access lands by its address alone: a misaligned address, the classes of R63, the windows of R64.
-/
namespace Sys2Proof.Machine

/-! ### Misaligned addresses (R197 to R199) -/

section
variable {s : State} {va : Word} {n : Nat} (h : va.toNat % n ≠ 0)
include h

theorem resolve_misaligned (w : Who) (a : Acc) : resolve s w a n va = (s, .error (.at cMISALIGN va)) := if_pos h

theorem loadAt_misaligned (a : Acc) : loadAt s a va n = (s, .error (.at cMISALIGN va)) := by
  rw [loadAt, resolve_misaligned h]

theorem storeAt_misaligned : storeAt s va n = (s, .error (.at cMISALIGN va)) := by
  rw [storeAt, resolve_misaligned h]

end

section
variable {s : State} {d a b : SReg} {n : Nat} {sc : Scope} {rmt : Bool}

theorem loadWord_misaligned {i : BitVec 13} (hr : Ready s [a]) (hf : fenceHeld s s.me = false)
    (h : (s.sreg a + i.signExtend 64).toNat % n ≠ 0) (ext : Nat → Word) :
    loadWord d a i n ext s = raised s (.at cMISALIGN (s.sreg a + i.signExtend 64)) :=
  scalarWord_raises hr (by rw [hf, simm, loadAt_misaligned h]; rfl)

theorem execLda_misaligned {size : BitVec 2} (ho : remoteOk rmt sc = true) (hr : Ready s [a])
    (hf : fenceHeld s s.me = false) (h : (s.sreg a).toNat % 2 ^ size.toNat ≠ 0) :
    execLda d a size sc rmt s = raised s (.at cMISALIGN (s.sreg a)) := by
  rw [execLda, legalWord, if_pos ho]
  exact scalarWord_raises hr (by rw [hf, loadAt_misaligned h]; rfl)

theorem storeWordAt_misaligned {srcs : List SReg} {va : State → Word} (hr : Ready s srcs) (h : (va s).toNat % n ≠ 0) :
    storeWordAt srcs va d n s = raised s (.at cMISALIGN (va s)) :=
  scalarWord_raises hr (by rw [storeAt_misaligned h])

theorem storeWord_misaligned {i : BitVec 13} (hr : Ready s [d, a])
    (h : (s.sreg a + i.signExtend 64).toNat % n ≠ 0) :
    storeWordAt [d, a] (fun s => s.sreg a + simm i) d n s = raised s (.at cMISALIGN (s.sreg a + i.signExtend 64)) :=
  storeWordAt_misaligned (va := fun s => s.sreg a + simm i) hr h

theorem execStl_misaligned {size : BitVec 2} (ho : remoteOk rmt sc = true) (hr : Ready s [d, a])
    (h : (s.sreg a).toNat % 2 ^ size.toNat ≠ 0) :
    execStl d a size sc rmt s = raised s (.at cMISALIGN (s.sreg a)) := by
  rw [execStl, legalWord, if_pos ho]
  exact storeWordAt_misaligned (va := fun s => s.sreg a) hr h

theorem atomic_misaligned {op : AtomOp} (hr : ReadyToClose s (if op = .cas then [d, a, b] else [a, b]))
    (h : (s.sreg a).toNat % 8 ≠ 0) : atomic d a b op s = raised s (.at cMISALIGN (s.sreg a)) := by
  obtain ⟨hready, hdrained, hun⟩ := hr
  rw [atomic, scalarWord_acts hready (fun _ => rfl) (fun _ => hun) (fun _ => hdrained), loadAt_misaligned h]
  rfl

end

/-! ### Address classes (R63, R64) -/

section
variable {va : Word}

/-- The class of an address by the fields that decide it. -/
theorem addrClass_of_fields {top : BitVec 8} (htop : (va.extractLsb' 56 8 : BitVec 8) = top) :
    (top = 0xFE → (va.extractLsb' 19 37 : BitVec 37) = 0 →
      addrClass va = .own (va.extractLsb' 0 19 : BitVec 19).toNat) ∧
    (top = 0xFD → (va.extractLsb' 22 34 : BitVec 34) = 0 →
      addrClass va = .peer (va.extractLsb' 19 3 : BitVec 3).toNat (va.extractLsb' 0 19 : BitVec 19).toNat) ∧
    ((top ≠ 0 ∧ top ≠ 0xFF ∧ top ≠ 0xFE ∧ top ≠ 0xFD) ∨ (top = 0 ∧ va.getLsbD 55 = true) ∨
        (top = 0xFF ∧ va.getLsbD 55 = false) ∨ (top = 0xFE ∧ (va.extractLsb' 19 37 : BitVec 37) ≠ 0) ∨
        (top = 0xFD ∧ (va.extractLsb' 22 34 : BitVec 34) ≠ 0) →
      addrClass va = .nonCanonical) := by
  subst htop
  simp only [addrClass]
  refine ⟨fun ht h => ?_, fun ht h => ?_, ?_⟩
  · simp [ht, h]
  · simp [ht, h]
  · generalize (va.extractLsb' 56 8 : BitVec 8) = top
    generalize (va.extractLsb' 19 37 : BitVec 37) = own
    generalize (va.extractLsb' 22 34 : BitVec 34) = peer
    generalize va.getLsbD 55 = sign
    rintro (⟨h0, hff, hfe, hfd⟩ | ⟨rfl, hb⟩ | ⟨rfl, hb⟩ | ⟨rfl, hb⟩ | ⟨rfl, hb⟩)
    · rw [if_neg (not_or.mpr ⟨fun h => h0 h.1, fun h => hff h.1⟩), if_neg fun h => hfe h.1, if_neg fun h => hfd h.1]
    · simp [hb]
    · simp [hb]
    · exact (if_neg (by cases sign <;> decide)).trans ((if_neg fun h => hb h.2).trans (if_neg fun h => absurd h.1 (by decide)))
    · exact (if_neg (by cases sign <;> decide)).trans ((if_neg fun h => absurd h.1 (by decide)).trans (if_neg fun h => hb h.2))

theorem addrClass_own (off : BitVec 19) : addrClass (0xFE#8 ++ (0#37 ++ off)) = .own off.toNat := by
  have htop : ((0xFE#8 ++ (0#37 ++ off) : Word).extractLsb' 56 8 : BitVec 8) = 0xFE := by
    rw [BitVec.extractLsb'_append_eq_of_le (by decide)]; rfl
  have hzero : ((0xFE#8 ++ (0#37 ++ off) : Word).extractLsb' 19 37 : BitVec 37) = 0 := by
    rw [BitVec.extractLsb'_append_eq_of_add_le (by decide), BitVec.extractLsb'_append_eq_of_le (by decide)]; rfl
  have hoff : ((0xFE#8 ++ (0#37 ++ off) : Word).extractLsb' 0 19 : BitVec 19) = off := by
    rw [BitVec.extractLsb'_append_eq_of_add_le (by decide), BitVec.extractLsb'_append_eq_of_add_le (by decide),
      BitVec.extractLsb'_eq_self]
  rw [(addrClass_of_fields htop).1 rfl hzero, hoff]

theorem addrClass_peer (k : BitVec 3) (off : BitVec 19) :
    addrClass (0xFD#8 ++ (0#34 ++ (k ++ off))) = .peer k.toNat off.toNat := by
  have htop : ((0xFD#8 ++ (0#34 ++ (k ++ off)) : Word).extractLsb' 56 8 : BitVec 8) = 0xFD := by
    rw [BitVec.extractLsb'_append_eq_of_le (by decide)]; rfl
  have hlow (lo n : Nat) (h : lo + n ≤ 22) : ((0xFD#8 ++ (0#34 ++ (k ++ off)) : Word).extractLsb' lo n : BitVec n) =
      (k ++ off).extractLsb' lo n := by
    rw [BitVec.extractLsb'_append_eq_of_add_le (by omega), BitVec.extractLsb'_append_eq_of_add_le (by omega)]
  have hzero : ((0xFD#8 ++ (0#34 ++ (k ++ off)) : Word).extractLsb' 22 34 : BitVec 34) = 0 := by
    rw [BitVec.extractLsb'_append_eq_of_add_le (by decide), BitVec.extractLsb'_append_eq_of_le (by decide)]; rfl
  rw [(addrClass_of_fields htop).2.1 rfl hzero, hlow _ _ (by decide), hlow _ _ (by decide),
    BitVec.extractLsb'_append_eq_of_le (by decide), BitVec.extractLsb'_append_eq_of_add_le (by decide),
    BitVec.extractLsb'_eq_self]
  simp

/-- An aligned access lands where its class says. -/
theorem resolve_class {s : State} {n : Nat} (hn : va.toNat % n = 0) (w : Who) (a : Acc) :
    (addrClass va = .nonCanonical → resolve s w a n va = (s, .error (.at cPROT va))) ∧
    (∀ off, addrClass va = .own off → resolve s w a n va = (s, windowAt s va (some w.block) off)) ∧
    (∀ k off, addrClass va = .peer k off →
      resolve s w a n va = (s, windowAt s va (gangBlockOn s w.block (8 * clusterOf w.core + k)) off)) := by
  rw [resolve, if_neg (by omega)]
  exact ⟨fun h => by rw [h], fun off h => by rw [h], fun k off h => by rw [h]⟩

end

end Sys2Proof.Machine

namespace Sys2Proof.Certificates
open Sys2Proof.Machine

/-- Settles O9: every access checks its alignment first, and an aligned address lands by its class. -/
theorem addressChecks : Obligations.AddressChecks := by
  refine ⟨?_, ?_⟩
  · intro s d a b imm size sc rmt op va x bad
    refine ⟨fun hr hf => ?_, fun hr => ?_, fun hr hx => ?_⟩
    · exact ⟨fun h => ⟨loadWord_misaligned hr hf h _, loadWord_misaligned hr hf h _⟩,
        fun h => ⟨loadWord_misaligned hr hf h _, loadWord_misaligned hr hf h _⟩,
        fun h => loadWord_misaligned hr hf h _, fun ho h => execLda_misaligned ho hr hf h⟩
    · exact ⟨fun h => storeWord_misaligned hr h, fun h => storeWord_misaligned hr h,
        fun h => storeWord_misaligned hr h, fun ho h => execStl_misaligned ho hr h⟩
    · have hword := atomic_misaligned hr hx
      refine ⟨hword, fun ho => ?_⟩
      have hlegal : legalWord (remoteOk rmt sc) (atomic d a b op) s = raised s (.at cMISALIGN x) := by
        rw [legalWord, if_pos ho, hword]
      exact ⟨hlegal, hlegal, hlegal⟩
  · intro s w a n va hn
    obtain ⟨hnone, hown, hpeer⟩ := resolve_class hn (s := s) w a
    refine ⟨?_, ?_, fun h => hnone ((addrClass_of_fields rfl).2.2 h)⟩
    · rintro off rfl
      exact hown _ (addrClass_own off)
    · rintro k off rfl
      exact hpeer _ _ (addrClass_peer k off)

end Sys2Proof.Certificates
end

section
/-!
TLBI (R217): the slots of a splinter stand under the purse's key, not under the domain's number.
-/
namespace Sys2Proof.Machine

/-- A warp of domain 0 in supervisor mode, about to split the 32 MiB leaf at its register 1 into the table at its
register 2. -/
def splitting : State :=
  let s := State.reset.withFetchWord 32 0
  let w := { wordWarp false 0 with sup := true, s := Vector.ofFn fun i => [0, 0x200_0000, 0x8000].getD i.val 0 }
  { s with
    agenda := []
    warps := [(0, w)]
    mem := writeBytes s.mem (wordTable + 0x8008) (leBytes 8 (openLeaf 0x200_0000)) }

theorem splitting_ready : Ready splitting [1, 2] := ⟨by decide, by decide⟩

theorem splitting_memOk : splitting.memOk := by
  unfold State.memOk
  decide

theorem leafOf_splitting :
    leafOf splitting splitting.myCtx (splitting.sreg 1).toNat = .ok (wordTable + 0x8008, 2, 25) :=
  by decide +kernel

/-- The splinter asks its slots of purse 3, the page walker's, and none under the key 0. -/
theorem split_splitting : ∃ t, exec (.tlbiSplit 1 2) splitting = .next t ∧ Tbl.get 0 t.asked 0 = 0 :=
  ⟨_, rfl, by decide +kernel⟩

theorem issued_asked (t : State) (w : Warp) (pc : Word) (c : Bool) : (issued t w pc c).asked = t.asked := rfl

end Sys2Proof.Machine

namespace Sys2Proof.Certificates
open Sys2Proof.Machine

/-- Refutes O35: `tlbi.split` asks its 33 bursts of the page-walker purse, under the key `purseOf dom walkerPurse`, where
the statement looks under the key `dom`. Counterexample: a 32 MiB leaf split on a core of domain 0. -/
theorem not_tlbWords : ¬ Obligations.TlbWords := by
  intro h
  obtain ⟨-, -, hsup⟩ := h splitting 1 2 splitting_ready
  obtain ⟨-, -, -, hsplit⟩ := hsup (by decide)
  obtain ⟨-, -, hlarge⟩ := hsplit _ 2 25 (by decide) (by decide) (by decide) leafOf_splitting
  have hpte : (wordTable + 0x8008) % 8 = 0 := by norm_num [wordTable]
  have hapart : (splitting.sreg 2).toNat + 16384 ≤ wordTable + 0x8008 := by
    rw [show (splitting.sreg 2).toNat = 0x8000 from rfl, wordTable]
    omega
  obtain ⟨t, hexec, hasked, -⟩ := hlarge (by decide) (by decide) splitting_memOk hpte (.inr hapart)
  obtain ⟨u, hu, hnone⟩ := split_splitting
  have htu : issued t t.me (splitting.me.pc + 4) false = u := Host.Outcome.next.inj (hexec.symm.trans hu)
  rw [← htu, issued_asked, hasked, show domainOf (coreOf splitting.cur) = 0 by decide, Tbl.get_put_same] at hnone
  omega

end Sys2Proof.Certificates
end

section
/-!
What waits for firmware or for a peer package, and what their answers do (R74, R78, R82, R169, R170, R301).
-/
namespace Sys2Proof.Machine

/-! ### A warp parked on PAGE (R78, R169) -/

section
variable {s : State} {k : Nat} {x : TrapRec} (hp : (s.warpAt k).parked = some (.page, x))

theorem servePage_free {ctx : Nat} {host : Bool} {va : Word} (h : (s.ctxAt ctx).vf = 0 ∨ host = true) (es : List (Nat × BitVec 64)) :
    servePage s ctx host va es = some { s with mem := es.foldl (fun m e => writeBytes m e.1 (leBytes 8 e.2.toNat)) s.mem } := by
  simp only [servePage, if_pos h, if_true]

theorem answer_served {ctx : Nat} {host : Bool} {va : Word} (h : (s.ctxAt ctx).vf = 0 ∨ host = true) (es : List (Nat × BitVec 64)) :
    answer s ctx host va (.served es) =
      some (.ok { s with mem := es.foldl (fun m e => writeBytes m e.1 (leBytes 8 e.2.toNat)) s.mem }) := by
  simp only [answer, servePage_free h]

theorem answer_overQuota {ctx : Nat} {host : Bool} {va : Word} (h : wouldExceed s ctx va = true) (hh : host = false) :
    answer s ctx host va .overQuota = some (.error cQUOTA) := by
  simp [answer, h, hh]

include hp

theorem resolution_declines {y : Resolution} {c : Cause}
    (h : answer s (s.gridOf (s.warpAt k).block).ctx x.second x.addr y = some (.error c)) :
    exec (.faultResolution (.warp k) y) s =
      .next (enterHandler (s.setWarp k ((s.warpAt k).withCause c)) k { x with cause := c } c) := by
  simp only [exec, execFaultResolution, resolveWarp, hp, h]
  rfl

theorem resolution_serves {y : Resolution} {t : State}
    (h : answer s (s.gridOf (s.warpAt k).block).ctx x.second x.addr y = some (.ok t)) :
    exec (.faultResolution (.warp k) y) s = .next (t.setWarp k ((t.warpAt k).resumeBy x false)) := by
  simp only [exec, execFaultResolution, resolveWarp, hp, h]
  rfl

end

/-! ### A warp parked on FMT_ABSENT (R170) -/

/-- A command whose place in the matrix queue waits for firmware's emulation. -/
structure Emulated (s : State) (k : Nat) (c : Cmd) (x : TrapRec) : Prop where
  head : headCmd s (coreOf k) 1 = some c
  emul : c.emul = true
  warp : c.warp = k
  parked : (s.warpAt k).parked = some (.format, x)
  joins : joinsOpen s (coreOf k) 1 c.seq = true

/-- How the warp goes on once the command has its effect, or fails. -/
def emulated (k : Nat) (c : Cmd) (x : TrapRec) : CmdDid → Option State
  | .goes u d => some (resumeAfterFormat (dropHead (orFlags u d) (coreOf k) 1) k x)
  | .fails u cause => some (resumeAfterFormat (failCmd u (coreOf k) 1 c cause) k x)
  | .page .. | .blocked _ | .partly .. => none

section
variable {s u v : State} {k : Nat} {c : Cmd} {x : TrapRec} (h : Emulated s k c x)
include h

theorem emulation_none :
    exec (.formatEmulation k false) s = .next (enterHandler (dropHead s (coreOf k) 1) k x cFMT_ABSENT) := by
  obtain ⟨hh, he, hw, hp, hj⟩ := h
  simp [exec, execFormatEmulation, hh, he, hw, hp, hj, enabledStep]

theorem emulation_step : exec (.formatEmulation k true) s = enabledStep "FORMAT_EMULATION"
    (gatePurses (unasked s) (coreOf k) 1 c (cmdStart (unasked s) (coreOf k) { c with emul := false }) (emulated k c x)) := by
  obtain ⟨hh, he, rfl, hp, hj⟩ := h
  simp only [exec, execFormatEmulation, hh, he, hp, hj, bne_self_eq_false, Bool.not_true, Bool.or_self, Bool.false_eq_true,
    if_false]
  rfl

theorem emulation_paid {d : CmdDid} (hd : cmdStart (unasked s) (coreOf k) { c with emul := false } = d) (hu : d.state = some u)
    (hp : Paid s u c v) : exec (.formatEmulation k true) s =
      enabledStep "FORMAT_EMULATION" (emulated k c x (d.paid (owed u.asked c.drawn))) := by
  rw [emulation_step h, hd, gatePurses_paid (s := unasked s) hu hp.1]

theorem emulation_owing (hu : (cmdStart (unasked s) (coreOf k) { c with emul := false }).state = some u) :
    Owing (unasked s) u (coreOf k) 1 c c (exec (.formatEmulation k true) s) (.refused (.notEnabled "FORMAT_EMULATION")) := by
  intro hb
  rw [emulation_step h, gatePurses_owing hu hb]
  cases drawOwed (unasked s) (owed u.asked c.drawn) c.drawn <;> rfl

theorem emulation_goes {d : Cmd} (hd : cmdStart (unasked s) (coreOf k) { c with emul := false } = .goes u d)
    (hp : Paid s u c v) : exec (.formatEmulation k true) s =
      .next (resumeAfterFormat (dropHead (orFlags v { d with drawn := [] }) (coreOf k) 1) k x) := by
  rw [emulation_paid h hd rfl hp, CmdDid.paid, payBill_of_paid hp]
  rfl

theorem emulation_fails {cause : Cause} (hd : cmdStart (unasked s) (coreOf k) { c with emul := false } = .fails u cause)
    (hp : Paid s u c v) :
    exec (.formatEmulation k true) s = .next (resumeAfterFormat (failCmd v (coreOf k) 1 c cause) k x) := by
  rw [emulation_paid h hd rfl hp, CmdDid.paid, payBill_of_paid hp]
  rfl

end

/-! ### An unanswered peer (R82, R301) -/

theorem cmdAtPeer_iff {s : State} {core q : Nat} {c : Cmd} : cmdAtPeer s core q c = true ↔
    (c.pageVa = none ∧ c.emul = false ∧ (c.started = true ∨ (joinsOpen s core q c.seq = true ∧ seqBusy s core c = false))) ∧
      ((∃ m ∈ c.moves, m.atPeer = true) ∨ ((cmdNext { s with silent := some (.cmd core q) } core c).failed = true ∧
        (cmdNext { s with silent := none } core c).failed = false)) := by
  simp only [cmdAtPeer, Bool.and_eq_true, Bool.or_eq_true, List.any_eq_true, Option.isNone_iff_eq_none, Bool.not_eq_true',
    and_assoc]

theorem missed_iff {o : CtrOut} : o.missed = true ↔ ∃ v, o = .failed v cECC_SCRATCH := by
  cases o <;> simp [CtrOut.missed]

theorem timeout_counter {s : State} {n : Nat} {p : PendCtr} (hp : s.pend[n]? = some p) (ctr : Bool → CtrOut)
    (hc : ∀ deaf, counterUpdate s { whoPart p.ctx with deaf := deaf } p.ctr p.bit = ctr deaf) :
    exec (.peerTimeout (.counter n)) s = if (ctr true).missed && !(ctr false).missed then
      .next (dropCounter s n p cECC_SCRATCH) else .refused (.notEnabled "PEER_TIMEOUT") := by
  simp only [exec, execPeerTimeout, hp, hc]
  split <;> rfl

theorem dropCounter_eq (s : State) (n : Nat) (p : PendCtr) (c : Cause) : dropCounter s n p c =
    if p.bit.isSome then { s with pend := s.pend.eraseIdx n }.log p.ctx (.counter p.record c)
    else finishGrid ({ s with pend := s.pend.eraseIdx n }.log p.ctx (.counter p.record c)) p.grid := by
  rw [dropCounter]
  cases p.bit <;> rfl

theorem loadAt_unanswered {s u : State} {a : Acc} {va : Word} {n : Nat} {p : Spot}
    (h : resolve s (whoOf s s.cur s.me) a n va = (u, .ok p)) (ha : ¬ answers u p n) :
    loadAt s a va n = (u, .error (.at cECC_SCRATCH va)) := by
  have hbad : (poisoned u p n || unanswered u u.cur p) = true := by
    rw [Bool.or_eq_true]
    by_contra hno
    rw [not_or, Bool.not_eq_true, Bool.not_eq_true] at hno
    exact ha hno
  simp only [loadAt, h, hbad, if_true]

theorem loadWord_unanswered {s u : State} {d a : SReg} {i : BitVec 13} {n : Nat} {p : Spot} (hr : Ready s [a])
    (hf : fenceHeld s s.me = false)
    (h : resolve s (whoOf s s.cur s.me) .read n (s.sreg a + i.signExtend 64) = (u, .ok p)) (ha : ¬ answers u p n)
    (ext : Nat → Word) :
    loadWord d a i n ext s = raiseScalar s u (.at cECC_SCRATCH (s.sreg a + i.signExtend 64)) s.me.pc [] false :=
  scalarWord_raises hr (by rw [hf, simm, loadAt_unanswered h ha]; rfl)

theorem not_answers_peer {t : State} {pa : Nat} {dirty : List Dirty} {attr : BitVec 2} {e : Option TlbEntry} (n : Nat)
    (hp : paRange pa = .peer) (ht : t.silent = some (.warp t.cur)) : ¬ answers t (.mem pa dirty attr e) n := by
  rintro ⟨-, hu⟩
  simp [unanswered, ht, Spot.isPeer, hp] at hu

end Sys2Proof.Machine
namespace Sys2Proof.Certificates
open Sys2Proof.Machine

/-- Settles O22: each answer by the branch of its step that the statement's hypotheses name. -/
theorem firmwareAnswers : Obligations.FirmwareAnswers := by
  refine ⟨?_, ?_, fun s => ⟨?_, ?_, ?_, ?_, ?_⟩⟩
  · intro s k x hp w ctx enter
    refine ⟨fun he hs => resolution_declines hp (answer_overQuota he hs), resolution_declines hp rfl, fun es hfree => ?_⟩
    have hserves := resolution_serves hp (answer_served hfree es)
    refine ⟨_, hserves, rfl, rfl, fun hr => ?_, fun hr => ?_⟩
    · rw [State.warpAt_setWarp_same]
      simp only [Warp.resumeBy, hr]
      rfl
    · rw [State.warpAt_setWarp_same]
      simp only [Warp.resumeBy, hr]
      rfl
  · intro s k c x hh he hw hp hj
    have h : Emulated s k c x := ⟨hh, he, hw, hp, hj⟩
    exact ⟨emulation_none h, fun u d v hd hpaid => emulation_goes h hd hpaid,
      fun u cause v hd hpaid => emulation_fails h hd hpaid, fun u hu => emulation_owing h hu⟩
  · intro k hk
    simp [exec, execPeerTimeout, hk, enabledStep]
  · intro core q c hh next free atPeer
    refine ⟨fun hfree hpeer => ?_, fun hno => ?_⟩
    · have hat : cmdAtPeer s core q c = true := cmdAtPeer_iff.mpr ⟨hfree, hpeer⟩
      simp [exec, execPeerTimeout, hh, hat, enabledStep]
    · have hat : cmdAtPeer s core q c = false := Bool.eq_false_iff.mpr fun h => hno (cmdAtPeer_iff.mp h)
      simp [exec, execPeerTimeout, hh, hat, enabledStep]
  · intro n p hp fails u
    rw [timeout_counter hp _ fun _ => rfl, dropCounter_eq]
    refine ⟨fun ht hf => ?_, fun hno => ?_⟩
    · rw [if_pos]
      simp only [Bool.and_eq_true, Bool.not_eq_true', Bool.eq_false_iff, Ne, missed_iff]
      exact ⟨ht, hf⟩
    · rw [if_neg]
      simp only [Bool.and_eq_true, Bool.not_eq_true', Bool.eq_false_iff, Ne, missed_iff]
      exact fun h => hno.elim (fun ht => ht h.1) fun hf => h.2 hf
  · intro u d a imm p hr hf hres ha
    exact loadWord_unanswered hr hf hres ha _
  · exact fun t pa dirty attr by_ n hp ht => not_answers_peer n hp ht

end Sys2Proof.Certificates
end

section
/-!
Clocks and purses (R138 to R140), storage errors and self-tests (R82, R141, R305, R306), boot, management, attestation
and peers (R300 to R304).
-/
namespace Sys2Proof.Machine

/-! ### The control interval (R138, R139) -/

section
variable (s : State)

/-- A cluster accounts the interval that ends and chooses its next step. -/
def nextStep (u : Nat) : Cluster :=
  (if s.ctlDue = 0 then s.clusterAt u else (s.clusterAt u).account).choose (s.domainAt (u / 4)).cls

/-- The first `n` clusters have chosen. -/
def stepped (n : Nat) : State := (List.range n).foldl (fun s u => s.setCluster u (nextStep s u)) s

theorem stepped_succ (n : Nat) : stepped s (n + 1) = (stepped s n).setCluster n (nextStep (stepped s n) n) := by
  rw [stepped, List.range_succ, List.foldl_append]
  rfl

theorem stepped_frame (n : Nat) : (stepped s n).mem = s.mem ∧ (stepped s n).ctlDue = s.ctlDue ∧ (stepped s n).domains = s.domains := by
  induction n with
  | zero => exact ⟨rfl, rfl, rfl⟩
  | succ n ih => rw [stepped_succ]; exact ih

theorem clusterAt_stepped (n u : Nat) : (stepped s n).clusterAt u = if u < n then nextStep s u else s.clusterAt u := by
  induction n with
  | zero => rfl
  | succ n ih =>
    obtain ⟨-, hdue, hdom⟩ := stepped_frame s n
    rw [stepped_succ]
    by_cases hu : u = n
    · subst hu
      rw [State.clusterAt_setCluster_same, if_pos (Nat.lt_succ_self u), nextStep, nextStep, ih, if_neg (Nat.lt_irrefl u), hdue,
        State.domainAt, State.domainAt, hdom]
    · rw [State.clusterAt_setCluster_other _ _ hu, ih]
      by_cases hlt : u < n
      · rw [if_pos hlt, if_pos (by omega)]
      · rw [if_neg hlt, if_neg (by omega)]

theorem controlInterval_next (h : s.ctlDue ≤ s.cycle) :
    exec .controlInterval s = .next { stepped s 48 with ctlDue := s.ctlDue + 14000 } := by
  simp only [exec, execControlInterval, if_pos h]
  rfl

end

theorem nominalStep_eq (c : BitVec 2) : nominalStep c = [56, 52, 48, 40].getD c.toNat 0 := by
  revert c
  decide

theorem thermalCap_eq (b : BitVec 3) : thermalCap b = [68, 68, 68, 68, 60, 52, 44, 32].getD b.toNat 0 := by
  revert b
  decide

/-! ### Purses and the fabric (R140) -/

section
variable (s : State)

/-- A domain at the start of a period. -/
def filledPurse (d : Nat) : Domain := { s.domainAt d with active := (s.domainAt d).purse, spent := Vector.replicate 6 0 }

/-- The first `n` domains' purses are filled. -/
def filledPurses (n : Nat) : State := (List.range n).foldl (fun s d => s.setDomain d (filledPurse s d)) s

theorem filledPurses_succ (n : Nat) : filledPurses s (n + 1) = (filledPurses s n).setDomain n (filledPurse (filledPurses s n) n) := by
  rw [filledPurses, List.range_succ, List.foldl_append]
  rfl

theorem filledPurses_frame (n : Nat) : (filledPurses s n).mem = s.mem ∧ (filledPurses s n).dma = s.dma := by
  induction n with
  | zero => exact ⟨rfl, rfl⟩
  | succ n ih => rw [filledPurses_succ]; exact ih

theorem domainAt_filledPurses (n d : Nat) :
    (filledPurses s n).domainAt d = if d < n then filledPurse s d else s.domainAt d := by
  induction n with
  | zero => rfl
  | succ n ih =>
    rw [filledPurses_succ]
    by_cases hd : d = n
    · subst hd
      rw [State.domainAt_setDomain_same, if_pos (Nat.lt_succ_self d), filledPurse, filledPurse, ih, if_neg (Nat.lt_irrefl d)]
    · rw [State.domainAt_setDomain_other _ _ hd, ih]
      by_cases hlt : d < n
      · rw [if_pos hlt, if_pos (by omega)]
      · rw [if_neg hlt, if_neg (by omega)]

/-- A period begins. -/
def periodBegun : State := { filledPurses s 12 with purseDue := s.purseDue + 1400 }

theorem pursePeriod_next (h : s.purseDue ≤ s.cycle) : exec .pursePeriod s = .next (serveDma (periodBegun s)) := by
  simp only [exec, execPursePeriod, if_pos h]
  rfl

theorem spendPurse_active (dom i n d : Nat) : ((spendPurse s dom i n).domainAt d).active = (s.domainAt d).active := by
  rw [spendPurse]
  by_cases hd : d = dom
  · rw [hd, State.domainAt_setDomain_same]
  · rw [State.domainAt_setDomain_other _ _ hd]

theorem takeDma_active (x : Dma) (d : Nat) : ((takeDma s x).domainAt d).active = (s.domainAt d).active := by
  simp only [takeDma]
  split
  · rfl
  · split
    · exact spendPurse_active _ ..
    · exact spendPurse_active s ..

theorem takeDma_purseDue (x : Dma) : (takeDma s x).purseDue = s.purseDue := by
  simp only [takeDma]
  split
  · rfl
  · split <;> rfl

theorem serveDma_active (d : Nat) : ((serveDma s).domainAt d).active = (s.domainAt d).active :=
  foldl_keeps (fun u => (u.domainAt d).active) (fun u x => takeDma_active u x d) ..

theorem serveDma_purseDue : (serveDma s).purseDue = s.purseDue :=
  foldl_keeps State.purseDue takeDma_purseDue ..

end

section
variable {s : State} {x : Dma}

/-- A transfer that waits for none before it takes place once its slots are drawn. -/
theorem takeDma_takes (hd : s.dma = []) (h : purseTakes s x.dom fabricPurse (bursts x.len - x.drawn) = true) :
    takeDma s x =
      spendPurse { s with mem := writeBytes s.mem x.pa x.bytes } x.dom fabricPurse (bursts x.len - x.drawn) := by
  simp only [takeDma, hd, List.any_nil, Bool.false_eq_true, if_false, if_pos h]

/-- One that has too few draws what the period has left. -/
theorem takeDma_waits (hd : s.dma = []) (h : purseTakes s x.dom fabricPurse (bursts x.len - x.drawn) = false) :
    takeDma s x = { spendPurse s x.dom fabricPurse (purseLeft s x.dom fabricPurse) with
      dma := [{ x with drawn := x.drawn + purseLeft s x.dom fabricPurse }] } := by
  have hdma : (spendPurse s x.dom fabricPurse (purseLeft s x.dom fabricPurse)).dma = s.dma := rfl
  simp only [takeDma, hd, List.any_nil, Bool.false_eq_true, if_false, h, hdma, List.nil_append]

theorem serveDma_one (hd : s.dma = [x]) : serveDma s = takeDma { s with dma := [] } x := by
  rw [serveDma, hd]
  rfl

/-- The fabric purse of a domain whose period has begun. -/
theorem periodBegun_fabric {d : Nat} (h : d < 12) (n : Nat) :
    purseLeft (periodBegun s) d fabricPurse = max 1 (s.domainAt d).purse[5].toNat ∧
    (purseTakes (periodBegun s) d fabricPurse n = true ↔
      n = 0 ∨ (s.domainAt d).purse[5].toNat = 0xFFFF ∨ n ≤ max 1 (s.domainAt d).purse[5].toNat) := by
  have hd : (periodBegun s).domainAt d = filledPurse s d := (domainAt_filledPurses s 12 d).trans (if_pos h)
  have hactive : (filledPurse s d).active.toList.getD 5 0 = (s.domainAt d).purse[5] := by
    simp [filledPurse]
  have hspent : (filledPurse s d).spent.toList.getD 5 0 = 0 := rfl
  constructor
  · rw [purseLeft, hd, fabricPurse, hactive, hspent, Nat.sub_zero]
  · rw [purseTakes, hd, fabricPurse, hactive, hspent, Nat.zero_add]
    simp [or_assoc]

end

end Sys2Proof.Machine
end

section
/-!
Storage errors and self-tests (R82, R141, R305, R306), boot, management, attestation and peers (R301 to R304).
-/
namespace Sys2Proof.Machine

/-! ### A step of the platform, from what its parts are -/

section
variable {s : State}

theorem controlInterval_steps (h : s.ctlDue ≤ s.cycle) (h0 : s.ctlDue ≠ 0) :
    ∃ t, exec .controlInterval s = .next t ∧ t.ctlDue = s.ctlDue + 14000 ∧ t.mem = s.mem ∧
      ∀ u, u < 48 → t.clusterAt u = (s.clusterAt u).account.choose (s.domainAt (u / 4)).cls := by
  have hmem := (stepped_frame s 48).1
  have hcluster := clusterAt_stepped s 48
  have hnext := controlInterval_next s h
  generalize stepped s 48 = v at hmem hcluster hnext
  refine ⟨_, hnext, rfl, hmem, fun u hu => (hcluster u).trans ?_⟩
  rw [if_pos hu, nextStep, if_neg h0]

/-- A cluster's next step and the boost it has left, in the terms of R138 and R139. -/
theorem account_choose (x : Cluster) (cls : BitVec 2) :
    let nom := [56, 52, 48, 40].getD cls.toNat 0
    let cap := [68, 68, 68, 68, 60, 52, 44, 32].getD x.tband.toNat 0
    let excess := x.freq.toNat - x.nom
    let b := if excess = 0 then min (x.boost.toNat + x.refill) x.limit else x.boost.toNat - (10 * excess + 11) / 12
    (x.account.choose cls).boost = BitVec.ofNat 32 b ∧
    (x.account.choose cls).freq = BitVec.ofNat 16 (min cap (min x.cap (nom + if BitVec.ofNat 32 b = 0#32 then 0 else 12))) := by
  simp only [← nominalStep_eq, ← thermalCap_eq]
  exact ⟨rfl, rfl⟩

theorem periodBegun_leaves : (periodBegun s).mem = s.mem ∧ (periodBegun s).dma = s.dma ∧
    ∀ d, d < 12 → (periodBegun s).domainAt d = filledPurse s d :=
  ⟨(filledPurses_frame s 12).1, (filledPurses_frame s 12).2, fun d hd => (domainAt_filledPurses s 12 d).trans (if_pos hd)⟩

theorem pursePeriod_active {d : Nat} (hd : d < 12) : ((serveDma (periodBegun s)).domainAt d).active = (s.domainAt d).purse := by
  rw [serveDma_active, (periodBegun_leaves (s := s)).2.2 d hd]
  rfl

theorem pursePeriod_idle (hd : s.dma = []) : (serveDma (periodBegun s)).mem = s.mem ∧ (serveDma (periodBegun s)).dma = [] ∧
    ∀ d, d < 12 → ((serveDma (periodBegun s)).domainAt d).spent = Vector.replicate 6 0 := by
  obtain ⟨hmem, hdma, hdom⟩ := periodBegun_leaves (s := s)
  generalize periodBegun s = v at hmem hdma hdom
  rw [serveDma, hdma, hd]
  exact ⟨hmem, rfl, fun d hd => congrArg Domain.spent (hdom d hd)⟩

theorem pursePeriod_one {x : Dma} (hd : s.dma = [x]) :
    serveDma (periodBegun s) = takeDma { periodBegun s with dma := [] } x :=
  serveDma_one ((filledPurses_frame s 12).2.trans hd)

theorem takeDma_leaves {x : Dma} (hd : s.dma = []) :
    let due := bursts x.len - x.drawn
    (purseTakes s x.dom fabricPurse due = true →
      (takeDma s x).mem = writeBytes s.mem x.pa x.bytes ∧ (takeDma s x).dma = []) ∧
    (purseTakes s x.dom fabricPurse due = false → (takeDma s x).mem = s.mem ∧
      (takeDma s x).dma = [{ x with drawn := x.drawn + purseLeft s x.dom fabricPurse }]) := by
  refine ⟨fun h => ?_, fun h => ?_⟩
  · rw [takeDma_takes hd h]
    exact ⟨rfl, hd⟩
  · rw [takeDma_waits hd h]
    exact ⟨rfl, rfl⟩

/-- A transfer that waits at the start of a period, of a domain that the package has. -/
theorem pursePeriod_serves {x : Dma} (hd : s.dma = [x]) (hx : x.pa < 0xC0_0000_0000) :
    let budget := (s.domainAt (x.pa / 2 ^ 36)).purse[5].toNat
    let due := bursts x.len - x.drawn
    let t := serveDma (periodBegun s)
    (due = 0 ∨ budget = 0xFFFF ∨ due ≤ max 1 budget → t.mem = writeBytes s.mem x.pa x.bytes ∧ t.dma = []) ∧
    (due ≠ 0 → budget ≠ 0xFFFF → max 1 budget < due →
      t.mem = s.mem ∧ t.dma = [{ x with drawn := x.drawn + max 1 budget }]) := by
  intro budget due t
  have hdom : x.dom < 12 := by rw [Dma.dom]; omega
  obtain ⟨hleft, htakes⟩ := periodBegun_fabric (s := s) hdom due
  have hmem : (periodBegun s).mem = s.mem := (filledPurses_frame s 12).1
  have ht : t = takeDma { periodBegun s with dma := [] } x := pursePeriod_one hd
  rw [ht]
  generalize periodBegun s = v at hleft htakes hmem
  obtain ⟨hyes, hno⟩ := takeDma_leaves (s := { v with dma := [] }) (x := x) rfl
  refine ⟨fun h => ?_, fun h0 hb hlt => ?_⟩
  · rw [← hmem]
    exact hyes (htakes.mpr h)
  · rw [← hmem, show max 1 budget = purseLeft v x.dom fabricPurse from hleft.symm]
    refine hno (Bool.eq_false_iff.mpr fun h => ?_)
    exact (htakes.mp h).elim h0 fun h => h.elim hb (Nat.not_le.mpr hlt)

/-! ### Storage errors (R82, R141) -/

theorem paRange_stack {pa : Nat} (h : pa < 0xC0_0000_0000) : paRange pa = .stack (pa / 2 ^ 36) := if_pos h

theorem siteUnit_line {pa : Nat} (h : pa < 0xC0_0000_0000) :
    siteUnit (.line pa) = .stackRow (pa / 2 ^ 36) (pa % 2 ^ 36 / 128) := by
  rw [siteUnit, paRange_stack h]

theorem eccError_line {pa : Nat} (h : pa < 0xC0_0000_0000) (c : Bool) : exec (.eccError (.line pa) c) s =
    .next (if c then countError s (siteUnit (.line pa)) c else poisonSite (countError s (siteUnit (.line pa)) c) (.line pa)) := by
  have hex : siteExists s (.line pa) = true := decide_eq_true h
  simp only [exec, execEccError, canonSite, hex]
  cases c <;> rfl

theorem poisonSite_mem (e : EccSite) : e ∈ (poisonSite s e).poison ∧ (poisonSite s e).mem = s.mem := by
  unfold poisonSite
  split
  · next h => exact ⟨by simpa using h, rfl⟩
  · exact ⟨by simp, rfl⟩

theorem eccError_tlb {core : Nat} (h : core < 384) : exec (.eccError (.tlb core) true) s =
    .next ((countError s (.tlb core) true).setCore core { (countError s (.tlb core) true).coreAt core with tlb := [] }) := by
  have hex : siteExists s (.tlb core) = true := decide_eq_true h
  simp only [exec, execEccError, canonSite, hex]
  rfl

/-! ### Self-tests (R141, R305, R306) -/

/-- The test of a unit has ended, its block saved. -/
def tested (s : State) (u : MemUnit) (x : ErrCnt) : State := setErr { s with testing := s.testing.erase u } u x

/-- The counters after one more self-test. -/
def oneMoreTest (x : ErrCnt) : ErrCnt := { x with tests := if x.tests = 0xFF then x.tests else x.tests + 1 }

theorem selfTest_ends {u : MemUnit} (ht : u ∈ s.testing) (hs : ∀ x ∈ s.toSave, x.1 ≠ u) (pass : Bool) :
    exec (.selfTestCompletion u pass) s = .next
      (if pass || decide (2 ≤ (errAt s u).fails.toNat) then tested s u (oneMoreTest (errAt s u))
      else
        let v := tested s u { oneMoreTest (errAt s u) with fails := (errAt s u).fails + 1 }
        if (errAt s u).fails = 1 then fenceUnit v u else v) := by
  have hc : (s.testing.contains u && !s.toSave.any (·.1 == u)) = true := by
    simpa [ht] using hs
  simp only [exec, execSelfTestCompletion, hc, if_true]
  split <;> rfl

theorem errAt_filter {p : MemUnit × ErrCnt → Bool} {u : MemUnit} (h : ∀ x, p (u, x) = false) :
    errAt { s with errs := s.errs.filter p } u = ⟨0, 0, 0, 0⟩ := by
  have hnone : (s.errs.filter p).find? (fun e => e.1 == u) = none := by
    simp only [List.find?_eq_none, List.mem_filter, beq_iff_eq]
    rintro ⟨u', x⟩ ⟨-, hp⟩ rfl
    exact absurd hp (by simp [h])
  rw [errAt, hnone]
  rfl

theorem replaceRow_spare {u : MemUnit} {n : Nat} (h : Tbl.get 0 s.rowSpares n < Config.spareRows) :
    (replaceRow s u n).fenced = s.fenced ∧
    Tbl.get 0 (replaceRow s u n).rowSpares n = Tbl.get 0 s.rowSpares n + 1 ∧ errAt (replaceRow s u n) u = ⟨0, 0, 0, 0⟩ := by
  rw [replaceRow, if_pos h]
  exact ⟨rfl, Tbl.get_put_same .., errAt_filter (s := s) fun x => by simp⟩

theorem replaceRow_fenced {u : MemUnit} {n : Nat} (h : Config.spareRows ≤ Tbl.get 0 s.rowSpares n) :
    u ∈ (replaceRow s u n).fenced ∧ (replaceRow s u n).rowSpares = s.rowSpares := by
  rw [replaceRow, if_neg (Nat.not_lt.mpr h)]
  exact ⟨by simp, rfl⟩

theorem replaceRow_repreq (u : MemUnit) (n : Nat) : (replaceRow s u n).repreq = s.repreq := by
  simp only [replaceRow]
  split <;> rfl

/-! A core without live blocks is replaced at once. -/

theorem mem_of_get_ne {α : Type} {d : α} : ∀ {t : Tbl α} {k : Nat}, Tbl.get d t k ≠ d → (k, Tbl.get d t k) ∈ t
  | [], _, h => absurd rfl h
  | (j, x) :: r, k, h => by
    rw [Tbl.get] at h ⊢
    split at h
    · next hlt =>
      rw [if_pos hlt]
      exact List.mem_cons_of_mem _ (mem_of_get_ne h)
    · next hlt =>
      split at h
      · next heq =>
        subst heq
        rw [if_neg hlt, if_pos rfl]
        exact List.mem_cons_self
      · exact absurd rfl h

theorem coreBlocks_nil {core : Nat} (h : ∀ e ∈ s.blocks, e.2.live = true → blockCore e.1 ≠ core) : coreBlocks s core = [] := by
  refine List.filter_eq_nil_iff.mpr fun b hb hlive => ?_
  obtain ⟨i, hi, rfl⟩ := List.mem_map.mp hb
  have hmem := mem_of_get_ne (d := Block.absent) (t := s.blocks) (k := 8 * core + i) fun habs => by
    rw [State.blockAt, habs] at hlive
    exact absurd hlive (by decide)
  have hi : i < 8 := List.mem_range.mp hi
  exact h _ hmem hlive (by rw [blockCore]; omega)

theorem residentGangs_nil {f : Nat → Bool} (h : ∀ e ∈ s.blocks, e.2.live = true → f e.1 = false) : residentGangs s f = [] := by
  have hnil : (s.blocks.filter fun e => e.2.live && f e.1) = [] := by
    refine List.filter_eq_nil_iff.mpr fun e he hboth => ?_
    rw [Bool.and_eq_true] at hboth
    exact absurd hboth.2 (by rw [h e he hboth.1]; decide)
  rw [residentGangs, hnil]
  rfl

theorem fenceStep_empty {core : Nat} (h : ∀ e ∈ s.blocks, e.2.live = true → blockCore e.1 ≠ core) :
    fenceStep s core = replaceCore s core := by
  rw [fenceStep, residentGangs_nil (f := fun b => blockCore b == core) fun e he hl => beq_false_of_ne (h e he hl)]
  simp only [saveGangs, List.foldl_nil, coreBlocks_nil h]
  rfl

theorem fenceCore_empty {core : Nat} (hr : core ∉ s.removed) (h : ∀ e ∈ s.blocks, e.2.live = true → blockCore e.1 ≠ core) :
    ∃ l, fenceCore s core = replaceCore { s with fencing := l } core := by
  rw [fenceCore, if_neg (by simpa using hr)]
  exact ⟨_, fenceStep_empty h⟩

theorem replaceCore_spare {core bank : Nat} (h : Tbl.get 0 s.spares (core / 64) < 4) :
    (replaceCore s core).removed = s.removed ∧
    Tbl.get 0 (replaceCore s core).spares (core / 64) = Tbl.get 0 s.spares (core / 64) + 1 ∧
    errAt (replaceCore s core) (.scratchBank core bank) = ⟨0, 0, 0, 0⟩ := by
  have hlt : Tbl.get 0 s.spares (core / 64) < Config.sparesPerDie := h
  simp only [replaceCore, if_pos hlt]
  exact ⟨rfl, Tbl.get_put_same .., errAt_filter (s := s) fun x => by simp [unitCore]⟩

theorem replaceCore_removed {core : Nat} (h : 4 ≤ Tbl.get 0 s.spares (core / 64)) (hr : core ∉ s.removed) :
    (replaceCore s core).removed = s.removed ++ [core] := by
  have hge : ¬ Tbl.get 0 s.spares (core / 64) < Config.sparesPerDie := Nat.not_lt.mpr h
  have hc : s.removed.contains core = false := by simpa using hr
  simp only [replaceCore, if_neg hge, hc]
  rfl

end

end Sys2Proof.Machine
end

section
/-!
The platform's steps: faults that last, boot, management, attestation and peers (R301 to R306), and the statement.
-/
namespace Sys2Proof.Machine

section
variable {s : State}

/-! ### A fault that lasts (R305, R306) -/

theorem requestUnit_repreq (unit : BitVec 4) (n : Nat) :
    let v := requestUnit s unit n
    v.repreq.req = true ∧ v.repreq.unit = unit ∧ v.repreq.index = BitVec.ofNat 16 n ∧
      (s.repreq.req = true → v.repreq.multi = true) := by
  refine ⟨rfl, rfl, rfl, fun h => ?_⟩
  show (s.repreq.multi || s.repreq.req) = true
  rw [h, Bool.or_true]

/-- A second failed test. -/
theorem selfTest_lasts {u : MemUnit} (ht : u ∈ s.testing) (hs : ∀ x ∈ s.toSave, x.1 ≠ u) (hf : (errAt s u).fails = 1) :
    exec (.selfTestCompletion u false) s = .next (fenceUnit (tested s u { oneMoreTest (errAt s u) with fails := 2 }) u) := by
  rw [selfTest_ends ht hs, hf]
  rfl

theorem selfTest_row {n row : Nat} (ht : .stackRow n row ∈ s.testing) (hs : ∀ x ∈ s.toSave, x.1 ≠ .stackRow n row)
    (hf : (errAt s (.stackRow n row)).fails = 1) : ∃ v, exec (.selfTestCompletion (.stackRow n row) false) s = .next v ∧
        v.repreq.req = true ∧ v.repreq.unit = 3 ∧ v.repreq.index = BitVec.ofNat 16 n ∧
        (s.repreq.req = true → v.repreq.multi = true) ∧
        (Tbl.get 0 s.rowSpares n < Config.spareRows → v.fenced = s.fenced ∧
          Tbl.get 0 v.rowSpares n = Tbl.get 0 s.rowSpares n + 1 ∧ errAt v (.stackRow n row) = ⟨0, 0, 0, 0⟩) ∧
        (Config.spareRows ≤ Tbl.get 0 s.rowSpares n → .stackRow n row ∈ v.fenced ∧ v.rowSpares = s.rowSpares) := by
  obtain ⟨hreq, hunit, hindex, hmulti⟩ := requestUnit_repreq (s := replaceRow (tested s (.stackRow n row)
    { oneMoreTest (errAt s (.stackRow n row)) with fails := 2 }) (.stackRow n row) n) 3 n
  rw [replaceRow_repreq] at hmulti
  exact ⟨_, selfTest_lasts ht hs hf, hreq, hunit, hindex, hmulti, fun h => replaceRow_spare h, fun h => replaceRow_fenced h⟩

theorem selfTest_bank {core bank : Nat} (ht : .scratchBank core bank ∈ s.testing)
    (hs : ∀ x ∈ s.toSave, x.1 ≠ .scratchBank core bank) (hf : (errAt s (.scratchBank core bank)).fails = 1)
    (hr : core ∉ s.removed) (hb : ∀ e ∈ s.blocks, e.2.live = true → blockCore e.1 ≠ core) :
    ∃ v, exec (.selfTestCompletion (.scratchBank core bank) false) s = .next v ∧ v.repreq.req = true ∧ v.repreq.unit = 1 ∧
      v.repreq.index = BitVec.ofNat 16 core ∧
      (Tbl.get 0 s.spares (core / 64) < 4 → v.removed = s.removed ∧
        Tbl.get 0 v.spares (core / 64) = Tbl.get 0 s.spares (core / 64) + 1 ∧
        errAt v (.scratchBank core bank) = ⟨0, 0, 0, 0⟩) ∧
      (4 ≤ Tbl.get 0 s.spares (core / 64) → v.removed = s.removed ++ [core]) := by
  have hlast := selfTest_lasts ht hs hf
  have hfence : fenceUnit (tested s (.scratchBank core bank) { oneMoreTest (errAt s (.scratchBank core bank)) with fails := 2 })
      (.scratchBank core bank) = requestUnit (fenceCore (tested s (.scratchBank core bank)
        { oneMoreTest (errAt s (.scratchBank core bank)) with fails := 2 }) core) 1 core := rfl
  obtain ⟨l, hl⟩ := fenceCore_empty (s := tested s (.scratchBank core bank)
    { oneMoreTest (errAt s (.scratchBank core bank)) with fails := 2 }) hr hb
  rw [hfence, hl] at hlast
  obtain ⟨hreq, hunit, hindex, -⟩ := requestUnit_repreq (s := replaceCore { tested s (.scratchBank core bank)
    { oneMoreTest (errAt s (.scratchBank core bank)) with fails := 2 } with fencing := l } core) 1 core
  exact ⟨_, hlast, hreq, hunit, hindex, fun h => replaceCore_spare h, fun h => replaceCore_removed h hr⟩

/-! ### Boot (R303) -/

theorem slotOk_iff {x : Option FwImage} {fuse : Nat} : slotOk x fuse = true ↔
    ∃ i, x = some i ∧ i.signed = true ∧ fuse ≤ i.version ∧ i.wellFormed = true := by
  cases x with
  | none => simp [slotOk]
  | some i => simp [slotOk, imageAccepted, and_assoc]

theorem powerOn_takes (h : s.boot.power = .off ∨ s.boot.power = .recovery) : exec .powerOn s = .next
    (if slotOk s.boot.slotA s.boot.fuse then
      { s with boot := { s.boot with power := .running false, control := 8, link := true } }
    else if slotOk s.boot.slotB s.boot.fuse then
      { s with boot := { s.boot with power := .running true, control := 8, link := true } }
    else { s with boot := { s.boot with power := .recovery, control := 1, link := false, out := s.boot.out ++ [.bootFailure] } }) := by
  have hrun : ∀ b, s.boot.power ≠ .running b := fun b hb => by rw [hb] at h; simp at h
  rw [apply_ite Host.Outcome.next, apply_ite Host.Outcome.next]
  simp only [exec, execPowerOn]
  split
  · next b hb => exact absurd hb (hrun b)
  all_goals
    rw [apply_ite (enabledStep _), apply_ite (enabledStep _)]
    rfl

/-! ### Supply (R300) -/

theorem railRecovers_sagging {u : Nat} (h : (s.clusterAt u).sag = true) :
    exec (.railRecovers u) s = .next (s.setCluster u { s.clusterAt u with sag := false }) := by
  simp only [exec, execRailRecovers, h]
  rfl

theorem supplySag_steady {u : Nat} (h : (s.clusterAt u).sag = false) (hu : u < 48) :
    exec (.supplySag u) s = .next { s.setCluster u { s.clusterAt u with sag := true } with
      sagcnt := if s.sagcnt = 0xFFFF_FFFF then s.sagcnt else s.sagcnt + 1 } := by
  have hin : decide (Config.numClusters ≤ u) = false := decide_eq_false (Nat.not_le.mpr hu)
  simp only [exec, execSupplySag, h, hin]
  rfl

/-! ### Attestation (R304) -/

theorem spdm_answers (h : s.boot.power ≠ .off) (hf : s.fencing = []) (name : String) (ask : Instr) (m : OutMsg) :
    spdm name ask s m = .next (send s m) := by
  simp [spdm, h, hf, enabledStep]

theorem spdm_waits (h : s.boot.power ≠ .off) (hf : s.fencing ≠ []) (name : String) (ask : Instr) (m : OutMsg) :
    spdm name ask s m = .next { s with asks := s.asks ++ [ask] } := by
  simp [spdm, h, hf, enabledStep]

end

end Sys2Proof.Machine
namespace Sys2Proof.Certificates
open Sys2Proof.Machine

/-- Settles O60: each step of the platform by the branch that its hypotheses name. -/
theorem platformSteps : Obligations.PlatformSteps := by
  refine ⟨fun s => ⟨fun hdue h0 => ?_, fun hdue => ?_, ?_⟩,
    fun s => ⟨fun pa hpa => ?_, fun pa hpa => ?_, fun core hcore => ?_, ?_, ?_, ?_, ?_⟩⟩
  · obtain ⟨t, ht, hctl, hmem, hcluster⟩ := controlInterval_steps hdue h0
    refine ⟨t, ht, hctl, hmem, fun u hu => ?_⟩
    have h := account_choose (s.clusterAt u) (s.domainAt (u / 4)).cls
    rw [← hcluster u hu] at h
    exact h
  · exact ⟨_, pursePeriod_next s hdue, serveDma_purseDue _, fun d hd => pursePeriod_active hd, pursePeriod_idle,
      fun x hx hpa => pursePeriod_serves hx hpa⟩
  · exact fun u band => ⟨rfl, fun h => railRecovers_sagging h, fun h hu => supplySag_steady h hu⟩
  · rw [eccError_line hpa, siteUnit_line hpa]
    rfl
  · rw [eccError_line hpa]
    obtain ⟨hin, hmem⟩ := poisonSite_mem (s := countError s (siteUnit (.line pa)) false) (.line pa)
    exact ⟨_, rfl, hin, hmem⟩
  · exact ⟨_, eccError_tlb hcore, by rw [State.coreAt_setCore_same], rfl⟩
  · intro u ht hs x tests t
    refine ⟨selfTest_ends ht hs true, fun hf => ?_, ?_, ?_⟩
    · rw [selfTest_ends ht hs, show (errAt s u).fails = 0 from hf]
      rfl
    · rintro n row rfl hf
      exact selfTest_row ht hs hf
    · rintro core bank rfl hf hr hb
      exact selfTest_bank ht hs hf hr hb
  · intro b ok hp
    refine ⟨fun ha => ?_, fun ha hb => ?_, fun ha hb => ?_⟩ <;> rw [powerOn_takes hp]
    · rw [if_pos (slotOk_iff.mpr ha)]
    · rw [if_neg fun h => ha (slotOk_iff.mp h), if_pos (slotOk_iff.mpr hb)]
    · rw [if_neg fun h => ha (slotOk_iff.mp h), if_neg fun h => hb (slotOk_iff.mp h)]
  · intro hp
    refine ⟨fun d c => ?_, fun d => ?_, fun n hn => ?_, fun hf => ⟨?_, fun nonce => ?_, ?_⟩, fun hf => ⟨?_, fun nonce => ?_, ?_⟩⟩
    · simp [exec, execRedfishRequest, hp, enabledStep]
    · simp [exec, execRedfishRequest, hp, enabledStep]
    · have hn : n < processors s := hn
      simp [exec, execRedfishRequest, hp, hn, enabledStep]
    · exact ⟨_, spdm_answers hp hf ..⟩
    · exact ⟨_, spdm_answers hp hf ..⟩
    · refine ⟨_, _, spdm_answers hp hf .., fun i hi => ?_⟩
      simp [measurements, hi]
    · exact spdm_waits hp hf ..
    · exact spdm_waits hp hf ..
    · exact spdm_waits hp hf ..
  · intro pa bs hlink hin put dom
    have hstack : inStacks pa bs.length = true := decide_eq_true hin
    refine ⟨?_, ?_, fun hd ht => ?_, fun hd ht => ?_⟩
    · simp [exec, execPeerPackageAccess, hlink, hstack, enabledStep, put]
    · simp [exec, execPeerPackageAccess, hlink, hstack, enabledStep]
    · have h := takeDma_takes (s := s) (x := ⟨pa, bs, bs.length, 0⟩) hd ht
      simp only [exec, execPeerPackageAccess, hlink, hstack, h]
      rfl
    · have h := takeDma_waits (s := s) (x := ⟨pa, bs, bs.length, 0⟩) hd ht
      simp only [exec, execPeerPackageAccess, hlink, hstack, h, Nat.zero_add]
      rfl

end Sys2Proof.Certificates
end

section
/-!
What a store changes (R64, R65, R79, R81, R86, R116): its bytes, its dirty bits and the dirty log.
-/
namespace Sys2Proof.Machine

/-! ### Dirty bits in memory (R79) -/

/-- Memory with the dirty bits of some entries set. -/
def markDirty (m : Tbl Byte) (ds : List Dirty) : Tbl Byte :=
  ds.foldl (fun m d => writePhys m d.pte (readPhys m d.pte ||| 0x40)) m

theorem readPhys_markDirty_other {b : Nat} : ∀ {ds : List Dirty} {m : Tbl Byte}, (∀ d ∈ ds, d.pte ≠ b) →
    readPhys (markDirty m ds) b = readPhys m b
  | [], _, _ => rfl
  | d :: ds, m, h => by
    have ih := readPhys_markDirty_other (ds := ds) (m := writePhys m d.pte (readPhys m d.pte ||| 0x40)) (b := b)
      fun d hd => h d (List.mem_cons_of_mem _ hd)
    exact ih.trans (readPhys_write_other _ _ (h d List.mem_cons_self).symm)

theorem or_dirty_idem (x : Byte) : x ||| 0x40 ||| 0x40 = x ||| 0x40 := by
  rw [BitVec.or_assoc, BitVec.or_self]

theorem readPhys_markDirty {d : Dirty} : ∀ {ds : List Dirty} {m : Tbl Byte}, d ∈ ds →
    readPhys (markDirty m ds) d.pte = readPhys m d.pte ||| 0x40
  | e :: ds, m, h => by
    show readPhys (markDirty (writePhys m e.pte (readPhys m e.pte ||| 0x40)) ds) d.pte = _
    by_cases hin : ∃ d' ∈ ds, d'.pte = d.pte
    · obtain ⟨d', hd', heq⟩ := hin
      rw [← heq, readPhys_markDirty hd']
      by_cases he : d'.pte = e.pte
      · rw [he, readPhys_write_same, or_dirty_idem]
      · rw [readPhys_write_other _ _ he]
    · have hout : ∀ d' ∈ ds, d'.pte ≠ d.pte := fun d' hd' heq => hin ⟨d', hd', heq⟩
      rcases List.mem_cons.mp h with rfl | hd
      · rw [readPhys_markDirty_other hout, readPhys_write_same]
      · exact absurd rfl (hout d hd)

theorem or_dirty_bit (x : Byte) : (x ||| 0x40).getLsbD 6 = true := by
  rw [BitVec.getLsbD_or]
  simp

/-! ### Setting dirty bits, with the log (R81, R116) -/

section
variable {s : State}

/-- Memory written, and nothing else. -/
def withMem (s : State) (m : Tbl Byte) : State := { s with mem := m }

theorem setDirty_native {ds : List Dirty} (h : ∀ d ∈ ds, d.vf = 0) : setDirty s ds = withMem s (markDirty s.mem ds) := by
  have hnone : logPages s ds = [] := by
    have hf : (ds.filter fun d => d.vf != 0 && d.pending s && !d.logged s) = [] :=
      List.filter_eq_nil_iff.mpr fun d hd => by simp [h d hd]
    rw [logPages, hf]
    rfl
  rw [setDirty, hnone, List.foldl_nil]
  clear hnone
  induction ds generalizing s with
  | nil => rfl
  | cons d ds ih =>
    have hset : Dirty.set s d = withMem s (writePhys s.mem d.pte (readPhys s.mem d.pte ||| 0x40)) := by
      simp [Dirty.set, Dirty.logged, h d List.mem_cons_self, withMem]
    rw [List.foldl_cons, hset, ih fun d hd => h d (List.mem_cons_of_mem _ hd)]
    rfl

theorem setPlaces_mem (pa : Nat) : ∀ (bs : List Byte) (k : Nat) (s : State),
    setPlaces s ((bs.zipIdx k).map fun x => (.phys (pa + x.2), x.1)) = withMem s (writeBytes s.mem (pa + k) bs)
  | [], _, _ => rfl
  | b :: bs, k, s => setPlaces_mem pa bs (k + 1) (withMem s (writePhys s.mem (pa + k) b))

theorem performStores_mem (pa : Nat) (dirty : List Dirty) (attr : BitVec 2) (e : Option TlbEntry) (bs : List Byte) :
    performStores s [(.mem pa dirty attr e, bs)] =
      withMem (setDirty s dirty) (writeBytes (setDirty s dirty).mem pa bs) := by
  have hd : storeDirty [(.mem pa dirty attr e, bs)] = dirty := List.append_nil dirty
  have hb : storeBytesOf [(.mem pa dirty attr e, bs)] = (bs.zipIdx 0).map fun x => (.phys (pa + x.2), x.1) := List.append_nil _
  rw [performStores, hd, List.foldl_cons, List.foldl_nil]
  simp only [hb]
  exact setPlaces_mem pa bs 0 _

/-- What a run of bytes leaves in the blocks it does not name, and in its own. -/
theorem setPlaces_part (b off : Nat) : ∀ (bs : List Byte) (k : Nat) (s : State),
    let t := setPlaces s ((bs.zipIdx k).map fun x => (.part b (off + x.2), x.1))
    t.mem = s.mem ∧ t.warps = s.warps ∧ (∀ c, c ≠ b → t.blockAt c = s.blockAt c) ∧
      (t.blockAt b).scratch = Tbl.putAll 0 (s.blockAt b).scratch (off + k) bs
  | [], _, _ => ⟨rfl, rfl, fun _ _ => rfl, rfl⟩
  | x :: bs, k, s => by
    obtain ⟨hmem, hwarps, hother, hown⟩ := setPlaces_part b off bs (k + 1) (setPlace s (.part b (off + k)) x)
    refine ⟨hmem, hwarps, fun c hc => (hother c hc).trans (State.blockAt_setBlock_other _ _ hc), hown.trans ?_⟩
    rw [setPlace, State.blockAt_setBlock_same]
    rfl

theorem performStores_part (b off : Nat) (bs : List Byte) : performStores s [(.part b off, bs)] =
    setPlaces s ((bs.zipIdx 0).map fun x => (.part b (off + x.2), x.1)) := by
  have hd : storeDirty [(.part b off, bs)] = [] := rfl
  have hb : storeBytesOf [(.part b off, bs)] = (bs.zipIdx 0).map fun x => (.part b (off + x.2), x.1) := List.append_nil _
  rw [performStores, hd, setDirty_nil, List.foldl_cons, List.foldl_nil]
  simp only [hb]

end

end Sys2Proof.Machine
end

section
/-!
The dirty log (R81, R116): an entry appended, and a log filled by a writer that finds too little room.
-/
namespace Sys2Proof.Machine

section
variable {s : State} {vf : Nat}

/-! ### One entry (R116) -/

theorem dirtyLog_other {k : Nat} (gpa : Nat) (h : k ≠ vf) : (dirtyLog s vf gpa).fnAt k = s.fnAt k := by
  simp only [dirtyLog]
  split
  · rfl
  · split <;> exact State.fnAt_setFn_other _ _ h

/-- An entry goes into the slot of PROD, and PROD moves on. -/
theorem dirtyLog_ring {n size : Nat} (gpa : Nat) (h : (s.fnAt vf).ring = some (n, size)) :
    (dirtyLog s vf gpa).mem = writeBytes s.mem ((s.fnAt vf).dlbase.toNat + 8 * ((s.fnAt vf).prod.toNat % size))
      (leBytes 8 (gpa / 16384 * 16384 + 1)) ∧
    (dirtyLog s vf gpa).fnAt vf =
      { s.fnAt vf with prod := (s.fnAt vf).prod + 1, full := (s.fnAt vf).full || decide (n + 1 = size) } := by
  simp only [dirtyLog, h]
  split <;> exact ⟨rfl, State.fnAt_setFn_same ..⟩

theorem ringSize_le {f : Fn} {size : Nat} (h : f.ringSize = some size) : size ≤ 65536 := by
  simp only [Fn.ringSize] at h
  split at h
  · next hsize => exact (Option.some.inj h) ▸ hsize.2.1
  · cases h

/-- An entry more in a ring with room. -/
theorem ring_appended {f : Fn} {n size : Nat} (full : Bool) (ahead : List Nat) (h : f.ring = some (n, size)) (hn : n < size) :
    ({ f with prod := f.prod + 1, full := full, ahead := ahead } : Fn).ring = some (n + 1, size) := by
  obtain ⟨hsize, hcount⟩ := ring_eq_some h
  have hle := ringSize_le hsize
  have hen : f.en = true := by
    by_contra hno
    rw [Fn.ring, if_neg hno] at h
    cases h
  have hnext : (f.prod + 1 - f.cons).toNat = n + 1 := by
    rw [show f.prod + 1 - f.cons = f.prod - f.cons + 1 by ring, BitVec.toNat_add, hcount]
    exact Nat.mod_eq_of_lt (by simp; omega)
  have hsize' : ({ f with prod := f.prod + 1, full := full, ahead := ahead } : Fn).ringSize = some size := hsize
  rw [Fn.ring, if_pos hen, hsize', Option.map_some]
  exact congrArg some (Prod.ext hnext rfl)

theorem logRoom_iff {n size : Nat} (h : (s.fnAt vf).ring = some (n, size)) : logRoom s vf = decide (n < size) := by
  rw [logRoom, h]

/-! ### One dirty bit, with its entry (R79, R81) -/

section
variable {d : Dirty}

theorem page_of_page (n : Nat) : 16384 * n / 16384 * 16384 = n * 16384 := by omega

theorem setDirty_ahead (hv : d.vf ≠ 0) (ha : d.gpa / 16384 ∈ (s.fnAt d.vf).ahead) :
    logShort s [d] = none ∧ setDirty s [d] = Dirty.set s d := by
  have hlogged : d.logged s = true := by simp [Dirty.logged, Dirty.page, hv, ha]
  have hpages : logPages s [d] = [] := by simp [logPages, hlogged]
  refine ⟨?_, ?_⟩
  · rw [logShort, hpages]
    rfl
  · rw [setDirty, hpages]
    rfl

theorem set_mem : (Dirty.set s d).mem = writePhys s.mem d.pte (readPhys s.mem d.pte ||| 0x40) := by
  unfold Dirty.set
  split <;> rfl

theorem set_logged (hv : d.vf ≠ 0) (ha : d.gpa / 16384 ∈ (s.fnAt d.vf).ahead) :
    (Dirty.set s d).fnAt d.vf = { s.fnAt d.vf with ahead := (s.fnAt d.vf).ahead.filter (· != d.page) } := by
  have hlogged : d.logged s = true := by simp [Dirty.logged, Dirty.page, hv, ha]
  simp only [Dirty.set, hlogged, if_true, State.fnAt_setFn_same]
  rfl

theorem set_unlogged (ha : d.gpa / 16384 ∉ (s.fnAt d.vf).ahead) : (Dirty.set s d).fns = s.fns := by
  have hlogged : d.logged s = false := by simp [Dirty.logged, Dirty.page, ha]
  simp only [Dirty.set, hlogged]
  rfl

/-- A clear dirty bit whose page has no entry yet, in a ring with room. -/
theorem setDirty_appends {n size : Nat} (hv : d.vf ≠ 0) (hp : d.pending s = true) (ha : d.gpa / 16384 ∉ (s.fnAt d.vf).ahead)
    (hr : (s.fnAt d.vf).ring = some (n, size)) (hn : n < size) :
    logShort s [d] = none ∧ setDirty s [d] = Dirty.set (dirtyLog s d.vf (16384 * d.page)) d := by
  have hlogged : d.logged s = false := by simp [Dirty.logged, Dirty.page, ha]
  have hpages : logPages s [d] = [(d.vf, d.page)] := by simp [logPages, hp, hlogged, hv]; rfl
  refine ⟨?_, ?_⟩
  · rw [logShort, hpages]
    simp [hr, Nat.not_lt.mpr (Nat.succ_le_of_lt hn)]
  · rw [setDirty, hpages]
    rfl

end

/-! ### A log that is filled (R81, R116) -/

theorem set_ring (d : Dirty) : ((Dirty.set s d).fnAt vf).ring = (s.fnAt vf).ring ∧
    ((Dirty.set s d).fnAt vf).prod = (s.fnAt vf).prod := by
  simp only [Dirty.set]
  split
  · by_cases h : vf = d.vf
    · rw [h, State.fnAt_setFn_same]
      exact ⟨rfl, rfl⟩
    · rw [State.fnAt_setFn_other _ _ h]
      exact ⟨rfl, rfl⟩
  · exact ⟨rfl, rfl⟩

/-- A page logged ahead, where its function's log has room. -/
def fillStep (s : State) (x : Nat × Nat) : State := if logRoom s x.1 then logAhead s x.1 x.2 else s

theorem fillStep_other {x : Nat × Nat} (h : vf ≠ x.1) : (fillStep s x).fnAt vf = s.fnAt vf := by
  unfold fillStep
  split
  · rw [logAhead, State.fnAt_setFn_other _ _ h, dirtyLog_other _ h]
  · rfl

theorem logAhead_fn {n size : Nat} (p : Nat) (hr : (s.fnAt vf).ring = some (n, size)) : (logAhead s vf p).fnAt vf =
    { s.fnAt vf with
      prod := (s.fnAt vf).prod + 1, full := (s.fnAt vf).full || decide (n + 1 = size), ahead := p :: (s.fnAt vf).ahead } := by
  rw [logAhead, State.fnAt_setFn_same, (dirtyLog_ring (16384 * p) hr).2]

theorem fillStep_same {n size p : Nat} (hr : (s.fnAt vf).ring = some (n, size)) (hn : n ≤ size) :
    ((fillStep s (vf, p)).fnAt vf).ring = some (min size (n + 1), size) ∧
    ((fillStep s (vf, p)).fnAt vf).prod = (s.fnAt vf).prod + BitVec.ofNat 32 (min size (n + 1) - n) := by
  rw [fillStep, logRoom_iff hr]
  by_cases hlt : n < size
  · have hmin : min size (n + 1) = n + 1 := Nat.min_eq_right hlt
    have hone : n + 1 - n = 1 := by omega
    rw [if_pos (decide_eq_true hlt), logAhead_fn p hr, hmin, hone]
    exact ⟨ring_appended _ _ hr hlt, rfl⟩
  · have heq : n = size := Nat.le_antisymm hn (Nat.not_lt.mp hlt)
    subst heq
    rw [decide_eq_false hlt, Nat.min_eq_left (Nat.le_succ n), Nat.sub_self]
    exact ⟨hr, (BitVec.add_zero _).symm⟩

/-- A function's ring takes the entries of its pages as far as it has room. -/
theorem foldl_fillStep {size : Nat} (l : List (Nat × Nat)) {s : State} {n : Nat} (hr : (s.fnAt vf).ring = some (n, size))
    (hn : n ≤ size) :
    let m := min size (n + (l.filter fun y => y.1 == vf).length)
    ((l.foldl fillStep s).fnAt vf).ring = some (m, size) ∧
    ((l.foldl fillStep s).fnAt vf).prod = (s.fnAt vf).prod + BitVec.ofNat 32 (m - n) := by
  induction l generalizing s n with
  | nil =>
    simp only [List.filter_nil, List.length_nil, Nat.add_zero, Nat.min_eq_right hn, Nat.sub_self, List.foldl_nil]
    exact ⟨hr, (BitVec.add_zero _).symm⟩
  | cons x l ih =>
    obtain ⟨v, p⟩ := x
    rw [List.foldl_cons]
    by_cases hv : v = vf
    · obtain ⟨hr', hp'⟩ := fillStep_same (p := p) hr hn
      obtain ⟨hr'', hp''⟩ := ih hr' (Nat.min_le_left ..)
      have hlen : (((v, p) :: l).filter fun y => y.1 == vf).length = (l.filter fun y => y.1 == vf).length + 1 := by
        simp [hv]
      have hmin : min size (min size (n + 1) + (l.filter fun y => y.1 == vf).length) =
          min size (n + ((l.filter fun y => y.1 == vf).length + 1)) := by omega
      rw [hmin] at hr'' hp''
      simp only [hlen]
      simp only [hv]
      refine ⟨hr'', hp''.trans ?_⟩
      rw [hp', BitVec.add_assoc, ← BitVec.ofNat_add]
      congr 2
      omega
    · have hout : (((v, p) :: l).filter fun y => y.1 == vf) = l.filter fun y => y.1 == vf := by simp [hv]
      have hfn : (fillStep s (v, p)).fnAt vf = s.fnAt vf := fillStep_other (Ne.symm hv)
      simp only [hout]
      rw [← hfn] at hr ⊢
      exact ih hr hn

theorem fillLog_ring {ds : List Dirty} {n size : Nat} (hr : (s.fnAt vf).ring = some (n, size)) (hn : n ≤ size)
    (hshort : size < n + ((logPages s ds).filter fun y => y.1 == vf).length) :
    ((fillLog s ds).fnAt vf).ring = some (size, size) ∧
    ((fillLog s ds).fnAt vf).prod = (s.fnAt vf).prod + BitVec.ofNat 32 (size - n) := by
  obtain ⟨hr', hp'⟩ := foldl_fillStep (logPages s ds) hr hn
  rw [Nat.min_eq_left hshort.le] at hr' hp'
  rw [← hp', ← hr']
  exact ⟨foldl_keeps (fun u : State => (u.fnAt vf).ring) (fun _ d => (set_ring d).1) ..,
    foldl_keeps (fun u : State => (u.fnAt vf).prod) (fun _ d => (set_ring d).2) ..⟩

/-- The function that a log is short of has more pages to log than room. -/
theorem logShort_some {ds : List Dirty} {n size : Nat} (h : logShort s ds = some vf) (hr : (s.fnAt vf).ring = some (n, size)) :
    size < n + ((logPages s ds).filter fun y => y.1 == vf).length := by
  obtain ⟨x, hx, rfl⟩ := Option.map_eq_some_iff.mp h
  have hlt := List.find?_some hx
  simpa [hr] using hlt

/-- What a log and its dirty bits leave alone of the acting warp. -/
theorem dirtyLog_me (s : State) (vf gpa : Nat) : (dirtyLog s vf gpa).me = s.me ∧ (dirtyLog s vf gpa).cur = s.cur := by
  simp only [dirtyLog]
  split
  · exact ⟨rfl, rfl⟩
  · split <;> exact ⟨rfl, rfl⟩

theorem set_me (s : State) (d : Dirty) : (Dirty.set s d).me = s.me ∧ (Dirty.set s d).cur = s.cur := by
  simp only [Dirty.set]
  split <;> exact ⟨rfl, rfl⟩

theorem fillStep_me (s : State) (x : Nat × Nat) : (fillStep s x).me = s.me ∧ (fillStep s x).cur = s.cur := by
  unfold fillStep
  split
  · exact dirtyLog_me s x.1 (16384 * x.2)
  · exact ⟨rfl, rfl⟩

theorem fillLog_me (s : State) (ds : List Dirty) : (fillLog s ds).me = s.me ∧ (fillLog s ds).cur = s.cur :=
  ⟨(foldl_keeps State.me (fun u d => (set_me u d).1) ..).trans (foldl_keeps State.me (fun u x => (fillStep_me u x).1) ..),
    (foldl_keeps State.cur (fun u d => (set_me u d).2) ..).trans (foldl_keeps State.cur (fun u x => (fillStep_me u x).2) ..)⟩

end

end Sys2Proof.Machine
end

section
/-!
What a store changes, from its bytes, its dirty bits and the log (R64, R65, R79, R81, R86, R116).
-/
namespace Sys2Proof.Machine

section
variable {s u : State} {d : Dirty}

theorem setDirty_marks (hv : d.vf ≠ 0) (ha : d.gpa / 16384 ∈ (s.fnAt d.vf).ahead) :
    let t := setDirty s [d]
    logShort s [d] = none ∧ (t.fnAt d.vf).prod = (s.fnAt d.vf).prod ∧ d.gpa / 16384 ∉ (t.fnAt d.vf).ahead ∧
      (readPhys t.mem d.pte).getLsbD 6 = true ∧ ∀ b, b ≠ d.pte → readPhys t.mem b = readPhys s.mem b := by
  obtain ⟨hshort, hset⟩ := setDirty_ahead hv ha
  simp only [hset, set_mem, set_logged hv ha, readPhys_write_same]
  exact ⟨hshort, trivial, by simp [Dirty.page], or_dirty_bit _, fun b hb => readPhys_write_other _ _ hb⟩

/-- The entry of a dirty bit's page, and the bit. -/
theorem setDirty_logs {n size : Nat} (hv : d.vf ≠ 0) (hp : d.pending s = true) (ha : d.gpa / 16384 ∉ (s.fnAt d.vf).ahead)
    (hr : (s.fnAt d.vf).ring = some (n, size)) (hn : n < size) :
    let slot := (s.fnAt d.vf).dlbase.toNat + 8 * ((s.fnAt d.vf).prod.toNat % size)
    let t := setDirty s [d]
    (d.pte < slot ∨ slot + 8 ≤ d.pte) →
    logShort s [d] = none ∧ (t.fnAt d.vf).prod = (s.fnAt d.vf).prod + 1 ∧
      readBytes t.mem slot 8 = leBytes 8 (d.gpa / 16384 * 16384 + 1) ∧ (readPhys t.mem d.pte).getLsbD 6 = true ∧
      ∀ b, b < slot ∨ slot + 8 ≤ b → b ≠ d.pte → readPhys t.mem b = readPhys s.mem b := by
  intro slot t hapart
  obtain ⟨hshort, hset⟩ := setDirty_appends hv hp ha hr hn
  obtain ⟨hmem, hfn⟩ := dirtyLog_ring (16384 * d.page) hr
  rw [page_of_page] at hmem
  have ha' : d.gpa / 16384 ∉ ((dirtyLog s d.vf (16384 * d.page)).fnAt d.vf).ahead := by rw [hfn]; exact ha
  have hprod : (t.fnAt d.vf).prod = (s.fnAt d.vf).prod + 1 := by
    rw [show t = _ from hset, State.fnAt, set_unlogged ha', ← State.fnAt, hfn]
  obtain ⟨x, htm⟩ : ∃ x, t.mem =
      writePhys (writeBytes s.mem slot (leBytes 8 (d.gpa / 16384 * 16384 + 1))) d.pte (x ||| 0x40) := by
    rw [show t = _ from hset, set_mem, hmem]
    exact ⟨_, rfl⟩
  refine ⟨hshort, hprod, ?_, ?_, fun b hb hne => ?_⟩ <;> rw [htm]
  · have hbits : writePhys (writeBytes s.mem slot (leBytes 8 (d.gpa / 16384 * 16384 + 1))) d.pte (x ||| 0x40) =
        writeBytes (writeBytes s.mem slot (leBytes 8 (d.gpa / 16384 * 16384 + 1))) d.pte [x ||| 0x40] := rfl
    rw [hbits, readBytes_writeBytes_outside _ _ _ _ _ (by simp only [List.length_cons, List.length_nil]; omega)]
    simpa using readBytes_writeBytes_same s.mem slot (leBytes 8 (d.gpa / 16384 * 16384 + 1))
  · rw [readPhys_write_same]
    exact or_dirty_bit _
  · rw [readPhys_write_other _ _ hne, readPhys_writeBytes_outside _ _ _ _ (by rwa [length_leBytes])]

/-- A store of the acting warp that finds too little room in a log parks it, the log filled. -/
theorem storeWordAt_parks {srcs : List SReg} {va : State → Word} {r : SReg} {n vf : Nat} {p : Spot} (hr : Ready s srcs)
    (hc : uncommitted s s.me = none) (hres : resolve s (whoOf s s.cur s.me) .write n (va s) = (u, .ok p))
    (hu : unanswered u u.cur p = false) (hlog : logShort u (storeDirty [(p, [])]) = some vf) :
    storeWordAt srcs va r n s = .next (parkLog u vf (storeDirty [(p, [])])) := by
  have hun : uncommitted u u.me = none := (walkRest_uncommitted (resolve_rest hres)).trans hc
  rw [storeWordAt, scalarWord_plain_acts hr]
  have hdirty : storeDirty [(p, leBytes n (s.sreg r).toNat)] = storeDirty [(p, [])] := rfl
  simp only [storeAt_answers hres hu, storeBytes, storeWord, hun, hdirty, hlog, out_stops]

theorem me_park (s : State) (kind : ParkKind) (r : TrapRec) :
    (s.park s.cur kind r).me = { s.me with parked := some (kind, r) } :=
  State.me_setWarp_cur s { s.me with parked := some (kind, r) }

/-- The record of a writer that parks: its word is to be executed again. -/
def writerRec (w : Warp) : TrapRec := ⟨0, false, w.pc, false, false, w.openRgn, w.pc, w.nextLane, 0, 0, 0, false, .none⟩

theorem parkLog_me (vf : Nat) (ds : List Dirty) : (parkLog u vf ds).me =
    { (fillLog u ds).me.counted false with
      fault := none, reads := [], parked := some (.dirtyLog vf, writerRec ((fillLog u ds).me.counted false)) } := by
  have hpark := me_park ((fillLog u ds).setMe { (fillLog u ds).me.counted false with fault := none, reads := [] })
    (.dirtyLog vf) (writerRec ((fillLog u ds).me.counted false))
  rw [State.setMe_eq, State.me_setWarp_cur] at hpark
  exact hpark

/-- The writer joins those that wait for the log, whose ring stays as it is filled. -/
theorem parkLog_fn (vf : Nat) (ds : List Dirty) : ∃ l, (fillLog u ds).cur ∈ l ∧
    (parkLog u vf ds).fnAt vf = { (fillLog u ds).fnAt vf with parked := l } := by
  refine ⟨_, ?_, State.fnAt_setFn_same ..⟩
  split <;> simp

theorem parkLog_mem (vf : Nat) (ds : List Dirty) : (parkLog u vf ds).mem = (fillLog u ds).mem := rfl

end

end Sys2Proof.Machine
namespace Sys2Proof.Certificates
open Sys2Proof.Machine

/-- Settles O10: a store's bytes by what a run of bytes writes, its dirty bits and its log entries one at a time, a full
log by the room its ring has. -/
theorem storeEffects : Obligations.StoreEffects := by
  refine ⟨?_, ?_, fun s d _ hv ha => setDirty_marks hv ha, ?_, ?_⟩
  · intro s pa dirty attr by_ bs _ hvf hapart t
    have ht : t = withMem s (writeBytes (markDirty s.mem dirty) pa bs) := by
      rw [show t = _ from performStores_mem .., setDirty_native hvf]
      rfl
    rw [ht]
    refine ⟨readBytes_writeBytes_same .., fun b hb hne => ?_, fun d hd => ?_, rfl, rfl, rfl, rfl, rfl⟩
    · exact (readPhys_writeBytes_outside _ _ _ _ hb).trans (readPhys_markDirty_other hne)
    · exact (readPhys_writeBytes_outside _ _ _ _ (hapart d hd)).trans (readPhys_markDirty hd)
  · intro s b off bs _ t
    have ht : t = _ := performStores_part b off bs
    obtain ⟨hmem, hwarps, hother, hown⟩ := setPlaces_part b off bs 0 s
    rw [← ht] at hmem hwarps hother hown
    refine ⟨hmem, hwarps, hother, ?_, fun o ho => ?_⟩
    · rw [hown]
      exact Tbl.range_putAll_same ..
    · rw [hown]
      exact Tbl.get_putAll_outside _ _ _ _ _ ho
  · intro s d n size _ hv hp ha hr hn f slot hapart
    exact setDirty_logs hv hp ha hr hn hapart
  · intro s u d a imm p vf n size hready hc hres hu hlog hring hn
    have hstep := storeWordAt_parks (va := fun s => s.sreg a + simm imm) (r := d) hready hc hres hu hlog
    obtain ⟨hfull, hprod⟩ := fillLog_ring hring hn (logShort_some hlog hring)
    obtain ⟨hme, hcur⟩ := fillLog_me u (storeDirty [(p, [])])
    have hsame : u.me = s.me := walkRest_me (resolve_rest hres)
    have hcur' : u.cur = s.cur := walkRest_cur (resolve_rest hres)
    have hparked := parkLog_me (u := u) vf (storeDirty [(p, [])])
    obtain ⟨l, hin, hfn⟩ := parkLog_fn (u := u) vf (storeDirty [(p, [])])
    rw [hme, hsame] at hparked
    refine ⟨_, writerRec (s.me.counted false), hstep, parkLog_mem .., ?_⟩
    rw [hparked, hfn]
    exact ⟨rfl, rfl, rfl, fun _ => rfl, (hcur.trans hcur') ▸ hin, hfull, hprod⟩

end Sys2Proof.Certificates
end

section
/-!
The task queues (R111 to R114, R269): what a controller's write to an overflow area keeps, the entries a word stores,
moves and takes.
-/
namespace Sys2Proof.Machine

/-! ### A walk keeps every queue's entries -/

theorem tqGet_log (s : State) (ctx : Nat) (e : LogEntry) : tqGet (s.log ctx e) = tqGet s := by
  funext c x
  by_cases hc : c = ctx
  · subst hc
    simp [tqGet, State.log]
  · simp [tqGet, State.log, hc]

theorem tqGet_tlbFill (s : State) (w : Who) (va : Nat) (x : Found) (gone : Bool) :
    tqGet (tlbFill s w va x gone) = tqGet s := by
  unfold tlbFill
  dsimp only
  split
  · rfl
  · split <;> rfl

theorem tqGet_pickHeld (l : List (Except WalkErr Found × Bool)) (s : State) : tqGet (pickHeld l s).1 = tqGet s := by
  induction l generalizing s with
  | nil => rfl
  | cons x r ih =>
    unfold pickHeld
    dsimp only
    split
    · rfl
    · exact ih _

theorem tqGet_lookup (s : State) (w : Who) (a : Acc) (va : Nat) : tqGet (lookup s w a va).1 = tqGet s := by
  unfold lookup
  dsimp only
  split
  · next e _ =>
    have hpick := tqGet_pickHeld ((e.choices s va (walkBoth s w.ctx va)).filter fun x => !agrees x.1 (walkBoth s w.ctx va) a) s
    split
    · next h => rwa [h] at hpick
    · next h => rwa [h] at hpick
  · rfl

theorem tqGet_askWalk (s : State) (w : Who) (x : Source) : tqGet (askWalk s w x) = tqGet s := by
  unfold askWalk
  split <;> rfl

theorem tqGet_translate (s : State) (w : Who) (a : Acc) (va : Word) : tqGet (translate s w a va).1 = tqGet s := by
  have hlook (x) : tqGet (askWalk (lookup s w a va.toNat).1 w x) = tqGet s := (tqGet_askWalk ..).trans (tqGet_lookup ..)
  have hfill (x g y) : tqGet (tlbFill (askWalk (lookup s w a va.toNat).1 w y) w va.toNat x g) = tqGet s :=
    (tqGet_tlbFill ..).trans (hlook _)
  simp only [translate]
  split
  · exact hlook _
  · exact hlook _
  · exact hlook _
  · exact (tqGet_log ..).trans (hlook _)
  · split
    · exact hfill ..
    · split
      · exact hfill ..
      · split
        · exact hfill ..
        · exact hfill ..

theorem tqGet_spanFrom (w : Who) (a : Acc) (fuel : Nat) (s : State) (va : Word) (n : Nat) :
    tqGet (spanFrom w a fuel s va n).1 = tqGet s := by
  induction fuel generalizing s va n with
  | zero => rfl
  | succ fuel ih =>
    have htr := tqGet_translate s w a va
    unfold spanFrom
    split
    · rfl
    · split
      · rfl
      · split
        · next h => rwa [h] at htr
        · next t pa l h =>
          rw [h] at htr
          dsimp only
          split
          · exact htr
          · split
            · exact htr
            · have hrest := (ih t (va + BitVec.ofNat 64 (min n (16384 - va.toNat % 16384)))
                (n - min n (16384 - va.toNat % 16384))).trans htr
              split
              · next h' => rwa [h'] at hrest
              · next h' => rwa [h'] at hrest

/-! ### A write to an overflow area (R111, R113) -/

/-- What a write to an overflow area keeps: the entries of the queues, the warps and the blocks. -/
def queueView (s : State) := (tqGet s, s.warps, s.blocks)

theorem queueView_eq {s t : State} : queueView t = queueView s ↔ tqGet t = tqGet s ∧ t.warps = s.warps ∧ t.blocks = s.blocks := by
  simp only [queueView, Prod.mk.injEq]

theorem queueView_pieces (s : State) (w : Who) (a : Acc) (va : Word) (n : Nat) :
    queueView (pieces s w a va n).1 = queueView s := by
  have h : walkRest (pieces s w a va n).1 = walkRest s := walkRest_spanFrom ..
  exact queueView_eq.mpr ⟨tqGet_spanFrom .., (congrArg State.warps h :), (congrArg State.blocks h :)⟩

theorem queueView_dirtyLog (s : State) (vf gpa : Nat) : queueView (dirtyLog s vf gpa) = queueView s := by
  simp only [dirtyLog]
  split
  · rfl
  · split <;> rfl

theorem queueView_set (s : State) (d : Dirty) : queueView (Dirty.set s d) = queueView s := by
  simp only [Dirty.set]
  split <;> rfl

theorem queueView_setDirty (s : State) (ds : List Dirty) : queueView (setDirty s ds) = queueView s :=
  (foldl_keeps queueView queueView_set ds _).trans
    (foldl_keeps queueView (fun _ _ => queueView_dirtyLog ..) (logPages s ds) s)

theorem queueView_writePieces (ps : List (Nat × Nat × List Dirty)) (s : State) (bs : List Byte) :
    queueView (writePieces s ps bs) = queueView s := by
  induction ps generalizing s bs with
  | nil => rfl
  | cons p r ih => exact (ih ..).trans rfl

theorem queueView_areaWrite {s t : State} {ctx : Nat} {d : TqDesc} {off : Nat} {bs : List Byte}
    (h : areaWrite s ctx d off bs = .ok t) : queueView t = queueView s := by
  unfold areaWrite at h
  split at h
  · cases h
    rfl
  · have hp := queueView_pieces s (whoQueue ctx d) .write (d.area + BitVec.ofNat 64 off) bs.length
    split at h
    · next heq =>
      cases h
      rwa [heq] at hp
    · next heq =>
      rw [heq] at hp
      split at h
      · cases h
      · cases h
        exact (queueView_writePieces ..).trans ((queueView_setDirty ..).trans hp)

/-! ### No dirty log enabled (R81) -/

/-- No virtual function's dirty log is enabled. -/
def NoRings (s : State) : Prop := ∀ vf, (s.fnAt vf).ring = none

theorem noRings_of_fns {s t : State} (h : t.fns = s.fns) (hs : NoRings s) : NoRings t := fun vf => by
  rw [State.fnAt, h]
  exact hs vf

theorem noRings_dirtyLog {s : State} (vf gpa : Nat) (hs : NoRings s) : dirtyLog s vf gpa = s := by
  simp only [dirtyLog, hs vf]

theorem noRings_set {s : State} (d : Dirty) (hs : NoRings s) : NoRings (Dirty.set s d) := fun vf =>
  (set_ring d).1.trans (hs vf)

theorem noRings_foldl {α : Type} {f : State → α → State} (hf : ∀ s a, NoRings s → NoRings (f s a)) (l : List α) {s : State}
    (hs : NoRings s) : NoRings (l.foldl f s) := by
  induction l generalizing s with
  | nil => exact hs
  | cons a l ih => exact ih (hf s a hs)

theorem noRings_setDirty {s : State} (ds : List Dirty) (hs : NoRings s) : NoRings (setDirty s ds) :=
  noRings_foldl (fun _ d h => noRings_set d h) ds
    (noRings_foldl (fun _ x h => (noRings_dirtyLog x.1 _ h).symm ▸ h) (logPages s ds) hs)

theorem noRings_logShort {s : State} (ds : List Dirty) (hs : NoRings s) : logShort s ds = none := by
  have hs' : ∀ vf, (s.fnAt vf).ring = none := hs
  simp [logShort, hs']

theorem writePieces_fns (ps : List (Nat × Nat × List Dirty)) (s : State) (bs : List Byte) :
    (writePieces s ps bs).fns = s.fns := by
  induction ps generalizing s bs with
  | nil => rfl
  | cons p r ih => exact (ih ..).trans rfl

theorem noRings_areaWrite {s : State} (hs : NoRings s) (ctx : Nat) (d : TqDesc) (off : Nat) (bs : List Byte) :
    ∃ t, areaWrite s ctx d off bs = .ok t ∧ NoRings t := by
  unfold areaWrite
  split
  · exact ⟨s, rfl, hs⟩
  · have hw : walkRest (pieces s (whoQueue ctx d) .write (d.area + BitVec.ofNat 64 off) bs.length).1 = walkRest s :=
      walkRest_spanFrom ..
    have hp : NoRings (pieces s (whoQueue ctx d) .write (d.area + BitVec.ofNat 64 off) bs.length).1 :=
      noRings_of_fns (congrArg State.fns hw :) hs
    split
    · next heq =>
      rw [heq] at hp
      exact ⟨_, rfl, hp⟩
    · next heq =>
      rw [heq] at hp
      rw [noRings_logShort _ hp]
      exact ⟨_, rfl, noRings_of_fns (writePieces_fns ..) (noRings_setDirty _ hp)⟩

/-! ### A queue taken up, and its entries set (R113) -/

section
variable {s t : State} {c x : Nat} {d : TqDesc} {es : List (BitVec 256)}

/-- What a controller writes out for a queue that a word names. -/
def sparePlace (s : State) (c x : Nat) (d : TqDesc) : AreaOut State :=
  let others := (s.domainAt d.home).queues.filter (· != (c, x))
  match if others.length < heldQueues then none else others.getLast? with
  | some (c, y) =>
    match tqDesc s c y with
    | some e => areaWrite s c e 0 (entryBytes ((tqGet s c y).take hardEntries))
    | none => .ok s
  | none => .ok s

/-- The queue's place in its controller. -/
def takePlace (s : State) (c x : Nat) (d : TqDesc) (t : State) : State :=
  t.setDomain d.home { t.domainAt d.home with
    queues := ((c, x) :: (s.domainAt d.home).queues.filter (· != (c, x))).take heldQueues }

theorem bringIn_eq : bringIn s c x d = (sparePlace s c x d).map (takePlace s c x d) := rfl

theorem bringIn_ok (h : bringIn s c x d = .ok t) : ∃ u, sparePlace s c x d = .ok u ∧ t = takePlace s c x d u := by
  rw [bringIn_eq] at h
  cases hu : sparePlace s c x d with
  | error e =>
    rw [hu] at h
    cases h
  | ok u =>
    rw [hu] at h
    cases h
    exact ⟨u, rfl, rfl⟩

theorem queueView_sparePlace (h : sparePlace s c x d = .ok t) : queueView t = queueView s := by
  simp only [sparePlace] at h
  split at h
  · split at h
    · exact queueView_areaWrite h
    · cases h
      rfl
  · cases h
    rfl

theorem queueView_bringIn (h : bringIn s c x d = .ok t) : queueView t = queueView s := by
  obtain ⟨u, hu, rfl⟩ := bringIn_ok h
  have hplace : queueView (takePlace s c x d u) = queueView u := rfl
  exact hplace.trans (queueView_sparePlace hu)

theorem tqGet_bringIn (h : bringIn s c x d = .ok t) : tqGet t = tqGet s := (queueView_eq.mp (queueView_bringIn h)).1

theorem mem_bringIn (h : bringIn s c x d = .ok t) (hq : (s.domainAt d.home).queues.length < 64) : t.mem = s.mem := by
  have hlen : ((s.domainAt d.home).queues.filter (· != (c, x))).length < heldQueues :=
    lt_of_le_of_lt (List.length_filter_le ..) hq
  obtain ⟨u, hu, rfl⟩ := bringIn_ok h
  simp only [sparePlace, hlen, if_true] at hu
  cases hu
  rfl

theorem queueView_tqStore (h : tqStore s c x d es = .ok t) : queueView t = queueView (tqPut s c x es) :=
  queueView_areaWrite h

theorem tqGet_tqStore (h : tqStore s c x d es = .ok t) (c' y : Nat) :
    tqGet t c' y = if c' = c ∧ y = x then es else tqGet s c' y := by
  rw [(queueView_eq.mp (queueView_tqStore h)).1, tqGet_tqPut]

theorem mem_tqStore (h : tqStore s c x d es = .ok t) (hes : es.length ≤ 256) : t.mem = s.mem := by
  have hnone : es.drop hardEntries = [] := List.drop_eq_nil_of_le hes
  rw [tqStore, hnone] at h
  cases h
  rfl

theorem noRings_sparePlace (hs : NoRings s) : ∃ t, sparePlace s c x d = .ok t ∧ NoRings t := by
  simp only [sparePlace]
  split
  · split
    · exact noRings_areaWrite hs ..
    · exact ⟨s, rfl, hs⟩
  · exact ⟨s, rfl, hs⟩

theorem noRings_bringIn (hs : NoRings s) : ∃ t, bringIn s c x d = .ok t ∧ NoRings t := by
  obtain ⟨u, hu, hr⟩ := noRings_sparePlace (c := c) (x := x) (d := d) hs
  rw [bringIn_eq, hu]
  exact ⟨_, rfl, noRings_of_fns (t := takePlace s c x d u) rfl hr⟩

theorem noRings_tqStore (hs : NoRings s) : ∃ t, tqStore s c x d es = .ok t ∧ NoRings t :=
  noRings_areaWrite (noRings_of_fns (t := tqPut s c x es) rfl hs) ..

end

/-! ### A steal (R111, R114) -/

section
variable {s t : State} {c y x m : Nat} {dv d : TqDesc}

/-- How many entries a thief takes. -/
def stolen (s : State) (c y x : Nat) (d : TqDesc) : Nat :=
  min (((tqGet s c y).length + 1) / 2) (d.room (tqGet s c x))

theorem stealFrom_ok (h : stealFrom s c y x dv d = .ok (t, m)) : ∃ u v, bringIn s c y dv = .ok u ∧ m = stolen u c y x d ∧
    tqStore u c y dv ((tqGet u c y).drop m) = .ok v ∧ tqStore v c x d (tqGet v c x ++ (tqGet u c y).take m) = .ok t := by
  simp only [stealFrom] at h
  cases hu : bringIn s c y dv with
  | error e =>
    rw [hu] at h
    cases h
  | ok u =>
    rw [hu] at h
    simp only [Except.bind] at h
    split at h
    · cases h
    · next v hv =>
      cases ht : tqStore v c x d (tqGet v c x ++ (tqGet u c y).take (stolen u c y x d)) with
      | error e =>
        rw [← stolen, ht] at h
        cases h
      | ok t' =>
        rw [← stolen, ht] at h
        cases h
        exact ⟨u, v, rfl, rfl, hv, ht⟩

theorem noRings_stealFrom (hs : NoRings s) : ∃ t m, stealFrom s c y x dv d = .ok (t, m) := by
  obtain ⟨u, hu, hru⟩ := noRings_bringIn (c := c) (x := y) (d := dv) hs
  obtain ⟨v, hv, hrv⟩ := noRings_tqStore (c := c) (x := y) (d := dv) (es := (tqGet u c y).drop (stolen u c y x d)) hru
  obtain ⟨t, ht, -⟩ := noRings_tqStore (c := c) (x := x) (d := d)
    (es := tqGet v c x ++ (tqGet u c y).take (stolen u c y x d)) hrv
  refine ⟨t, stolen u c y x d, ?_⟩
  simp only [stealFrom, hu, Except.bind]
  rw [← stolen, hv]
  simp only [ht]
  rfl

/-- What a steal moves, and what it leaves. -/
theorem stealFrom_moves (hne : y ≠ x) (h : stealFrom s c y x dv d = .ok (t, m)) :
    m = min (((tqGet s c y).length + 1) / 2) (256 + d.cap - (tqGet s c x).length) ∧
    tqGet t c y = (tqGet s c y).drop m ∧ tqGet t c x = tqGet s c x ++ (tqGet s c y).take m ∧
    (∀ c' z, (c', z) ≠ (c, y) → (c', z) ≠ (c, x) → tqGet t c' z = tqGet s c' z) ∧ t.warps = s.warps := by
  obtain ⟨u, v, hu, rfl, hv, ht⟩ := stealFrom_ok h
  obtain ⟨hget, hwu, -⟩ := queueView_eq.mp (queueView_bringIn hu)
  obtain ⟨-, hwv, -⟩ := queueView_eq.mp (queueView_tqStore hv)
  obtain ⟨-, hwt, -⟩ := queueView_eq.mp (queueView_tqStore ht)
  have hx : tqGet v c x = tqGet s c x := by
    rw [tqGet_tqStore hv, if_neg fun h => hne h.2.symm, hget]
  refine ⟨by rw [stolen, hget]; rfl, ?_, ?_, fun c' z hy hz => ?_, hwt.trans (hwv.trans hwu)⟩
  · rw [tqGet_tqStore ht, if_neg fun h => hne h.2, tqGet_tqStore hv, if_pos ⟨rfl, rfl⟩, hget]
  · rw [tqGet_tqStore ht, if_pos ⟨rfl, rfl⟩, hx, hget]
  · rw [tqGet_tqStore ht, if_neg fun h => hz (by rw [h.1, h.2]), tqGet_tqStore hv,
      if_neg fun h => hy (by rw [h.1, h.2]), hget]

end

end Sys2Proof.Machine
end

section
/-!
The words of the task queues (R269) and the entry that QPOP takes (R111).
-/
namespace Sys2Proof.Machine

/-! ### The entry QPOP takes (R111) -/

/-- One entry looked at in the search for the lowest key. -/
def lowestStep (acc : Option (Nat × Nat)) (x : BitVec 256 × Nat) : Option (Nat × Nat) :=
  match acc with
  | none => some (entryKey x.1, x.2)
  | some (k, _) => if entryKey x.1 < k then some (entryKey x.1, x.2) else acc

theorem lowestKey_eq (es : List (BitVec 256)) : lowestKey es = ((es.zipIdx.foldl lowestStep none).map (·.2)).getD 0 := rfl

/-- What the search has found stays while no lower key comes. -/
theorem lowest_stays {k i : Nat} : ∀ {r : List (BitVec 256)} {n : Nat}, (∀ y ∈ r, k ≤ entryKey y) →
    (r.zipIdx n).foldl lowestStep (some (k, i)) = some (k, i)
  | [], _, _ => rfl
  | y :: r, n, h => by
    have hy : ¬ entryKey y < k := Nat.not_lt.mpr (h y List.mem_cons_self)
    have hstep : lowestStep (some (k, i)) (y, n) = some (k, i) := if_neg hy
    rw [List.zipIdx_cons, List.foldl_cons, hstep]
    exact lowest_stays fun z hz => h z (List.mem_cons_of_mem _ hz)

/-- What the search has found before an entry lower than all so far is above that entry. -/
theorem lowest_above {k : Nat} : ∀ {l : List (BitVec 256)} {n : Nat} {acc : Option (Nat × Nat)},
    (∀ y ∈ l, k < entryKey y) → (∀ z ∈ acc, k < z.1) → ∀ z ∈ (l.zipIdx n).foldl lowestStep acc, k < z.1
  | [], _, _, _, hacc => hacc
  | y :: l, n, acc, h, hacc => by
    refine lowest_above (l := l) (n := n + 1) (fun z hz => h z (List.mem_cons_of_mem _ hz)) fun z hz => ?_
    have hy := h y List.mem_cons_self
    cases acc with
    | none =>
      cases hz
      exact hy
    | some a =>
      dsimp only [lowestStep] at hz
      split at hz
      · cases hz
        exact hy
      · exact hacc z hz

theorem lowestKey_split {l r : List (BitVec 256)} {e : BitVec 256} (hl : ∀ y ∈ l, entryKey e < entryKey y)
    (hr : ∀ y ∈ r, entryKey e ≤ entryKey y) : lowestKey (l ++ e :: r) = l.length := by
  have habove := lowest_above (n := 0) (acc := none) hl (by simp)
  have hfind : lowestStep (l.zipIdx.foldl lowestStep none) (e, l.length) = some (entryKey e, l.length) := by
    cases hacc : l.zipIdx.foldl lowestStep none with
    | none => rfl
    | some a => exact if_pos (habove a hacc)
  rw [lowestKey_eq, List.zipIdx_append, List.foldl_append, List.zipIdx_cons, List.foldl_cons, Nat.zero_add, hfind,
    lowest_stays hr]
  rfl

theorem eraseIdx_split {α : Type} (l r : List α) (e : α) : (l ++ e :: r).eraseIdx l.length = l ++ r := by
  rw [List.eraseIdx_append_of_length_le (Nat.le_refl _), Nat.sub_self]
  rfl

theorem takeEntry_fifo (e : BitVec 256) (r : List (BitVec 256)) : takeEntry .fifo (e :: r) = some (e, r) := rfl

theorem takeEntry_deque (e : BitVec 256) (r : List (BitVec 256)) : takeEntry .deque (r ++ [e]) = some (e, r) := by
  have hlast : (r ++ [e]).length - 1 = r.length := by simp
  simp only [takeEntry, hlast, eraseIdx_split]
  simp

theorem takeEntry_prio {l r : List (BitVec 256)} {e : BitVec 256} (hl : ∀ y ∈ l, entryKey e < entryKey y)
    (hr : ∀ y ∈ r, entryKey e ≤ entryKey y) : takeEntry .prio (l ++ e :: r) = some (e, l ++ r) := by
  simp only [takeEntry, lowestKey_split hl hr, eraseIdx_split]
  simp

theorem takeEntry_nil (k : TqKind) : takeEntry k [] = none := by
  cases k <;> rfl

/-! ### What QPOP finds (R111, R114) -/

section
variable {s v w : State} {c x : Nat} {d : TqDesc} {auto : Bool} {e : BitVec 256} {rest : List (BitVec 256)}

theorem popQueue_blocked {y : Nat × List Dirty} (h : bringIn s c x d = .error y) : popQueue s c x d auto = .error y := by
  rw [popQueue, h]
  rfl

theorem popQueue_takes (hv : bringIn s c x d = .ok v) (he : takeEntry d.kind (tqGet s c x) = some (e, rest)) :
    popQueue s c x d auto = (tqStore v c x d rest).map fun t => (t, some e, 0) := by
  rw [popQueue, hv]
  simp only [Except.bind, tqGet_bringIn hv, he]

theorem popQueue_empty (hv : bringIn s c x d = .ok v) (he : tqGet s c x = []) (h : auto = false ∨ d.kind ≠ .deque ∨ d.victims = []) :
    popQueue s c x d auto = .ok (v, none, 1) := by
  have hno : (auto && d.kind == .deque && !d.victims.isEmpty) = false := by
    rcases h with h | h | h <;> simp [h]
  rw [popQueue, hv]
  simp only [Except.bind, tqGet_bringIn hv, he, takeEntry_nil, hno, Bool.false_eq_true, if_false]

/-- The victim that the steal unit's first probe draws, and the machine after the draw. -/
def firstVictim (v : State) (d : TqDesc) : Nat :=
  d.victims.getD (Config.victimDraw (coreOf v.cur) (v.coreAt (coreOf v.cur)).draws % d.victims.length) 0
def drawn (v : State) : State :=
  v.setCore (coreOf v.cur) { v.coreAt (coreOf v.cur) with draws := (v.coreAt (coreOf v.cur)).draws + 1 }

theorem probe_first {dv : TqDesc} (hd : tqDesc (drawn v) c (firstVictim v d) = some dv)
    (hne : tqGet (drawn v) c (firstVictim v d) ≠ []) :
    probe v (coreOf v.cur) c x d 4 = stealFrom (drawn v) c (firstVictim v d) x dv d := by
  have hsome : (tqGet (drawn v) c (firstVictim v d)).isEmpty = false := by simpa using hne
  have hd' := hd
  have hsome' := hsome
  unfold drawn firstVictim at hd' hsome'
  rw [probe]
  simp only [hd', hsome', Bool.false_eq_true, if_false]
  rfl

section
variable {dv : TqDesc} (hv : bringIn s c x d = .ok v) (he : tqGet s c x = []) (ha : auto = true) (hk : d.kind = .deque)
  (hvs : d.victims ≠ []) (hd : tqDesc (drawn v) c (firstVictim v d) = some dv)
  (hne : tqGet (drawn v) c (firstVictim v d) ≠ [])
include hv he ha hk hvs hd hne

theorem popQueue_steals : popQueue s c x d auto = (stealFrom (drawn v) c (firstVictim v d) x dv d).bind fun y =>
    if y.2 = 0 then .ok (y.1, none, (1 : Word))
    else
      match takeEntry d.kind (tqGet y.1 c x) with
      | some (e, rest) => (tqStore y.1 c x d rest).map fun s => (s, some e, (2 : Word))
      | none => .ok (y.1, none, (1 : Word)) := by
  have hyes : (auto && d.kind == .deque && !d.victims.isEmpty) = true := by simp [ha, hk, hvs]
  rw [popQueue, hv]
  simp only [Except.bind, tqGet_bringIn hv, he, takeEntry_nil, hyes, if_true, probe_first hd hne] <;> rfl

theorem popQueue_steal_blocked {z : Nat × List Dirty} (h : stealFrom (drawn v) c (firstVictim v d) x dv d = .error z) :
    popQueue s c x d auto = .error z := by
  rw [popQueue_steals hv he ha hk hvs hd hne, h]
  rfl

theorem popQueue_stolen {t : State} {m : Nat} (h : stealFrom (drawn v) c (firstVictim v d) x dv d = .ok (t, m))
    (hm : m ≠ 0) (ht : tqGet t c x = rest ++ [e]) :
    popQueue s c x d auto = (tqStore t c x d rest).map fun t => (t, some e, 2) := by
  rw [popQueue_steals hv he ha hk hvs hd hne, h]
  simp only [Except.bind, hm, if_false, hk, ht, takeEntry_deque]

end

end

/-! ### The words (R269) -/

/-- A word that closes its region and may act does what its body says. -/
theorem closingWord_acts {srcs : List SReg} {body : State → Did} {s : State} (h : ReadyToClose s srcs) :
    scalarWord .closing srcs body s = (body s).out true s := by
  obtain ⟨hready, hdrained, hun⟩ := h
  exact scalarWord_acts hready (fun _ => rfl) (fun _ => hun) (fun _ => hdrained)

/-- A word that has set a register has completed. -/
theorem out_done_setS (s t : State) (k : SReg) (x : Word) :
    Did.out true s (.done (t.setS k x) none) = .next (issued t (t.withReg k x) (s.me.pc + 4) true) := by
  simp only [out_done, setS_eq, State.setMe_eq, State.me_setWarp_cur, issued_setWarp, Option.getD_none]

@[simp] theorem andThen_error {α : Type} (y : Nat × List Dirty) (s : State) (k : α → Did) :
    AreaOut.andThen (.error y) s k = .stops (parkLog s y.1 y.2) := rfl

@[simp] theorem andThen_ok {α : Type} (y : α) (s : State) (k : α → Did) : AreaOut.andThen (.ok y) s k = k y := rfl

theorem room_eq_zero {d : TqDesc} {es : List (BitVec 256)} : d.room es = 0 ↔ 256 + d.cap ≤ es.length :=
  Nat.sub_eq_zero_iff_le

section
variable {s u v t : State} {k a b : SReg} {x : Nat} {d : TqDesc} {p : Spot} {bs : List Byte} (h : ReadyToClose s [a, b])
include h

/-! #### QPUSH -/

section
variable (hl : loadAt s .read (s.sreg b) 32 = (u, .ok (p, bs)))
include hl

theorem qpush_refused (hn : openHandle u u.myCtx (s.sreg a) 1 = none) :
    exec (.qpush k a b) s = raiseScalar s u (.plain cQUEUE_RIGHTS) s.me.pc [] false := by
  simp only [exec, execQpush, closingWord_acts h, hl, hn]
  rfl

variable (ho : openHandle u u.myCtx (s.sreg a) 1 = some (x, d))
include ho

theorem qpush_blocked {y : Nat × List Dirty} (hv : bringIn u u.myCtx x d = .error y) :
    exec (.qpush k a b) s = .next (parkLog u y.1 y.2) := by
  simp only [exec, execQpush, closingWord_acts h, hl, ho, hv, andThen_error, out_stops]

variable (hv : bringIn u u.myCtx x d = .ok v)
include hv

theorem qpush_full (hfull : 256 + d.cap ≤ (tqGet u u.myCtx x).length) :
    exec (.qpush k a b) s = .next (issued v (v.withReg k 1) (s.me.pc + 4) true) := by
  simp only [exec, execQpush, closingWord_acts h, hl, ho, hv, andThen_ok, room_eq_zero.mpr hfull, if_true, out_done_setS]

variable (hroom : (tqGet u u.myCtx x).length < 256 + d.cap)
include hroom

theorem qpush_appends (ht : tqStore v u.myCtx x d (tqGet u u.myCtx x ++ [BitVec.ofNat 256 (leNat bs)]) = .ok t) :
    exec (.qpush k a b) s = .next (issued t (t.withReg k 0) (s.me.pc + 4) true) := by
  have hr : d.room (tqGet u u.myCtx x) ≠ 0 := fun h => absurd (room_eq_zero.mp h) (Nat.not_le.mpr hroom)
  simp only [exec, execQpush, closingWord_acts h, hl, ho, hv, andThen_ok, hr, if_false, ht, out_done_setS]

theorem qpush_append_blocked {y : Nat × List Dirty}
    (ht : tqStore v u.myCtx x d (tqGet u u.myCtx x ++ [BitVec.ofNat 256 (leNat bs)]) = .error y) :
    exec (.qpush k a b) s = .next (parkLog u y.1 y.2) := by
  have hr : d.room (tqGet u u.myCtx x) ≠ 0 := fun h => absurd (room_eq_zero.mp h) (Nat.not_le.mpr hroom)
  simp only [exec, execQpush, closingWord_acts h, hl, ho, hv, andThen_ok, hr, if_false, ht, andThen_error, out_stops]

end

/-! #### QPOP -/

section
variable {auto : Bool} (hs : storeAt s (s.sreg b) 32 = (u, .ok p))
include hs

theorem qpop_refused (hn : openHandle u u.myCtx (s.sreg a) (if auto then rightDeq + rightEnq else rightDeq) = none) :
    exec (.qpop k a b auto) s = raiseScalar s u (.plain cQUEUE_RIGHTS) s.me.pc [] false := by
  simp only [exec, execQpop, closingWord_acts h, hs, hn]
  rfl

variable (ho : openHandle u u.myCtx (s.sreg a) (if auto then rightDeq + rightEnq else rightDeq) = some (x, d))
include ho

theorem qpop_blocked {y : Nat × List Dirty} (hp : popQueue u u.myCtx x d auto = .error y) :
    exec (.qpop k a b auto) s = .next (parkLog u y.1 y.2) := by
  simp only [exec, execQpop, closingWord_acts h, hs, ho, hp, andThen_error, out_stops]

theorem qpop_empty {status : Word} (hp : popQueue u u.myCtx x d auto = .ok (t, none, status)) :
    exec (.qpop k a b auto) s = .next (issued t (t.withReg k status) (s.me.pc + 4) true) := by
  simp only [exec, execQpop, closingWord_acts h, hs, ho, hp, andThen_ok, out_done_setS]

/-- An entry that QPOP takes from a queue: its overflow area is written first, then the entry where `b` says. -/
theorem qpop_takes {w : State} {e : BitVec 256} {rest : List (BitVec 256)} {status : Word}
    (hp : popQueue u u.myCtx x d auto = (tqStore w u.myCtx x d rest).map fun t => (t, some e, status)) :
    (∀ y, tqStore w u.myCtx x d rest = .error y → exec (.qpop k a b auto) s = .next (parkLog u y.1 y.2)) ∧
    ∀ t, tqStore w u.myCtx x d rest = .ok t → logShort t (storeDirty [(p, [])]) = none →
      exec (.qpop k a b auto) s = .next (issued (performStores t [(p, leBytes 32 e.toNat)])
        ((performStores t [(p, leBytes 32 e.toNat)]).withReg k status) (s.me.pc + 4) true) := by
  refine ⟨fun y hy => qpop_blocked h hs ho (by rw [hp, hy]; rfl), fun t ht hlog => ?_⟩
  rw [ht] at hp
  simp only [exec, execQpop, closingWord_acts h, hs, ho, hp, Except.map, andThen_ok, hlog, out_done_setS]

end

/-! #### QSTEAL -/

theorem qsteal_refused (hn : openHandle s s.myCtx (s.sreg a) 1 = none ∨ openHandle s s.myCtx (s.sreg b) 4 = none) :
    exec (.qsteal k a b) s = raised s (.plain cQUEUE_RIGHTS) := by
  simp only [exec, execQsteal, closingWord_acts h]
  rcases hn with hn | hn
  · simp only [hn]
    exact out_raises ..
  · simp only [hn]
    cases openHandle s s.myCtx (s.sreg a) 1 <;> exact out_raises ..

section
variable {y : Nat} {dv : TqDesc} (ho : openHandle s s.myCtx (s.sreg a) 1 = some (x, d))
  (hov : openHandle s s.myCtx (s.sreg b) 4 = some (y, dv)) (hd : d.kind = .deque) (hdv : dv.kind = .deque)
include ho hov hd hdv

theorem qsteal_blocked {z : Nat × List Dirty} (hv : bringIn s s.myCtx x d = .error z) :
    exec (.qsteal k a b) s = .next (parkLog s z.1 z.2) := by
  simp only [exec, execQsteal, closingWord_acts h, ho, hov, hd, hdv, and_self, if_true, hv, Except.bind, andThen_error,
    out_stops]

variable (hv : bringIn s s.myCtx x d = .ok v)
include hv

theorem qsteal_steal_blocked {z : Nat × List Dirty} (ht : stealFrom v s.myCtx y x dv d = .error z) :
    exec (.qsteal k a b) s = .next (parkLog s z.1 z.2) := by
  simp only [exec, execQsteal, closingWord_acts h, ho, hov, hd, hdv, and_self, if_true, hv, Except.bind, ht, andThen_error,
    out_stops]

theorem qsteal_steals {m : Nat} (ht : stealFrom v s.myCtx y x dv d = .ok (t, m)) :
    exec (.qsteal k a b) s = .next (issued t (t.withReg k (BitVec.ofNat 64 m)) (s.me.pc + 4) true) := by
  simp only [exec, execQsteal, closingWord_acts h, ho, hov, hd, hdv, and_self, if_true, hv, Except.bind, ht, andThen_ok,
    out_done_setS]

end

end

end Sys2Proof.Machine
namespace Sys2Proof.Certificates
open Sys2Proof.Machine

/-- Settles O40: each word by what its overflow area's writes come to, each write by what it keeps of the queues. -/
theorem taskQueueWords : Obligations.TaskQueueWords := by
  refine ⟨fun s u k a b x d h => ⟨?_, ?_, ?_, ?_, ?_, ?_⟩, ?_, ?_, ?_⟩
  · intro p bs hl ho
    exact ⟨fun v hv => ⟨fun hroom t ht => qpush_appends h hl ho hv hroom ht,
      fun hroom y hy => qpush_append_blocked h hl ho hv hroom hy, fun hfull => qpush_full h hl ho hv hfull⟩,
      fun y hy => qpush_blocked h hl ho hy⟩
  · intro p auto hs ho
    refine ⟨fun y hy => qpop_blocked h hs ho (popQueue_blocked hy), fun v hv => ⟨?_, ?_, ?_, ?_, ?_⟩⟩
    · intro e r he hk
      exact qpop_takes h hs ho (popQueue_takes hv (by rw [he, hk]; exact takeEntry_fifo e r))
    · intro e r he hk
      exact qpop_takes h hs ho (popQueue_takes hv (by rw [he, hk]; exact takeEntry_deque e r))
    · intro e l r he hk hl hr
      exact qpop_takes h hs ho (popQueue_takes hv (by rw [he, hk]; exact takeEntry_prio hl hr))
    · exact fun he hno => qpop_empty h hs ho (popQueue_empty hv he hno)
    · intro dv e rest he ha hk hvs core y w hd hne
      exact ⟨fun z hz => qpop_blocked h hs ho (popQueue_steal_blocked hv he ha hk hvs hd hne hz),
        fun t m ht hm hget => qpop_takes h hs ho (popQueue_stolen hv he ha hk hvs hd hne ht hm hget)⟩
  · rintro y dv rfl ho hov hd hdv
    exact ⟨fun z hz => qsteal_blocked h ho hov hd hdv hz, fun v hv =>
      ⟨fun z hz => qsteal_steal_blocked h ho hov hd hdv hv hz, fun t m ht => qsteal_steals h ho hov hd hdv hv ht⟩⟩
  · exact fun p bs hl hn => qpush_refused h hl hn
  · exact fun p auto hs hn => qpop_refused h hs hn
  · rintro rfl hn
    exact qsteal_refused h hn
  · exact fun s c x y d dv es hs => ⟨noRings_bringIn hs, noRings_tqStore hs, noRings_stealFrom hs⟩
  · intro s v t c x d es hv ht
    obtain ⟨hget, hwarps, hblocks⟩ := queueView_eq.mp (queueView_bringIn hv)
    obtain ⟨-, hwarps', hblocks'⟩ := queueView_eq.mp (queueView_tqStore ht)
    refine ⟨by rw [tqGet_tqStore ht, if_pos ⟨rfl, rfl⟩], fun c' y hne => ?_, hwarps'.trans hwarps, hblocks'.trans hblocks,
      fun hq hes => (mem_tqStore ht hes).trans (mem_bringIn hv hq)⟩
    rw [tqGet_tqStore ht, if_neg fun h => hne (by rw [h.1, h.2]), hget]
  · exact fun s t c y x m dv d hne h => stealFrom_moves hne h

end Sys2Proof.Certificates
end

section
/-!
Taking an exception (R167): the causes that stay pending, the slots that the walks of an entry ask for (R140), and the
asynchronous trap (R162).
-/
namespace Sys2Proof.Machine

/-! ### The causes that wait for each warp (R162) -/

/-- The asynchronous causes of every warp. -/
def asyncOf (s : State) : Nat → List (BitVec 8 × Word) := fun k => (s.warpAt k).async

theorem asyncOf_warps {s t : State} (h : t.warps = s.warps) : asyncOf t = asyncOf s := by
  funext k
  rw [asyncOf, asyncOf, State.warpAt, h]
  rfl

theorem asyncOf_setWarp {s : State} {k : Nat} {w : Warp} (h : w.async = (s.warpAt k).async) :
    asyncOf (s.setWarp k w) = asyncOf s := by
  funext j
  by_cases hj : j = k
  · rw [hj, asyncOf, State.warpAt_setWarp_same, h]
    rfl
  · rw [asyncOf, State.warpAt_setWarp_other _ _ hj]
    rfl

/-- What the landing of results and the repair of storage keep: every warp's causes, the dirty logs, the slots asked. -/
def entryView (s : State) := (asyncOf s, s.fns, s.asked)

theorem entryView_setWarp {s : State} {k : Nat} {w : Warp} (h : w.async = (s.warpAt k).async) :
    entryView (s.setWarp k w) = entryView s :=
  congrArg (·, s.fns, s.asked) (asyncOf_setWarp h)

theorem entryView_putCrew (s : State) (c : Nat) (cr : Crew) : entryView (s.putCrew c cr) = entryView s := by
  refine (foldl_keeps entryView (fun u x => ?_) cr.strokes (s.setCrew c cr)).trans rfl
  dsimp only
  split
  · rfl
  · exact entryView_setWarp rfl

theorem entryView_landWrite (s : State) (k : Nat) (x : LWrite) : entryView (landWrite s k x) = entryView s := by
  cases x with
  | vec r m v =>
    cases r with
    | slot j =>
      unfold landWrite
      dsimp only
      split
      · exact entryView_putCrew ..
      · rfl
    | main i => exact entryView_setWarp rfl
    | host j => exact entryView_setWarp rfl
    | oper i => exact entryView_setWarp rfl
  | pred i m bits => exact entryView_setWarp (by rw [Warp.setP]; split <;> rfl)
  | hv i v => exact entryView_setWarp rfl
  | bun i v => exact entryView_setWarp rfl

theorem entryView_shiftSites (s : State) (k : Nat) (x : LShift) : entryView (s.shiftSites k x) = entryView s := by
  unfold State.shiftSites
  split <;> rfl

theorem shiftL_async (w : Warp) (x : LShift) : (w.shiftL x).async = w.async := by
  unfold Warp.shiftL
  split <;> rfl

theorem entryView_landPending (s : State) (k : Nat) (p : Pending) : entryView (landPending s k p) = entryView s := by
  have hland := foldl_keeps (f := fun s x => landWrite s k x) entryView (fun u x => entryView_landWrite u k x) p.writes s
  unfold landPending
  exact (entryView_setWarp (by exact shiftL_async ..)).trans ((entryView_shiftSites ..).trans hland)

theorem entryView_landAll (s : State) (k : Nat) : entryView (landAll s k) = entryView s := by
  unfold landAll
  exact (entryView_setWarp (by rfl)).trans
    (foldl_keeps (f := fun s p => landPending s k p) entryView (fun u p => entryView_landPending u k p) (s.warpAt k).inflight s)

theorem entryView_repair (s : State) (site : EccSite) : entryView (repair s site) = entryView s := by
  cases site with
  | sreg k r =>
    unfold repair
    exact (entryView_setWarp (by rfl)).trans rfl
  | lreg k r m =>
    cases r with
    | l i =>
      unfold repair
      dsimp only
      exact (entryView_setWarp (by split <;> rfl)).trans rfl
    | v i => exact (entryView_landWrite ..).trans rfl
    | o i => exact (entryView_landWrite ..).trans rfl
    | p i => exact (entryView_landWrite ..).trans rfl
    | h i => exact (entryView_landWrite ..).trans rfl
    | k i => exact (entryView_landWrite ..).trans rfl
  | _ => rfl

theorem entryView_answered (s : State) (k : Nat) : entryView (s.answered k) = entryView s := by
  unfold State.answered
  dsimp only
  split <;> split <;> rfl

/-! ### The slots that walks ask for (R140) -/

theorem mem_put {α : Type} [DecidableEq α] {d x : α} {k : Nat} {e : Nat × α} : ∀ {t : Tbl α}, e ∈ Tbl.put d t k x →
    e ∈ t ∨ e = (k, x)
  | [], h => by
    unfold Tbl.put at h
    split at h
    · cases h
    · exact .inr (List.mem_singleton.mp h)
  | (j, y) :: r, h => by
    unfold Tbl.put at h
    split at h
    · rcases List.mem_cons.mp h with rfl | h
      · exact .inl List.mem_cons_self
      · exact (mem_put h).imp (List.mem_cons_of_mem _) id
    · split at h
      · split at h
        · exact .inl (List.mem_cons_of_mem _ ((List.dropWhile_sublist _).subset h))
        · rcases List.mem_cons.mp h with rfl | h
          · exact .inr rfl
          · exact .inl (List.mem_cons_of_mem _ h)
      · split at h
        · exact .inl h
        · rcases List.mem_cons.mp h with rfl | h
          · exact .inr rfl
          · exact .inl h

/-- The slots asked are of one purse alone. -/
def AskedAt (p : Nat) (s : State) : Prop := ∀ e ∈ s.asked, e.1 = p

/-- An issuer whose walks, if any, draw on the page-walker purse of a domain. -/
def WalksAt (d : Nat) (w : Who) : Prop := ∀ e ∈ w.walker, e = d

theorem askedAt_eq {p : Nat} {s t : State} (h : t.asked = s.asked) (hs : AskedAt p s) : AskedAt p t := fun e he =>
  hs e (h ▸ he)

section
variable {d : Nat} {s : State} (hs : AskedAt (purseOf d walkerPurse) s)

theorem asked_tlbFill (w : Who) (va : Nat) (x : Found) (gone : Bool) : (tlbFill s w va x gone).asked = s.asked := by
  unfold tlbFill
  dsimp only
  split
  · rfl
  · split <;> rfl

theorem asked_pickHeld (l : List (Except WalkErr Found × Bool)) (s : State) : (pickHeld l s).1.asked = s.asked := by
  induction l generalizing s with
  | nil => rfl
  | cons x r ih =>
    unfold pickHeld
    dsimp only
    split
    · rfl
    · exact ih _

theorem asked_lookup (w : Who) (a : Acc) (va : Nat) : (lookup s w a va).1.asked = s.asked := by
  unfold lookup
  dsimp only
  split
  · next e _ =>
    have hpick := asked_pickHeld ((e.choices s va (walkBoth s w.ctx va)).filter fun x => !agrees x.1 (walkBoth s w.ctx va) a) s
    split
    · next h => rwa [h] at hpick
    · next h => rwa [h] at hpick
  · rfl

include hs

theorem askedAt_askWalk {w : Who} (hw : WalksAt d w) (x : Source) : AskedAt (purseOf d walkerPurse) (askWalk s w x) := by
  unfold askWalk
  split
  · next e he =>
    obtain rfl := hw e he
    exact fun y hy => (mem_put hy).elim (hs y) fun h => h ▸ rfl
  · exact hs

theorem askedAt_translate {w : Who} (hw : WalksAt d w) (a : Acc) (va : Word) :
    AskedAt (purseOf d walkerPurse) (translate s w a va).1 := by
  have hwalk (x) : AskedAt (purseOf d walkerPurse) (askWalk (lookup s w a va.toNat).1 w x) :=
    askedAt_askWalk (askedAt_eq (asked_lookup ..) hs) hw x
  have hfill (x g y) : AskedAt (purseOf d walkerPurse) (tlbFill (askWalk (lookup s w a va.toNat).1 w y) w va.toNat x g) :=
    askedAt_eq (asked_tlbFill ..) (hwalk y)
  simp only [translate]
  split
  · exact hwalk _
  · exact hwalk _
  · exact hwalk _
  · exact hwalk _
  · split
    · exact hfill _ _ _
    · split
      · exact hfill _ _ _
      · split
        · exact hfill _ _ _
        · exact hfill _ _ _

theorem askedAt_resolve {w : Who} (hw : WalksAt d w) (a : Acc) (n : Nat) (va : Word) :
    AskedAt (purseOf d walkerPurse) (resolve s w a n va).1 := by
  have htr := askedAt_translate hs hw a va
  unfold resolve
  split
  · exact hs
  · split
    · exact hs
    · exact hs
    · exact hs
    · split
      · next h => rwa [h] at htr
      · next h =>
        rw [h] at htr
        split
        · exact htr
        · exact htr
        · exact htr
        · split
          · exact htr
          · exact htr
        · exact htr

theorem askedAt_spanFrom {w : Who} (hw : WalksAt d w) (a : Acc) (fuel : Nat) (va : Word) (n : Nat) :
    AskedAt (purseOf d walkerPurse) (spanFrom w a fuel s va n).1 := by
  induction fuel generalizing s va n with
  | zero => exact hs
  | succ fuel ih =>
    have htr := askedAt_translate hs hw a va
    unfold spanFrom
    split
    · exact hs
    · split
      · exact hs
      · split
        · next h => rwa [h] at htr
        · next t pa l h =>
          rw [h] at htr
          dsimp only
          split
          · exact htr
          · split
            · exact htr
            · have hrest := ih htr (va + BitVec.ofNat 64 (min n (16384 - va.toNat % 16384)))
                (n - min n (16384 - va.toNat % 16384))
              split
              · next h' => rwa [h'] at hrest
              · next h' => rwa [h'] at hrest

theorem askedAt_span {w : Who} (hw : WalksAt d w) (a : Acc) (va : Word) (n : Nat) :
    AskedAt (purseOf d walkerPurse) (span s w a va n).1 := by
  have hp := askedAt_spanFrom hs hw a (n / 16384 + 2) va n
  unfold span pieces
  split
  · next h => rwa [h] at hp
  · next h =>
    rw [h] at hp
    split
    · exact hp
    · exact hp

theorem askedAt_readSpan {w : Who} (hw : WalksAt d w) (va : Word) (n : Nat) :
    AskedAt (purseOf d walkerPurse) (readSpan s w va n).1 := by
  have hp := askedAt_span hs hw .read va n
  unfold readSpan readSpanBy
  split
  · next h => rwa [h] at hp
  · next h =>
    rw [h] at hp
    split
    · exact hp
    · exact hp

omit hs in
theorem asked_setDirty (ds : List Dirty) : (setDirty s ds).asked = s.asked := by
  have hlog (u : State) (vf gpa : Nat) : (dirtyLog u vf gpa).asked = u.asked := by
    simp only [dirtyLog]
    split
    · rfl
    · split <;> rfl
  have hset (u : State) (x : Dirty) : (Dirty.set u x).asked = u.asked := by
    simp only [Dirty.set]
    split <;> rfl
  exact (foldl_keeps State.asked hset ds _).trans (foldl_keeps State.asked (fun _ _ => hlog ..) (logPages s ds) s)

omit hs in
theorem writePieces_rest (ps : List (Nat × Nat × List Dirty)) (s : State) (bs : List Byte) :
    (writePieces s ps bs).asked = s.asked ∧ (writePieces s ps bs).warps = s.warps := by
  induction ps generalizing s bs with
  | nil => exact ⟨rfl, rfl⟩
  | cons p r ih => exact ⟨(ih ..).1.trans rfl, (ih ..).2.trans rfl⟩

theorem askedAt_writeSpan {w : Who} (hw : WalksAt d w) (va : Word) (bs : List Byte) :
    AskedAt (purseOf d walkerPurse) (writeSpan s w va bs).1 := by
  have hp := askedAt_span hs hw .write va bs.length
  unfold writeSpan
  split
  · next h => rwa [h] at hp
  · next h =>
    rw [h] at hp
    exact askedAt_eq ((writePieces_rest ..).1.trans (asked_setDirty _)) hp

omit hs in
theorem walksAt_whoPart (d ctx : Nat) : WalksAt d (whoPart ctx) := by
  have hnone : (whoPart ctx).walker = none := rfl
  simp [WalksAt, hnone]

omit hs in
theorem walksAt_whoOf (s : State) {k : Nat} (w : Warp) (sup : Bool) (hk : k < 64 * 384) :
    WalksAt (domainOf (coreOf k)) { whoOf s k w with sup := sup } := by
  have hcore : coreOf k < Config.numCores := Nat.div_lt_of_lt_mul hk
  simp [WalksAt, whoOf, Who.walker, hcore]

theorem askedAt_counterUpdate {w : Who} (hw : WalksAt d w) (ctr : Word) (bit : Option Nat) :
    AskedAt (purseOf d walkerPurse) (counterUpdate s w ctr bit).state := by
  have hres := askedAt_resolve hs hw .rw 8 ctr
  unfold counterUpdate
  split
  · next h =>
    rw [h] at hres
    split <;> exact hres
  · next h =>
    rw [h] at hres
    dsimp only
    split
    · exact hres
    · split
      · exact hres
      · exact askedAt_eq (asked_setDirty _) hres
  · next h => rwa [h] at hres

theorem askedAt_markCounter (ctx : Nat) (record ctr : Word) (bit grid : Nat) :
    AskedAt (purseOf d walkerPurse) (markCounter s ctx record ctr bit grid) := by
  have hup := askedAt_counterUpdate hs (walksAt_whoPart d ctx) ctr (some bit)
  unfold markCounter
  split
  · exact hs
  · split
    · next h => rwa [h] at hup
    · next h =>
      rw [h] at hup
      unfold pendCounter
      dsimp only
      split <;> exact hup
    · next h =>
      rw [h] at hup
      exact hup

theorem askedAt_killBlock (b : Nat) (cause : Cause) (epc : Word) (addr : Option Word) :
    AskedAt (purseOf d walkerPurse) (killBlock s b cause epc addr) := by
  unfold killBlock
  split
  · exact hs
  · dsimp only
    exact askedAt_markCounter (s := (stopBlock s b false).log ..) (askedAt_eq (s := s) rfl hs) _ _ _ _ _

end

/-! ### The parts of an entry (R167) -/

theorem asyncOf_walk {s t : State} (h : walkRest t = walkRest s) : asyncOf t = asyncOf s :=
  asyncOf_warps (congrArg State.warps h :)

theorem asyncOf_counterRest {s t : State} (h : counterRest t = counterRest s) : asyncOf t = asyncOf s :=
  asyncOf_warps (congrArg State.warps h :)

theorem asyncOf_writeSpan (s : State) (w : Who) (va : Word) (bs : List Byte) :
    asyncOf (writeSpan s w va bs).1 = asyncOf s := by
  have hp := asyncOf_walk (walkRest_span s w .write va bs.length)
  unfold writeSpan
  split
  · next h => rwa [h] at hp
  · next h =>
    rw [h] at hp
    exact (asyncOf_warps (writePieces_rest ..).2).trans ((asyncOf_counterRest (counterRest_setDirty ..)).trans hp)

theorem asyncOf_killBlock (s : State) (b : Nat) (cause : Cause) (epc : Word) (addr : Option Word) :
    asyncOf (killBlock s b cause epc addr) = asyncOf s := by
  unfold killBlock
  split
  · rfl
  · exact (asyncOf_counterRest (counterRest_markCounter ..)).trans rfl

theorem asyncOf_park (s : State) (k : Nat) (kind : ParkKind) (r : TrapRec) : asyncOf (s.park k kind r) = asyncOf s := by
  have hset : asyncOf (s.setWarp k { s.warpAt k with parked := some (kind, r) }) = asyncOf s := asyncOf_setWarp rfl
  exact hset

theorem setS_async (w : Warp) (r : SReg) (x : Word) : (w.setS r x).async = w.async := by
  unfold Warp.setS
  split <;> rfl

theorem asyncOf_enterHandler (s : State) (k : Nat) (r : TrapRec) (cause : Cause) :
    asyncOf (enterHandler s k r cause) = asyncOf s := by
  simp only [enterHandler]
  split
  · exact asyncOf_killBlock ..
  · split
    · next h =>
      have hr := asyncOf_walk (walkRest_readSpan s { whoOf s k (s.warpAt k) with sup := true }
        ((s.ctxAt (s.gridOf (s.warpAt k).block).ctx).tvb + BitVec.ofNat 64 (8 * cause.toNat)) 8)
      rw [h] at hr
      exact (asyncOf_killBlock ..).trans hr
    · next u bs h =>
      have hr := asyncOf_walk (walkRest_readSpan s { whoOf s k (s.warpAt k) with sup := true }
        ((s.ctxAt (s.gridOf (s.warpAt k).block).ctx).tvb + BitVec.ofNat 64 (8 * cause.toNat)) 8)
      rw [h] at hr
      split
      · refine (asyncOf_setWarp (by exact setS_async ..)).trans (Eq.trans ?_ hr)
        split <;> rfl
      · exact (asyncOf_killBlock ..).trans hr

theorem askedAt_enterHandler {s : State} {k : Nat} (hk : k < 64 * 384)
    (hs : AskedAt (purseOf (domainOf (coreOf k)) walkerPurse) s) (r : TrapRec) (cause : Cause) :
    AskedAt (purseOf (domainOf (coreOf k)) walkerPurse) (enterHandler s k r cause) := by
  have hr := askedAt_readSpan hs (walksAt_whoOf s (s.warpAt k) true hk)
    ((s.ctxAt (s.gridOf (s.warpAt k).block).ctx).tvb + BitVec.ofNat 64 (8 * cause.toNat)) 8
  simp only [enterHandler]
  split
  · exact askedAt_killBlock hs _ _ _ _
  · split
    · next h =>
      rw [h] at hr
      exact askedAt_killBlock hr _ _ _ _
    · next u bs h =>
      rw [h] at hr
      split
      · split
        · exact hr
        · exact hr
      · exact askedAt_killBlock hr _ _ _ _

/-! ### The entry itself (R167) -/

/-- The warp of a trap that is about to be entered, its results landed. -/
def trapLanded (s : State) (k : Nat) (t : Trap) : State := t.sites.foldl repair (landAll s k)
def trapWarp (s : State) (k : Nat) (t : Trap) : Warp :=
  { (trapLanded s k t).warpAt k with cause := (if t.lane then 1#1 else 0#1) ++ t.r.cause, epc := t.epc }
/-- Where a trap's warp is saved, and what its handler returns by. -/
def trapAt (s : State) (k : Nat) (t : Trap) : Word :=
  trapArea (((trapLanded s k t).ctxAt ((trapLanded s k t).gridOf (trapWarp s k t).block).ctx).frb) k
def trapSaved (s : State) (k : Nat) (t : Trap) : TrapRec := trapRec (trapWarp s k t) t (trapAt s k t)
/-- The warp and the machine as the save area is written. -/
def trapQuiet (s : State) (k : Nat) (t : Trap) : Warp :=
  { trapWarp s k t with wait := .none, fault := none, laneFault := none, reads := [] }
def trapBefore (s : State) (k : Nat) (t : Trap) : State :=
  (((trapLanded s k t).setWarp k (trapQuiet s k t)).unlist k).answered k
/-- The write of the save area. -/
def trapWrite (s : State) (k : Nat) (t : Trap) : State × Except PartErr Unit :=
  writeSpan (trapBefore s k t) { whoOf (trapBefore s k t) k (trapQuiet s k t) with sup := true } (trapAt s k t)
    (trapBytes (trapQuiet s k t) (trapSaved s k t) (t.r.cause = cPAGE ∨ t.r.cause = cFMT_ABSENT) false)

/-- What is left of an entry once its save area is written, or cannot be. -/
def afterSave (s : State) (k : Nat) (t : Trap) : State × Except PartErr Unit → Option State
  | (_, .error (.logFull _)) => none
  | (u, .error (.raise _)) => some (killBlock u (trapQuiet s k t).block t.r.cause t.epc (some (trapAt s k t)))
  | (u, .ok ()) =>
    if t.r.cause = cPAGE ∨ t.r.cause = cFMT_ABSENT then
      some (u.park k (if t.r.cause = cPAGE then ParkKind.page else .format) (trapSaved s k t))
    else some (enterHandler u k (trapSaved s k t) t.r.cause)

theorem takeTrap_eq (s : State) (k : Nat) (t : Trap) : takeTrap s k t = afterSave s k t (trapWrite s k t) := by
  unfold takeTrap afterSave trapWrite trapBefore trapSaved trapQuiet trapAt trapWarp trapLanded
  dsimp only <;> rfl

end Sys2Proof.Machine
end

section
/-!
An asynchronous cause taken before the next word of its warp (R162): what the entry keeps, and what it pays (R140).
-/
namespace Sys2Proof.Machine

/-! ### What an entry keeps (R167) -/

section
variable {s : State} {k : Nat} {t : Trap}

theorem entryView_trapLanded : entryView (trapLanded s k t) = entryView s :=
  (foldl_keeps entryView entryView_repair t.sites (landAll s k)).trans (entryView_landAll s k)

theorem entryView_trapBefore : entryView (trapBefore s k t) = entryView s := by
  have hset : entryView ((trapLanded s k t).setWarp k (trapQuiet s k t)) = entryView (trapLanded s k t) :=
    entryView_setWarp (by rfl)
  have hlist (u : State) : entryView (u.unlist k) = entryView u := rfl
  exact (entryView_answered ..).trans ((hlist _).trans (hset.trans entryView_trapLanded))

theorem trapBefore_keeps : asyncOf (trapBefore s k t) = asyncOf s ∧ (trapBefore s k t).fns = s.fns ∧
    (trapBefore s k t).asked = s.asked := by
  have h := entryView_trapBefore (s := s) (k := k) (t := t)
  simpa only [entryView, Prod.mk.injEq] using h

theorem asyncOf_trapWrite : asyncOf (trapWrite s k t).1 = asyncOf s :=
  (asyncOf_writeSpan ..).trans trapBefore_keeps.1

/-- No cause that waits for a warp is lost or added as a trap is entered. -/
theorem asyncOf_takeTrap {u : State} (h : takeTrap s k t = some u) : asyncOf u = asyncOf s := by
  have hw := asyncOf_trapWrite (s := s) (k := k) (t := t)
  rw [takeTrap_eq] at h
  generalize trapWrite s k t = x at h hw
  obtain ⟨v, (r | vf) | ok⟩ := x
  · cases h
    exact (asyncOf_killBlock ..).trans hw
  · cases h
  · dsimp only [afterSave] at h
    split at h
    · cases h
      exact (asyncOf_park ..).trans hw
    · cases h
      exact (asyncOf_enterHandler ..).trans hw

theorem askedAt_trapWrite (hk : k < 64 * 384) (hs : AskedAt (purseOf (domainOf (coreOf k)) walkerPurse) s) :
    AskedAt (purseOf (domainOf (coreOf k)) walkerPurse) (trapWrite s k t).1 :=
  askedAt_writeSpan (askedAt_eq trapBefore_keeps.2.2 hs) (walksAt_whoOf _ _ true hk) _ _

/-- The walks of an entry draw on the page-walker purse of the warp's domain. -/
theorem askedAt_takeTrap {u : State} (hk : k < 64 * 384) (hs : AskedAt (purseOf (domainOf (coreOf k)) walkerPurse) s)
    (h : takeTrap s k t = some u) : AskedAt (purseOf (domainOf (coreOf k)) walkerPurse) u := by
  have hw := askedAt_trapWrite (t := t) hk hs
  rw [takeTrap_eq] at h
  generalize trapWrite s k t = x at h hw
  obtain ⟨v, (r | vf) | ok⟩ := x
  · cases h
    exact askedAt_killBlock hw _ _ _ _
  · cases h
  · dsimp only [afterSave] at h
    split at h
    · cases h
      exact hw
    · cases h
      exact askedAt_enterHandler hk hw _ _

/-- With no dirty log enabled nothing holds a write up (R81). -/
theorem writeSpan_unheld {u : State} (hu : NoRings u) (w : Who) (va : Word) (bs : List Byte) (vf : Nat) :
    (writeSpan u w va bs).2 ≠ .error (.logFull vf) := by
  have hwalk : walkRest (pieces u w .write va bs.length).1 = walkRest u := walkRest_spanFrom ..
  have hp : NoRings (pieces u w .write va bs.length).1 := noRings_of_fns (congrArg State.fns hwalk :) hu
  unfold writeSpan span
  generalize pieces u w .write va bs.length = x at hp
  obtain ⟨v, r | ps⟩ := x
  · simp
  · simp [noRings_logShort _ hp]

theorem takeTrap_unheld (hs : NoRings s) : ∃ u, takeTrap s k t = some u := by
  have hw : ∀ vf, (trapWrite s k t).2 ≠ .error (.logFull vf) := fun vf =>
    writeSpan_unheld (noRings_of_fns trapBefore_keeps.2.1 hs) _ _ _ vf
  rw [takeTrap_eq]
  generalize trapWrite s k t = x at hw
  obtain ⟨v, (r | vf) | ok⟩ := x
  · exact ⟨_, rfl⟩
  · exact absurd rfl (hw vf)
  · dsimp only [afterSave]
    split
    · exact ⟨_, rfl⟩
    · exact ⟨_, rfl⟩

end

/-! ### What a step pays (R140) -/

section
variable {s t u : State} {k : Nat}

theorem paidStep_asked (h : paidStep s t k = some u) : u.asked = [] := by
  unfold paidStep at h
  split at h
  · next hempty =>
    cases h
    exact List.isEmpty_iff.mp hempty
  · next hsome =>
    split at h
    · cases h
      have hpay : payBill t (stepBill s t k) = { spendBill t (stepBill s t k) with asked := [] } := if_neg hsome
      rw [hpay]
      rfl
    · cases h

theorem drawAhead_asked (h : drawAhead s t k = some u) : u.asked = s.asked := by
  obtain ⟨bill, drawn, rfl⟩ := drawAhead_some h
  exact foldl_keeps (f := fun s (e : Nat × Nat) => spendPurse s (e.1 / 8) (e.1 % 8) e.2) State.asked (fun _ _ => rfl) bill s

theorem payBill_warps (s : State) (bill : Tbl Nat) : (payBill s bill).warps = s.warps := by
  unfold payBill
  split
  · rfl
  · exact (spendBill_frame s bill).2.1

theorem asyncOf_paidStep (h : paidStep s t k = some u) : asyncOf u = asyncOf t := by
  obtain rfl | ⟨-, rfl⟩ := paidStep_some h
  · rfl
  · have hw := payBill_warps t (stepBill s t k)
    generalize payBill t (stepBill s t k) = v at hw
    have hk : t.warpAt k = v.warpAt k := by rw [State.warpAt, State.warpAt, hw]
    exact (asyncOf_setWarp (by rw [hk])).trans (asyncOf_warps hw)

/-- A purse that limits nothing has every bill of slots of its own. -/
theorem paidStep_unlimited {d : Nat} (hd : (s.domainAt d).active[3] = 0xFFFF) (ht : AskedAt (purseOf d walkerPurse) t) :
    ∃ u, paidStep s t k = some u := by
  have hopen : billOpen s (stepBill s t k) = true := by
    simp only [billOpen, List.all_eq_true, stepBill, owed, List.mem_map, forall_exists_index, and_imp]
    rintro _ e he rfl
    have hdom : e.1 / 8 = d ∧ e.1 % 8 = 3 := by
      rw [ht e he]
      show (8 * d + 3) / 8 = d ∧ (8 * d + 3) % 8 = 3
      omega
    simp [purseTakes, hdom.1, hdom.2, hd]
  unfold paidStep
  rw [if_pos hopen]
  split
  · exact ⟨_, rfl⟩
  · exact ⟨_, rfl⟩

end

/-! ### The step (R162) -/

/-- The trap of a cause that no word of its warp has raised. -/
def asyncTrap (c : Cause) (epc pc : Word) : Trap := ⟨.plain c, false, epc, pc, true, [], false⟩

/-- A warp that takes its oldest asynchronous cause now. -/
structure TakesAsync (s : State) (k : Nat) (c : Cause) (epc : Word) (rest : List (BitVec 8 × Word)) : Prop where
  async : (s.warpAt k).async = (c, epc) :: rest
  runs : (s.warpAt k).stat = .running
  user : (s.warpAt k).sup = false
  awake : (s.warpAt k).parked = none
  going : (s.blockAt (s.warpAt k).block).stopped = false
  first : syncFirst s (s.warpAt k) c = false

section
variable {s t u : State} {k : Nat} {c : Cause} {epc : Word} {rest : List (BitVec 8 × Word)}

/-- A machine whose step has asked for nothing yet, and the machine at the entry of the warp's oldest cause. -/
def atEntry (s : State) (k : Nat) (rest : List (BitVec 8 × Word)) : State :=
  State.setWarp { s with asked := [] } k { s.warpAt k with async := rest }

theorem atEntry_async : (atEntry s k rest).warpAt k = { s.warpAt k with async := rest } := State.warpAt_setWarp_same ..

/-- What a warp's entry comes to, once its trap is taken or cannot be. -/
def entered (s : State) (k : Nat) (t : Option State) : Option State :=
  t.bind fun t => (paidStep { s with asked := [] } t k).or (drawAhead { s with asked := [] } t k)

theorem TakesAsync.asyncFirst (h : TakesAsync s k c epc rest) : asyncFirst s (s.warpAt k) = true := by
  simp [Machine.asyncFirst, h.async, h.user, h.first]

theorem execTrapEntry_eq (h : TakesAsync s k c epc rest) : exec (.trapEntry k) s =
    enabledStep "TRAP_ENTRY" (entered s k (takeTrap (atEntry s k rest) k (asyncTrap c epc (s.warpAt k).pc))) := by
  have hgo : ((s.warpAt k).stat == .running && asyncFirst s (s.warpAt k) && (s.warpAt k).parked.isNone &&
      !(s.blockAt (s.warpAt k).block).stopped) = true := by simp [h.asyncFirst, h.runs, h.awake, h.going]
  simp only [exec, execTrapEntry, h.async, hgo, if_true, entered, atEntry, asyncTrap]
  generalize takeTrap _ k _ = x
  cases x with
  | none => rfl
  | some t =>
    dsimp only [Option.bind]
    generalize paidStep _ t k = y
    cases y <;> rfl

theorem entered_asked {x : Option State} (h : entered s k x = some u) : u.asked = [] := by
  obtain ⟨t, -, h⟩ := Option.bind_eq_some_iff.mp h
  rcases Option.or_eq_some_iff.mp h with hp | ⟨-, hd⟩
  · exact paidStep_asked hp
  · exact drawAhead_asked hd

theorem payTurn_enabled {x : Option State} (name : String) (hx : ∀ u, x = some u → u.asked = []) :
    payTurn s k (enabledStep name x) = enabledStep name x := by
  cases x with
  | none => rfl
  | some u =>
    have hpaid : paidStep s u k = some u := if_pos (List.isEmpty_iff.mpr (hx u rfl))
    simp only [enabledStep, payTurn, hpaid, ite_self]

/-- A warp's turn, when it takes its oldest asynchronous cause. -/
theorem TakesAsync.turnOf (h : TakesAsync s k c epc rest) : TakesAsync (s.turnOf k) k c epc rest :=
  ⟨h.async, h.runs, h.user, h.awake, h.going, h.first⟩

theorem warpTurn_takesAsync (h : TakesAsync s k c epc rest) (lane : Bool) :
    warpTurn s k lane = exec (.trapEntry k) (s.turnOf k) := by
  have hme : (s.turnOf k).me = s.warpAt k := rfl
  have hrun : canRun (s.turnOf k) = true := by
    have hgo : (s.turnOf k).blockAt = s.blockAt := rfl
    simp [canRun, hme, hgo, h.runs, h.awake, h.going]
  have hasync : asyncFirst (s.turnOf k) (s.turnOf k).me = true := h.turnOf.asyncFirst
  simp only [warpTurn, rawTurn, hrun, hasync, Bool.not_true, Bool.false_eq_true, if_false, if_true]
  rw [execTrapEntry_eq h.turnOf]
  exact payTurn_enabled _ fun u hu => entered_asked hu

theorem trapEntry_paid (h : TakesAsync s k c epc rest)
    (ht : takeTrap (atEntry s k rest) k (asyncTrap c epc (s.warpAt k).pc) = some t)
    (hp : paidStep { s with asked := [] } t k = some u) : exec (.trapEntry k) s = .next u ∧ (u.warpAt k).async = rest := by
  refine ⟨?_, ?_⟩
  · rw [execTrapEntry_eq h, ht, entered, Option.bind_some, hp, Option.some_or, enabledStep_some]
  · have hkeep := congrFun ((asyncOf_paidStep hp).trans (asyncOf_takeTrap ht)) k
    exact hkeep.trans (congrArg Warp.async atEntry_async)

theorem trapEntry_draws (h : TakesAsync s k c epc rest)
    (ht : takeTrap (atEntry s k rest) k (asyncTrap c epc (s.warpAt k).pc) = some t)
    (hp : paidStep { s with asked := [] } t k = none) (hd : drawAhead { s with asked := [] } t k = some u) :
    exec (.trapEntry k) s = .next u := by
  rw [execTrapEntry_eq h, ht, entered, Option.bind_some, hp, Option.none_or, hd, enabledStep_some]

theorem trapEntry_unheld (h : TakesAsync s k c epc rest) (hk : k < 64 * 384) (hr : NoRings s)
    (hd : (s.domainAt (domainOf (coreOf k))).active[3] = 0xFFFF) :
    ∃ t, exec (.trapEntry k) s = .next t ∧ (t.warpAt k).async = rest := by
  obtain ⟨t, ht⟩ := takeTrap_unheld (s := atEntry s k rest) (k := k) (t := asyncTrap c epc (s.warpAt k).pc)
    (noRings_of_fns rfl hr)
  have hasked : AskedAt (purseOf (domainOf (coreOf k)) walkerPurse) (atEntry s k rest) := by
    intro e he
    cases he
  obtain ⟨u, hu⟩ := paidStep_unlimited (s := { s with asked := [] }) (k := k) hd (askedAt_takeTrap hk hasked ht)
  exact ⟨u, trapEntry_paid h ht hu⟩

end

end Sys2Proof.Machine
namespace Sys2Proof.Certificates
open Sys2Proof.Machine

/-- Settles O21: the turn of a warp that takes its oldest asynchronous cause, what the entry keeps of the others, and
what it owes the purses. -/
theorem asynchronousTrap : Obligations.AsynchronousTrap := by
  intro s k c epc rest w ha hr hu hp hb hs
  have h : TakesAsync s k c epc rest := ⟨ha, hr, hu, hp, hb, hs⟩
  exact ⟨warpTurn_takesAsync h, fun t ht => ⟨fun u hu => trapEntry_paid h ht hu, fun u hp hd => trapEntry_draws h ht hp hd⟩,
    fun hk hn hd => trapEntry_unheld h hk hn hd⟩

end Sys2Proof.Certificates
end

section
/-!
Memory's form (R65) kept by the operations that all steps share: walks, landing results, dirty logs, counters, traps, and
the frame of a scalar word. An operation that writes no memory leaves it as it is (`…_mem`); one that writes it keeps its
form (`memOk_…`), its writes being `writeBytes` and `writePhys` alone. Each lemma unfolds one operation of the model and
leaves its branches to `grind`, with the lemmas of what the branches call.
-/
namespace Sys2Proof.Machine

/-! ### What leaves memory as it is -/

theorem setMe_mem (s : State) (w : Warp) : (s.setMe w).mem = s.mem := rfl
theorem log_mem (s : State) (ctx : Nat) (e : LogEntry) : (s.log ctx e).mem = s.mem := rfl
theorem setGrid_mem (s : State) (g : Nat) (x : Grid) : (s.setGrid g x).mem = s.mem := rfl
theorem setS_mem (s : State) (r : SReg) (x : Word) : (s.setS r x).mem = s.mem := rfl

theorem walk_mem {s t : State} (h : walkRest t = walkRest s) : t.mem = s.mem := (congrArg State.mem h :)

theorem resolve_mem (s : State) (w : Who) (a : Acc) (n : Nat) (va : Word) : (resolve s w a n va).1.mem = s.mem :=
  walk_mem (walkRest_resolve ..)
theorem pieces_mem (s : State) (w : Who) (a : Acc) (va : Word) (n : Nat) : (pieces s w a va n).1.mem = s.mem :=
  walk_mem (walkRest_spanFrom ..)
theorem span_mem (s : State) (w : Who) (a : Acc) (va : Word) (n : Nat) : (span s w a va n).1.mem = s.mem :=
  walk_mem (walkRest_span ..)

theorem readSpanBy_mem (look : State → Nat → Nat → List Byte) (s : State) (w : Who) (va : Word) (n : Nat) :
    (readSpanBy look s w va n).1.mem = s.mem := by
  unfold readSpanBy
  grind -ring -linarith -lia [span_mem]

theorem readSpan_mem (s : State) (w : Who) (va : Word) (n : Nat) : (readSpan s w va n).1.mem = s.mem := readSpanBy_mem ..
theorem seeSpan_mem (me : Warp) (s : State) (w : Who) (va : Word) (n : Nat) : (seeSpan me s w va n).1.mem = s.mem :=
  readSpanBy_mem ..

theorem fetchUnit_mem (s : State) (w : Who) (va : Word) : (fetchUnit s w va).1.mem = s.mem :=
  walk_mem (walkRest_fetchUnit ..)

theorem fetchUnits_mem (w : Who) (n : Nat) (s : State) (va : Word) : (fetchUnits w n s va).1.mem = s.mem := by
  induction n generalizing s va with
  | zero => rfl
  | succ n ih =>
    unfold fetchUnits
    grind -ring -linarith -lia [fetchUnit_mem]

theorem fetchLane_mem (s : State) (w : Who) (va : Word) : (fetchLane s w va).1.mem = s.mem := by
  unfold fetchLane unitsAfter
  grind -ring -linarith -lia [fetchUnit_mem, fetchUnits_mem]

theorem landWrite_mem (s : State) (k : Nat) (x : LWrite) : (landWrite s k x).mem = s.mem := by
  unfold landWrite
  grind -ring -linarith -lia [State.setWarp_mem, putCrew_mem]

theorem shiftSites_mem (s : State) (k : Nat) (x : LShift) : (s.shiftSites k x).mem = s.mem := by
  unfold State.shiftSites
  split <;> rfl

theorem landPending_mem (s : State) (k : Nat) (p : Pending) : (landPending s k p).mem = s.mem := by
  have hland := foldl_keeps (f := fun s x => landWrite s k x) State.mem (fun u x => landWrite_mem u k x) p.writes s
  unfold landPending
  exact (State.setWarp_mem ..).trans ((shiftSites_mem ..).trans hland)

theorem landAll_mem (s : State) (k : Nat) : (landAll s k).mem = s.mem :=
  foldl_keeps (f := fun s p => landPending s k p) State.mem (fun u p => landPending_mem u k p) (s.warpAt k).inflight s

theorem pendCounter_mem (s : State) (p : PendCtr) : (pendCounter s p).mem = s.mem := by
  unfold pendCounter
  dsimp only
  split <;> rfl

theorem stopBlock_mem (s : State) (b : Nat) (relaunch : Bool) : (stopBlock s b relaunch).mem = s.mem := rfl

theorem repair_mem (s : State) (site : EccSite) : (repair s site).mem = s.mem := by
  unfold repair
  grind -ring -linarith -lia [State.setCrew_mem, State.setWarp_mem, landWrite_mem]

theorem unlist_mem (s : State) (k : Nat) : (s.unlist k).mem = s.mem := rfl

theorem answered_mem (s : State) (k : Nat) : (s.answered k).mem = s.mem := by
  unfold State.answered
  grind -ring -linarith -lia

theorem park_mem (s : State) (k : Nat) (kind : ParkKind) (r : TrapRec) : (s.park k kind r).mem = s.mem := rfl

theorem retire_mem (s : State) (pc : Word) (next : Option Word) (closes : Bool) : (retire s pc next closes).mem = s.mem := rfl

/-! ### What writes memory -/

theorem memOk_writeSpan (s : State) (w : Who) (va : Word) (bs : List Byte) (h : s.memOk) : (writeSpan s w va bs).1.memOk := by
  unfold writeSpan
  grind -ring -linarith -lia [memOk_setDirty, memOk_writePieces, span_mem, State.memOk]

theorem memOk_counterUpdate (s : State) (w : Who) (ctr : Word) (bit : Option Nat) (h : s.memOk) :
    (counterUpdate s w ctr bit).state.memOk := by
  unfold counterUpdate
  grind -ring -linarith -lia [resolve_mem, memOk_setDirty, wf_writeBytes, State.memOk, CtrOut.state]

theorem memOk_markCounter (s : State) (ctx : Nat) (record ctr : Word) (bit grid : Nat) (h : s.memOk) :
    (markCounter s ctx record ctr bit grid).memOk := by
  unfold markCounter
  grind -ring -linarith -lia [log_mem, memOk_counterUpdate, pendCounter_mem, State.memOk, CtrOut.state]

theorem memOk_killBlock (s : State) (b : Nat) (cause : Cause) (epc : Word) (addr : Option Word) (h : s.memOk) :
    (killBlock s b cause epc addr).memOk := by
  unfold killBlock
  grind -ring -linarith -lia [log_mem, memOk_markCounter, stopBlock_mem, State.memOk]

theorem memOk_enterHandler (s : State) (k : Nat) (r : TrapRec) (cause : Cause) (h : s.memOk) :
    (enterHandler s k r cause).memOk := by
  unfold enterHandler
  grind -ring -linarith -lia [State.setBlock_mem, State.setWarp_mem, memOk_killBlock, readSpan_mem, State.memOk]

theorem memOk_trapBefore (s : State) (k : Nat) (t : Trap) (h : s.memOk) : (trapBefore s k t).memOk := by
  have hland : (trapLanded s k t).mem = s.mem := (foldl_keeps State.mem repair_mem ..).trans (landAll_mem s k)
  unfold trapBefore
  grind -ring -linarith -lia [State.setWarp_mem, answered_mem, unlist_mem, State.memOk]

/-- Taking an exception keeps memory's form (R167). -/
theorem memOk_takeTrap {s u : State} {k : Nat} {t : Trap} (e : takeTrap s k t = some u) (h : s.memOk) : u.memOk := by
  have hw : (trapWrite s k t).1.memOk := memOk_writeSpan _ _ _ _ (memOk_trapBefore s k t h)
  rw [takeTrap_eq] at e
  unfold afterSave at e
  grind -ring -linarith -lia [memOk_killBlock, memOk_enterHandler, park_mem, State.memOk]

theorem memOk_takeSync {s u : State} {k : Nat} {t : Trap} (e : takeSync s k t = some u) (h : s.memOk) : u.memOk := by
  unfold takeSync at e
  grind -ring -linarith -lia [State.setWarp_mem, memOk_takeTrap, State.memOk]

theorem memOk_endScratch (s : State) (k : Nat) (r : TrapRec) (h : s.memOk) : (endScratch s k r).memOk := by
  unfold endScratch
  grind -ring -linarith -lia [memOk_killBlock, stopBlock_mem, State.memOk]

theorem memOk_returnFrom {s u : State} {k : Nat} {r : TrapRec} {replay : Bool}
    (e : returnFrom s k r replay = .ok u) (h : s.memOk) : u.memOk := by
  unfold returnFrom at e
  grind -ring -linarith -lia [memOk_endScratch, readSpan_mem, State.setWarp_mem, State.memOk]

/-- The acting warp parked on a full dirty log, which its write has filled (R81). -/
theorem memOk_parkLog (s : State) (vf : Nat) (ds : List Dirty) (h : s.memOk) : (parkLog s vf ds).memOk := by
  unfold parkLog
  grind -ring -linarith -lia [State.setFn_mem, memOk_fillLog, park_mem, setMe_mem, State.memOk]

/-! ### Outcomes -/

/-- Where an instruction leads, memory has its form. -/
def OutCanon : Out → Prop
  | .next t => t.memOk
  | .fault _ | .refused _ => True

/-- Where a scalar word's effect leads, memory has its form. -/
def DidCanon : Did → Prop
  | .raises s _ | .stops s | .done s _ => s.memOk
  | .waits | .deadlocks | .traps .. => True

theorem canon_waits {s : State} (h : s.memOk) : OutCanon (waits s) := h

theorem canon_enabledStep {name : String} {x : Option State} (h : ∀ t ∈ x, t.memOk) : OutCanon (enabledStep name x) := by
  cases x with
  | none => trivial
  | some t => exact h t rfl

theorem canon_takeScalar {s s' : State} {x : ScalarFault} (h : s.memOk) (h' : s'.memOk) : OutCanon (takeScalar s s' x) := by
  unfold takeScalar
  grind -ring -linarith -lia [memOk_takeSync, canon_waits, setMe_mem, State.memOk, OutCanon]

theorem canon_raiseScalar {s s' : State} {r : Raise} {resume : Word} {sites : List EccSite} {atOnce : Bool} (h : s.memOk)
    (h' : s'.memOk) : OutCanon (raiseScalar s s' r resume sites atOnce) := by
  unfold raiseScalar
  grind -ring -linarith -lia [memOk_killBlock, canon_takeScalar, canon_waits, setMe_mem, State.memOk, OutCanon]

/-- A scalar word whose effect keeps memory's form keeps it. -/
theorem canon_scalarWord {kind : Kind} {srcs : List SReg} {body : State → Did} {s : State} (h : s.memOk)
    (hb : DidCanon (body s)) : OutCanon (scalarWord kind srcs body s) := by
  unfold scalarWord
  grind -ring -linarith -lia [memOk_killBlock, canon_raiseScalar, canon_waits, retire_mem, State.memOk, OutCanon, DidCanon]

theorem canon_takeLane {s s' : State} {epc : Word} {r : Raise} {sites : List EccSite} (h : s.memOk) (h' : s'.memOk) :
    OutCanon (takeLane s s' epc r sites) := by
  unfold takeLane
  grind -ring -linarith -lia [memOk_takeSync, canon_waits, setMe_mem, State.memOk, OutCanon]

theorem canon_raiseLane {s s' : State} {epc : Word} {r : Raise} {sites : List EccSite} {popped : List (Nat × DqEntry)}
    (h : s.memOk) (h' : s'.memOk) : OutCanon (raiseLane s s' epc r sites popped) := by
  unfold raiseLane
  grind -ring -linarith -lia [canon_takeLane, setMe_mem, State.memOk, OutCanon]

end Sys2Proof.Machine
end

section
/-!
Memory's form (R65) kept by the effects of lane words: a calculus of the lane words' monad. An effect keeps the form when
it does so at every end that a word can have, a cause raised or a park among them; sequencing, reading the state and
setting it carry that along.
-/
namespace Sys2Proof.Machine

/-! ### The rules of the calculus -/

def LStop.memOk : LStop → Prop
  | .raises s .. | .stops s => s.memOk
  | .waits _ => True

/-- However a lane word's effect ends, memory has its form. -/
def EndsCanon {α : Type} : Except LStop (α × LSt) → Prop
  | .ok (_, t) => t.s.memOk
  | .error e => e.memOk

/-- A lane word's effect keeps memory's form. -/
def LaneCanon {α : Type} (m : LM α) : Prop := ∀ st, st.s.memOk → EndsCanon (m.run st)

section
variable {α β : Type}

theorem lane_pure (x : α) : LaneCanon (pure x : LM α) := fun _ h => h

theorem lane_bind {m : LM α} {f : α → LM β} (hm : LaneCanon m) (hf : ∀ x, LaneCanon (f x)) : LaneCanon (m >>= f) := by
  intro st h
  have hr := hm st h
  change EndsCanon ((m.run st).bind fun x => (f x.1).run x.2)
  cases he : m.run st with
  | error e => rwa [he] at hr
  | ok y =>
    rw [he] at hr
    exact hf y.1 y.2 hr

theorem lane_get_bind {f : LSt → LM β} (hf : ∀ st, st.s.memOk → LaneCanon (f st)) : LaneCanon (get >>= f) :=
  fun st h => hf st h st h

theorem lane_set {st : LSt} (h : st.s.memOk) : LaneCanon (set st : LM PUnit) := fun _ _ => h

theorem lane_throw {e : LStop} (h : e.memOk) : LaneCanon (throw e : LM α) := fun _ _ => h

theorem lane_modify {f : LSt → LSt} (hf : ∀ st, (f st).s = st.s) : LaneCanon (modify f : LM PUnit) := fun st h =>
  memOk_of_mem (congrArg State.mem (hf st)) h

theorem lane_wait : LaneCanon (wait : LM α) := fun _ _ => trivial

theorem lane_block : LaneCanon block := fun _ h => h

end

/-! ### Causes, and what operands wait for -/

theorem lane_note (r : Raise) (sites : List EccSite) : LaneCanon (note r sites) := by
  unfold note
  grind -ring -linarith -lia [lane_bind, lane_get_bind, lane_set, lane_pure, State.memOk]

theorem lane_sync : LaneCanon sync := by
  unfold sync
  grind -ring -linarith -lia [lane_wait, lane_bind, lane_get_bind, lane_set, lane_pure, State.memOk]

theorem lane_settle : LaneCanon settle := by
  unfold settle
  grind -ring -linarith -lia [lane_sync, lane_wait, lane_throw, LStop.memOk, lane_bind, lane_get_bind, lane_set,
    lane_pure, State.memOk]

theorem lane_noteHere (c : Cause) : LaneCanon (noteHere c) := by
  unfold noteHere
  grind -ring -linarith -lia [lane_note, lane_bind, lane_get_bind, lane_set, lane_pure, State.memOk]

theorem lane_noteStuck : LaneCanon noteStuck := by
  unfold noteStuck
  grind -ring -linarith -lia [lane_note, lane_bind, lane_get_bind, lane_set, lane_pure, State.memOk]

theorem lane_fail (r : Raise) : LaneCanon (fail r) := by
  unfold fail
  grind -ring -linarith -lia [lane_note, lane_settle, lane_bind, lane_get_bind, lane_set, lane_pure, State.memOk]

theorem lane_needActive : LaneCanon needActive := by
  unfold needActive
  grind -ring -linarith -lia [lane_bind, lane_get_bind, lane_set, lane_pure, State.memOk]

theorem lane_needE : LaneCanon needE := by
  unfold needE
  grind -ring -linarith -lia [lane_bind, lane_get_bind, lane_set, lane_pure, State.memOk]

theorem lane_needWhole : LaneCanon needWhole := by
  unfold needWhole
  grind -ring -linarith -lia [lane_bind, lane_get_bind, lane_set, lane_pure, State.memOk]

theorem lane_take {α : Type} (need : Need) (x : Seen α) : LaneCanon (take need x) := by
  unfold take
  grind -ring -linarith -lia [lane_block, lane_note, lane_bind, lane_get_bind, lane_set, lane_pure, State.memOk]

theorem lane_noteEcc (r : LReg) (row : Option (Nat × Nat)) (need : Need) (sites : List EccSite) :
    LaneCanon (noteEcc r row need sites) := by
  unfold noteEcc
  grind -ring -linarith -lia [lane_note, lane_bind, lane_get_bind, lane_set, lane_pure, State.memOk]

theorem lane_checkEcc (r : LReg) (row : Option (Nat × Nat)) (need : Need) : LaneCanon (checkEcc r row need) := by
  unfold checkEcc
  grind -ring -linarith -lia [lane_noteEcc, lane_bind, lane_get_bind, lane_set, lane_pure, State.memOk]

/-! ### Predicates -/

theorem lane_readPredIn (need : Need) (c : PCode) : LaneCanon (readPredIn need c) := by
  unfold readPredIn
  grind -ring -linarith -lia [lane_checkEcc, lane_take, lane_bind, lane_get_bind, lane_set, lane_pure, State.memOk]

theorem lane_readPred (c : PCode) : LaneCanon (readPred c) := by
  unfold readPred
  grind -ring -linarith -lia [lane_needActive, lane_readPredIn, lane_bind, lane_get_bind, lane_set, lane_pure,
      State.memOk]

/-! ### Vector names -/

theorem lane_readPresent (cr : Crew) (slot : Nat) (need : Need) : LaneCanon (readPresent cr slot need) := by
  unfold readPresent
  grind -ring -linarith -lia [lane_block, setMe_mem, lane_bind, lane_get_bind, lane_set, lane_pure, State.memOk]

theorem lane_readWindow (c k j : Nat) (need : Need) : LaneCanon (readWindow c k j need) := by
  unfold readWindow
  grind -ring -linarith -lia [lane_checkEcc, lane_noteHere, lane_readPresent, lane_take, lane_bind, lane_get_bind,
      lane_set, lane_pure, State.memOk]

theorem lane_readName (i : Nat) (need : Need) : LaneCanon (readName i need) := by
  unfold readName
  grind -ring -linarith -lia [lane_checkEcc, lane_noteHere, lane_readWindow, lane_take, lane_bind, lane_get_bind,
      lane_set, lane_pure, State.memOk]

theorem lane_nameTarget (i : Nat) : LaneCanon (nameTarget i) := by
  unfold nameTarget
  grind -ring -linarith -lia [lane_noteHere, lane_bind, lane_get_bind, lane_set, lane_pure, State.memOk]

/-! ### Queues, and operands -/

theorem lane_popDq (q : Nat) : LaneCanon (popDq q) := by
  unfold popDq
  grind -ring -linarith -lia [lane_block, lane_note, lane_noteStuck, setMe_mem, lane_bind, lane_get_bind, lane_set,
      lane_pure, State.memOk]

theorem lane_readOper (i : Nat) (need : Need) : LaneCanon (readOper i need) := by
  unfold readOper
  grind -ring -linarith -lia [lane_checkEcc, lane_take, lane_bind, lane_get_bind, lane_set, lane_pure, State.memOk]

theorem lane_readLast (i : Nat) (need : Need) : LaneCanon (readLast i need) := by
  unfold readLast
  grind -ring -linarith -lia [lane_noteEcc, lane_take, lane_bind, lane_get_bind, lane_set, lane_pure,
      State.memOk]

theorem lane_readOp (pair : Bool) (o : Opnd) (need : Need) : LaneCanon (readOp pair o need) := by
  unfold readOp
  grind -ring -linarith -lia [lane_popDq, lane_readLast, lane_readName, lane_readOper, lane_bind, lane_get_bind,
      lane_set, lane_pure, State.memOk]

theorem lane_readE (pair : Bool) (o : Opnd) : LaneCanon (readE pair o) := by
  unfold readE
  grind -ring -linarith -lia [lane_needActive, lane_readOp, lane_bind, lane_get_bind, lane_set, lane_pure, State.memOk]

theorem lane_readMoved (pair : Bool) (o : Opnd) : LaneCanon (readMoved pair o) := by
  unfold readMoved
  grind -ring -linarith -lia [lane_needE, lane_readOp, lane_bind, lane_get_bind, lane_set, lane_pure, State.memOk]

theorem lane_readB (pair : Bool) (b : BSrc) : LaneCanon (readB pair b) := by
  unfold readB
  grind -ring -linarith -lia [lane_readE, lane_bind, lane_get_bind, lane_set, lane_pure, State.memOk]

theorem lane_readFourth (c : LCtl) : LaneCanon (readFourth c) := by
  unfold readFourth
  grind -ring -linarith -lia [lane_readE, lane_bind, lane_get_bind, lane_set, lane_pure, State.memOk]

theorem lane_readHv (i : BitVec 3) : LaneCanon (readHv i) := by
  unfold readHv
  grind -ring -linarith -lia [lane_checkEcc, lane_needWhole, lane_take, lane_bind, lane_get_bind, lane_set, lane_pure,
      State.memOk]

theorem lane_readBun (i : BitVec 1) : LaneCanon (readBun i) := by
  unfold readBun
  grind -ring -linarith -lia [lane_checkEcc, lane_needWhole, lane_take, lane_bind, lane_get_bind, lane_set, lane_pure,
      State.memOk]

/-! ### Destinations -/

theorem lane_needXq : LaneCanon needXq := by
  unfold needXq
  grind -ring -linarith -lia [lane_block, lane_noteStuck, lane_bind, lane_get_bind, lane_set, lane_pure, State.memOk]

theorem lane_prepare (pair : Bool) (d : Opnd) : LaneCanon (prepare pair d) := by
  unfold prepare
  grind -ring -linarith -lia [lane_nameTarget, lane_needXq, lane_bind, lane_get_bind, lane_set, lane_pure, State.memOk]

theorem lane_emit (ty : BitVec 4) (pair : Bool) (dst : Dst) (val : Vals) : LaneCanon (emit ty pair dst val) := by
  unfold emit
  grind -ring -linarith -lia [setMe_mem, lane_bind, lane_get_bind, lane_set, lane_pure, State.memOk]

theorem lane_emitPred (t : PCode) (bits : BitVec 32) : LaneCanon (emitPred t bits) := by
  unfold emitPred
  grind -ring -linarith -lia [lane_bind, lane_get_bind, lane_set, lane_pure, State.memOk]

theorem lane_emitHv (i : BitVec 3) (x : HVec) : LaneCanon (emitHv i x) := lane_modify fun _ => rfl

theorem lane_emitBun (i : BitVec 1) (x : Bundle) : LaneCanon (emitBun i x) := lane_modify fun _ => rfl

theorem lane_raiseFlags (f : Flags) : LaneCanon (raiseFlags f) := lane_modify fun _ => rfl

/-! ### Shared by some words -/

theorem lane_noteGuard (c : LCtl) : LaneCanon (noteGuard c) := by
  unfold noteGuard
  grind -ring -linarith -lia [lane_readPred, lane_bind, lane_get_bind, lane_set, lane_pure, State.memOk]

theorem lane_emitPair (pt pf : PCode) (bits : Mask) : LaneCanon (emitPair pt pf bits) := by
  unfold emitPair
  grind -ring -linarith -lia [lane_emitPred, lane_bind, lane_get_bind, lane_set, lane_pure, State.memOk]

theorem lane_wordRm (c : LCtl) : LaneCanon (wordRm c) := by
  unfold wordRm
  grind -ring -linarith -lia [lane_bind, lane_get_bind, lane_set, lane_pure, State.memOk]

theorem lane_emitFlagged (ty : BitVec 4) (dst : Dst) (f : LaneIx → BitVec 64 × Flags) :
    LaneCanon (emitFlagged ty dst f) := by
  unfold emitFlagged
  grind -ring -linarith -lia [lane_emit, lane_raiseFlags, lane_bind, lane_get_bind, lane_set, lane_pure, State.memOk]

theorem lane_slotRecord (slot : BitVec 3) : LaneCanon (slotRecord slot) := by
  unfold slotRecord
  grind -ring -linarith -lia [lane_bind, lane_get_bind, lane_set, lane_pure, State.memOk]

theorem lane_failWhere (cause : Cause) (test : LaneIx → Bool) : LaneCanon (failWhere cause test) := by
  unfold failWhere
  grind -ring -linarith -lia [lane_fail, lane_bind, lane_get_bind, lane_set, lane_pure, State.memOk]

theorem lane_qCheck (ty : BitVec 4) (r : Word) (pos : BitVec 5) (b : Opnd) : LaneCanon (qCheck ty r pos b) := by
  unfold qCheck
  grind -ring -linarith -lia [lane_noteHere, lane_bind, lane_get_bind, lane_set, lane_pure, State.memOk]

theorem lane_tileT : LaneCanon tileT := by
  unfold tileT
  grind -ring -linarith -lia [lane_bind, lane_get_bind, lane_set, lane_pure, State.memOk]

theorem lane_needHv : LaneCanon needHv := by
  unfold needHv
  grind -ring -linarith -lia [lane_noteHere, lane_bind, lane_get_bind, lane_set, lane_pure, State.memOk]

theorem lane_fourNames (n : Nat) : LaneCanon (fourNames n) := by
  unfold fourNames
  grind -ring -linarith -lia [lane_noteHere, lane_bind, lane_get_bind, lane_set, lane_pure, State.memOk]

end Sys2Proof.Machine
end

section
/-!
Memory's form (R65) kept by lane words: their frame, and the accesses of memory that they share.
-/
namespace Sys2Proof.Machine

/-! ### Accesses -/

theorem cancelFrom_mem (s : State) (c j : Nat) : (cancelFrom s c j).mem = s.mem := by
  unfold cancelFrom
  exact foldl_keeps (f := fun s (x : Stroke) => s.setWarp x.warp Warp.absent) State.mem (fun _ _ => rfl) _ _

/-- Whatever room a store finds in its buffer, memory keeps its form. -/
def StoredCanon : Stored → Prop
  | .done s | .freed s => s.memOk
  | .full | .logFull .. => True

theorem stored_holdStore (core c : Nat) (x : Held) (fuel : Nat) (freed : Bool) (s : State) (h : s.memOk) :
    StoredCanon (holdStore core c x fuel freed s) := by
  induction fuel generalizing freed s with
  | zero => trivial
  | succ n ih =>
    have hcancel (c j) : (cancelFrom s c j).memOk := memOk_of_mem (cancelFrom_mem ..) h
    unfold holdStore
    grind -ring -linarith -lia [StoredCanon, State.setCrew_mem, State.memOk]

theorem stored_storeWord (s : State) (core : Nat) (w : Warp) (units : Nat) (ws : List (Spot × List Byte)) (h : s.memOk) :
    StoredCanon (storeWord s core w units ws) := by
  unfold storeWord
  grind -ring -linarith -lia [StoredCanon, stored_holdStore, memOk_performStores]

/-- Every step of a fold that keeps the memory of its machine leaves a machine with the same memory. -/
theorem foldl_fst_mem {α β : Type} {f : State × β → α → State × β} (hf : ∀ acc a, (f acc a).1.mem = acc.1.mem) (l : List α)
    (acc : State × β) : (l.foldl f acc).1.mem = acc.1.mem := foldl_keeps (fun acc : State × β => acc.1.mem) hf l acc

theorem lane_checkLanes (a : Acc) (n : Nat) (addr : LaneIx → Word) (refuse : Spot → Bool) :
    LaneCanon (checkLanes a n addr refuse) := by
  unfold checkLanes
  refine lane_get_bind fun st hst => ?_
  dsimp only
  generalize hx : List.foldl _ _ _ = x
  have hs : x.1.memOk := by
    refine memOk_of_mem ?_ hst
    rw [← hx]
    exact foldl_fst_mem (by grind -ring -linarith -lia [resolve_mem]) _ _
  obtain ⟨s, ok, bad⟩ := x
  grind -ring -linarith -lia [lane_set, lane_note, lane_settle, lane_bind, lane_pure]

theorem lane_hvSpots (a : Acc) (va : Word) : LaneCanon (hvSpots a va) := by
  unfold hvSpots
  refine lane_get_bind fun st hst => ?_
  dsimp only
  generalize hx : List.foldl _ _ _ = x
  have hs : x.1.memOk := by
    refine memOk_of_mem ?_ hst
    rw [← hx]
    exact foldl_fst_mem (by grind -ring -linarith -lia [resolve_mem]) _ _
  obtain ⟨s, ok, bad⟩ := x
  grind -ring -linarith -lia [lane_set, lane_note, lane_settle, lane_bind, lane_pure]

theorem lane_laneStore (units : Nat) (ws : List (Spot × List Byte)) : LaneCanon (laneStore units ws) := by
  unfold laneStore
  refine lane_get_bind fun st hst => ?_
  have hstore := stored_storeWord st.s (coreOf st.s.cur) st.s.me units ws hst
  grind -ring -linarith -lia [StoredCanon, lane_set, lane_wait, lane_throw, LStop.memOk, memOk_parkLog, setMe_mem, State.memOk]

/-! ### The frame of a lane word -/

theorem acts_memOk {k : LKind} {c : LCtl} {legal : Bool} {s : State} {st : LSt} (e : laneIssue k c legal s = .acts st)
    (h : s.memOk) : st.s.memOk := by
  unfold laneIssue at e
  dsimp only at e
  repeat' split at e
  all_goals cases e
  next heq => exact (congrArg EndsCanon heq).mp (lane_noteGuard c _ h)

theorem laneFinish_mem (k : LKind) (c : LCtl) (st : LSt) : (laneFinish k c st).mem = st.s.mem := rfl
theorem laneSkip_mem (c : LCtl) (s : State) : (laneSkip c s).mem = s.mem := rfl

theorem canon_laneWord {k : LKind} {c : LCtl} {legal : Bool} {body : LM Unit} {s : State} (h : s.memOk)
    (hb : LaneCanon body) : OutCanon (laneWord k c legal body s) := by
  have hbody (st : LSt) (hs : st.s.memOk) := hb st hs
  unfold laneWord waitsReading
  grind -ring -linarith -lia [acts_memOk, canon_waits, canon_raiseLane, laneFinish_mem, laneSkip_mem, setMe_mem, EndsCanon,
    LStop.memOk, OutCanon, State.memOk]

theorem canon_laneIllegal {c : LCtl} {s : State} (h : s.memOk) : OutCanon (laneIllegal c s) :=
  canon_laneWord h (lane_pure ())

end Sys2Proof.Machine
end

section
/-!
Memory's form (R65) kept by every lane word, each by the effects that its body sequences.
-/
namespace Sys2Proof.Machine

theorem setExm_mem (s : State) (d : Dispatch) (m : Mask) : (s.setExm d m).mem = s.mem := by
  unfold State.setExm
  dsimp only
  split <;> rfl

theorem seeShape_mem (s : State) (table : Word) (ix : Nat) : (seeShape s table ix).1.mem = s.mem := by
  unfold seeShape shapeIn
  grind -ring -linarith -lia [seeSpan_mem]

theorem memOk_atomLane (ty : BitVec 4) (op : AtomOp) (s : State) (p : Spot) (x expected : BitVec 64) (h : s.memOk) :
    (atomLane ty op s p x expected).1.memOk := by
  unfold atomLane
  dsimp only
  split
  · exact memOk_performStores _ _ h
  · exact h

theorem memOk_foldl_fst {α β : Type} {f : State × β → α → State × β} (hf : ∀ acc a, acc.1.memOk → (f acc a).1.memOk)
    (l : List α) {acc : State × β} (h : acc.1.memOk) : (l.foldl f acc).1.memOk := by
  induction l generalizing acc with
  | nil => exact h
  | cons a l ih => exact ih (hf acc a h)

theorem memOk_atomLanes (ty : BitVec 4) (op : AtomOp) (x expected : Vals) (s : State) (spots : List (LaneIx × Spot))
    (h : s.memOk) : (atomLanes ty op x expected s spots).1.memOk :=
  memOk_foldl_fst (fun acc y hacc => memOk_atomLane ty op acc.1 y.2 (x y.1) (expected y.1) hacc) spots h

section
variable {s : State} (hs : s.memOk)
include hs

theorem canon_laneBin {i : Instr} {c : LCtl} {d a : Opnd} {b : BSrc} {f : (w : Nat) → BitVec w → BitVec w → BitVec w} :
    OutCanon (laneBin i c d a b f s) :=
  canon_laneWord hs (by grind -ring -linarith -lia [lane_emit, lane_prepare, lane_readB, lane_readE, lane_settle,
      lane_bind, lane_get_bind, lane_set, lane_pure, State.memOk])

theorem canon_laneUn {i : Instr} {c : LCtl} {d a : Opnd} {f : (w : Nat) → BitVec w → BitVec w} :
    OutCanon (laneUn i c d a f s) :=
  canon_laneWord hs (by grind -ring -linarith -lia [lane_emit, lane_prepare, lane_readE, lane_settle, lane_bind,
      lane_get_bind, lane_set, lane_pure, State.memOk])

theorem canon_execVmad {c : LCtl} {d a : Opnd} {b : BSrc} {cc : Opnd} : OutCanon (execVmad c d a b cc s) :=
  canon_laneWord hs (by grind -ring -linarith -lia [lane_emit, lane_prepare, lane_readB, lane_readE, lane_readFourth,
      lane_settle, lane_bind, lane_get_bind, lane_set, lane_pure, State.memOk])

theorem canon_execVsel {c : LCtl} {d a b : Opnd} {p : PCode} : OutCanon (execVsel c d a b p s) :=
  canon_laneWord hs (by grind -ring -linarith -lia [lane_emit, lane_prepare, lane_readE, lane_readPred, lane_settle,
      lane_bind, lane_get_bind, lane_set, lane_pure, State.memOk])

theorem canon_execVmov {c : LCtl} {d a : Opnd} : OutCanon (execVmov c d a s) :=
  canon_laneWord hs (by grind -ring -linarith -lia [lane_emit, lane_prepare, lane_readE, lane_settle, lane_bind,
      lane_get_bind, lane_set, lane_pure, State.memOk])

theorem canon_execVli {c : LCtl} {d a : Opnd} {hi : Bool} {imm : BitVec 16} : OutCanon (execVli c d a hi imm s) :=
  canon_laneWord hs (by grind -ring -linarith -lia [lane_emit, lane_prepare, lane_readE, lane_settle, lane_bind,
      lane_get_bind, lane_set, lane_pure, State.memOk])

theorem canon_execVsr {c : LCtl} {d : Opnd} {sel : BitVec 3} : OutCanon (execVsr c d sel s) :=
  canon_laneWord hs (by grind -ring -linarith -lia [lane_emit, lane_prepare, lane_settle, lane_bind, lane_get_bind,
      lane_set, lane_pure, State.memOk])

theorem canon_execVcmp {c : LCtl} {a b : Opnd} {pt pf : PCode} {cond : BitVec 3} :
    OutCanon (execVcmp c a b pt pf cond s) :=
  canon_laneWord hs (by grind -ring -linarith -lia [lane_emitPair, lane_readE, lane_settle, lane_bind, lane_get_bind,
      lane_set, lane_pure, State.memOk])

theorem canon_lanePred {i : Instr} {c : LCtl} {t p q : PCode} {f : Mask → Mask → Mask} :
    OutCanon (lanePred i c t p q f s) :=
  canon_laneWord hs (by grind -ring -linarith -lia [lane_emitPred, lane_readPred, lane_settle, lane_bind, lane_get_bind,
      lane_set, lane_pure, State.memOk])

theorem canon_execPfromv {c : LCtl} {t : PCode} {a : Opnd} : OutCanon (execPfromv c t a s) :=
  canon_laneWord hs (by grind -ring -linarith -lia [lane_emitPred, lane_readE, lane_settle, lane_bind, lane_get_bind,
      lane_set, lane_pure, State.memOk])

theorem canon_execVfromp {c : LCtl} {d : Opnd} {p : PCode} {form : BitVec 2} : OutCanon (execVfromp c d p form s) :=
  canon_laneWord hs (by grind -ring -linarith -lia [lane_emit, lane_needWhole, lane_prepare, lane_readPredIn,
      lane_settle, lane_bind, lane_get_bind, lane_set, lane_pure, State.memOk])

theorem canon_execXmrd {c : LCtl} {d : Opnd} : OutCanon (execXmrd c d s) :=
  canon_laneWord hs (by grind -ring -linarith -lia [lane_emit, lane_prepare, lane_settle, lane_bind, lane_get_bind,
      lane_set, lane_pure, State.memOk])

theorem canon_execXmwr {c : LCtl} {a : Opnd} {p : PCode} {form : BitVec 2} : OutCanon (execXmwr c a p form s) :=
  canon_laneWord hs (by grind -ring -linarith -lia [lane_readE, lane_readPred, lane_settle, setExm_mem, lane_bind,
      lane_get_bind, lane_set, lane_pure, State.memOk])

theorem canon_fBin {i : Instr} {c : LCtl} {d a b : Opnd} {f : Fmt → Rm → Nat → Nat → Nat × Flags} :
    OutCanon (fBin i c d a b f s) :=
  canon_laneWord hs (by grind -ring -linarith -lia [lane_emitFlagged, lane_prepare, lane_readE, lane_settle,
      lane_wordRm, lane_bind, lane_get_bind, lane_set, lane_pure, State.memOk])

theorem canon_fMulAdd {i : Instr} {c : LCtl} {d a b cc : Opnd} : OutCanon (fMulAdd i c d a b cc s) :=
  canon_laneWord hs (by grind -ring -linarith -lia [lane_emitFlagged, lane_prepare, lane_readE, lane_readFourth,
      lane_settle, lane_wordRm, lane_bind, lane_get_bind, lane_set, lane_pure, State.memOk])

theorem canon_fUn {i : Instr} {lat : Nat} {c : LCtl} {d a : Opnd} {f : Rm → Nat → Nat × Flags} :
    OutCanon (fUn i lat c d a f s) :=
  canon_laneWord hs (by grind -ring -linarith -lia [lane_emitFlagged, lane_prepare, lane_readE, lane_settle,
      lane_wordRm, lane_bind, lane_get_bind, lane_set, lane_pure, State.memOk])

theorem canon_execHdot2 {c : LCtl} {d a b cc : Opnd} : OutCanon (execHdot2 c d a b cc s) :=
  canon_laneWord hs (by grind -ring -linarith -lia [lane_emitFlagged, lane_prepare, lane_readE, lane_settle,
      lane_wordRm, lane_bind, lane_get_bind, lane_set, lane_pure, State.memOk])

theorem canon_execFcmp {c : LCtl} {a b : Opnd} {pt pf : PCode} {cond : BitVec 3} :
    OutCanon (execFcmp c a b pt pf cond s) :=
  canon_laneWord hs (by grind -ring -linarith -lia [lane_emitPair, lane_raiseFlags, lane_readE, lane_settle, lane_bind,
      lane_get_bind, lane_set, lane_pure, State.memOk])

theorem canon_execCvt {c : LCtl} {d a b cc : Opnd} {src : BitVec 4} {sel : BitVec 2} {sat : Bool} :
    OutCanon (execCvt c d a b cc src sel sat s) :=
  canon_laneWord hs (by grind -ring -linarith -lia [lane_emitFlagged, lane_prepare, lane_readE, lane_readFourth,
      lane_settle, lane_wordRm, lane_bind, lane_get_bind, lane_set, lane_pure, State.memOk])

theorem canon_execQpack {c : LCtl} {d a b cc : Opnd} {slot : BitVec 3} {pos : BitVec 5} :
    OutCanon (execQpack c d a b cc slot pos s) := by
  refine canon_laneWord hs ?_
  refine lane_bind (lane_slotRecord _) fun r => lane_bind (lane_qCheck _ _ _ _) fun _ => ?_
  refine lane_bind (lane_prepare _ _) fun dst => lane_bind (lane_readE _ _) fun x => ?_
  extract_lets bits jp
  have hjp : ∀ y, LaneCanon (jp y) := fun y =>
    lane_bind (lane_readE _ _) fun z => lane_bind (lane_failWhere _ _) fun _ =>
      lane_get_bind fun _ _ => lane_emitFlagged _ _ _
  clear_value jp
  grind -ring -linarith -lia [lane_bind, lane_readE, lane_pure]

theorem canon_execQunpk {c : LCtl} {d a b : Opnd} {slot : BitVec 3} {pos : BitVec 5} :
    OutCanon (execQunpk c d a b slot pos s) :=
  canon_laneWord hs (by grind -ring -linarith -lia [lane_emitFlagged, lane_failWhere, lane_prepare, lane_qCheck,
      lane_readE, lane_slotRecord, lane_wordRm, lane_bind, lane_get_bind, lane_set, lane_pure, State.memOk])

theorem canon_execShfl {c : LCtl} {d a : Opnd} {b : BSrc} {mode : BitVec 2} : OutCanon (execShfl c d a b mode s) := by
  refine canon_laneWord hs ?_
  refine lane_bind (lane_prepare _ _) fun dst => lane_bind lane_tileT fun t => lane_get_bind fun st hst => ?_
  extract_lets jp
  have hjp : ∀ y, LaneCanon (jp y) := by
    intro first
    refine lane_bind (lane_readB _ _) fun y => lane_bind lane_sync fun _ => ?_
    extract_lets src need jp
    have hjp : ∀ y, LaneCanon (jp y) := fun x => lane_bind lane_settle fun _ => lane_emit _ _ _ _
    clear_value jp
    grind -ring -linarith -lia [lane_bind, lane_readOp, lane_pure]
  clear_value jp
  grind -ring -linarith -lia [lane_bind, lane_readMoved, lane_pure]

theorem canon_execVote {c : LCtl} {d : Opnd} {p : PCode} {kind : BitVec 2} {toBq : Bool} :
    OutCanon (execVote c d p kind toBq s) := by
  refine canon_laneWord hs ?_
  refine lane_bind lane_tileT fun t => ?_
  extract_lets jp
  have hjp : ∀ y, LaneCanon (jp y) := by
    intro dst
    refine lane_bind lane_needE fun need => lane_bind (lane_readPredIn _ _) fun q => lane_get_bind fun st hst => ?_
    extract_lets out jp
    have hjp : ∀ y, LaneCanon (jp y) := by
      intro _
      refine lane_bind lane_settle fun _ => ?_
      split
      · exact fun _ h => h
      · exact lane_emit _ _ _ _
    clear_value jp
    grind -ring -linarith -lia [lane_bind, lane_noteStuck, lane_block]
  clear_value jp
  grind -ring -linarith -lia [lane_bind, lane_prepare, lane_pure]

theorem canon_execVred {c : LCtl} {d a : Opnd} {op : BitVec 3} : OutCanon (execVred c d a op s) :=
  canon_laneWord hs (by grind -ring -linarith -lia [lane_emitFlagged, lane_prepare, lane_readMoved, lane_settle,
      lane_tileT, lane_bind, lane_get_bind, lane_set, lane_pure, State.memOk])

theorem canon_execVscan {c : LCtl} {d a : Opnd} {op : BitVec 3} {excl : Bool} : OutCanon (execVscan c d a op excl s) :=
  canon_laneWord hs (by grind -ring -linarith -lia [lane_emit, lane_prepare, lane_readMoved, lane_settle, lane_tileT,
      lane_bind, lane_get_bind, lane_set, lane_pure, State.memOk])

theorem canon_execVmovx {c : LCtl} {d a : Opnd} {p : PCode} {expand : Bool} : OutCanon (execVmovx c d a p expand s) :=
  canon_laneWord hs (by grind -ring -linarith -lia [lane_emit, lane_needE, lane_prepare, lane_readMoved,
      lane_readPredIn, lane_settle, lane_tileT, lane_bind, lane_get_bind, lane_set, lane_pure, State.memOk])

theorem canon_execVld {c : LCtl} {d a : Opnd} {m : LAddr} {size : BitVec 2} {off : BitVec 9} :
    OutCanon (execVld c d a m size off s) :=
  canon_laneWord hs (by grind -ring -linarith -lia [lane_checkLanes, lane_emit, lane_prepare, lane_readE, lane_sync,
      lane_wait, lane_bind, lane_get_bind, lane_set, lane_pure, State.memOk])

theorem canon_execVst {c : LCtl} {a cc : Opnd} {m : LAddr} {size : BitVec 2} {off : BitVec 9} :
    OutCanon (execVst c a cc m size off s) :=
  canon_laneWord hs (by grind -ring -linarith -lia [lane_checkLanes, lane_laneStore, lane_readE, lane_sync, lane_bind,
      lane_get_bind, lane_set, lane_pure, State.memOk])

theorem canon_execVatom {c : LCtl} {d a b cc : Opnd} {m : LAddr} {op : AtomOp} {off : BitVec 8} :
    OutCanon (execVatom c d a b cc m op off s) := by
  refine canon_laneWord hs ?_
  refine lane_bind (lane_prepare _ _) fun dst => lane_bind (lane_readE _ _) fun ix => ?_
  extract_lets n jp
  have hjp : ∀ y, LaneCanon (jp y) := by
    intro y
    refine lane_bind (lane_readE _ _) fun z => lane_bind lane_sync fun _ => lane_get_bind fun _ _ => ?_
    refine lane_bind (lane_checkLanes _ _ _ _) fun spots => lane_get_bind fun st hst => ?_
    extract_lets dirty jp
    have hjp : ∀ u, LaneCanon (jp u) := by
      intro _
      have hatoms := memOk_atomLanes c.ty op z y (setDirty st.s dirty) spots (memOk_setDirty _ _ hst)
      dsimp only [jp]
      generalize atomLanes c.ty op z y (setDirty st.s dirty) spots = x at hatoms
      exact lane_bind (lane_set hatoms) fun _ => lane_emit _ _ _ _
    clear_value jp
    grind -ring -linarith -lia [lane_bind, lane_throw, LStop.memOk, memOk_parkLog, setMe_mem, State.memOk]
  clear_value jp
  grind -ring -linarith -lia [lane_bind, lane_readE, lane_pure]

theorem canon_execTidx {c : LCtl} {d a : Opnd} {shape : BitVec 8} {dim : BitVec 3} :
    OutCanon (execTidx c d a shape dim s) := by
  refine canon_laneWord hs ?_
  refine lane_bind (lane_prepare _ _) fun dst => lane_bind (lane_readE _ _) fun ix => ?_
  refine lane_bind lane_sync fun _ => lane_get_bind fun st hst => ?_
  split
  · exact lane_bind lane_settle fun _ => lane_emit _ _ _ _
  · extract_lets w at_ jp
    have hjp : ∀ u, LaneCanon (jp u) := by
      intro _
      have hshape : (seeShape st.s (recordOf st.s st.s.me).shapes shape.toNat).1.memOk :=
        memOk_of_mem (seeShape_mem ..) hst
      dsimp only [jp]
      generalize seeShape st.s (recordOf st.s st.s.me).shapes shape.toNat = x at hshape
      refine lane_bind (lane_set hshape) fun _ => ?_
      grind -ring -linarith -lia [lane_bind, lane_fail, lane_wait, lane_settle, lane_emit]
    clear_value jp
    grind -ring -linarith -lia [lane_bind, lane_wait]

theorem canon_hvWord {k : LKind} {i : Instr} {c : LCtl} {body : LM Unit} (hb : LaneCanon body) :
    OutCanon (hvWord k i c body s) :=
  canon_laneWord hs (by grind -ring -linarith -lia [lane_needHv, lane_bind, lane_get_bind, lane_set, lane_pure,
      State.memOk])

theorem canon_execHfromv {c : LCtl} {a : Opnd} {h : BitVec 3} : OutCanon (execHfromv c a h s) :=
  canon_hvWord hs (by grind -ring -linarith -lia [lane_emitHv, lane_fourNames, lane_needWhole, lane_readName,
      lane_settle, lane_bind, lane_get_bind, lane_set, lane_pure, State.memOk])

theorem canon_execHtov {c : LCtl} {d : Opnd} {h : BitVec 3} : OutCanon (execHtov c d h s) :=
  canon_hvWord hs <| lane_bind (lane_fourNames _) fun _ => lane_bind (lane_readHv _) fun _ =>
    lane_bind lane_settle fun _ => lane_modify fun _ => rfl

theorem canon_execHld {c : LCtl} {a : Opnd} {base : BitVec 3} {scale : BitVec 2} {h : BitVec 3} {off : BitVec 13} :
    OutCanon (execHld c a base scale h off s) :=
  canon_hvWord hs (by grind -ring -linarith -lia [lane_emitHv, lane_hvSpots, lane_readE, lane_sync, lane_wait,
      lane_bind, lane_get_bind, lane_set, lane_pure, State.memOk])

theorem canon_execHst {c : LCtl} {a : Opnd} {base : BitVec 3} {scale : BitVec 2} {h : BitVec 3} {off : BitVec 13} :
    OutCanon (execHst c a base scale h off s) :=
  canon_hvWord hs (by grind -ring -linarith -lia [lane_hvSpots, lane_laneStore, lane_readE, lane_readHv, lane_sync,
      lane_bind, lane_get_bind, lane_set, lane_pure, State.memOk])

theorem canon_execHxor {c : LCtl} {hd ha hb : BitVec 3} : OutCanon (execHxor c hd ha hb s) :=
  canon_hvWord hs (by grind -ring -linarith -lia [lane_emitHv, lane_readHv, lane_settle, lane_bind, lane_get_bind,
      lane_set, lane_pure, State.memOk])

theorem canon_execHrot {c : LCtl} {hd ha : BitVec 3} {amt : BitVec 12} : OutCanon (execHrot c hd ha amt s) :=
  canon_hvWord hs (by grind -ring -linarith -lia [lane_emitHv, lane_readHv, lane_settle, lane_bind, lane_get_bind,
      lane_set, lane_pure, State.memOk])

theorem canon_execHbun {c : LCtl} {ha : BitVec 3} {k : BitVec 1} {wt : BitVec 3} {neg : Bool} :
    OutCanon (execHbun c ha k wt neg s) :=
  canon_hvWord hs (by grind -ring -linarith -lia [lane_emitBun, lane_raiseFlags, lane_readBun, lane_readHv, lane_settle,
      lane_bind, lane_get_bind, lane_set, lane_pure, State.memOk])

theorem canon_execHthr {c : LCtl} {hd tie : BitVec 3} {k : BitVec 1} : OutCanon (execHthr c hd tie k s) :=
  canon_hvWord hs (by grind -ring -linarith -lia [lane_emitHv, lane_readBun, lane_readHv, lane_settle, lane_bind,
      lane_get_bind, lane_set, lane_pure, State.memOk])

theorem canon_execHkclr {c : LCtl} {k : BitVec 1} : OutCanon (execHkclr c k s) :=
  canon_hvWord hs (by grind -ring -linarith -lia [lane_emitBun, lane_settle, lane_bind, lane_get_bind, lane_set,
      lane_pure, State.memOk])

theorem canon_execHdist {c : LCtl} {d : Opnd} {ha hb : BitVec 3} : OutCanon (execHdist c d ha hb s) :=
  canon_hvWord hs (by grind -ring -linarith -lia [lane_emit, lane_prepare, lane_readHv, lane_settle, lane_bind,
      lane_get_bind, lane_set, lane_pure, State.memOk])

theorem canon_execHnear {c : LCtl} {d a : Opnd} {b : BSrc} {h : BitVec 3} : OutCanon (execHnear c d a b h s) := by
  refine canon_hvWord hs <| lane_bind (lane_prepare _ _) fun dst => lane_bind (lane_readE _ _) fun x => ?_
  refine lane_bind (lane_readB _ _) fun n => lane_bind (lane_readHv _) fun q => lane_bind lane_sync fun _ => ?_
  refine lane_get_bind fun st hst => ?_
  have hgo (u : Vals) : LaneCanon (do
      settle
      emit c.ty false dst u) := lane_bind lane_settle fun _ => lane_emit _ _ _ _
  split
  · exact lane_bind lane_wait fun _ => hgo _
  · exact hgo _

theorem canon_execHput {c : LCtl} {b : BSrc} {h : BitVec 3} : OutCanon (execHput c b h s) := by
  refine canon_hvWord hs <| lane_bind (lane_readB _ _) fun n => lane_bind (lane_readHv _) fun x => ?_
  refine lane_bind lane_sync fun _ => lane_get_bind fun st hst => ?_
  extract_lets lead e cl u jpSet jp
  have hset : ∀ u, LaneCanon (jpSet u) := fun _ => lane_set hst
  have hjp : ∀ u, LaneCanon (jp u) := by
    intro _
    refine lane_bind lane_settle fun _ => ?_
    split
    · exact lane_bind lane_wait fun _ => hset ()
    · exact hset ()
  split
  · exact lane_bind (lane_note _ _) fun _ => hjp ()
  · exact hjp ()

end

end Sys2Proof.Machine
end

section
/-!
The operations of words, engines, strokes, launches and the platform that write no memory (R65): each leaves it as it is.
-/
namespace Sys2Proof.Machine

theorem putBar_mem (s : State) (b : Nat) (i : BitVec 4) (x : Barrier) : (putBar s b i x).mem = s.mem := rfl
theorem askSlots_mem (s : State) (p dom n : Nat) : (s.askSlots p dom n).mem = s.mem := rfl
theorem dropTlb_mem (s : State) (f : TlbEntry → Bool) : (dropTlb s f).mem = s.mem := rfl

theorem assignCtxid_mem (s : State) (ctx : Nat) (id : BitVec 16) : (assignCtxid s ctx id).mem = s.mem := by
  unfold assignCtxid
  grind -ring -linarith -lia [State.setCtx_mem, dropTlb_mem]

theorem exitStroke_mem (s : State) (k c n : Nat) : (exitStroke s k c n).mem = s.mem := rfl
theorem mapTlb_mem (s : State) (f : TlbEntry → TlbEntry) : (mapTlb s f).mem = s.mem := rfl

theorem chargeTable_mem (s : State) (ctx : Nat) : (chargeTable s ctx).mem = s.mem := by
  unfold chargeTable
  grind -ring -linarith -lia [State.setFn_mem]

theorem beginWait_mem (s : State) (x : WaitSt) : (beginWait s x).mem = s.mem := rfl

theorem releaseWarp_mem (s : State) (k : Nat) : (releaseWarp s k).mem = s.mem := by
  unfold releaseWarp
  grind -ring -linarith -lia [State.setWarp_mem]

theorem setHead_mem (s : State) (core q : Nat) (c : Cmd) : (setHead s core q c).mem = s.mem := rfl
theorem dropHead_mem (s : State) (core q : Nat) : (dropHead s core q).mem = s.mem := rfl
theorem touchBlock_mem (s : State) (b : Nat) : (touchBlock s b).mem = s.mem := rfl
theorem pushCmd_mem (s : State) (core q : Nat) (c : Cmd) : (pushCmd s core q c).mem = s.mem := rfl
theorem partStore_mem (s : State) (b off : Nat) (bs : List Byte) : (partStore s b off bs).mem = s.mem := rfl

theorem lowerBars_mem (s : State) (bar : Option Nat) (n block : Nat) (targets : List Nat) :
    (lowerBars s bar n block targets).mem = s.mem := by
  unfold lowerBars
  split
  · rfl
  · exact (touchBlock_mem ..).trans (foldl_keeps State.mem (fun u t => putBar_mem ..) ..)

theorem askEngine_mem (s : State) (core : Nat) (c : Cmd) (n : Nat) : (askEngine s core c n).mem = s.mem := by
  unfold askEngine
  grind -ring -linarith -lia [askSlots_mem]

theorem startWarp_mem (s : State) (k : Nat) (w : Warp) : (startWarp s k w).mem = s.mem := rfl
theorem startCrew_mem (s : State) (c : Nat) (r : CrewRec) (n : Nat) : (startCrew s c r n).mem = s.mem := rfl
theorem holdRecord_mem (s : State) (bs : List Byte) : (holdRecord s bs).mem = s.mem := rfl
theorem releaseSites_mem (s : State) (c : Nat) (cr : Crew) (k : Nat) : (State.releaseSites s c cr k).mem = s.mem := rfl
theorem fillSites_mem (s : State) (c : Nat) (cr : Crew) : (State.fillSites s c cr).mem = s.mem := rfl

theorem afterSites_mem (s : State) (c : Nat) (cr : Crew) (k : Nat) : (State.afterSites s c cr k).mem = s.mem := by
  unfold State.afterSites
  grind -ring -linarith -lia [fillSites_mem]

theorem breakAt_mem (s : State) (c b : Nat) : (breakAt s c b).mem = s.mem := by
  have hgone := foldl_keeps (f := fun s (x : Stroke) => s.setWarp x.warp Warp.absent) State.mem
    (fun u x => State.setWarp_mem ..) ((s.crewAt c).strokes.filter fun x => decide (b < x.k)) s
  unfold breakAt
  grind -ring -linarith -lia [fillSites_mem, putCrew_mem]

theorem launchStroke_mem (s : State) (c slot : Nat) : (launchStroke s c slot).mem = s.mem := rfl

theorem regroupEnds_mem (s : State) (k : Nat) (status : Word) : (regroupEnds s k status).mem = s.mem := by
  unfold regroupEnds
  grind -ring -linarith -lia [State.setWarp_mem]

theorem regroupFuse_mem (s : State) (x y : Nat) : (regroupFuse s x y).mem = s.mem := by
  unfold regroupFuse
  grind -ring -linarith -lia [State.setBlock_mem, State.setCore_mem, State.setWarp_mem, regroupEnds_mem]

theorem tqPut_mem (s : State) (ctx x : Nat) (es : List (BitVec 256)) : (tqPut s ctx x es).mem = s.mem := rfl
theorem setLq_mem (s : State) (n : Nat) (q : LaunchQ) : (setLq s n q).mem = s.mem := rfl

theorem startWarps_mem (r : LaunchRec) (b core : Nat) (id : BitVec 16) (n wid : Nat) (s : State) :
    (startWarps r b core id n wid s).mem = s.mem := by
  induction n generalizing wid s with
  | zero => rfl
  | succ n ih =>
    unfold startWarps
    split
    · exact (ih ..).trans (startWarp_mem ..)
    · rfl

theorem startBlock_mem (s : State) (g idx core : Nat) : (startBlock s g idx core).mem = s.mem := by
  unfold startBlock
  grind -ring -linarith -lia [State.setBlock_mem, State.setCluster_mem, startWarps_mem]

theorem releaseQueue_mem (s : State) (g : Nat) : (releaseQueue s g).mem = s.mem := by
  unfold releaseQueue
  grind -ring -linarith -lia [setLq_mem]

theorem freeBlockState_mem (s : State) (b : Nat) : (freeBlockState s b).mem = s.mem := by
  have hwarps := foldl_keeps (f := fun s k => s.setWarp k Warp.absent) State.mem (fun u k => State.setWarp_mem ..)
  have hcrews := foldl_keeps (f := fun s c => s.setCrew c Crew.absent) State.mem (fun u c => State.setCrew_mem ..)
  exact (hcrews ..).trans (hwarps ..)

theorem countExit_mem (s : State) (g idx : Nat) : (countExit s g idx).mem = s.mem := rfl

theorem settleBlock_mem (s : State) (b : Nat) : (settleBlock s b).mem = s.mem := by
  have hland := foldl_keeps (f := fun s (e : Nat × Warp) => landAll s e.1) State.mem fun u e => landAll_mem u e.1
  have hcancel := foldl_keeps
    (f := fun s (e : Nat × Crew) => if e.2.record.breakable then cancelFrom s e.1 e.2.commit else s) State.mem
    (fun u e => by split <;> simp [cancelFrom_mem])
  exact (hland ..).trans (hcancel ..)

theorem removeBlock_mem (s : State) (b : Nat) (x : Saved) : (removeBlock s b x).mem = s.mem := by
  unfold removeBlock
  grind -ring -linarith -lia [State.setCore_mem, freeBlockState_mem]

theorem discardBlock_mem (s : State) (b : Nat) : (discardBlock s b).mem = s.mem := by
  unfold discardBlock
  grind -ring -linarith -lia [State.setCore_mem, freeBlockState_mem]

theorem landSlot_mem (s : State) (k i j : Nat) : (landSlot s k i j).mem = s.mem :=
  (State.setWarp_mem ..).trans
    (foldl_keeps (f := fun s x => landWrite s k x) State.mem (fun u x => landWrite_mem u k x) ..)

theorem setSavedWarp_mem (s : State) (x : Saved) (k : Nat) (w : Warp) : (setSavedWarp s x k w).mem = s.mem := rfl
theorem resumeAfterFormat_mem (s : State) (k : Nat) (r : TrapRec) : (resumeAfterFormat s k r).mem = s.mem := rfl
theorem send_mem (s : State) (m : OutMsg) : (send s m).mem = s.mem := rfl

theorem putRing_mem (s : State) (vf : Nat) (f : Fn) : (putRing s vf f).mem = s.mem := by
  unfold putRing
  grind -ring -linarith -lia [State.setFn_mem, send_mem]

theorem wakeSaved_mem (s : State) (vf : Nat) : (wakeSaved s vf).mem = s.mem := rfl

theorem wakeWriter_mem (s : State) (k : Nat) : (wakeWriter s k).mem = s.mem := by
  unfold wakeWriter
  grind -ring -linarith -lia [State.setWarp_mem]

theorem wakeWriters_mem (s : State) (vf : Nat) : (wakeWriters s vf).mem = s.mem :=
  foldl_keeps (f := wakeWriter) State.mem wakeWriter_mem ..

theorem wakeNext_mem (s : State) (vf : Nat) : (wakeNext s vf).mem = s.mem := by
  unfold wakeNext
  grind -ring -linarith -lia [State.setFn_mem, wakeWriter_mem]

theorem drainLog_mem (s : State) (vf : Nat) : (drainLog s vf).mem = s.mem := by
  unfold drainLog
  grind -ring -linarith -lia [State.setFn_mem, wakeNext_mem]

theorem drainLogs_mem (s : State) : (drainLogs s).mem = s.mem := foldl_keeps (f := drainLog) State.mem drainLog_mem ..

theorem setErr_mem (s : State) (u : MemUnit) (x : ErrCnt) : (setErr s u x).mem = s.mem := rfl
theorem countError_mem (s : State) (u : MemUnit) (correctable : Bool) : (countError s u correctable).mem = s.mem := rfl

theorem applyError_mem (s : State) (e : EccSite) : (applyError s e).mem = s.mem := by
  unfold applyError
  grind -ring -linarith -lia [State.setCluster_mem, State.setCore_mem, log_mem, poisonSite_mem]

theorem requestUnit_mem (s : State) (unit : BitVec 4) (index : Nat) : (requestUnit s unit index).mem = s.mem := rfl

theorem replaceCore_mem (s : State) (core : Nat) : (replaceCore s core).mem = s.mem := by
  unfold replaceCore
  grind -ring -linarith -lia [State.setCore_mem]

theorem replaceRow_mem (s : State) (u : MemUnit) (stack : Nat) : (replaceRow s u stack).mem = s.mem := by
  unfold replaceRow
  grind -ring -linarith -lia

theorem writeFn_mem (s : State) (vf r : Nat) (x : Word) : (writeFn s vf r x).mem = s.mem := by
  unfold writeFn
  grind -ring -linarith -lia [State.setFn_mem, putRing_mem, wakeWriters_mem]

theorem turnOf_mem (s : State) (k : Nat) : (State.turnOf s k).mem = s.mem := rfl

theorem passOver_mem (ks : List Nat) (k : Nat) (s : State) : (passOver ks k s).mem = s.mem :=
  foldl_keeps State.mem (fun u j => by dsimp only; split <;> rfl) ks s

theorem noteReached_mem (s t : State) (k : Nat) (hit : Option (Nat × Nat × Bool)) :
    (noteReached s t k hit).mem = t.mem := by
  unfold noteReached
  grind -ring -linarith -lia

theorem setContext_mem (s : State) (c : Nat) (ptb tvb frb sdtb : Word) (ctxid : BitVec 16)
    (graph tqBase vf grace deadline : Nat) :
    (setContext s c ptb tvb frb sdtb ctxid graph tqBase vf grace deadline).mem = s.mem := by
  unfold setContext
  grind -ring -linarith -lia [State.setCtx_mem, assignCtxid_mem]

end Sys2Proof.Machine
end

section
/-!
Memory's form (R65) kept by every scalar word, by what its effect leads to.
-/
namespace Sys2Proof.Machine

/-! ### Accesses of the acting warp -/

theorem loadAt_mem (s : State) (a : Acc) (va : Word) (n : Nat) : (loadAt s a va n).1.mem = s.mem := by
  unfold loadAt
  grind -ring -linarith -lia [resolve_mem]

theorem storeAt_mem (s : State) (va : Word) (n : Nat) : (storeAt s va n).1.mem = s.mem := by
  unfold storeAt
  grind -ring -linarith -lia [resolve_mem]

theorem crewRecord_mem (s : State) (va : Word) : (crewRecord s va).1.mem = s.mem := by
  unfold crewRecord
  grind -ring -linarith -lia [loadAt_mem]

theorem loadEntry_mem (s : State) (k : Nat) (w : Warp) (who : Who) (uns : Bool) (n : Nat) (f : LaneIx → Word) :
    (loadEntry s k w who uns n f).1.mem = s.mem := by
  unfold loadEntry
  dsimp only
  generalize hx : List.foldl _ _ _ = x
  have hs : x.1.mem = s.mem := by
    rw [← hx]
    exact foldl_fst_mem (by grind -ring -linarith -lia [resolve_mem]) _ _
  obtain ⟨s', ok, bad⟩ := x
  grind -ring -linarith -lia

theorem spReg_write_mem {r : SpReg} {s t : State} {x : Word} (e : r.write s x = some t) : t.mem = s.mem := by
  unfold SpReg.write at e
  grind -ring -linarith -lia [setMe_mem, assignCtxid_mem, State.setCluster_mem, State.setCtx_mem, State.setDomain_mem]

theorem memOk_splinter (s : State) (ctx pte shift va table : Nat) (h : s.memOk) :
    (splinter s ctx pte shift va table).memOk := by
  unfold splinter
  extract_lets e bytes mem
  clear_value bytes
  exact wf_writeBytes _ _ (wf_writeBytes _ _ h)

theorem memOk_postAsync (s : State) (k : Nat) (cause : Cause) (epc : Word) (h : s.memOk) :
    (postAsync s k cause epc).memOk := by
  unfold postAsync
  grind -ring -linarith -lia [memOk_killBlock, State.setWarp_mem, State.memOk]

/-! ### Overflow areas of task queues -/

/-- Where a queue's overflow area took its write, the machine after it has memory's form. -/
def AreaCanon {α : Type} (st : α → State) (x : AreaOut α) : Prop := ∀ y, x = .ok y → (st y).memOk

theorem area_ok {α : Type} {st : α → State} {y : α} (h : (st y).memOk) : AreaCanon st (.ok y) := by
  rintro _ ⟨⟩
  exact h

theorem area_bind {α β : Type} {st : α → State} {st' : β → State} {x : AreaOut α} {f : α → AreaOut β}
    (hx : AreaCanon st x) (hf : ∀ y, (st y).memOk → AreaCanon st' (f y)) : AreaCanon st' (x.bind f) := by
  cases x with
  | error e => exact nofun
  | ok y => exact hf y (hx y rfl)

theorem area_map {α β : Type} {st : α → State} {st' : β → State} {x : AreaOut α} {f : α → β}
    (hx : AreaCanon st x) (hf : ∀ y, (st y).memOk → (st' (f y)).memOk) : AreaCanon st' (x.map f) := by
  cases x with
  | error e => exact nofun
  | ok y => exact area_ok (hf y (hx y rfl))

theorem area_areaWrite (s : State) (ctx : Nat) (d : TqDesc) (off : Nat) (bs : List Byte) (h : s.memOk) :
    AreaCanon id (areaWrite s ctx d off bs) := by
  unfold areaWrite AreaCanon
  grind -ring -linarith -lia [pieces_mem, memOk_writePieces, memOk_setDirty, State.memOk]

theorem area_bringIn (s : State) (ctx x : Nat) (d : TqDesc) (h : s.memOk) : AreaCanon id (bringIn s ctx x d) := by
  unfold bringIn
  refine area_map (st := id) ?_ fun t ht => ht
  grind -ring -linarith -lia [area_areaWrite, area_ok]

theorem area_tqStore (s : State) (ctx x : Nat) (d : TqDesc) (es : List (BitVec 256)) (h : s.memOk) :
    AreaCanon id (tqStore s ctx x d es) := area_areaWrite _ _ _ _ _ h

theorem area_stealFrom (s : State) (ctx victim thief : Nat) (dv d : TqDesc) (h : s.memOk) :
    AreaCanon Prod.fst (stealFrom s ctx victim thief dv d) :=
  area_bind (area_bringIn _ _ _ _ h) fun _ h =>
    area_bind (area_tqStore _ _ _ _ _ h) fun _ h => area_map (area_tqStore _ _ _ _ _ h) fun _ h => h

theorem area_probe (core ctx thief : Nat) (d : TqDesc) (n : Nat) (s : State) (h : s.memOk) :
    AreaCanon Prod.fst (probe s core ctx thief d n) := by
  induction n generalizing s with
  | zero => exact area_ok h
  | succ n ih =>
    have hdraw (c : Core) : (s.setCore core c).memOk := h
    unfold probe
    dsimp only
    split
    · exact ih _ h
    · split
      · exact area_bind (area_bringIn _ _ _ _ h) fun t ht => ih t ht
      · exact area_stealFrom _ _ _ _ _ _ h

theorem area_popQueue (s : State) (ctx x : Nat) (d : TqDesc) (auto : Bool) (h : s.memOk) :
    AreaCanon Prod.fst (popQueue s ctx x d auto) := by
  refine area_bind (area_bringIn _ _ _ _ h) fun t ht => ?_
  dsimp only [id] at ht
  split
  · exact area_map (area_tqStore _ _ _ _ _ ht) fun _ h => h
  · split
    · refine area_bind (area_probe _ _ _ _ _ _ ht) fun y hy => ?_
      obtain ⟨u, m⟩ := y
      dsimp only at hy ⊢
      split
      · exact area_ok hy
      · split
        · exact area_map (area_tqStore _ _ _ _ _ hy) fun _ h => h
        · exact area_ok hy
    · exact area_ok ht

theorem canon_andThen {α : Type} {st : α → State} {x : AreaOut α} {s : State} {k : α → Did} (hs : s.memOk)
    (hx : AreaCanon st x) (hk : ∀ y, (st y).memOk → DidCanon (k y)) : DidCanon (x.andThen s k) := by
  cases x with
  | error e => exact memOk_parkLog _ _ _ hs
  | ok y => exact hk y (hx y rfl)

/-! ### Parts of the words -/

theorem canon_storeBytes {s : State} {units : Nat} {ws : List (Spot × List Byte)} {k : State → Did} (hs : s.memOk)
    (hk : ∀ t, t.memOk → DidCanon (k t)) : DidCanon (storeBytes s units ws k) := by
  have hstore := stored_storeWord s (coreOf s.cur) s.me units ws hs
  unfold storeBytes
  split
  next s' e => exact hk s' (by rw [e] at hstore; exact hstore)
  next e => trivial
  next s' e => rw [e] at hstore; exact hstore
  next vf ds e => exact memOk_parkLog _ _ _ hs

theorem canon_queueWait {s : State} (q : SQueue) : DidCanon (queueWait s q) := by
  unfold queueWait
  split <;> trivial

theorem canon_dispatchAt {s : State} (a : Word) (hs : s.memOk) : DidCanon (dispatchAt s a) := by
  unfold dispatchAt
  grind -ring -linarith -lia [DidCanon, setMe_mem, State.memOk]

theorem canon_dqPush {s : State} {q : BitVec 2} {k : State → Did} (hk : DidCanon (k s)) :
    DidCanon (dqPush s q k) := by
  unfold dqPush
  grind -ring -linarith -lia [canon_queueWait, DidCanon]

theorem canon_tlbiWord {s s' : State} {f : TlbEntry → Bool} (hs : s'.memOk) : DidCanon (tlbiWord s f s') := by
  unfold tlbiWord
  grind -ring -linarith -lia [DidCanon]

theorem canon_barCheck {s : State} {b : BitVec 4} {illegal : Barrier → Bool} {k : Barrier → Did} (hs : s.memOk)
    (hk : ∀ x, DidCanon (k x)) : DidCanon (barCheck s b illegal k) := by
  unfold barCheck
  grind -ring -linarith -lia [DidCanon]

theorem canon_barWaiting {s : State} {b : BitVec 4} {k : State → Did} (hs : s.memOk) (hk : DidCanon (k s)) :
    DidCanon (barWaiting s b k) := by
  unfold barWaiting
  grind -ring -linarith -lia [DidCanon]

theorem canon_enqueue {s : State} (q : Nat) (c : Cmd) (hs : s.memOk) : DidCanon (enqueue s q c) := by
  unfold enqueue
  grind -ring -linarith -lia [DidCanon, pushCmd_mem, State.memOk]

theorem canon_cpyIssue {i : Instr} {s : State} {dst src : Word} {shape : Nat} {k : Word} {bare : Bool} {barn : Nat}
    {mc : Bool} {scope : BitVec 3} {ctr : Word} (hs : s.memOk) :
    DidCanon (cpyIssue i s dst src shape k bare barn mc scope ctr) := by
  unfold cpyIssue
  grind -ring -linarith -lia [DidCanon, canon_enqueue]

theorem canon_absentFormat {s : State} (c : Cmd) (hs : s.memOk) : DidCanon (absentFormat s c) := by
  unfold absentFormat
  grind -ring -linarith -lia [DidCanon, memOk_takeTrap, pushCmd_mem, setMe_mem, State.memOk]

theorem canon_ssIssue {s : State} {ok : Bool} {align : Nat} {b cw : Word} {c : Cmd} (hs : s.memOk) :
    DidCanon (ssIssue s ok align b cw c) := by
  unfold ssIssue
  grind -ring -linarith -lia [DidCanon, canon_enqueue]

/-! ### Words -/

section
variable {s : State} (hs : s.memOk)
include hs

theorem canon_legalWord {ok : Bool} {o : State → Out} (ho : OutCanon (o s)) : OutCanon (legalWord ok o s) := by
  unfold legalWord
  split
  · exact ho
  · exact canon_scalarWord hs hs

theorem canon_alu {d a b : SReg} {f : Word → Word → Word} : OutCanon (alu d a b f s) :=
  canon_scalarWord hs hs

theorem canon_aluI {d a : SReg} {f : Word → Word} : OutCanon (aluI d a f s) := canon_scalarWord hs hs

theorem canon_branchIf {a : SReg} {disp : BitVec 19} {test : Word → Bool} : OutCanon (branchIf a disp test s) :=
  canon_scalarWord hs hs

theorem canon_loadWord {d a : SReg} {i : BitVec 13} {n : Nat} {ext : Nat → Word} :
    OutCanon (loadWord d a i n ext s) :=
  canon_scalarWord hs (by grind -ring -linarith -lia [loadAt_mem, setS_mem, DidCanon, State.memOk])

theorem canon_storeWordAt {srcs : List SReg} {va : State → Word} {d : SReg} {n : Nat} :
    OutCanon (storeWordAt srcs va d n s) := by
  have hspot := memOk_of_mem (storeAt_mem s (va s) n) hs
  refine canon_scalarWord hs ?_
  split
  next s' r e => rw [e] at hspot; exact hspot
  next s' p e => exact canon_storeBytes (by rw [e] at hspot; exact hspot) fun t ht => ht

theorem canon_atomic {d a b : SReg} {op : AtomOp} : OutCanon (atomic d a b op s) := by
  have hload := memOk_of_mem (loadAt_mem s .rw (s.sreg a) 8) hs
  refine canon_scalarWord hs ?_
  split
  next s' r e => rw [e] at hload; exact hload
  next s' p bs e =>
    have hs' : s'.memOk := by rw [e] at hload; exact hload
    split
    · exact hs'
    · dsimp only
      split
      · exact hs'
      · exact canon_storeBytes hs' fun t ht => ht

theorem canon_branchBq {want : Bool} {disp : BitVec 19} : OutCanon (branchBq want disp s) :=
  canon_scalarWord hs (by grind -ring -linarith -lia [canon_queueWait, setMe_mem, DidCanon, State.memOk])

theorem canon_eret {replay : Bool} : OutCanon (eret replay s) := by
  refine canon_scalarWord hs ?_
  dsimp only
  split
  · split
    · exact hs
    next e => exact memOk_of_mem ((State.setBlock_mem ..).trans (setMe_mem ..)) (memOk_returnFrom e hs)
  · exact hs

theorem canon_supWord {srcs : List SReg} {body : State → Did} (hb : DidCanon (body s)) :
    OutCanon (supWord srcs body s) := by
  refine canon_scalarWord hs ?_
  split
  · exact hb
  · exact hs

theorem canon_strokeWord {body : State → Nat → Nat → Stroke → Did} (hb : ∀ c k x, DidCanon (body s c k x)) :
    OutCanon (strokeWord body s) := by
  refine canon_scalarWord hs ?_
  grind -ring -linarith -lia [DidCanon]

theorem canon_execLi {d : SReg} {i : BitVec 19} : OutCanon (execLi d i s) := canon_scalarWord hs hs
theorem canon_execNop : OutCanon (execNop s) := canon_scalarWord hs hs
theorem canon_execCall {a : SReg} {disp : BitVec 19} : OutCanon (execCall a disp s) := canon_scalarWord hs hs
theorem canon_execLoop {a : SReg} {disp : BitVec 19} : OutCanon (execLoop a disp s) := canon_scalarWord hs hs

theorem canon_execJr {d a : SReg} {i : BitVec 13} : OutCanon (execJr d a i s) :=
  canon_scalarWord hs (by grind -ring -linarith -lia [setS_mem, DidCanon, State.memOk])

theorem canon_execLda {d a : SReg} {size : BitVec 2} {sc : Scope} {rmt : Bool} : OutCanon (execLda d a size sc rmt s) :=
  canon_legalWord hs (canon_scalarWord hs (by grind -ring -linarith -lia [loadAt_mem, setS_mem, DidCanon, State.memOk]))

theorem canon_execStl {d a : SReg} {size : BitVec 2} {sc : Scope} {rmt : Bool} : OutCanon (execStl d a size sc rmt s) :=
  canon_legalWord hs (canon_storeWordAt hs)

theorem canon_execAtom {d a b : SReg} {op : AtomOp} {x4 : Scope} {rmt : Bool} : OutCanon (execAtom d a b op x4 rmt s) :=
  canon_legalWord hs (canon_atomic hs)

theorem canon_execAtoma {d a b : SReg} {op : AtomOp} {sc : Scope} {rmt : Bool} :
    OutCanon (execAtoma d a b op sc rmt s) := canon_legalWord hs (canon_atomic hs)

theorem canon_execAtoml {d a b : SReg} {op : AtomOp} {sc : Scope} {rmt : Bool} :
    OutCanon (execAtoml d a b op sc rmt s) := canon_legalWord hs (canon_atomic hs)

theorem canon_execAtomal {d a b : SReg} {op : AtomOp} {sc : Scope} {rmt : Bool} :
    OutCanon (execAtomal d a b op sc rmt s) := canon_legalWord hs (canon_atomic hs)

theorem canon_execLgo {i : BitVec 19} : OutCanon (execLgo i s) := canon_scalarWord hs (canon_dispatchAt _ hs)
theorem canon_execLgor {a : SReg} : OutCanon (execLgor a s) := canon_scalarWord hs (canon_dispatchAt _ hs)

theorem canon_execLwait : OutCanon (execLwait s) :=
  canon_scalarWord hs (by grind -ring -linarith -lia [DidCanon, State.memOk])

theorem canon_execDqpBroadcast {a : SReg} {q : BitVec 2} : OutCanon (execDqpBroadcast a q s) :=
  canon_scalarWord hs (canon_dqPush hs)

theorem canon_execDqpIota {a b : SReg} {q : BitVec 2} : OutCanon (execDqpIota a b q s) :=
  canon_scalarWord hs (canon_dqPush hs)

theorem canon_execDqld {a b : SReg} {uns : Bool} {size q : BitVec 2} : OutCanon (execDqld a b uns size q s) :=
  canon_scalarWord hs (canon_dqPush (by
    grind -ring -linarith -lia [loadEntry_mem, setMe_mem, DidCanon, State.memOk]))

theorem canon_execDqstrm {a b k : SReg} {uns : Bool} {size q : BitVec 2} : OutCanon (execDqstrm a b k uns size q s) :=
  canon_scalarWord hs (by grind -ring -linarith -lia [setMe_mem, DidCanon, State.memOk])

theorem canon_execXqp {d : SReg} : OutCanon (execXqp d s) :=
  canon_scalarWord hs (by grind -ring -linarith -lia [canon_queueWait, setMe_mem, setS_mem, DidCanon, State.memOk])

theorem canon_execSrd {d : SReg} {idx : BitVec 13} : OutCanon (execSrd d idx s) :=
  canon_scalarWord hs (by grind -ring -linarith -lia [setS_mem, DidCanon, State.memOk])

theorem canon_execSwr {a : SReg} {idx : BitVec 13} : OutCanon (execSwr a idx s) :=
  canon_scalarWord hs (by grind -ring -linarith -lia [spReg_write_mem, DidCanon, State.memOk])

theorem canon_execRegn : OutCanon (execRegn s) :=
  canon_scalarWord hs (by grind -ring -linarith -lia [setMe_mem, DidCanon, State.memOk])

theorem canon_execYieldW : OutCanon (execYieldW s) := canon_scalarWord hs hs

theorem canon_execFence {kind : FenceKind} {x1 : Scope} : OutCanon (execFence kind x1 s) :=
  canon_scalarWord hs (by grind -ring -linarith -lia [State.setCrew_mem, DidCanon, State.memOk])

theorem canon_execTrap {code : BitVec 7} : OutCanon (execTrap code s) := canon_scalarWord hs trivial

theorem canon_execExitWarp : OutCanon (execExitWarp s) :=
  canon_scalarWord hs (by grind -ring -linarith -lia [exitStroke_mem, setMe_mem, State.setBlock_mem, DidCanon,
      State.memOk])

theorem canon_execTlbiVa {a b : SReg} : OutCanon (execTlbiVa a b s) := canon_supWord hs (canon_tlbiWord hs)
theorem canon_execTlbiCtx {b : SReg} : OutCanon (execTlbiCtx b s) := canon_supWord hs (canon_tlbiWord hs)

theorem canon_execTlbiGpa {a b : SReg} : OutCanon (execTlbiGpa a b s) :=
  canon_scalarWord hs (by grind -ring -linarith -lia [canon_tlbiWord, mapTlb_mem, dropTlb_mem, DidCanon, State.memOk])

theorem canon_execTlbiSplit {a b : SReg} : OutCanon (execTlbiSplit a b s) :=
  canon_supWord hs (by
    grind -ring -linarith -lia [canon_tlbiWord, chargeTable_mem, memOk_splinter, askSlots_mem, log_mem, DidCanon,
      State.memOk])

theorem canon_execCwait {a b : SReg} {x2 : Bool} : OutCanon (execCwait a b x2 s) :=
  canon_scalarWord hs (by grind -ring -linarith -lia [loadAt_mem, DidCanon, State.memOk])

theorem canon_execWaitv {k a b : SReg} {cond : WaitCond} {sc : Scope} {rmt : Bool} :
    OutCanon (execWaitv k a b cond sc rmt s) :=
  canon_legalWord hs (canon_scalarWord hs (by grind -ring -linarith -lia [loadAt_mem, setS_mem, DidCanon, State.memOk]))

theorem canon_execBarArrive {b : BitVec 4} : OutCanon (execBarArrive b s) :=
  canon_scalarWord hs (canon_barCheck hs fun _ => hs)

theorem canon_execBarExpect {a : SReg} {b : BitVec 4} : OutCanon (execBarExpect a b s) :=
  canon_scalarWord hs (canon_barCheck hs fun _ => hs)

theorem canon_execBarInit {a : SReg} {b : BitVec 4} : OutCanon (execBarInit a b s) :=
  canon_scalarWord hs (by grind -ring -linarith -lia [putBar_mem, DidCanon, State.memOk])

theorem canon_execBarWait {b : BitVec 4} : OutCanon (execBarWait b s) :=
  canon_scalarWord hs (canon_barWaiting hs (canon_barCheck hs fun _ => hs))

theorem canon_execBarSync {b : BitVec 4} : OutCanon (execBarSync b s) :=
  canon_scalarWord hs (canon_barWaiting hs (canon_barCheck hs fun _ => hs))

theorem canon_execHintsucc : OutCanon (execHintsucc s) := canon_scalarWord hs hs

theorem canon_execWaitpred : OutCanon (execWaitpred s) :=
  canon_scalarWord hs (by grind -ring -linarith -lia [DidCanon, State.memOk])

theorem canon_execCpyImmediate {a b : SReg} {bare : Bool} {barn : BitVec 4} {shape : BitVec 6} :
    OutCanon (execCpyImmediate a b bare barn shape s) := canon_scalarWord hs (canon_cpyIssue hs)

theorem canon_execCpyRegister {a b k : SReg} {shape : BitVec 6} : OutCanon (execCpyRegister a b k shape s) :=
  canon_scalarWord hs (by grind -ring -linarith -lia [canon_cpyIssue, DidCanon, State.memOk])

theorem canon_execMxb {a : SReg} {page : BitVec 6} {fmt : BitVec 3} : OutCanon (execMxb a page fmt s) :=
  canon_scalarWord hs (by grind -ring -linarith -lia [canon_absentFormat, canon_enqueue, DidCanon, State.memOk])

theorem canon_execMxa {a : SReg} {page : BitVec 6} {bslot aslot : BitVec 3} {rows1 : BitVec 2} {acc : BitVec 5} :
    OutCanon (execMxa a page bslot aslot rows1 acc s) :=
  canon_scalarWord hs (by grind -ring -linarith -lia [canon_absentFormat, canon_enqueue, DidCanon, State.memOk])

theorem canon_execMxrd {a b : SReg} {rows1 g : BitVec 3} {acc : BitVec 5} : OutCanon (execMxrd a b rows1 g acc s) :=
  canon_scalarWord hs (by grind -ring -linarith -lia [canon_enqueue, DidCanon, State.memOk])

theorem canon_execMxz {rows1 : BitVec 3} {acc : BitVec 5} : OutCanon (execMxz rows1 acc s) :=
  canon_scalarWord hs (by grind -ring -linarith -lia [canon_enqueue, DidCanon, State.memOk])

theorem canon_execQfence {mask : BitVec 4} : OutCanon (execQfence mask s) :=
  canon_scalarWord hs (by grind -ring -linarith -lia [State.setCore_mem, DidCanon, State.memOk])

theorem canon_execSsld {a b k : SReg} {len : BitVec 7} : OutCanon (execSsld a b k len s) :=
  canon_scalarWord hs (canon_ssIssue hs)

theorem canon_execSsst {a b k : SReg} {len : BitVec 7} : OutCanon (execSsst a b k len s) :=
  canon_scalarWord hs (canon_ssIssue hs)

theorem canon_execSsnap {a b k : SReg} : OutCanon (execSsnap a b k s) := canon_scalarWord hs (canon_ssIssue hs)
theorem canon_execSsroll {a b k : SReg} : OutCanon (execSsroll a b k s) := canon_scalarWord hs (canon_ssIssue hs)
theorem canon_execSsfork {a b k : SReg} : OutCanon (execSsfork a b k s) := canon_scalarWord hs (canon_ssIssue hs)
theorem canon_execSsdrop {a k : SReg} : OutCanon (execSsdrop a k s) := canon_scalarWord hs (canon_ssIssue hs)

theorem canon_execCrew {a b : SReg} : OutCanon (execCrew a b s) :=
  canon_scalarWord hs (by grind -ring -linarith -lia [crewRecord_mem, holdRecord_mem, startCrew_mem, DidCanon,
      State.memOk])

theorem canon_execCreww {k : SReg} : OutCanon (execCreww k s) :=
  canon_scalarWord hs (by grind -ring -linarith -lia [setMe_mem, State.setCrew_mem, setS_mem, DidCanon, State.memOk])

theorem canon_execBreakCrew : OutCanon (execBreakCrew s) :=
  canon_strokeWord hs (by grind -ring -linarith -lia [breakAt_mem, DidCanon, State.memOk])

theorem canon_execGoStroke : OutCanon (execGoStroke s) :=
  canon_strokeWord hs (by grind -ring -linarith -lia [State.setCrew_mem, DidCanon, State.memOk])

theorem canon_execSrel : OutCanon (execSrel s) := canon_strokeWord hs fun _ _ _ => hs

theorem canon_execRegroup {k a : SReg} : OutCanon (execRegroup k a s) :=
  canon_scalarWord hs (by grind -ring -linarith -lia [beginWait_mem, regroupFuse_mem, setS_mem, DidCanon, State.memOk])

theorem canon_execQpush {k a b : SReg} : OutCanon (execQpush k a b s) := by
  refine canon_scalarWord hs ?_
  have hload := memOk_of_mem (loadAt_mem s .read (s.sreg b) 32) hs
  split
  next s' r e => rw [e] at hload; exact hload
  next s' p bs e =>
    have hs' : s'.memOk := by rw [e] at hload; exact hload
    dsimp only
    split
    · exact hs'
    · refine canon_andThen hs' (area_bringIn _ _ _ _ hs') fun t ht => ?_
      split
      · exact ht
      · exact canon_andThen (st := id) hs' (area_tqStore _ _ _ _ _ ht) fun u hu => hu

theorem canon_execQpop {k a b : SReg} {auto : Bool} : OutCanon (execQpop k a b auto s) := by
  refine canon_scalarWord hs ?_
  have hspot := memOk_of_mem (storeAt_mem s (s.sreg b) 32) hs
  split
  next s' r e => rw [e] at hspot; exact hspot
  next s' p e =>
    have hs' : s'.memOk := by rw [e] at hspot; exact hspot
    dsimp only
    split
    · exact hs'
    · refine canon_andThen hs' (area_popQueue _ _ _ _ _ hs') fun y hy => ?_
      grind -ring -linarith -lia [memOk_performStores, memOk_parkLog, setS_mem, DidCanon, State.memOk]

theorem canon_execQsteal {k a b : SReg} : OutCanon (execQsteal k a b s) := by
  refine canon_scalarWord hs ?_
  dsimp only
  split
  · split
    · refine canon_andThen hs (area_bind (area_bringIn _ _ _ _ hs) fun t ht => ?_) fun y hy => hy
      exact area_stealFrom _ _ _ _ _ _ ht
    · exact hs
  · exact hs

theorem canon_execLnch {k a : SReg} : OutCanon (execLnch k a s) :=
  canon_scalarWord hs (by grind -ring -linarith -lia [loadAt_mem, pushCmd_mem, State.setCtx_mem, setS_mem, DidCanon,
      State.memOk])

end

end Sys2Proof.Machine
end

section
/-!
Memory's form (R65) kept by the commands of the engines: what a command did (`CmdCanon`), and the engines' steps.
-/
namespace Sys2Proof.Machine

/-- Whatever becomes of a command, memory has its form. -/
def CmdCanon : CmdDid → Prop
  | .goes s _ | .page s _ | .fails s _ | .partly s _ => s.memOk
  | .blocked _ => True

theorem canon_cmdRaise {s : State} (c : Cmd) (r : Raise) (hs : s.memOk) : CmdCanon (cmdRaise s c r) := by
  unfold cmdRaise
  split <;> exact hs

theorem canon_awaitLog {s : State} (c : Cmd) (ds : List Dirty) (hs : s.memOk) : CmdCanon (awaitLog s c ds) := by
  unfold awaitLog
  split
  · exact memOk_fillLog s ds hs
  · trivial

/-! ### Accesses of a command -/

theorem runSpots_mem (w : Who) (a : Acc) (n m : Nat) (s : State) (va : Word) :
    (runSpots s w a n m va).1.mem = s.mem := by
  induction m generalizing s va with
  | zero => rfl
  | succ m ih =>
    unfold runSpots
    grind -ring -linarith -lia [resolve_mem]

theorem pieceSpots_mem (w : Who) (p : CopyProg) (m : Nat) (s : State) (j : Nat) :
    (pieceSpots s w p m j).1.mem = s.mem := by
  induction m generalizing s j with
  | zero => rfl
  | succ m ih =>
    unfold pieceSpots
    grind -ring -linarith -lia [resolve_mem]

theorem probeWrites_mem (w : Who) (ws : List (Word × List MoveSrc)) (s : State) : (probeWrites w s ws).1.mem = s.mem := by
  induction ws generalizing s with
  | nil => rfl
  | cons x ws ih =>
    unfold probeWrites
    grind -ring -linarith -lia [pieces_mem]

theorem readShape_mem (s : State) (w : Who) (table : Word) (ix : Nat) : (readShape s w table ix).1.mem = s.mem := by
  unfold readShape shapeIn
  grind -ring -linarith -lia [readSpan_mem]

theorem foldl_askEngine_mem (core : Nat) (c : Cmd) (ws : List (Word × List MoveSrc)) (s : State) :
    (ws.foldl (fun s x => askEngine s core c (x.2.map (·.size)).sum) s).mem = s.mem :=
  foldl_keeps State.mem (fun _ _ => askEngine_mem ..) ws s

theorem foldl_partStore_mem (at_ : Nat) (bs : List Byte) (l : List Nat) (s : State) :
    (l.foldl (fun s t => partStore s t at_ bs) s).mem = s.mem :=
  foldl_keeps (f := fun s t => partStore s t at_ bs) State.mem (fun _ _ => partStore_mem ..) l s

theorem canon_paid {d : CmdDid} (bill : Tbl Nat) (hd : CmdCanon d) : CmdCanon (d.paid bill) := by
  unfold CmdDid.paid
  cases d with
  | goes t x => exact memOk_of_mem (payBill_mem t bill) hd
  | page t x => exact memOk_of_mem (payBill_mem t bill) hd
  | fails t cause => exact memOk_of_mem (payBill_mem t bill) hd
  | partly t x => exact memOk_of_mem (payBill_mem t bill) hd
  | blocked x => trivial

theorem drawOwed_mem {s : State} {bill drawn : Tbl Nat} {x : State × Tbl Nat} (e : drawOwed s bill drawn = some x) :
    x.1.mem = s.mem := by
  unfold drawOwed at e
  grind -ring -linarith -lia [spendBill_frame]

section
variable {s : State} {core : Nat} {c : Cmd} (hs : s.memOk)
include hs

theorem canon_cmdStore {w : Who} {n : Nat} {va : Word} {xs : List (List Byte)} {k : State → CmdDid}
    (hk : ∀ t, t.memOk → CmdCanon (k t)) : CmdCanon (cmdStore s w c n va xs k) := by
  have hspots := memOk_of_mem (runSpots_mem w .write n xs.length s va) hs
  unfold cmdStore
  split
  next u r e => exact canon_cmdRaise _ _ (by rw [e] at hspots; exact hspots)
  next u ps e =>
    rw [e] at hspots
    dsimp only
    split
    · exact canon_awaitLog _ _ hspots
    · exact hk _ (memOk_performStores _ _ hspots)

theorem canon_withShape {ix : Nat} {k : State → Shape → CmdDid} (hk : ∀ t sh, t.memOk → CmdCanon (k t sh)) :
    CmdCanon (withShape s core c ix k) := by
  have hshape := memOk_of_mem (readShape_mem s (whoCmd s core c) (s.gridOf c.block).record.shapes ix) hs
  unfold withShape
  split
  next u r e => exact canon_cmdRaise _ _ (by rw [e] at hshape; exact hshape)
  next => trivial
  next u e => rw [e] at hshape; exact hshape
  next u sh e => exact hk _ _ (by rw [e] at hshape; exact hshape)

theorem canon_cmdRead {va : Word} {n : Nat} {k : State → List Byte → CmdDid}
    (hk : ∀ t bs, t.memOk → CmdCanon (k t bs)) : CmdCanon (cmdRead s core c va n k) := by
  have hspan := memOk_of_mem ((readSpan_mem _ (whoCmd s core c) va n).trans (askEngine_mem s core c n)) hs
  unfold cmdRead
  split
  · split
    · exact hk _ _ hs
    · exact hs
  · split
    next u r e => exact canon_cmdRaise _ _ (by rw [e] at hspan; exact hspan)
    next => trivial
    next u bs e => exact hk _ _ (by rw [e] at hspan; exact hspan)

theorem canon_memRead {va : Word} {n : Nat} {k : State → List Byte → CmdDid}
    (hk : ∀ t bs, t.memOk → CmdCanon (k t bs)) : CmdCanon (memRead s core c va n k) := by
  unfold memRead
  split
  · exact hs
  · exact canon_cmdRead hs hk

theorem canon_memSource {va : Word} {n : Nat} {k : State → List Place → CmdDid}
    (hk : ∀ t ps, t.memOk → CmdCanon (k t ps)) : CmdCanon (memSource s core c va n k) := by
  have hspan := memOk_of_mem ((span_mem _ (whoCmd s core c) .read va n).trans (askEngine_mem s core c n)) hs
  unfold memSource
  split
  · exact hs
  · split
    next u r e => exact canon_cmdRaise _ _ (by rw [e] at hspan; exact hspan)
    next => trivial
    next u ps e =>
      rw [e] at hspan
      split
      · exact hspan
      · exact hk _ _ hspan

theorem canon_memMoves {ws : List (Word × List MoveSrc)} {k : State → List Move → CmdDid}
    (hk : ∀ t ms, t.memOk → CmdCanon (k t ms)) : CmdCanon (memMoves s core c ws k) := by
  have hprobe := memOk_of_mem ((probeWrites_mem (whoCmd s core c) ws _).trans (foldl_askEngine_mem core c ws s)) hs
  unfold memMoves
  dsimp only
  split
  next u r e => exact canon_cmdRaise _ _ (by rw [e] at hprobe; exact hprobe)
  next u ps e =>
    rw [e] at hprobe
    split
    · exact canon_awaitLog _ _ hprobe
    · exact hk _ _ (memOk_setDirty _ _ hprobe)

theorem canon_readDesc {seq : Nat} {k : State → Cmd → SeqDesc → CmdDid} (hk : ∀ t x d, t.memOk → CmdCanon (k t x d)) :
    CmdCanon (readDesc s core c seq k) := by
  unfold readDesc
  dsimp only
  split
  · exact hs
  · split
    · exact hk _ _ _ hs
    · exact canon_memRead hs fun t _ ht => hk t _ _ ht

theorem canon_withSeq {seq : Nat} {k : State → Cmd → SeqDesc → CmdDid} (hk : ∀ t x d, t.memOk → CmdCanon (k t x d)) :
    CmdCanon (withSeq s core c seq k) := by
  refine canon_readDesc hs fun t x d ht => ?_
  have hdir (ctx : Nat) (r : Option Regions) : (dirSet t ctx seq r).memOk := ht
  dsimp only
  split
  · exact hdir _ _
  · split
    · exact ht
    · exact hk _ _ _ (hdir _ _)

theorem canon_ssMoves (ms : List Move) : CmdCanon (ssMoves s c ms) := memOk_moveSome ms s hs

theorem canon_ssSource {va : Word} {n : Nat} {k : State → List Place → CmdDid}
    (hk : ∀ t ps, t.memOk → CmdCanon (k t ps)) : CmdCanon (ssSource s core c va n k) := by
  unfold ssSource
  split
  · split
    · exact hk _ _ hs
    · exact hs
  · exact canon_memSource hs hk

/-! ### Starts of commands -/

theorem canon_copyStart {sh : Shape} {glob : Word} {targets : List Nat} {off : Nat} {load : Bool} :
    CmdCanon (copyStart s c sh glob targets off load) := by
  unfold copyStart
  dsimp only
  split <;> exact hs

theorem canon_cpyStart {dst src : Word} {shape : Nat} {mc : Bool} : CmdCanon (cpyStart s core c dst src shape mc) := by
  refine canon_withShape hs fun t sh ht => ?_
  dsimp only
  split
  · exact ht
  · exact canon_copyStart ht

theorem canon_tmplStart {glob : Word} {store : Bool} {shape box : Nat} :
    CmdCanon (tmplStart s core c glob store shape box) := canon_withShape hs fun _ _ ht => canon_copyStart ht

theorem canon_mxbStart {a : Word} {page fmt : Nat} : CmdCanon (mxbStart s core c a page fmt) := by
  unfold mxbStart
  dsimp only
  split
  · exact hs
  · split
    · trivial
    · split
      · exact hs
      · split
        · exact hs
        · split <;> exact hs

theorem canon_mxaStart {a : Word} {page bslot aslot rows acc : Nat} :
    CmdCanon (mxaStart s core c a page bslot aslot rows acc) := by
  unfold mxaStart
  dsimp only
  split
  · exact hs
  · split
    · exact hs
    · split <;> exact hs

theorem canon_mxrdStart {a : Word} {rows g acc : Nat} : CmdCanon (mxrdStart s core c a rows g acc) :=
  canon_cmdStore (k := fun s => .goes s { c with started := true }) hs fun _ ht => ht

theorem canon_mxzStart {rows acc : Nat} : CmdCanon (mxzStart s core c rows acc) := hs

theorem canon_ssldStart {seq off : Nat} {other : Word} {len : Nat} : CmdCanon (ssldStart s core c seq off other len) := by
  refine canon_withSeq hs fun t x d ht => ?_
  split
  · exact ht
  · refine canon_memSource ht fun u src hu => ?_
    split
    · split
      · exact canon_ssMoves hu _
      · exact hu
    · split
      · exact hu
      · exact canon_memMoves hu fun _ ms hv => canon_ssMoves hv ms

theorem canon_ssstStart {seq off : Nat} {other : Word} {len : Nat} : CmdCanon (ssstStart s core c seq off other len) := by
  refine canon_withSeq hs fun t x d ht => ?_
  split
  · exact ht
  · exact canon_ssSource ht fun _ _ hu => canon_memMoves hu fun _ ms hv => canon_ssMoves hv ms

theorem canon_ssnapStart {seq : Nat} {p : Word} : CmdCanon (ssnapStart s core c seq p) := by
  refine canon_withSeq hs fun t x d ht => ?_
  split
  · exact ht
  · exact canon_memSource ht fun _ _ hu => canon_memMoves hu fun _ ms hv => canon_ssMoves hv ms

theorem canon_ssrollStart {seq : Nat} {p : Word} : CmdCanon (ssrollStart s core c seq p) := by
  refine canon_withSeq hs fun t x d ht => canon_memRead ht fun u tab hu => ?_
  split
  · exact hu
  · exact canon_memSource hu fun _ _ hv => canon_memMoves hv fun _ ms hw => canon_ssMoves hw ms

theorem canon_ssforkStart {src dst : Nat} {blk : Word} : CmdCanon (ssforkStart s core c src dst blk) := by
  refine canon_withSeq hs fun t x d ht => canon_readDesc ht fun u y e hu => ?_
  have hdir (ctx : Nat) : (dirSet u ctx dst none).memOk := hu
  dsimp only
  split
  · exact hu
  · split
    · exact hdir _
    · refine canon_memRead (hdir _) fun v tab hv => canon_cmdRead hv fun w fb hw => ?_
      split
      · exact hw
      · split
        · exact hw
        · exact canon_memSource hw fun _ _ hx => canon_memMoves hx fun _ ms hy => canon_ssMoves hy ms

theorem canon_ssdropStart {seq : Nat} : CmdCanon (ssdropStart s core c seq) :=
  canon_withSeq hs fun _ _ _ ht => canon_memMoves ht fun _ ms hu => canon_ssMoves hu ms

/-- Whatever a command does when it starts, memory keeps its form (R250). -/
theorem canon_cmdStart : CmdCanon (cmdStart s core c) := by
  unfold cmdStart
  cases c.op with
  | cpy => exact canon_cpyStart hs
  | tmpl => exact canon_tmplStart hs
  | mxb => exact canon_mxbStart hs
  | mxa => exact canon_mxaStart hs
  | mxrd => exact canon_mxrdStart hs
  | mxz => exact canon_mxzStart hs
  | ssld => exact canon_ssldStart hs
  | ssst => exact canon_ssstStart hs
  | ssnap => exact canon_ssnapStart hs
  | ssroll => exact canon_ssrollStart hs
  | ssfork => exact canon_ssforkStart hs
  | ssdrop => exact canon_ssdropStart hs
  | lnch => trivial

/-! ### Pieces and completion -/

theorem canon_landPiece {p : CopyProg} : CmdCanon (landPiece s core c p) := by
  have hspots := memOk_of_mem (pieceSpots_mem (whoCmd s core c) p p.next s p.landed) hs
  unfold landPiece
  dsimp only
  split
  · exact hs
  · split
    next u r e => exact canon_cmdRaise _ _ (by rw [e] at hspots; exact hspots)
    next u spots e =>
      rw [e] at hspots
      split
      · exact memOk_of_mem ((lowerBars_mem ..).trans (foldl_partStore_mem ..)) hspots
      · split
        · exact hspots
        · split
          · exact hspots
          · split
            · exact canon_awaitLog _ _ hspots
            · exact memOk_of_mem (lowerBars_mem ..) (memOk_performStores _ _ hspots)

theorem canon_cmdCount : CmdCanon (cmdCount s core c) := by
  have hcount (t : State) (ht : t.memOk) : (counterUpdate (askEngine t core c 8) (whoCmd t core c) c.ctr none).state.memOk :=
    memOk_counterUpdate _ _ _ _ (memOk_of_mem (askEngine_mem ..) ht)
  unfold cmdCount
  dsimp only
  split
  · exact hs
  · split
    · grind -ring -linarith -lia [touchBlock_mem, CtrOut.state, CmdCanon, State.memOk]
    · refine canon_memMoves hs fun t ms ht => ?_
      have hmoved := memOk_moveAll t ms ht
      grind -ring -linarith -lia [touchBlock_mem, CtrOut.state, CmdCanon, State.memOk]

theorem memOk_finishMoves (q : Nat) : (finishMoves s core q c).1.memOk := by
  unfold finishMoves
  split
  · exact hs
  · exact memOk_of_mem (setHead_mem ..) (memOk_moveAll _ _ hs)

theorem memOk_failCmd (q : Nat) (cause : Cause) : (failCmd s core q c cause).memOk :=
  memOk_postAsync _ _ _ _ (memOk_of_mem (dropHead_mem ..) hs)

/-- A step of a command that waits for its purses keeps memory's form, whatever it did. -/
theorem memOk_gatePurses {q : Nat} {d : CmdDid} {k : CmdDid → Option State} (hd : CmdCanon d)
    (hk : ∀ x, CmdCanon x → ∀ t ∈ k x, t.memOk) : ∀ t ∈ gatePurses s core q c d k, t.memOk := by
  unfold gatePurses
  split
  · exact hk d hd
  next u e =>
    dsimp only
    split
    · exact hk _ (canon_paid _ hd)
    · intro t ht
      obtain ⟨x, hx, rfl⟩ := Option.map_eq_some_iff.mp ht
      exact memOk_of_mem ((setHead_mem ..).trans (drawOwed_mem hx)) hs

theorem memOk_afterCmd {q : Nat} {d : CmdDid} (hd : CmdCanon d) : ∀ t ∈ afterCmd s core q c d, t.memOk := by
  refine memOk_gatePurses hs hd fun x hx t ht => ?_
  grind -ring -linarith -lia [setHead_mem, memOk_failCmd, CmdCanon, State.memOk]

end

/-! ### The engines' steps -/

section
variable {s : State} (hs : s.memOk)
include hs

theorem canon_execEngineCommandStart {core : Nat} {queue : BitVec 2} :
    OutCanon (execEngineCommandStart core queue s) := by
  refine canon_enabledStep fun t ht => ?_
  have hstart (c : Cmd) := memOk_afterCmd (s := { s with asked := [] }) (core := core) (c := c) (q := queue.toNat) hs
    (canon_cmdStart (s := { s with asked := [] }) (core := core) (c := c) hs)
  grind -ring -linarith -lia [setHead_mem, memOk_moveSome, State.memOk]

theorem canon_execCopyPieceLanding {core : Nat} : OutCanon (execCopyPieceLanding core s) := by
  refine canon_enabledStep fun t ht => ?_
  have hland (c : Cmd) (p : CopyProg) :=
    memOk_afterCmd (s := { s with asked := [] }) (core := core) (c := c) (q := 0) hs
      (canon_landPiece (s := State.askSlots { s with asked := [] } (domainOf core) copyPurse 1) (core := core) (c := c)
        (p := p) hs)
  grind -ring -linarith -lia [State.memOk]

theorem canon_execEngineCommandCompletion {core : Nat} {queue : BitVec 2} :
    OutCanon (execEngineCommandCompletion core queue s) := by
  refine canon_enabledStep fun t ht => ?_
  split at ht
  · cases ht
  next c e =>
    split at ht
    · cases ht
    · have hmoves := memOk_finishMoves (s := { s with asked := [] }) (core := core) (c := c) hs queue.toNat
      generalize finishMoves _ core queue.toNat c = x at hmoves ht
      obtain ⟨u, y⟩ := x
      dsimp only at hmoves ht
      have hflags : (orFlags u y).memOk := memOk_of_mem (orFlags_mem ..) hmoves
      split at ht
      · cases ht
        exact memOk_failCmd hflags _ _
      · refine memOk_gatePurses hmoves (canon_cmdCount hmoves) (fun d hd t ht => ?_) t ht
        grind -ring -linarith -lia [orFlags_mem, dirDone_mem, dropHead_mem, setHead_mem, memOk_failCmd, CmdCanon,
          State.memOk]

end

end Sys2Proof.Machine
end

section
/-!
Memory's form (R65) kept by the steps of strokes, launches, the graph table, placement and the ends of blocks and grids.
-/
namespace Sys2Proof.Machine

/-! ### Strokes and streams -/

theorem memOk_performHeld (s : State) (hs : List Held) (h : s.memOk) : (performHeld s hs).memOk :=
  memOk_foldl (fun s (x : Held) => setPlaces s x.bytes) (fun s x => memOk_setPlaces x.bytes s) _ _ (memOk_setDirty _ _ h)

section
variable {s : State} (hs : s.memOk)
include hs

theorem canon_execAffineStreamPush {k : Nat} {q : BitVec 2} : OutCanon (execAffineStreamPush k q s) := by
  unfold execAffineStreamPush
  grind -ring -linarith -lia [loadEntry_mem, paidStep_mem, drawAhead_mem, State.setWarp_mem, OutCanon, State.memOk]

theorem canon_execReleaseWave {core : Nat} : OutCanon (execReleaseWave core s) := by
  unfold execReleaseWave
  dsimp only
  split
  · trivial
  · exact memOk_of_mem ((State.setCore_mem ..).trans (foldl_keeps (f := releaseWarp) State.mem releaseWarp_mem ..)) hs

theorem canon_execStrokeLaunch {c : Nat} : OutCanon (execStrokeLaunch c s) :=
  canon_enabledStep (by grind -ring -linarith -lia [launchStroke_mem, Option.map_eq_some_iff, Option.mem_def, State.memOk])

theorem canon_execTemplateCopyIssue {c : Nat} : OutCanon (execTemplateCopyIssue c s) :=
  canon_enabledStep (by grind -ring -linarith -lia [pushCmd_mem, State.setCrew_mem, State.memOk])

theorem canon_execStrokeRetire {c : Nat} : OutCanon (execStrokeRetire c s) :=
  canon_enabledStep (by
    grind -ring -linarith -lia [releaseSites_mem, afterSites_mem, putCrew_mem, State.setWarp_mem, State.memOk])

theorem canon_execOutSlotRelease {c : Nat} : OutCanon (execOutSlotRelease c s) :=
  canon_enabledStep (by grind -ring -linarith -lia [releaseSites_mem, afterSites_mem, putCrew_mem, State.memOk])

theorem canon_execStrokeCommit {c : Nat} : OutCanon (execStrokeCommit c s) :=
  canon_enabledStep (by grind -ring -linarith -lia [memOk_fillLog, memOk_performHeld, State.setCrew_mem, State.memOk])

theorem canon_execRegroupTimeout {k : Nat} : OutCanon (execRegroupTimeout k s) :=
  canon_enabledStep (by grind -ring -linarith -lia [regroupEnds_mem, State.memOk])

theorem canon_execQreset {value : Word} : OutCanon (execQreset value s) :=
  memOk_of_mem (s := List.foldl _ s _) rfl (memOk_foldl _ (fun u _ hu => memOk_of_mem (tqPut_mem u ..) hu) _ _ hs)

end

/-! ### Launches -/

theorem memOk_rejectMark (s : State) (ctx : Nat) (addr : Word) (bs : List Byte) (h : s.memOk) :
    (rejectMark s ctx addr bs).memOk := memOk_markCounter _ _ _ _ _ _ h

theorem memOk_acceptGrid (s : State) (src : LaunchSrc) (ctx : Nat) (addr : Word) (bs : List Byte) (h : s.memOk) :
    (acceptGrid s src ctx addr bs).memOk := h

theorem memOk_readQueue {s u : State} {n : Nat} (e : readQueue s n = some u) (h : s.memOk) : u.memOk := by
  unfold readQueue at e
  grind -ring -linarith -lia [memOk_acceptGrid, memOk_rejectMark, setLq_mem, State.memOk]

theorem memOk_passRecord (s : State) (core ctx : Nat) (addr : Word) (bs : List Byte) (h : s.memOk) :
    (passRecord s core ctx addr bs).memOk := by
  unfold passRecord
  grind -ring -linarith -lia [memOk_acceptGrid, memOk_rejectMark, log_mem, State.memOk]

/-! ### The graph table -/

theorem memOk_nodeStatus (s : State) (at_ : Nat) (bits : BitVec 8) (h : s.memOk) : (nodeStatus s at_ bits).memOk :=
  wf_writePhys _ _ h

theorem nodeSuccessors_mem (s : State) (ctx : Nat) (bs : List Byte) : (nodeSuccessors s ctx bs).1.mem = s.mem := by
  unfold nodeSuccessors
  grind -ring -linarith -lia [readSpan_mem]

theorem memOk_nodeBad (s : State) (ctx n : Nat) (addr : Word) (bs : Option (List Byte)) (h : s.memOk) :
    (nodeBad s ctx n addr bs).memOk := by
  unfold nodeBad
  grind -ring -linarith -lia [memOk_nodeStatus, memOk_rejectMark, log_mem, State.memOk]

theorem memOk_fireNode (s : State) (ctx n : Nat) (h : s.memOk) : (fireNode s ctx n).1.memOk := by
  unfold fireNode
  grind -ring -linarith -lia [memOk_nodeStatus, memOk_nodeBad, memOk_acceptGrid, nodeSuccessors_mem, readSpan_mem, log_mem,
    State.memOk]

theorem memOk_decrementNode (s : State) (ctx n : Nat) (h : s.memOk) : (decrementNode s ctx n).1.memOk := by
  unfold decrementNode
  dsimp only
  split
  · exact memOk_nodeStatus _ _ _ h
  · split
    · exact memOk_fireNode _ _ _ (wf_writeBytes _ _ h)
    · exact wf_writeBytes _ _ h

theorem memOk_decrements (ctx fuel : Nat) (ns : List Nat) (s : State) (h : s.memOk) : (decrements ctx fuel ns s).memOk := by
  induction fuel generalizing ns s with
  | zero => exact h
  | succ fuel ih =>
    cases ns with
    | nil => exact h
    | cons n ns =>
      rw [decrements]
      exact ih _ _ (memOk_decrementNode s ctx n h)

theorem memOk_deliver (s : State) (ctx : Nat) (ns : List Nat) (h : s.memOk) : (deliver s ctx ns).memOk :=
  memOk_decrements _ _ _ _ h

/-! ### Placement -/

theorem startGang_mem {g u : Nat} {idxs : List Nat} {s t : State} (e : startGang g u idxs s = some t) : t.mem = s.mem := by
  induction idxs generalizing s with
  | nil => cases e; rfl
  | cons i idxs ih =>
    unfold startGang at e
    split at e
    · cases e
    · exact (ih e).trans (startBlock_mem ..)

theorem placeGang_mem {g : Nat} {idxs : List Nat} {s t : State} (e : placeGang s g idxs = some t) : t.mem = s.mem := by
  obtain ⟨u, -, hu⟩ := List.exists_of_findSome?_eq_some e
  exact startGang_mem hu

theorem placeNext_mem {g : Nat} {s t : State} (e : placeNext s g = some t) : t.mem = s.mem := by
  obtain ⟨u, hu, rfl⟩ := Option.map_eq_some_iff.mp e
  exact (setGrid_mem ..).trans (placeGang_mem hu)

theorem placeChosen_mem {g : Nat} {s t : State} (e : placeChosen s g = some t) : t.mem = s.mem := by
  unfold placeChosen at e
  grind -ring -linarith -lia [placeGang_mem, placeNext_mem, releaseQueue_mem, setGrid_mem, Option.map_eq_some_iff]

/-! ### Ends of blocks and grids -/

theorem memOk_finishGrid (s : State) (g : Nat) (h : s.memOk) : (finishGrid s g).memOk := by
  unfold finishGrid
  grind -ring -linarith -lia [setGrid_mem, nodeSuccessors_mem, memOk_deliver, log_mem, State.memOk]

theorem memOk_completeGrid (s : State) (g : Nat) (h : s.memOk) : (completeGrid s g).memOk := by
  have hcount (w : Who) (ctr : Word) := memOk_counterUpdate s w ctr none h
  unfold completeGrid
  grind -ring -linarith -lia [memOk_finishGrid, pendCounter_mem, log_mem, CtrOut.state, State.memOk]

/-! ### Steps -/

section
variable {s : State} (hs : s.memOk)
include hs

theorem canon_execLaunchQueueTailWrite {fn : Nat} {q : BitVec 4} {value : Word} :
    OutCanon (execLaunchQueueTailWrite fn q value s) := by
  unfold execLaunchQueueTailWrite
  grind -ring -linarith -lia [setLq_mem, OutCanon, State.memOk]

theorem canon_execLaunchRecordRead {src : LaunchSrc} : OutCanon (execLaunchRecordRead src s) :=
  canon_enabledStep (by grind -ring -linarith -lia [memOk_readQueue, Option.mem_def])

theorem canon_execDeviceLaunchPass {core : Nat} : OutCanon (execDeviceLaunchPass core s) :=
  canon_enabledStep (by
    grind -ring -linarith -lia [memOk_passRecord, dropHead_mem, State.setCtx_mem, State.memOk])

theorem canon_execLqstart {fn : Nat} {q : BitVec 4} {value : Word} : OutCanon (execLqstart fn q value s) := by
  unfold execLqstart
  grind -ring -linarith -lia [memOk_deliver, OutCanon]

theorem canon_execGangPlacement : OutCanon (execGangPlacement s) :=
  canon_enabledStep (by grind -ring -linarith -lia [placeChosen_mem, State.memOk])

theorem canon_execBlockExit {b : Nat} : OutCanon (execBlockExit b s) :=
  canon_enabledStep (by grind -ring -linarith -lia [freeBlockState_mem, countExit_mem, State.memOk])

theorem canon_execBlockRelaunch {b : Nat} : OutCanon (execBlockRelaunch b s) :=
  canon_enabledStep (by grind -ring -linarith -lia [freeBlockState_mem, setGrid_mem, State.memOk])

theorem canon_execGridCompletion {g : Nat} : OutCanon (execGridCompletion g s) :=
  canon_enabledStep (by grind -ring -linarith -lia [memOk_completeGrid])

end

end Sys2Proof.Machine
end

section
/-!
Memory's form (R65) kept by the saves of blocks, their restores, pre-emption, resets and class changes.
-/
namespace Sys2Proof.Machine

/-! ### The frame pool -/

theorem framePool_mem (s : State) (ctx : Nat) : (framePool s ctx).1.mem = s.mem := by
  unfold framePool
  grind -ring -linarith -lia [readSpan_mem]

theorem memOk_partWrite {s u : State} {ctx : Nat} {va : Word} {bs : List Byte} (e : partWrite s ctx va bs = some u)
    (h : s.memOk) : u.memOk := by
  have hw := memOk_writeSpan s (whoFrame ctx) va bs h
  unfold partWrite at e
  grind -ring -linarith -lia

theorem memOk_partWrite_getD (s : State) (ctx : Nat) (va : Word) (bs : List Byte) (h : s.memOk) :
    ((partWrite s ctx va bs).getD s).memOk := by
  cases e : partWrite s ctx va bs with
  | none => exact h
  | some u => exact memOk_partWrite e h

theorem memOk_markFrame {s u : State} {ctx : Nat} {p : Pool} {i : Nat} {used : Bool} (e : markFrame s ctx p i used = some u)
    (h : s.memOk) : u.memOk := memOk_partWrite e h

/-! ### Saving -/

theorem memOk_saveBlock {stall : Bool} {b : Nat} {s u : State} (e : saveBlock stall b s = some u) (h : s.memOk) :
    u.memOk := by
  unfold saveBlock at e
  dsimp only at e
  split at e
  · cases e
  · have hpool := memOk_of_mem ((framePool_mem (settleBlock s b) ((settleBlock s b).gridOf b).ctx).trans (settleBlock_mem s b)) h
    generalize framePool _ _ = x at e hpool
    obtain ⟨t, _ | p⟩ := x
    · cases e
    · dsimp only at e hpool
      split at e
      · cases e
      · split at e
        · cases e
        · split at e
          · cases e
          next v hv =>
            split at e
            · cases e
            next w hw =>
              cases e
              exact memOk_of_mem (s := w) (removeBlock_mem ..) (memOk_markFrame hw (memOk_partWrite hv hpool))

theorem memOk_saveBlocks {stall : Bool} {bs : List Nat} {s u : State} (e : saveBlocks stall bs s = some u) (h : s.memOk) :
    u.memOk := by
  induction bs generalizing s with
  | nil => cases e; exact h
  | cons b bs ih =>
    unfold saveBlocks at e
    split at e
    · cases e
    next t ht => exact ih e (memOk_saveBlock ht h)

theorem memOk_saveGang {s u : State} {stall : Bool} {g gang : Nat} (e : saveGang s stall g gang = some u) (h : s.memOk) :
    u.memOk := memOk_saveBlocks e h

theorem memOk_saveGangs (s : State) (gs : List (Nat × Nat)) (h : s.memOk) : (saveGangs s gs).1.memOk :=
  memOk_foldl_fst (fun st x hst => by
    split
    next u hu => exact memOk_saveGang hu hst
    · exact hst) gs h

/-! ### Restoring -/

theorem memOk_returnParked (ctx k : Nat) (kind : ParkKind) (r : TrapRec) (s : State) (h : s.memOk) :
    (returnParked ctx k kind r s).memOk := by
  unfold returnParked
  grind -ring -linarith -lia [memOk_partWrite_getD, memOk_enterHandler, State.setFn_mem, State.setWarp_mem, State.memOk]

theorem memOk_restoreWarps (ctx b : Nat) (frb : Word) (crews warps : List (Nat × Nat)) (ws : List (Nat × Warp)) (s : State)
    (h : s.memOk) : (restoreWarps ctx b frb crews warps ws s).memOk := by
  induction ws generalizing s with
  | nil => exact h
  | cons x ws ih =>
    obtain ⟨old, w⟩ := x
    unfold restoreWarps
    dsimp only
    refine ih _ ?_
    split
    · exact memOk_returnParked _ _ _ _ _ (memOk_of_mem (State.setWarp_mem ..) h)
    · exact memOk_of_mem (State.setWarp_mem ..) h

theorem memOk_restoreArea (s : State) (x : Saved) (img : List Byte) (i : Nat) (w : Warp) (h : s.memOk) :
    (restoreArea s x img i w).memOk := by
  unfold restoreArea
  grind -ring -linarith -lia [memOk_partWrite_getD]

theorem foldl_setCrew_mem {α : Type} (k : α → Nat) (x : α → Crew) (l : List α) (s : State) :
    (l.foldl (fun s e => s.setCrew (k e) (x e)) s).mem = s.mem :=
  foldl_keeps (f := fun s e => s.setCrew (k e) (x e)) State.mem (fun _ _ => State.setCrew_mem ..) l s

theorem memOk_restoreBlock (x : Saved) (core : Nat) (s : State) (h : s.memOk) : (restoreBlock x core s).memOk := by
  unfold restoreBlock
  split
  · exact h
  · extract_lets frb slots nums warps crews base here s₁ blk s₂ s₃ c c₁ c₂ s₄ u s₅
    have hcrews : s₃.mem = s.mem := foldl_setCrew_mem (fun e => rekey crews e.1) _ x.crews s₂
    have hcluster : s₅.mem = s.mem := by
      refine Eq.trans ?_ hcrews
      unfold s₅
      split <;> rfl
    exact memOk_restoreWarps _ _ _ _ _ _ _ (memOk_of_mem hcluster h)

theorem memOk_restoreIn {u : Nat} {xs : List Saved} {s t : State} (e : restoreIn u xs s = some t) (h : s.memOk) :
    t.memOk := by
  induction xs generalizing s with
  | nil => cases e; exact h
  | cons x xs ih =>
    unfold restoreIn at e
    split at e
    · cases e
    · exact ih e (memOk_restoreBlock _ _ _ h)

theorem memOk_restoreBound {xs : List Saved} {s t : State} (e : restoreBound xs s = some t) (h : s.memOk) : t.memOk := by
  induction xs generalizing s with
  | nil => cases e; exact h
  | cons x xs ih =>
    unfold restoreBound at e
    split at e
    · obtain ⟨u, hu, hrest⟩ := Option.bind_eq_some_iff.mp e
      exact ih hrest (memOk_restoreIn hu h)
    · cases e

theorem memOk_restoreSaved {s t : State} {x : Saved} {gang : List Saved} (e : restoreSaved s x gang = some t)
    (h : s.memOk) : t.memOk := by
  unfold restoreSaved at e
  dsimp only at e
  split at e
  · exact memOk_restoreBound e h
  · obtain ⟨u, -, hu⟩ := List.exists_of_findSome?_eq_some e
    exact memOk_restoreIn hu h

theorem memOk_freeFrame {s u : State} {x : Saved} (e : freeFrame s x = some u) (h : s.memOk) : u.memOk := by
  have hpool := memOk_of_mem (framePool_mem s x.ctx) h
  unfold freeFrame at e
  split at e
  · cases e
  next t p hp =>
    rw [hp] at hpool
    obtain ⟨v, hv, rfl⟩ := Option.map_eq_some_iff.mp e
    exact (memOk_markFrame hv hpool : v.memOk)

theorem memOk_freeFrames {xs : List Saved} {s u : State} (e : freeFrames xs s = some u) (h : s.memOk) : u.memOk := by
  induction xs generalizing s with
  | nil => cases e; exact h
  | cons x xs ih =>
    unfold freeFrames at e
    split at e
    · cases e
    next t ht => exact ih e (memOk_freeFrame ht h)

theorem memOk_killSaved {s u : State} {x : Saved} (e : killSaved s x = some u) (h : s.memOk) : u.memOk := by
  obtain ⟨v, hv, rfl⟩ := Option.map_eq_some_iff.mp e
  exact memOk_of_mem (countExit_mem ..) (memOk_markCounter _ _ _ _ _ _ (memOk_of_mem (log_mem ..) (memOk_freeFrame hv h)))

theorem memOk_restoreAreas (s : State) (x : Saved) (bs : List Byte) (h : s.memOk) : (restoreAreas s x bs).memOk :=
  memOk_foldl_fst (fun st e hst => memOk_restoreArea st.1 x bs (st.2 + 0x400) e.2 hst) x.warps h

theorem readFrames_mem (p : Pool) (xs : List Saved) (s : State) : (readFrames p xs s).1.mem = s.mem := by
  induction xs generalizing s with
  | nil => rfl
  | cons x xs ih =>
    unfold readFrames
    grind -ring -linarith -lia [readSpan_mem]

theorem gangFrames_mem (s : State) (x : Saved) : (gangFrames s x).1.mem = s.mem := by
  unfold gangFrames
  grind -ring -linarith -lia [framePool_mem, readFrames_mem]

theorem memOk_putGang {s u : State} {x : Saved} {frames : List (Saved × List Byte)} (e : putGang s x frames = some u)
    (h : s.memOk) : u.memOk := memOk_restoreSaved e h

theorem memOk_restoreGang {s u : State} {x : Saved} (e : restoreGang s x = some u) (h : s.memOk) : u.memOk := by
  have hframes := memOk_of_mem (gangFrames_mem s x) h
  unfold restoreGang at e
  split at e
  · cases e
  next t frames hf =>
    rw [hf] at hframes
    obtain ⟨v, hv, hfree⟩ := Option.bind_eq_some_iff.mp e
    refine memOk_freeFrames hfree (memOk_foldl _ (fun s y => ?_) _ _ (memOk_putGang hv hframes))
    exact memOk_restoreAreas s y.1 y.2

/-! ### Waiting blocks -/

/-- Admitting the lowest unstarted block writes no memory. -/
theorem lowestNew_mem {s : State} {g : Nat} {x : Nat × Bool × (State → Option State)} (e : lowestNew s g = some x)
    {t u : State} (et : x.2.2 t = some u) : u.mem = t.mem := by
  unfold lowestNew at e
  grind -ring -linarith -lia [Option.map_eq_some_iff, placeGang_mem, placeNext_mem, releaseQueue_mem, setGrid_mem]

theorem memOk_lowestSaved {s : State} {g : Nat} {x : Nat × Bool × (State → Option State)} (e : lowestSaved s g = some x)
    {t u : State} (et : x.2.2 t = some u) (h : t.memOk) : u.memOk := by
  obtain ⟨y, -, rfl⟩ := Option.map_eq_some_iff.mp e
  exact memOk_restoreGang et h

theorem memOk_lowerBlock {s : State} {g : Nat} {x : Nat × Bool × (State → Option State)} (e : lowerBlock s g = some x)
    {t u : State} (et : x.2.2 t = some u) (h : t.memOk) : u.memOk := by
  unfold lowerBlock at e
  split at e
  next y hy =>
    cases e
    exact memOk_of_mem (lowestNew_mem hy et) h
  · exact memOk_lowestSaved e et h

theorem memOk_lowerBlock_getD {s : State} {g low : Nat} {full : Bool} {place : State → Option State}
    (e : lowerBlock s g = some (low, full, place)) {t : State} (h : t.memOk) : ((place t).getD t).memOk := by
  cases et : place t with
  | none => exact h
  | some u => exact memOk_lowerBlock e et h

/-! ### Resets -/

theorem memOk_resetGrid (ctx : Nat) (s : State) (g : Nat) (h : s.memOk) : (resetGrid ctx s g).memOk := by
  unfold resetGrid
  grind -ring -linarith -lia [memOk_markCounter, releaseQueue_mem, setGrid_mem, State.memOk]

/-! ### Steps -/

section
variable {s : State} (hs : s.memOk)
include hs

theorem canon_execBlockRestore {ctx frame : Nat} : OutCanon (execBlockRestore ctx frame s) :=
  canon_enabledStep (by grind -ring -linarith -lia [memOk_killSaved, memOk_restoreGang, Option.mem_def])

theorem canon_execStallSwapOut {g gang : Nat} : OutCanon (execStallSwapOut g gang s) :=
  canon_enabledStep (by grind -ring -linarith -lia [memOk_saveGang, Option.mem_def])

theorem canon_execWaitingBlockSwap {g : Nat} : OutCanon (execWaitingBlockSwap g s) := by
  refine canon_enabledStep fun t ht => ?_
  grind -ring -linarith -lia [memOk_saveGang, memOk_lowerBlock_getD, Option.map_eq_some_iff, Option.mem_def]

theorem canon_execPreemptionRequest {ctx : Nat} : OutCanon (execPreemptionRequest ctx s) :=
  canon_enabledStep (by grind -ring -linarith -lia [State.setCtx_mem, State.memOk])

theorem canon_execPreemptionSave {ctx : Nat} : OutCanon (execPreemptionSave ctx s) := by
  have hsave := memOk_saveGangs s (residentGangs s (ofCtx s ctx)) hs
  refine canon_enabledStep fun t ht => ?_
  grind -ring -linarith -lia [State.setCtx_mem, State.memOk]

theorem canon_execContextReset {ctx : Nat} : OutCanon (execContextReset ctx s) := by
  refine canon_enabledStep fun t ht => ?_
  obtain ⟨-, ht⟩ := Option.ite_none_left_eq_some.mp ht
  cases ht
  have hgone := foldl_keeps (f := discardBlock) State.mem discardBlock_mem (ctxBlocks s ctx) s
  exact memOk_of_mem (s := List.foldl (resetGrid ctx) _ _) (State.setCtx_mem ..)
    (memOk_foldl _ (memOk_resetGrid ctx) _ _ (memOk_of_mem hgone hs))

theorem canon_execContextReadmission {ctx : Nat} : OutCanon (execContextReadmission ctx s) :=
  canon_enabledStep (by grind -ring -linarith -lia [State.setCtx_mem, State.memOk])

theorem canon_execContextRelease {ctx : Nat} : OutCanon (execContextRelease ctx s) :=
  canon_enabledStep (by grind -ring -linarith -lia [State.setCtx_mem, State.memOk])

theorem canon_execClassChange {d : Nat} {cls : BitVec 2} : OutCanon (execClassChange d cls s) := by
  unfold execClassChange
  dsimp only
  split
  · exact hs
  · exact memOk_saveGangs _ _ (memOk_of_mem (State.setDomain_mem ..) hs)

theorem canon_execClassChangeEffect {d : Nat} : OutCanon (execClassChangeEffect d s) := by
  have hsave := memOk_saveGangs s (residentGangs s (classSaves s d)) hs
  refine canon_enabledStep fun t ht => ?_
  grind -ring -linarith -lia [State.setDomain_mem, State.memOk]

end

end Sys2Proof.Machine
end

section
/-!
Memory's form (R65) kept by the part's steps for warps, faults, dirty logs, the write-back scanner, clocks, errors, boot,
management and peers.
-/
namespace Sys2Proof.Machine

/-! ### Faults that are served -/

theorem memOk_foldl_writeBytes (es : List (Nat × BitVec 64)) (m : Tbl Byte) (h : Memory.wf m = true) :
    Memory.wf (es.foldl (fun m e => writeBytes m e.1 (leBytes 8 e.2.toNat)) m) = true := by
  induction es generalizing m with
  | nil => exact h
  | cons e es ih => exact ih _ (wf_writeBytes _ _ h)

theorem memOk_servePage {s u : State} {ctx : Nat} {host : Bool} {va : Word} {es : List (Nat × BitVec 64)}
    (e : servePage s ctx host va es = some u) (h : s.memOk) : u.memOk := by
  have hmem := memOk_foldl_writeBytes es s.mem h
  unfold servePage at e
  grind -ring -linarith -lia [State.setFn_mem, State.memOk]

theorem memOk_answer {s u : State} {ctx : Nat} {second : Bool} {va : Word} {x : Resolution}
    (e : answer s ctx second va x = some (.ok u)) (h : s.memOk) : u.memOk := by
  unfold answer at e
  grind -ring -linarith -lia [memOk_servePage]

/-- What becomes of a machine by an answer to a fault keeps memory's form where a served page and a cause both do. -/
theorem memOk_map_answer {s u : State} {ctx : Nat} {second : Bool} {va : Word} {x : Resolution}
    {f : Except Cause State → State} (e : (answer s ctx second va x).map f = some u) (h : s.memOk)
    (hok : ∀ t, t.memOk → (f (.ok t)).memOk) (herr : ∀ c, (f (.error c)).memOk) : u.memOk := by
  obtain ⟨y, hy, rfl⟩ := Option.map_eq_some_iff.mp e
  cases y with
  | ok t => exact hok t (memOk_answer hy h)
  | error c => exact herr c

theorem memOk_resolveWarp {s u : State} {k : Nat} {x : Resolution} (e : resolveWarp s k x = some u) (h : s.memOk) :
    u.memOk := by
  unfold resolveWarp at e
  dsimp only at e
  split at e
  · exact memOk_map_answer e h (fun t ht => memOk_of_mem (State.setWarp_mem ..) ht) fun c =>
      memOk_enterHandler _ _ _ _ (memOk_of_mem (State.setWarp_mem ..) h)
  · cases e

theorem memOk_resolveSaved {s u : State} {ctx frame k : Nat} {x : Resolution}
    (e : resolveSaved s ctx frame k x = some u) (h : s.memOk) : u.memOk := by
  unfold resolveSaved at e
  split at e
  · cases e
  · split at e
    · cases e
    · split at e
      · exact memOk_map_answer e h (fun t ht => memOk_of_mem (setSavedWarp_mem ..) ht) fun c =>
          memOk_of_mem (setSavedWarp_mem ..) h
      · cases e

theorem memOk_resolveCmd {s u : State} {core q : Nat} {x : Resolution} (e : resolveCmd s core q x = some u)
    (h : s.memOk) : u.memOk := by
  unfold resolveCmd at e
  split at e
  · cases e
  · split at e
    · cases e
    · exact memOk_map_answer e h (fun t ht => memOk_of_mem (setHead_mem ..) ht) fun c => memOk_failCmd h _ _

theorem memOk_dropCounter (s : State) (n : Nat) (p : PendCtr) (c : Cause) (h : s.memOk) : (dropCounter s n p c).memOk := by
  unfold dropCounter
  grind -ring -linarith -lia [memOk_finishGrid, log_mem, State.memOk]

theorem memOk_settleCounter (p : PendCtr) (fuel : Nat) (s : State) (h : s.memOk) : (settleCounter p fuel s).memOk := by
  induction fuel generalizing s with
  | zero => exact h
  | succ fuel ih =>
    have hcount (w : Who) (ctr : Word) (bit : Option Nat) := memOk_counterUpdate s w ctr bit h
    unfold settleCounter
    grind -ring -linarith -lia [memOk_finishGrid, memOk_dropCounter, CtrOut.state, State.memOk]

theorem memOk_resolveCounter {s u : State} {n : Nat} {x : Resolution} (e : resolveCounter s n x = some u)
    (h : s.memOk) : u.memOk := by
  unfold resolveCounter at e
  split at e
  · cases e
  · split at e
    · cases e
    · exact memOk_map_answer e h (fun t ht => memOk_settleCounter _ _ _ ht) fun c => memOk_dropCounter _ _ _ _ h

/-! ### The write-back scanner -/

theorem memOk_reopen (x : Scan) (s : State) (h : s.memOk) : (x.reopen s).memOk := by
  unfold Scan.reopen
  split
  · exact h
  · refine memOk_foldl _ (fun t i ht => ?_) _ _ h
    dsimp only
    split
    · exact ht
    · split
      · exact wf_writeBytes _ _ ht
      · exact ht

theorem memOk_scanLeaf {s u : State} {x : Scan} {a : Nat} {drops : TlbEntry → Bool} (e : scanLeaf s x a drops = some u)
    (h : s.memOk) : u.memOk := by
  unfold scanLeaf at e
  split at e
  · cases e
  · dsimp only at e
    split at e
    · cases e
      exact wf_writeBytes _ _ h
    · cases e

theorem memOk_scanStart {s u : State} {ctx : Nat} {va : Word} (e : scanStart s ctx va = some u) (h : s.memOk) :
    u.memOk := by
  unfold scanStart at e
  grind -ring -linarith -lia [memOk_scanLeaf]

theorem memOk_wakeScan (s : State) (x : Scan) (h : s.memOk) : (wakeScan s x).memOk :=
  memOk_foldl (fun t p => settleCounter p t.pend.length t) (fun t p => memOk_settleCounter p t.pend.length t) _ _ h

theorem memOk_scanFinish {s u : State} {x : Scan} (e : scanFinish s x = some u) (h : s.memOk) : u.memOk := by
  have hopen (dom n : Nat) : (x.reopen (spendPurse s dom fabricPurse n)).memOk := memOk_reopen _ _ h
  unfold scanFinish at e
  grind -ring -linarith -lia [memOk_wakeScan, spendPurse_mem, State.memOk]

/-! ### Repairs -/

theorem memOk_saveForTest (s : State) (b : Nat) (h : s.memOk) : (saveForTest s b).memOk := by
  unfold saveForTest
  dsimp only
  split
  · exact h
  · cases e : saveGang s false (s.blockAt b).grid (gangIx s b) with
    | none => exact h
    | some u => exact memOk_saveGang e h

theorem memOk_fenceStep (s : State) (core : Nat) (h : s.memOk) : (fenceStep s core).memOk := by
  unfold fenceStep
  grind -ring -linarith -lia [memOk_saveGangs, replaceCore_mem, State.memOk]

theorem memOk_fenceCore (s : State) (core : Nat) (h : s.memOk) : (fenceCore s core).memOk := by
  unfold fenceCore
  split
  · exact h
  · exact memOk_fenceStep _ _ h

theorem memOk_retryRepairs (s : State) (h : s.memOk) : (retryRepairs s).memOk := by
  have htests : (s.toSave.foldl (fun s x => if (s.blockAt x.2).live then saveForTest s x.2 else s) s).memOk :=
    memOk_foldl _ (fun t x ht => by split; exacts [memOk_saveForTest _ _ ht, ht]) _ _ h
  have hfences (l : List Nat) := memOk_foldl fenceStep memOk_fenceStep l _ htests
  unfold retryRepairs
  dsimp only
  split
  · exact hfences _
  · exact hfences _

theorem memOk_fenceUnit (s : State) (u : MemUnit) (h : s.memOk) : (fenceUnit s u).memOk := by
  unfold fenceUnit
  grind -ring -linarith -lia [memOk_fenceCore, replaceRow_mem, requestUnit_mem, State.memOk]

/-! ### Clocks and purses -/

theorem foldl_setCluster_mem (x : State → Nat → Cluster) (l : List Nat) (s : State) :
    (l.foldl (fun s u => s.setCluster u (x s u)) s).mem = s.mem :=
  foldl_keeps (f := fun s u => s.setCluster u (x s u)) State.mem (fun _ _ => State.setCluster_mem ..) l s

theorem foldl_setDomain_mem (x : State → Nat → Domain) (l : List Nat) (s : State) :
    (l.foldl (fun s d => s.setDomain d (x s d)) s).mem = s.mem :=
  foldl_keeps (f := fun s d => s.setDomain d (x s d)) State.mem (fun _ _ => State.setDomain_mem ..) l s

/-! ### Steps -/

section
variable {s : State} (hs : s.memOk)
include hs

theorem canon_execLaneBlockCompletion {k : Nat} : OutCanon (execLaneBlockCompletion k s) :=
  canon_enabledStep (by grind -ring -linarith -lia [State.setWarp_mem, State.memOk])

theorem canon_execWriteLands {k : Nat} : OutCanon (execWriteLands k s) :=
  canon_enabledStep (by
    grind -ring -linarith -lia [Option.map_eq_some_iff, Option.mem_def, landPending_mem, landSlot_mem, State.setWarp_mem,
      State.memOk])

theorem canon_execTrapEntry {k : Nat} : OutCanon (execTrapEntry k s) := by
  refine canon_enabledStep fun t ht => ?_
  dsimp only at ht
  split at ht
  · cases ht
  · split at ht
    · split at ht
      · cases ht
      next u hu =>
        split at ht
        next v hv =>
          cases ht
          exact memOk_of_mem (paidStep_mem hv) (memOk_takeTrap hu hs)
        · exact memOk_of_mem (drawAhead_mem ht) hs
    · cases ht

theorem canon_execFaultResolution {t : FaultTarget} {x : Resolution} : OutCanon (execFaultResolution t x s) :=
  canon_enabledStep (by
    grind -ring -linarith -lia [Option.mem_def, memOk_resolveWarp, memOk_resolveSaved, memOk_resolveCmd,
      memOk_resolveCounter])

theorem canon_execPeerTimeout {t : FaultTarget} : OutCanon (execPeerTimeout t s) :=
  canon_enabledStep (by grind -ring -linarith -lia [memOk_failCmd, memOk_dropCounter, State.memOk])

theorem canon_execFormatEmulation {k : Nat} {has : Bool} : OutCanon (execFormatEmulation k has s) := by
  refine canon_enabledStep ?_
  dsimp only
  split
  · split
    · exact fun t ht => nomatch ht
    · split
      · intro t ht
        cases ht
        exact memOk_enterHandler _ _ _ _ (memOk_of_mem (dropHead_mem ..) hs)
      · refine memOk_gatePurses (s := { s with asked := [] }) hs (canon_cmdStart hs) fun d hd t ht => ?_
        grind -ring -linarith -lia [orFlags_mem, dropHead_mem, resumeAfterFormat_mem, memOk_failCmd, CmdCanon, State.memOk]
  · exact fun t ht => nomatch ht

theorem canon_execDlconsWrite {vf : Nat} {value : Word} : OutCanon (execDlconsWrite vf value s) := by
  unfold execDlconsWrite
  grind -ring -linarith -lia [putRing_mem, wakeSaved_mem, wakeNext_mem, OutCanon, State.memOk]

theorem canon_execWriteBackScan {ctx : Nat} {va : Word} : OutCanon (execWriteBackScan ctx va s) :=
  canon_enabledStep (by grind -ring -linarith -lia [Option.mem_def, memOk_scanFinish, memOk_scanStart])

theorem canon_execControlInterval : OutCanon (execControlInterval s) := by
  refine canon_enabledStep fun t ht => ?_
  generalize List.range Config.numClusters = l at ht
  dsimp only at ht
  split at ht
  · cases ht
    exact memOk_of_mem (foldl_setCluster_mem _ _ s) hs
  · cases ht

theorem canon_execPursePeriod : OutCanon (execPursePeriod s) := by
  refine canon_enabledStep fun t ht => ?_
  generalize List.range Config.numDomains = l at ht
  dsimp only at ht
  split at ht
  · cases ht
    refine memOk_serveDma _ ?_
    exact memOk_of_mem (foldl_setDomain_mem _ _ s) hs
  · cases ht

theorem canon_execSupplySag {u : Nat} : OutCanon (execSupplySag u s) :=
  canon_enabledStep (by grind -ring -linarith -lia [State.setCluster_mem, State.memOk])

theorem canon_execRailRecovers {u : Nat} : OutCanon (execRailRecovers u s) :=
  canon_enabledStep (by grind -ring -linarith -lia [State.setCluster_mem, State.memOk])

theorem canon_execThermalBandChange {u : Nat} {band : BitVec 3} : OutCanon (execThermalBandChange u band s) := hs

theorem canon_execEccError {e : EccSite} {correctable : Bool} : OutCanon (execEccError e correctable s) :=
  canon_enabledStep (by
    grind -ring -linarith -lia [countError_mem, applyError_mem, memOk_saveForTest, State.memOk])

theorem canon_execSelfTestCompletion {u : MemUnit} {pass : Bool} : OutCanon (execSelfTestCompletion u pass s) :=
  canon_enabledStep (by grind -ring -linarith -lia [setErr_mem, memOk_fenceUnit, State.memOk])

theorem canon_execPowerOn : OutCanon (execPowerOn s) :=
  canon_enabledStep (by grind -ring -linarith -lia [State.memOk])

theorem canon_execRedfishRequest {r : RedfishReq} : OutCanon (execRedfishRequest r s) :=
  canon_enabledStep (by grind -ring -linarith -lia [send_mem, State.memOk])

theorem canon_spdm {name : String} {ask : Instr} {m : OutMsg} : OutCanon (spdm name ask s m) :=
  canon_enabledStep (by grind -ring -linarith -lia [send_mem, State.memOk])

theorem canon_execRegisterWrite {fn : Nat} {off : BitVec 52} {x : Word} : OutCanon (execRegisterWrite fn off x s) := by
  unfold execRegisterWrite
  grind -ring -linarith -lia [canon_execLaunchQueueTailWrite, canon_execLqstart, canon_execClassChange, canon_execQreset,
    canon_execDlconsWrite, setLq_mem, writeFn_mem, OutCanon, State.memOk]

theorem canon_execPeerPackageAccess {a : PeerAccess} : OutCanon (execPeerPackageAccess a s) :=
  canon_enabledStep (by
    grind -ring -linarith -lia [wf_writeBytes, memOk_takeDma, send_mem, State.memOk])

end

end Sys2Proof.Machine
end

section
/-!
Memory's form (R65) kept by every instruction and step of the part (`canon_exec`), and with it by every step of the
machine: the turn of a warp, the issue of a slot, the end of a cycle, an input.
-/
namespace Sys2Proof.Machine

/-! ### Instructions -/

section
variable {s : State} (hs : s.memOk)
include hs

/-- Every scalar word keeps memory's form. -/
theorem canon_scalar {i : Instr} (h : (encodeS i).isSome = true) : OutCanon (exec i s) := by
  cases i <;> cases h
  all_goals simp only [exec,
    execAdd, execSub, execAnd, execOr, execXor, execShl, execShr, execSra, execMul, execMulh, execMulhu, execDiv,
    execDivu, execRem, execRemu, execMin, execMax, execMinu, execMaxu, execSlt, execSltu, execSeq, execSne, execAddw,
    execClz, execPopc, execAddi, execAndi, execOri, execXori, execShli, execShri, execSrai, execSlti, execSltui,
    execMuli, execLui, execLuh, execLdb, execLdbu, execLdh, execLdhu, execLdw, execLdwu, execLdd, execStb, execSth,
    execStw, execStd, execBz, execBnz, execBltz, execBgez, execBqt, execBqf, execEretResume, execEretReplay,
    canon_alu hs, canon_aluI hs, canon_loadWord hs, canon_storeWordAt hs, canon_branchIf hs, canon_branchBq hs,
    canon_eret hs, canon_execLi hs, canon_execLda hs, canon_execStl hs, canon_execAtom hs, canon_execAtoma hs,
    canon_execAtoml hs, canon_execAtomal hs, canon_execFence hs, canon_execCall hs, canon_execJr hs,
    canon_execLoop hs, canon_execLgo hs, canon_execLgor hs, canon_execLwait hs, canon_execDqpBroadcast hs,
    canon_execDqpIota hs, canon_execDqld hs, canon_execDqstrm hs, canon_execXqp hs, canon_execSrd hs,
    canon_execSwr hs, canon_execRegn hs, canon_execCwait hs, canon_execWaitv hs, canon_execBarSync hs,
    canon_execBarArrive hs, canon_execBarWait hs, canon_execBarExpect hs, canon_execBarInit hs, canon_execYieldW hs,
    canon_execCpyImmediate hs, canon_execCpyRegister hs, canon_execMxb hs, canon_execMxa hs, canon_execMxrd hs,
    canon_execMxz hs, canon_execQfence hs, canon_execLnch hs, canon_execHintsucc hs, canon_execWaitpred hs,
    canon_execCrew hs, canon_execCreww hs, canon_execBreakCrew hs, canon_execGoStroke hs, canon_execSrel hs,
    canon_execRegroup hs, canon_execQpush hs, canon_execQpop hs, canon_execQsteal hs, canon_execSsld hs,
    canon_execSsst hs, canon_execSsnap hs, canon_execSsroll hs, canon_execSsfork hs, canon_execSsdrop hs,
    canon_execTrap hs, canon_execExitWarp hs, canon_execTlbiVa hs, canon_execTlbiCtx hs, canon_execTlbiSplit hs,
    canon_execTlbiGpa hs, canon_execNop hs]

/-- Every lane word keeps memory's form. -/
theorem canon_lane {i : Instr} (h : (encodeLFields i).isSome = true) : OutCanon (exec i s) := by
  cases i <;> cases h
  all_goals simp only [exec,
    execVadd, execVsub, execVmul, execVmulh, execVmulhu, execVand, execVor, execVxor, execVshl, execVshr, execVsra,
    execVmin, execVmax, execVabs, execVneg, execVpopc, execVclz, execVaddsat, execPand, execPor, execPxor, execPandn,
    execFadd, execFsub, execFmul, execFfma, execFmin, execFmax, execFrnd, execHadd2, execHsub2, execHmul2, execHfma2,
    execHmin2, execHmax2, execFrcp, execFrsq, execFsqrt, execFexp2, execFlog2, execFsin, execFcos, execFtanh,
    canon_fBin hs, canon_fMulAdd hs, canon_fUn hs, canon_laneBin hs, canon_lanePred hs, canon_laneUn hs,
    canon_execVmad hs, canon_execVsel hs, canon_execVmov hs, canon_execVli hs, canon_execVsr hs, canon_execVcmp hs,
    canon_execFcmp hs, canon_execPfromv hs, canon_execVfromp hs, canon_execXmrd hs, canon_execXmwr hs,
    canon_execHdot2 hs, canon_execCvt hs, canon_execQpack hs, canon_execQunpk hs, canon_execShfl hs,
    canon_execVote hs, canon_execVred hs, canon_execVscan hs, canon_execVmovx hs, canon_execVld hs, canon_execVst hs,
    canon_execVatom hs, canon_execTidx hs, canon_execHfromv hs, canon_execHtov hs, canon_execHld hs, canon_execHst hs,
    canon_execHxor hs, canon_execHrot hs, canon_execHbun hs, canon_execHthr hs, canon_execHkclr hs,
    canon_execHdist hs, canon_execHnear hs, canon_execHput hs]

/-- Every step of the part keeps memory's form. -/
theorem canon_partStep {i : Instr} (h : ((encodeS i).isSome || (encodeLFields i).isSome) = false) :
    OutCanon (exec i s) := by
  cases i <;> cases h
  all_goals simp only [exec,
    execChallenge, execGetCertificate, execGetMeasurements,
    canon_spdm hs, canon_execRegroupTimeout hs, canon_execLaneBlockCompletion hs, canon_execAffineStreamPush hs,
    canon_execLaunchQueueTailWrite hs, canon_execLaunchRecordRead hs, canon_execDeviceLaunchPass hs,
    canon_execLqstart hs, canon_execBlockExit hs, canon_execGridCompletion hs, canon_execStrokeLaunch hs,
    canon_execTemplateCopyIssue hs, canon_execStrokeRetire hs, canon_execOutSlotRelease hs, canon_execStrokeCommit hs,
    canon_execEngineCommandStart hs, canon_execCopyPieceLanding hs, canon_execEngineCommandCompletion hs,
    canon_execReleaseWave hs, canon_execTrapEntry hs, canon_execFaultResolution hs, canon_execFormatEmulation hs,
    canon_execStallSwapOut hs, canon_execWaitingBlockSwap hs, canon_execBlockRestore hs, canon_execBlockRelaunch hs,
    canon_execPreemptionRequest hs, canon_execPreemptionSave hs, canon_execContextReset hs, canon_execQreset hs,
    canon_execDlconsWrite hs, canon_execWriteBackScan hs, canon_execClassChange hs, canon_execClassChangeEffect hs,
    canon_execSupplySag hs, canon_execEccError hs, canon_execSelfTestCompletion hs, canon_execPeerTimeout hs,
    canon_execRedfishRequest hs, canon_execRegisterWrite hs, canon_execWriteLands hs, canon_execContextRelease hs,
    canon_execContextReadmission hs, canon_execRailRecovers hs, canon_execThermalBandChange hs,
    canon_execPeerPackageAccess hs, canon_execGangPlacement hs, canon_execControlInterval hs,
    canon_execPursePeriod hs, canon_execPowerOn hs]

/-- Every instruction and every step of the part keeps memory's form. -/
theorem canon_exec (i : Instr) : OutCanon (exec i s) := by
  cases hscalar : (encodeS i).isSome with
  | true => exact canon_scalar hs hscalar
  | false =>
    cases hlane : (encodeLFields i).isSome with
    | true => exact canon_lane hs hlane
    | false => exact canon_partStep hs (by rw [hscalar, hlane]; rfl)

end

/-! ### Turns -/

theorem memOk_noteReached (s : State) {t : State} (k : Nat) (hit : Option (Nat × Nat × Bool)) (h : t.memOk) :
    (noteReached s t k hit).memOk := memOk_of_mem (noteReached_mem ..) h

section
variable {s : State} (hs : s.memOk)
include hs

theorem canon_raiseWord {r : Raise} {s' : State} (h' : s'.memOk) : OutCanon (raiseWord r s s') := canon_scalarWord hs h'

theorem canon_pendingTurn {x : ScalarFault} : OutCanon (pendingTurn s x) := by
  unfold pendingTurn
  dsimp only
  split
  · exact canon_takeScalar hs hs
  · exact canon_waits hs

theorem canon_scalarTurn : OutCanon (scalarTurn s) := by
  have hfetch := memOk_of_mem (fetchUnit_mem s (whoOf s s.cur s.me) s.me.pc) hs
  unfold scalarTurn
  dsimp only
  split
  · exact canon_pendingTurn hs
  · split
    next t r e =>
      rw [e] at hfetch
      exact canon_raiseWord hs hfetch
    next t u e =>
      rw [e] at hfetch
      split
      · exact canon_exec hfetch _
      · exact canon_raiseWord hfetch hfetch

theorem canon_illegalLane {d : Dispatch} {us : List (BitVec 32)} : OutCanon (illegalLane d us s) := by
  unfold illegalLane
  split
  · exact canon_laneIllegal hs
  · exact canon_laneIllegal hs
  · exact canon_raiseLane hs hs

theorem canon_heldTurn {d : Dispatch} {f : LaneFault} : OutCanon (heldTurn s d f) := by
  unfold heldTurn
  split
  · exact canon_waits hs
  · exact canon_takeLane hs hs

theorem canon_laneTurn : OutCanon (laneTurn s) := by
  unfold laneTurn
  dsimp only
  split
  · exact canon_waits hs
  next d _ =>
    have hfetch := memOk_of_mem (fetchLane_mem s (whoOf s s.cur s.me) d.addr) hs
    split
    · exact canon_waits hs
    · split
      · exact canon_heldTurn hs
      · split
        next t r e =>
          rw [e] at hfetch
          exact canon_raiseLane hs hfetch
        next t us e =>
          rw [e] at hfetch
          split
          · exact canon_exec hfetch _
          · exact canon_illegalLane hfetch

theorem canon_rawTurn {k : Nat} {lane : Bool} : OutCanon (rawTurn s k lane) := by
  have hturn := memOk_of_mem (turnOf_mem s k) hs
  unfold rawTurn
  dsimp only
  split
  · exact canon_waits hturn
  · split
    · exact canon_exec hturn _
    · split
      · exact canon_laneTurn hturn
      · exact canon_scalarTurn hturn

theorem canon_payTurn {k : Nat} {o : Out} (ho : OutCanon o) : OutCanon (payTurn s k o) := by
  cases o with
  | next t =>
    unfold payTurn
    dsimp only
    split
    · exact ho
    · split
      next u hu => exact memOk_of_mem (paidStep_mem hu) ho
      · exact canon_waits (memOk_of_mem (turnOf_mem s k) hs)
  | fault _ => trivial
  | refused _ => trivial

theorem canon_warpTurn {k : Nat} {lane : Bool} : OutCanon (warpTurn s k lane) := canon_payTurn hs (canon_rawTurn hs)

theorem canon_issueSlot {core slot : Nat} {o : Out} (e : issueSlot s core slot = some o) : OutCanon o := by
  unfold issueSlot at e
  dsimp only at e
  split at e
  · cases e
  next k lane _ =>
    have hturn : OutCanon (warpTurn s k lane) := canon_warpTurn hs
    split at e
    next t ht =>
      cases e
      rw [ht] at hturn
      exact memOk_of_mem (passOver_mem ..) (memOk_noteReached s _ _ hturn)
    · cases e
      exact hturn

omit hs in
theorem canon_issueFirst {ns : List Nat} {s : State} (hs : s.memOk) {o : Out} (e : issueFirst s ns = some o) : OutCanon o := by
  induction ns generalizing s with
  | nil => cases e
  | cons n ns ih =>
    have hspend : (s.spend n).memOk := hs
    unfold issueFirst at e
    split at e
    · exact ih hs e
    · split at e
      next o' ho =>
        cases e
        exact canon_issueSlot hspend ho
      · exact ih hspend e

theorem canon_firstEnabled {is : List Instr} {o : Out} (e : firstEnabled s is = some o) : OutCanon o := by
  induction is with
  | nil => cases e
  | cons i is ih =>
    have hexec := canon_exec hs i
    unfold firstEnabled at e
    split at e
    · exact ih e
    · cases e
      exact hexec

end

/-! ### The end of a cycle -/

theorem openBarriers_noteWaits_mem (s : State) : (openBarriers (noteWaits s)).mem = s.mem := by
  have hview : calmView (openBarriers (noteWaits s)) = calmView s := by rw [calmView_openBarriers, calmView_noteWaits]
  exact (congrArg Prod.fst hview :)

theorem memOk_tick (s : State) (h : s.memOk) : (tick s).memOk :=
  memOk_retryRepairs _ (memOk_of_mem ((drainLogs_mem _).trans (openBarriers_noteWaits_mem s)) h)

/-! ### Steps -/

section
variable {s : State} (hs : s.memOk)
include hs

theorem canon_ownTurn : OutCanon (ownTurn s) := by
  unfold ownTurn
  split
  · exact canon_exec hs _
  · split
    next o e => exact canon_firstEnabled hs e
    · cases hi : issueFirst s (slotsLeft s) with
      | none => exact memOk_tick s hs
      | some o => exact canon_issueFirst hs hi

theorem canon_takeStep {i : Instr} : OutCanon (takeStep i s) := by
  have hexec := canon_exec hs i
  unfold takeStep
  split
  · exact hs
  · split
    · exact hs
    · exact hexec

theorem memOk_fabricDma {pa n : Nat} {bs : List Byte} : (fabricDma s pa n bs).memOk := by
  unfold fabricDma
  dsimp only
  split
  · exact hs
  · exact memOk_takeDma _ _ hs

theorem canon_takeInput {x : Input} : OutCanon (takeInput x s) := by
  cases x with
  | event i => exact canon_takeStep hs
  | memWrite pa bs => exact wf_writeBytes pa bs hs
  | setCtx => exact memOk_of_mem (setContext_mem ..) hs
  | nvmeDma pa n bs => exact memOk_fabricDma hs
  | nvmeQueue c q =>
    unfold takeInput
    dsimp only
    split <;> exact hs
  | bindQueue | setCap | setSlope | setPurses | unmapped | rootPortAborts | assignPorts | nvmeDone | rollback
  | barRead => exact memOk_of_mem (s := s) rfl hs

theorem canon_takeTurn {x : Turn} : OutCanon (takeTurn x s) := by
  cases x with
  | issue core slot =>
    unfold takeTurn
    dsimp only
    split
    · exact hs
    · cases hi : issueSlot (s.spend (4 * core + slot)) core slot with
      | none => exact hs
      | some o => exact canon_issueSlot (s := s.spend (4 * core + slot)) hs hi
  | event i => exact canon_takeStep hs
  | tick => exact memOk_tick s hs

/-- Every step keeps memory's form, from any state that has it. -/
theorem canon_step : OutCanon (step s) := by
  unfold step
  split
  next x rest _ =>
    have hinput : State.memOk { s with inbox := rest } := hs
    exact canon_takeInput hinput
  · split
    next x rest _ =>
      have hagenda : State.memOk { s with agenda := rest } := hs
      exact canon_takeTurn hagenda
    · exact canon_ownTurn hs

end

end Sys2Proof.Machine
namespace Sys2Proof.Certificates
open Sys2Proof.Machine

/-- Settles O29: whatever a step does, it writes memory byte by byte through `writePhys` and `writeBytes`, which keep the
addresses rising and list no zero byte; the operations it is made of keep the form one by one. -/
theorem memoryStaysCanonical : Obligations.MemoryStaysCanonical := by
  unfold Obligations.MemoryStaysCanonical
  intro s t hs hstep
  have hcanon := canon_step hs
  rw [hstep] at hcanon
  exact hcanon

end Sys2Proof.Certificates
end
